-- ==== Sys2Proof/Word.lean ====
section
/-! DEFINITION. The word types of the device and their plainest arithmetic.
Registers, addresses while they are computed and packed fields are bit vectors; counts and sizes are Nat. -/

namespace Sys2Proof

/-- One byte of any store or message. -/
abbrev Byte := BitVec 8

/-- A register word of control space. -/
abbrev Word := BitVec 32

/-- A 64-bit counter, time or fault data word. -/
abbrev Long := BitVec 64

/-- A counter that holds at its largest value, as every "holds at" counter of the spec. -/
def satInc {n : Nat} (c : BitVec n) (k : Nat) : BitVec n :=
  if c.toNat + k < 2 ^ n then BitVec.ofNat n (c.toNat + k) else BitVec.allOnes n

end Sys2Proof
end

