-- ==== Sys2Proof/Syntax.lean ====
section
/-! DEFINITION. The commands of the block: one constructor of `Instr` for each row of spec/opcode_table.json.
What the environment supplies with a command (a sensor reading, the bytes of a burst, the cycles a wait lasted) is the
command's operand; everything the device itself holds is state. -/

namespace Sys2Proof

/-- Who writes a register: the host (directly or forwarded, R703), a control hart, or the safety pair. -/
inductive Writer where
  | host
  | hart (n : Fin 4)
  | safetyPair
  deriving DecidableEq, Repr

/-- The strap balls, sampled at the end of each reset (R713). -/
structure Straps where
  bootOrder : BitVec 3
  refclk50 : Bool
  hostIlv : BitVec 2
  deriving DecidableEq, Repr

/-- What a neighbour relays to a device that boots over the Vine links (R589). -/
structure Relay where
  config : List Byte
  image : List Byte
  deriving DecidableEq, Repr

/-- The far end that link training found (R523, Table 14.5 PEER fields). -/
structure Peer where
  dev : Fin 64
  link : Fin 4
  deriving DecidableEq, Repr

/-- What link ECC said of a write burst (R417). -/
inductive LinkEcc where
  | clean
  | corrected
  | uncorrectable
  deriving DecidableEq, Repr

/-- What an ECC check of one line or block found (R251, R252, R380, R381). -/
inductive EccResult where
  | clean
  | corrected
  | uncorrectable
  deriving DecidableEq, Repr

/-- Which LPDDR5X training the host performed (Table 11.1). -/
inductive TrainingKind where
  | commandAddress
  | wckToCk
  | wck
  | readDq
  | complete (rateMts : BitVec 14)
  deriving DecidableEq, Repr

/-- The place of an uncorrectable SRAM word (R252; keys 0x24 to 0x34 and 0x46 to 0x49 of Table 19.1). -/
inductive SramPlace where
  | cask (press : Fin 16) (addr : BitVec 23)
  | accumulator (press : Fin 16) (offset : BitVec 19)
  | cellar (addr : BitVec 26)
  | windowSram (offset : BitVec 27)
  | mirror (offset : BitVec 22)
  | firmware (offset : BitVec 21)
  | retained
  | buffer (source : Byte)
  deriving DecidableEq, Repr

/-- What the error correction reported of the reads that a step made: blocks of LPDDR6 that inline ECC corrected, as PA[37:6],
and corrections of its link ECC (R378, R380); the presses of which a Cask word was corrected, once for each correction, and the
corrected words of the Cellar (R251). -/
structure ReadHealth where
  corrected : List (BitVec 32)
  linkCorrections : Nat
  casks : List (Fin 16)
  cellar : Nat
  deriving DecidableEq, Repr

/-- Direction of a device virtual access (Table 10.8). -/
inductive Access where
  | read
  | write
  | frontEnd
  deriving DecidableEq, Repr

/-- ARITH cycles a press instruction waited for reasons of contention (R102, R110, R224): timing, an operand. -/
structure Stalls where
  weight : Nat
  drain : Nat
  operand : Nat
  deriving DecidableEq, Repr

/-- One long CSI-2 packet as the receiver sees it (R299 to R301): virtual channel, data type and payload bytes in the order of
the link, with what header ECC and CRC said. -/
structure LongPacket where
  vc : BitVec 4
  dt : BitVec 6
  payload : List Byte
  crcOk : Bool
  headerCorrected : Bool
  overflow : Bool
  deriving DecidableEq, Repr

/-- A packet that is no line of the sensor's frame (R298 to R300): a long packet, a short packet that is a line start or end or
a generic one, or a packet whose header could not be corrected. -/
inductive OtherPacket where
  | long (pkt : LongPacket)
  | short (vc : BitVec 4) (lineStartEnd : Bool) (headerCorrected : Bool)
  | headerLost
  deriving DecidableEq, Repr

/-- A unit that can sleep (R33): a press, or an engine by number, the compressor being 5. -/
inductive SleepUnit where
  | press (p : Fin 16)
  | engine (e : Fin 6)
  deriving DecidableEq, Repr

/-- The commands of the block, one constructor for each row of the table, in its order. -/
inductive Instr where
  | powerOnReset (straps : Straps)
  | vddAonDrop (mv : Nat) (straps : Straps)
  | deviceReset (lowNs : Nat) (straps : Straps)
  | bootWatchdog (straps : Straps)
  | resetDevice (who : Writer) (dev : Bool) (key : Byte) (straps : Straps)
  | autoReset (straps : Straps)
  | romStart (checksumOk : Bool)
  | clocks
  | hostPort
  | source (relay : Option Relay)
  | check
  | entry
  | lpddr6 (pass : Bool) (channelGiB : List Nat) (twoRanks : Bool) (values : List Byte)
  | memory
  | safety (pass : Bool)
  | vine (peers : List (Option Peer))
  | ready
  | slotConfirm
  | hostImageWrite (len : BitVec 21)
  | vineImageRequest
  | vineBootService (link : Fin 4)
  | eraseSlot (who : Writer) (slot : Fin 2)
  | writeSlot (who : Writer) (slot : Fin 2)
  | verifySlot (who : Writer) (slot : Fin 2)
  | activateSlot (who : Writer) (slot : Fin 2)
  | norCommandComplete (deviceOk : Bool)
  | pllLockJudged (p : Fin 9)
  | pllLoss (p : Fin 9)
  | pwrAlertAssert
  | pwrAlertDeassert
  | alertHoldExpiry
  | arithReturnSwitch
  | domRunEn (who : Writer) (d : Fin 9) (on : Bool)
  | domSleepEn (who : Writer) (d : Fin 9) (on : Bool)
  | domDeepEn (who : Writer) (d : Fin 9) (on : Bool)
  | otpProg (who : Writer) (mem : BitVec 12) (vine : BitVec 12) (key : Byte)
  | clockMonitorWindow (tenKhz : List Nat)
  | clkDomain (d : Fin 9)
  | refclkLoss (silentNs : Nat)
  | supplySample (mv : List Nat)
  | supply (rail : Fin 8)
  | avsStep (rail : Fin 3) (slacks : List Nat)
  | avsSettled (rail : Fin 3)
  | avsTimeout (rail : Fin 3)
  | dvfsStep
  | powerMeasure (mv : List Nat) (ma : List Nat)
  | capUnreachable
  | alertLong
  | thermalSample (readings : List Int)
  | vintageReading (counts : List (Nat × Nat))
  | guardUpdate
  | toppingRampUp (parcel : Fin 8)
  | alarmDelivery
  | forceSafe (who : Writer) (safe : Bool) (key : Byte)
  | remoteSafe (dev : Fin 64)
  | lockstep
  | busTimeout (stop : Fin 48)
  | hartHeartbeat (h : Fin 4)
  | hartWdog (h : Fin 4)
  | heartbeat
  | katDue (p : Fin 16)
  | katTestEnd (p : Fin 16) (crc : Word)
  | katCompare (p : Fin 16)
  | katLate (p : Fin 16)
  | katFollowUp (primary : Fin 16) (twin : Fin 16) (crcPrimary : Word) (crcTwin : Word)
  | alarmAck (who : Writer) (key : Fin 134)
  | safetyConfigWrite (who : Writer) (kat : Bool) (value : Word)
  | freeze (who : Writer) (key : Byte)
  | thaw (who : Writer) (key : Byte)
  | logTake
  | commitGo (who : Writer) (page : Fin 121)
  | commitCancel (who : Writer) (page : Fin 121)
  | commitApply (page : Fin 121) (unit : Fin 16)
  | errClear (who : Writer) (page : Fin 121)
  | registerWrite (who : Writer) (page : BitVec 10) (word : BitVec 10) (value : Word)
  | counterLoRead (page : BitVec 10) (word : BitVec 10)
  | reservedRead (offset : BitVec 27)
  | cntClear (who : Writer) (page : BitVec 10)
  | acctClear (who : Writer)
  | invalVpn (who : Writer) (vpn : BitVec 24)
  | invalAll (who : Writer)
  | maxPixelsWrite (who : Writer) (value : BitVec 27)
  | pressFailedSet (p : Fin 16)
  | resumeGo (q : Fin 256)
  | irqAck (w : Fin 4) (value : Word)
  | hostRead (ch : Fin 2) (row : BitVec 17) (bank : BitVec 4) (col : BitVec 11) (len : Nat)
  | hostWrite (ch : Fin 2) (row : BitVec 17) (bank : BitVec 4) (col : BitVec 11) (data : List (Option Byte)) (ecc : LinkEcc)
  | forwardedWriteApply (offset : BitVec 27) (data : List (Option Byte))
  | modeRegisterWrite (ch : Fin 2) (mr : Byte) (value : Byte)
  | modeRegisterRead (ch : Fin 2) (mr : Byte)
  | writeFifo (ch : Fin 2) (data : List Byte)
  | readFifo (ch : Fin 2)
  | hostTraining (ch : Fin 2) (kind : TrainingKind)
  | hostRefresh (ch : Fin 2) (allBanks : Bool)
  | powerDownEntry (ch : Fin 2)
  | powerDownExit (ch : Fin 2)
  | selfRefreshEntry (ch : Fin 2)
  | deepSleepModeEntry (ch : Fin 2)
  | selfRefreshExit (ch : Fin 2)
  | deepSleepModeExit (ch : Fin 2)
  | echoPush (unit : BitVec 22)
  | echoApply (dev : Fin 64) (unit : BitVec 22) (data : List Byte) (event : Option (Fin 4))
  | submitWordWrite (q : Fin 256)
  | commandCheck (q : Fin 256) (health : ReadHealth)
  | commandStart (q : Fin 256)
  | commandCommit (q : Fin 256) (seq : Word)
  | corkAppend (q : Fin 256)
  | pressProgram (q : Fin 256) (seq : Word)
  | window (mismatch : Bool) (health : ReadHealth)
  | detect (mismatch : Bool) (health : ReadHealth)
  | fold (mismatch : Bool) (health : ReadHealth)
  | lookup (mismatch : Bool) (health : ReadHealth)
  | intake (mismatch : Bool) (health : ReadHealth)
  | capture (q : Fin 256) (seq : Word)
  | copy (q : Fin 256) (seq : Word) (health : ReadHealth)
  | hevcEncode (q : Fin 256) (seq : Word) (cycles : Word) (health : ReadHealth)
  | hevcDecode (q : Fin 256) (seq : Word) (cycles : Word) (health : ReadHealth)
  | h264Decode (q : Fin 256) (seq : Word) (cycles : Word) (health : ReadHealth)
  | jpegEncode (q : Fin 256) (seq : Word) (cycles : Word) (health : ReadHealth)
  | barrier (q : Fin 256) (seq : Word)
  | objectFree (q : Fin 256) (seq : Word)
  | marker (q : Fin 256) (seq : Word)
  | matmul (p : Fin 16) (stalls : Stalls) (health : ReadHealth)
  | eltwise (p : Fin 16) (stalls : Stalls) (health : ReadHealth)
  | dma (p : Fin 16)
  | wait (p : Fin 16)
  | engine (p : Fin 16) (heldCycles : Nat)
  | rack (p : Fin 16)
  | endStream (p : Fin 16)
  | weightTileLoaded (p : Fin 16) (health : ReadHealth)
  | outputTileDrainEnd (p : Fin 16) (twinCrc : Option Word)
  | waitSatisfied (p : Fin 16) (heldCycles : Nat)
  | waitTimeout (p : Fin 16) (heldCycles : Nat)
  | dmaIterationComplete (p : Fin 16) (job : Nat) (health : ReadHealth)
  | childComplete (e : Fin 5)
  | killComplete (q : Fin 256) (seq : Word)
  | pressSleep (u : SleepUnit)
  | caskScrub (p : Fin 16) (bank : Fin 32) (found : EccResult)
  | cellarScrub (bank : Fin 64) (found : EccResult)
  | sramUncorrectable (q : Fin 256) (seq : Word) (place : SramPlace) (agent : Byte)
  | dramUncorrectable (q : Fin 256) (seq : Word) (va : BitVec 38) (acc : Access) (agent : Byte) (inTable : Bool)
  | translationFault (q : Fin 256) (seq : Word) (va : BitVec 38) (acc : Access) (agent : Byte)
  | patrolScrub (found : EccResult)
  | pageMigration (vpn : BitVec 24) (health : ReadHealth)
  | odeccPoll (counts : List Nat)
  | phyCalibrationStep (ch : Fin 16) (margin : Byte)
  | trainingValueSave (values : List Byte)
  | lpddr6Refresh (ch : Fin 16) (bank : Nat)
  | dramTemperatureRead (ch : Fin 16) (rank : Fin 2) (code : Byte)
  | sliceEnd (parcel : Fin 8)
  | rackStop (q : Fin 256) (seq : Word)
  | rackWaitExpiry (q : Fin 256) (seq : Word)
  | switchComplete (q : Fin 256) (seq : Word) (slotError : Option Nat) (health : ReadHealth)
  | mailboxWordWrite (pair : Fin 8)
  | hello (pair : Fin 8)
  | parcelCreate (pair : Fin 8)
  | parcelDestroy (pair : Fin 8)
  | queueCreate (pair : Fin 8)
  | queueDestroy (pair : Fin 8)
  | objectCreate (pair : Fin 8)
  | objectClearPoison (pair : Fin 8)
  | moduleTranslate (pair : Fin 8) (health : ReadHealth)
  | echoSet (pair : Fin 8)
  | streamOpen (pair : Fin 8)
  | streamClose (pair : Fin 8)
  | pipeCommit (pair : Fin 8)
  | pressFail (pair : Fin 8)
  | linkRetrain (pair : Fin 8)
  | collective (pair : Fin 8)
  | muxOpen (pair : Fin 8)
  | muxSubmit (pair : Fin 8)
  | muxClose (pair : Fin 8)
  | fwLoad (pair : Fin 8)
  | fwSwap (pair : Fin 8)
  | fwSwapStall (handoffOk : Bool) (stallUs : BitVec 12)
  | attest (pair : Fin 8)
  | flitReceive (link : Fin 4) (flit : List Byte)
  | replayRequest (link : Fin 4) (lseq : Word)
  | linkSilenceTimeout (link : Fin 4)
  | linkRetrainDone (dev : Fin 64) (link : Fin 4) (ok : Bool)
  | topologyDiscovery
  | probeReturn (sentOn : Fin 4) (returnedOn : Fin 4) (hops : Nat)
  | probeTimeout (link : Fin 4)
  | timeSyncSend
  | timeSyncReceive (leadTime : Long) (routeDelayNs : Nat)
  | barrierArrival (dev : Fin 64) (ident : BitVec 16) (gen : Word)
  | releaseTimeReceive (ident : BitVec 16) (gen : Word) (tRel : Long)
  | barrierRelease (ident : BitVec 16)
  | barrierTimeout (ident : BitVec 16)
  | barrierAbort (ident : BitVec 16) (gen : Word)
  | collectiveComplete (inputs : List (List Byte))
  | collectiveTimeout
  | frameStart (n : Fin 16) (vc : BitVec 4) (frame : BitVec 16) (headerCorrected : Bool)
  | frameEnd (n : Fin 16) (vc : BitVec 4) (headerCorrected : Bool)
  | linePacket (n : Fin 16) (pkt : LongPacket)
  | otherPacket (n : Fin 16) (kind : OtherPacket)
  | frameTimeout (n : Fin 16)
  | captureTimeout (n : Fin 16)
  | ulpsEntry (n : Fin 16)
  | ulpsExit (n : Fin 16)
  | deskewSequence (n : Fin 16)
  | fastRetrainDone (ch : Fin 16) (values : List Byte)
  | arithSlewComplete
  | clearingComplete (parcel : Fin 8)
  | signingComplete
  deriving DecidableEq, Repr

end Sys2Proof
end

