-- ==== Sys2Proof/Decode.lean ====
section
/-! DEFINITION. The words of the table. No row of the table gives bits: the block takes commands, not words. -/

namespace Sys2Proof

/-- The command a word spells by the table's bits: none, since no row of the table has any. -/
def decodeTableWord (_nbits _w : Nat) : Option Instr := none

end Sys2Proof
end

