-- ==== Sys2Proof/Config.lean ====
section
/-! DEFINITION. What an implementation fixes and what the spec leaves open. Every free value is an opaque constant with
no body: no proof sees a value of it, so a claim holds for each. -/

namespace Sys2Proof.Config

/-- A byte of contents that the spec calls undefined (R112, R249, R262, R407, R467, R503): event number and address. -/
opaque freeByte : Nat → Nat → BitVec 8

/-- A byte of an output whose command has no cork yet, as the host and other queues see it (R467): the count of events so far
and the address. -/
opaque unsettledByte : Nat → Nat → BitVec 8

/-- A counter or word that the spec calls undefined (counters 0 to 62 after a kill, R249): event number and index. -/
opaque freeWord : Nat → Nat → BitVec 32

/-- The choice, within 2 units in the last place, of the fixed exponential of R261: the argument's FP32 code. -/
opaque expUlp : BitVec 32 → BitVec 3

/-- The choice, within 2 units in the last place, of the fixed reciprocal square root of R261. -/
opaque rsqrtUlp : BitVec 32 → BitVec 3

/-- SLH-DSA-SHA2-128s verification of FIPS 205 (R593): public key, message, signature. -/
opaque slhVerify : List (BitVec 8) → List (BitVec 8) → List (BitVec 8) → Bool

/-- SLH-DSA-SHA2-128s public root of a key pair (R604): SK.seed and PK.seed. -/
opaque slhPublicRoot : List (BitVec 8) → List (BitVec 8) → List (BitVec 8)

/-- SLH-DSA-SHA2-128s signature of the signing unit (R604, R606): SK.seed, SK.prf, PK.seed and the message.
The list is cut or filled to 7,856 bytes where it is used. -/
opaque slhSign : List (BitVec 8) → List (BitVec 8) → List (BitVec 8) → List (BitVec 8) → List (BitVec 8)

/-- SHA-256 of the mask ROM (R605): the ROM's contents are not given. -/
opaque romDigest : List (BitVec 8)

/-- The fused 256-bit identity seed of a part (R604): 32 bytes are taken. -/
opaque identitySeed : List (BitVec 8)

/-- The fused base table V_r of R635 in mV: rail, then MHz divided by ten for VDD_ARITH or tenths of a level. -/
opaque baseMv : Nat → Nat → Nat

/-- The expected known-answer CRC (R682): true for a full test, false for an array test. -/
opaque katExpected : Bool → BitVec 32

/-- What an operand of a virtual program lies in, nothing of which names a physical place (R184): the Cask of a press slot, the
Cellar share, a section of constants by its place in the section table, or the module's LPDDR6 buffer; with an offset. -/
inductive VirtualPlace where
  | cask (slot offset : Nat)
  | share (offset : Nat)
  | constant (sect offset : Nat)
  | buffer (offset : Nat)
  deriving DecidableEq, Repr, Inhabited

/-- An operand of a virtual program: its place, its descriptor of Table 4.5 but for ADDR, SPACE and the run-time extents, and for
each dimension the run-time dimension that it takes, if it takes one (R162, R193). -/
structure VirtualOperand where
  place : VirtualPlace
  desc : List (BitVec 8)
  runTime : List (Option (Fin 4))
  deriving DecidableEq, Repr, Inhabited

/-- A virtual program of one slot and one variant (Table 4.13): its operands, and the instructions of each phase, as in Table 4.9 with
indexes of its own operands, and with the number of a command template as the ARG of ENGINE. -/
structure VirtualProgram where
  slot : Nat
  variant : Nat
  operands : List VirtualOperand
  phases : List (List (List (BitVec 8)))
  deriving DecidableEq, Repr, Inhabited

/-- A range of a module's rack maps: variant, slot, rack point, the phase in which the point lies, KIND, START and LENGTH of
Table 13.3, and the place that a REFILL reads. -/
structure VirtualRange where
  variant : Nat
  slot : Nat
  point : Nat
  phase : Nat
  kind : Nat
  start : Nat
  length : Nat
  source : VirtualPlace
  deriving DecidableEq, Repr, Inhabited

/-- An engine command template (Table 4.13): its descriptor but for addresses, its parameter block and its operands. -/
structure EngineTemplate where
  desc : List (BitVec 8)
  params : List (BitVec 8)
  operands : List VirtualOperand
  deriving DecidableEq, Repr, Inhabited

/-- What a section of TYPE 1 says (Table 4.13), whose encoding the spec does not give: its bytes. -/
opaque virtualProgram : List (BitVec 8) → VirtualProgram

/-- What a section of TYPE 3 says (Table 4.13), whose encoding the spec does not give: its bytes. -/
opaque virtualMaps : List (BitVec 8) → List VirtualRange

/-- What a section of TYPE 4 says (Table 4.13), whose encoding the spec does not give: the bucket size of each run-time dimension for
each variant. -/
opaque bucketTable : List (BitVec 8) → List (List Nat)

/-- A command template in the sections of TYPE 5 (Table 4.13), whose encoding the spec does not give: the sections' bytes and its
number. -/
opaque engineTemplate : List (BitVec 8) → Nat → EngineTemplate

/-- Bytes of LPDDR6 buffer that a module needs (R193), which no field of Table 4.12 gives: the module. -/
opaque bufferBytes : List (BitVec 8) → Nat

/-- Is a module refused as corrupt that leaves the limits of Table 4.12 and R193, for which the spec gives no refusal? Its bytes. -/
opaque beyondLimits : List (BitVec 8) → Bool

/-- The payload of one NAL unit of an HEVC picture (R358), whose syntax the spec leaves to the standard: 0 VPS, 1 SPS, 2 PPS, 3 the
slice; QP, IDR, and picture and state bytes of source and reference. -/
opaque hevcUnit : Nat → Nat → Bool → List (BitVec 8) → List (BitVec 8) → List (BitVec 8)

/-- The reconstruction planes of one HEVC encode (R358), luma then chroma, as a function of the same inputs. -/
opaque hevcRecon : Nat → Bool → List (BitVec 8) → List (BitVec 8) → List (BitVec 8)

/-- What an access unit declares (R360 to R362): whether its parameter sets are valid, whether its profile is one of R360 or one
that a decoder of it must accept, tier, level in tenths, chroma format, bit depth, range extensions, interlaced coding, layers of SVC
or MVC, picture size, IDR or IRAP, and the DPB slots that its slices reference. -/
structure PictureInfo where
  parametersOk : Bool
  inProfile : Bool
  highTier : Bool
  level : Nat
  chromaFormat : Nat
  depth : Nat
  rangeExtension : Bool
  interlaced : Bool
  layered : Bool
  width : Nat
  height : Nat
  idr : Bool
  refs : BitVec 16
  deriving DecidableEq, Repr, Inhabited

/-- The parse of an access unit under a coding standard (R360), none where no slice header can be decoded: function, state in and
bytes. -/
opaque parsePicture : Nat → List (BitVec 8) → List (BitVec 8) → Option PictureInfo

/-- A decoded picture: bytes consumed, picture order count, the slots it leaves referenced besides its own, the state kept, the two
planes, the side of a CTU or macroblock, the units that failed, and the slot of the nearest reference. -/
structure DecodedPicture where
  used : Nat
  poc : Int
  mask : BitVec 16
  kept : List (BitVec 8)
  luma : List (BitVec 8)
  chroma : List (BitVec 8)
  unit : Nat
  failed : List Nat
  nearest : Option (Fin 16)
  deriving DecidableEq, Repr, Inhabited

/-- The decoding of an access unit (R361): function, state in, bytes, OUT_SLOT and the bytes of the slots referenced. -/
opaque decodePicture : Nat → List (BitVec 8) → List (BitVec 8) → Nat → List (Nat × List (BitVec 8)) → DecodedPicture

/-- The quantised coefficients of an 8 × 8 block in zigzag order (R363, which fixes no forward transform and no rounding): the
quantisation table in zigzag order and the rows of samples that the picture has there. -/
opaque forwardTransform : List Nat → List (List (BitVec 8)) → List Int

/-- The codec state object after a picture (R357), whose layout the spec does not give: function, stream and picture
bytes. Only its first bytes mean anything to the model, through `statePad`. -/
opaque codecStateTail : Nat → Nat → List (BitVec 8) → List (BitVec 8)

/-- What hides the layout of the codec state object: byte i holds a value of the model exclusive-ored with this byte. -/
opaque statePad : Nat → BitVec 8

/-- POC in bits [31:0] and REF_MASK in bits [47:32] of an encoder's result record (Table 9.7), which the spec does not
state for an encode: function and input bytes. -/
opaque encodeExtra : Nat → List (BitVec 8) → BitVec 48

/-- A reset value the LPDDR5X standard gives for a mode register that Table 11.2 does not name (R415). -/
opaque modeRegisterReset : BitVec 8 → BitVec 8

/-- The fields of a mode register that the LPDDR5X standard makes writable (R415), as a mask. -/
opaque modeRegisterWritable : BitVec 8 → BitVec 8

/-- The physical pages that firmware chooses for a carve-out (R396) when the pool offers a choice: event number. -/
opaque choosePage : Nat → Nat

/-- Whether the device rounds a quotient up where the spec gives a quotient and no rounding (MEASURED, interpolated
voltages, monitor degradation): numerator and denominator. -/
opaque roundsUp : Nat → Nat → Bool

/-- The degradation of a monitor whose reference oscillator counted nothing (R657 divides by its count): the stressed count. -/
opaque stoppedReference : Nat → Int

/-- The FP32 code of an integer gamma or beta element (R282): Table 7.1 assigns such an operand no scale. Format, zero
point and code. -/
opaque unscaled : Nat → Nat → Nat → BitVec 32

/-- Which byte between two offsets in a sample an error counts as found at (R348): status and the two offsets. -/
opaque errOffset : Nat → Nat → Nat → Nat

/-- The status of a sample whose list entry holds a reserved code or bit (Table 9.2): the entry's bytes. -/
opaque reservedSample : List (BitVec 8) → Nat

/-- Chroma of a block or pair of pixels that clipping leaves incomplete (R313, R323): block coordinates, 0 for Cb and 1
for Cr, and the 10-bit chroma of the pixels that exist. -/
opaque edgeChroma : Nat → Nat → Nat → List Int → BitVec 10

/-- A sample of a stream line that never arrives after a timeout ended the strips (R308, R318): line and column. -/
opaque absentSample : Nat → Nat → BitVec 16

/-- A row sum of activations beyond the INT32 range of its side store (R108), for which the spec states no result. -/
opaque wideSum : Int → Int

/-- A corrected sum beyond the 48 bits of R74, for which the spec states no result. -/
opaque wideCorrection : Int → Int

/-- The enabled outputs of a pipeline (R329), which no field of its configuration says, by event number: bit 0 display, 1 coding,
2 tensor, then the choices of their forms: 3 YUV422, 4 P010, 5 FP16, 6 C32. -/
opaque enabledOutputs : Nat → BitVec 7

/-- The reservation of R329 where its denominator is 0, by event number. -/
opaque reservationAtZero : Nat → Nat

/-- The message minor version of a firmware image (R560), which no field of Table 16.5 gives: the image. -/
opaque imageMinor : List (BitVec 8) → BitVec 8

/-- The translator version of a firmware image (R564), which no field of Table 16.5 gives: the image. -/
opaque imageTranslator : List (BitVec 8) → BitVec 32

/-- Did the state word advance before a NOR command's program or erase failed its status check (Table 16.11)? Event
number. -/
opaque norTaken : Nat → Bool

end Sys2Proof.Config
end

