-- ==== Sys2Proof/Machine/Memory.lean ====
section
/-! DEFINITION. A byte store in one canonical form, and every operation over it.
A store lists (address, byte) cells with strictly rising addresses; no cell equals what its address reads as unlisted.
An unlisted address reads as 0 (the model's choice for RAM after power-on), except inside a free span: there the spec
calls the contents undefined and the byte is a free value. -/

namespace Sys2Proof.Machine

/-- A range whose contents the spec calls undefined, with the number of the event that left it so. -/
structure Span where
  lo : Nat
  len : Nat
  event : Nat
  deriving DecidableEq, Repr

/-- A byte store: the listed cells and the free spans. -/
structure Mem where
  cells : List Host.Cell
  spans : List Span
  deriving DecidableEq, Repr

/-- A store with nothing listed. -/
def Mem.empty : Mem := { cells := [], spans := [] }

/-- Does a span hold an address? -/
def Span.holds (sp : Span) (a : Nat) : Bool := sp.lo ≤ a && a < sp.lo + sp.len

/-- What an unlisted address reads as, given the free spans. -/
def unlistedByte : List Span → Nat → Byte
  | [], _ => 0
  | sp :: rest, a => if sp.holds a then Config.freeByte sp.event a else unlistedByte rest a

/-- The listed byte of an address. -/
def cellAt : List Host.Cell → Nat → Option Byte
  | [], _ => none
  | c :: rest, a => if c.1 = a then some c.2 else cellAt rest a

/-- The cells that bytes from `a` upwards need: those that differ from what their address reads as unlisted. -/
def listed (spans : List Span) (a : Nat) : List Byte → List Host.Cell
  | [] => []
  | b :: rest =>
    if b = unlistedByte spans a then listed spans (a + 1) rest else (a, b) :: listed spans (a + 1) rest

/-- Read one byte. -/
def Mem.read (m : Mem) (a : Nat) : Byte := (cellAt m.cells a).getD (unlistedByte m.spans a)

/-- Write bytes from `a` upwards, keeping the canonical form. -/
def Mem.writeBytes (m : Mem) (a : Nat) (l : List Byte) : Mem :=
  { m with cells := m.cells.filter (fun c => decide (c.1 < a)) ++ listed m.spans a l ++
      m.cells.filter fun c => decide (a + l.length ≤ c.1) }

/-- Write one byte. -/
def Mem.write (m : Mem) (a : Nat) (b : Byte) : Mem := m.writeBytes a [b]

/-- Read `n` bytes from `a` upwards. -/
def Mem.readBytes (m : Mem) (a n : Nat) : List Byte :=
  let sub := m.cells.filter fun c => decide (a ≤ c.1) && decide (c.1 < a + n)
  (List.range n).map fun i => (cellAt sub (a + i)).getD (unlistedByte m.spans (a + i))

/-- Write those bytes of a burst that are not masked. -/
def Mem.writeMasked (m : Mem) (a : Nat) : List (Option Byte) → Mem
  | [] => m
  | none :: rest => m.writeMasked (a + 1) rest
  | some b :: rest => (m.write a b).writeMasked (a + 1) rest

/-- Join (address, byte) pairs whose addresses follow one another into runs. -/
def joinRuns : List (Nat × Byte) → List (Nat × List Byte)
  | [] => []
  | w :: rest =>
    match joinRuns rest with
    | [] => [(w.1, [w.2])]
    | r :: more => if r.1 = w.1 + 1 then (w.1, w.2 :: r.2) :: more else (w.1, [w.2]) :: r :: more

/-- Write runs of bytes in order. -/
def Mem.writeRuns (m : Mem) : List (Nat × List Byte) → Mem
  | [] => m
  | r :: rest => (m.writeBytes r.1 r.2).writeRuns rest

/-- Write a list of (address, byte) pairs in order. -/
def Mem.writeAll (m : Mem) (l : List (Nat × Byte)) : Mem := m.writeRuns (joinRuns l)

/-- Cut a range out of a span. -/
def Span.carve (lo len : Nat) (sp : Span) : List Span :=
  let below := if sp.lo < lo then [{ sp with len := min sp.len (lo - sp.lo) }] else []
  let above := if lo + len < sp.lo + sp.len then
    [{ sp with lo := max sp.lo (lo + len), len := sp.lo + sp.len - max sp.lo (lo + len) }] else []
  if sp.lo + sp.len ≤ lo ∨ lo + len ≤ sp.lo then [sp] else below ++ above

/-- Set every byte of a range to 0 (R250, R398): nothing of it stays listed or free. -/
def Mem.clear (m : Mem) (lo len : Nat) : Mem :=
  { cells := m.cells.filter fun c => !(decide (lo ≤ c.1) && decide (c.1 < lo + len))
    spans := m.spans.flatMap (Span.carve lo len) }

/-- Leave every byte of a range undefined: a free span with the event's number. -/
def Mem.wipe (m : Mem) (lo len event : Nat) : Mem :=
  let c := m.clear lo len
  if len = 0 then c else { c with spans := ⟨lo, len, event⟩ :: c.spans }

/-- The canonical form: addresses strictly rising, and no cell equal to what its address reads as unlisted. -/
def Mem.wf (m : Mem) : Bool :=
  decide (m.cells.Pairwise fun x y => x.1 < y.1) && m.cells.all fun c => decide (c.2 ≠ unlistedByte m.spans c.1)

/-- Little-endian value of bytes (R56 and the first page of the commands chapter). -/
def leNat : List Byte → Nat
  | [] => 0
  | b :: rest => b.toNat + 256 * leNat rest

/-- The `n` little-endian bytes of a value. -/
def leBytes : Nat → Nat → List Byte
  | 0, _ => []
  | n + 1, v => BitVec.ofNat 8 v :: leBytes n (v / 256)

/-- Little-endian number of `n` bytes at `a`. -/
def Mem.readNat (m : Mem) (a n : Nat) : Nat := leNat (m.readBytes a n)

/-- Store a number in `n` little-endian bytes at `a`. -/
def Mem.writeNat (m : Mem) (a n v : Nat) : Mem := m.writeBytes a (leBytes n v)

/-- Read one byte of an image held as a list; beyond its end, 0. -/
def byteAt (l : List Byte) (i : Nat) : Byte := l.getD i 0

/-- The little-endian field of `n` bytes at offset `i` of a message, block or record. -/
def fieldNat (l : List Byte) (i n : Nat) : Nat := leNat ((List.range n).map fun k => byteAt l (i + k))

/-- Bits [lo + n − 1 : lo] of a number. -/
def bitsOf (v lo n : Nat) : Nat := v / 2 ^ lo % 2 ^ n

/-- Two's complement reading of an n-bit number. -/
def signedOf (n v : Nat) : Int := if v % 2 ^ n < 2 ^ (n - 1) then (v % 2 ^ n : Nat) else (v % 2 ^ n : Nat) - (2 ^ n : Nat)

/-- Round a length up to a multiple. -/
def roundUp (v k : Nat) : Nat := (v + k - 1) / k * k

/-- Division rounded up. -/
def ceilDiv (a b : Nat) : Nat := (a + b - 1) / b

end Sys2Proof.Machine
end

