-- ==== Sys2Proof/Machine/Hash.lean ====
section
/-! DEFINITION. The two checks of data that the spec names by standard: CRC-32 of IEEE 802.3 (R139, R152) and SHA-256 of
FIPS 180-4 (R593, R605). -/

namespace Sys2Proof.Machine

/-- Eight shifts of the reflected polynomial. -/
def crcShift : Nat → Word → Word
  | 0, c => c
  | n + 1, c => crcShift n (if c.getLsbD 0 then (c >>> 1) ^^^ 0xEDB88320 else c >>> 1)

/-- One byte of CRC-32. -/
def crcByte (c : Word) (b : Byte) : Word := crcShift 8 (c ^^^ b.setWidth 32)

/-- CRC-32 of a list of bytes: initial value and final complement all ones. -/
def crc32 (l : List Byte) : Word := ~~~ (l.foldl crcByte 0xFFFFFFFF)

/-! ### SHA-256 -/

/-- The greatest number below `2 ^ bits` whose k-th power is at most `n`, with `r` already found: from the highest bit down. -/
def rootBelow (k n : Nat) : Nat → Nat → Nat
  | 0, r => r
  | bit + 1, r => rootBelow k n bit (if (r + 2 ^ bit) ^ k ≤ n then r + 2 ^ bit else r)

/-- Has `n` a divisor among 2 to `d + 1`, itself excluded? -/
def divisible (n : Nat) : Nat → Bool
  | 0 => false
  | d + 1 => (decide (d + 2 < n) && n % (d + 2) == 0) || divisible n d

/-- The first 64 primes: those up to 311. -/
def shaPrimes : List Nat := ((List.range 310).map (· + 2)).filter fun n => !divisible n 17

/-- FIPS 180-4, 4.2.2 and 5.3.3: the first 32 bits of the fraction of the k-th root of a prime. -/
def rootFraction (k prime : Nat) : Word := BitVec.ofNat 32 (rootBelow k (prime * 2 ^ (32 * k)) 37 0)

/-- The 64 round constants: cube roots. -/
def shaK : List Word := shaPrimes.map (rootFraction 3)

/-- The initial hash value: square roots of the first eight primes. -/
def shaInit : List Word := (shaPrimes.take 8).map (rootFraction 2)

/-- A sigma function of FIPS 180-4: three rotations, or two rotations and a shift, added bit by bit. -/
def shaMix (turns : List Nat) (shift : Option Nat) (x : Word) : Word :=
  turns.foldl (fun acc n => acc ^^^ x.rotateRight n) (match shift with
    | some n => x >>> n
    | none => 0)

/-- The message schedule of one block: sixteen words grown to 64. -/
def shaSchedule : Nat → List Word → List Word
  | 0, w => w
  | n + 1, w =>
    let back (k : Nat) : Word := w.getD (w.length - k) 0
    shaSchedule n (w ++ [shaMix [17, 19] (some 10) (back 2) + back 7 + shaMix [7, 18] (some 3) (back 15) + back 16])

/-- One round over the eight working words: two of them are made anew, the others move up by one place. -/
def shaRound (v : List Word) (kw : Word × Word) : List Word :=
  let at_ (i : Nat) : Word := v.getD i 0
  let chosen := at_ 6 ^^^ (at_ 4 &&& (at_ 5 ^^^ at_ 6))
  let most := (at_ 0 &&& (at_ 1 ||| at_ 2)) ||| (at_ 1 &&& at_ 2)
  let fresh := kw.1 + kw.2 + at_ 7 + chosen + shaMix [6, 11, 25] none (at_ 4)
  [fresh + most + shaMix [2, 13, 22] none (at_ 0)] ++ v.take 3 ++ [at_ 3 + fresh] ++ (v.drop 4).take 3

/-- Big-endian bytes of a word. -/
def beBytes (w : Word) : List Byte := (leBytes 4 w.toNat).reverse

/-- Big-endian word of four bytes. -/
def beWord (l : List Byte) : Word := BitVec.ofNat 32 (leNat l.reverse)

/-- Cut a list into pieces of `k`, at most `n` of them. -/
def pieces {α : Type} (k : Nat) : Nat → List α → List (List α)
  | 0, _ => []
  | n + 1, l => l.take k :: pieces k n (l.drop k)

/-- One block of SHA-256. -/
def shaBlock (h : List Word) (block : List Byte) : List Word :=
  let w := shaSchedule 48 ((pieces 4 16 block).map beWord)
  List.zipWith (fun x y => x + y) h ((List.zip shaK w).foldl shaRound h)

/-- The padded message: a 1 bit, zeros, and the bit length in 8 big-endian bytes. -/
def shaPad (l : List Byte) : List Byte :=
  let zeros := (119 - l.length % 64) % 64
  l ++ [0x80] ++ List.replicate zeros 0 ++ (leBytes 8 (8 * l.length)).reverse

/-- SHA-256 of a list of bytes. -/
def sha256 (l : List Byte) : List Byte :=
  let p := shaPad l
  ((pieces 64 (p.length / 64) p).foldl shaBlock shaInit).flatMap beBytes

end Sys2Proof.Machine
end

