-- ==== Sys2Proof/Machine/Store.lean ====
section
/-! DEFINITION. Indexed stores and staged fields: the two shapes that most registers of the device take. -/

namespace Sys2Proof.Machine

/-- Entry `i` of a store of `n` like things. -/
def vget {α : Type} {n : Nat} (v : Vector α n) (i : Fin n) : α := v[i.val]

/-- The store with entry `i` replaced. -/
def vset {α : Type} {n : Nat} (v : Vector α n) (i : Fin n) (x : α) : Vector α n := v.set i.val x

/-- The store with entry `i` changed by `f`. -/
def vupd {α : Type} {n : Nat} (v : Vector α n) (i : Fin n) (f : α → α) : Vector α n := vset v i (f (vget v i))

/-- The store with every entry changed by `f`, which sees the index. -/
def vmap {α : Type} {n : Nat} (v : Vector α n) (f : Fin n → α → α) : Vector α n :=
  Vector.ofFn fun i => f i (vget v i)

/-- A unit of staged fields (Table 0.6 RWS, R695): the staged copy that software writes and reads, the pending copy
between GO and its boundary, and the copy in force. -/
structure Rws (α : Type) where
  staged : α
  pending : Option α
  live : α
  deriving DecidableEq, Repr

/-- A unit at reset: both copies at the reset value (R701). -/
def rwsReset {α : Type} (x : α) : Rws α := { staged := x, pending := none, live := x }

/-- R695, R697, R700: GO copies the staged set into the pending set, replacing what was not yet applied; a unit that
does not differ from the values in force has nothing to wait for. -/
def Rws.go {α : Type} [DecidableEq α] (r : Rws α) : Rws α :=
  { r with pending := if r.staged = r.live then none else some r.staged }

/-- R699: CANCEL discards the pending unit and copies the values in force into the staged set. -/
def Rws.cancel {α : Type} (r : Rws α) : Rws α :=
  match r.pending with
  | none => r
  | some _ => { r with pending := none, staged := r.live }

/-- R695: the pending unit is applied as a whole. -/
def Rws.apply {α : Type} (r : Rws α) : Rws α :=
  match r.pending with
  | none => r
  | some x => { r with pending := none, live := x }

/-- R698: a rejected unit is not applied and the staged set takes the values in force. -/
def Rws.reject {α : Type} (r : Rws α) : Rws α := { r with pending := none, staged := r.live }

/-- The first value of a list with the key, for sparse stores. -/
def lookupKey {α : Type} : List (Nat × α) → Nat → Option α
  | [], _ => none
  | c :: rest, k => if c.1 = k then some c.2 else lookupKey rest k

/-- Put a value at a key, keeping the keys rising. -/
def putKey {α : Type} : List (Nat × α) → Nat → α → List (Nat × α)
  | [], k, x => [(k, x)]
  | c :: rest, k, x =>
    if k < c.1 then (k, x) :: c :: rest else if c.1 = k then (k, x) :: rest else c :: putKey rest k x

/-- Remove a key, wherever it stands. -/
def dropKey {α : Type} : List (Nat × α) → Nat → List (Nat × α)
  | [], _ => []
  | c :: rest, k => if c.1 = k then dropKey rest k else c :: dropKey rest k

/-- The lowest number not among the keys of a list whose keys rise. -/
def lowestFree {α : Type} : List (Nat × α) → Nat → Nat
  | [], k => k
  | c :: rest, k => if c.1 = k then lowestFree rest (k + 1) else k

end Sys2Proof.Machine
end

