-- ==== Sys2Proof/Machine/BlockTypes.lean ====
section
/-! DEFINITION. The state of each block as plain data. A field's default is its reset value; where the spec gives a
Reset column the default is that value, and notes/assumptions names every default the spec does not give. -/

namespace Sys2Proof.Machine

/-! ### Identity, fuses, straps, pins -/

/-- Fuses and one-time storage of a part (R1, R144, R595, R604, R607, R613, R635). They outlast every reset. -/
structure Fuses where
  grade : BitVec 8 := 0
  pressMask : BitVec 16 := 0xFFFF
  lock : Bool := false
  order : BitVec 3 := 0
  digests : Vector (Option (List Byte)) 4 := Vector.replicate 4 none
  revoked : BitVec 4 := 0
  svn : Nat := 0
  deviceId : BitVec 64 := 0
  otpMem : BitVec 12 := 0
  otpVine : BitVec 12 := 0
  vmin : Vector Nat 3 := Vector.replicate 3 550
  vmax : Vector Nat 3 := Vector.replicate 3 950
  deriving DecidableEq, Repr

/-- Levels of the device's pins (R644, R714): true is asserted, that is low. `alarm` is the direct assertion of R667;
ALARM_N itself follows R670. -/
structure Pins where
  alarm : Bool := false
  safe : Bool := true
  pwrAlert : Bool := false
  deriving DecidableEq, Repr

/-! ### Common registers of a page -/

/-- The common registers of one control page (Tables 20.1 to 20.4). -/
structure PageRegs where
  irqError : Bool := false
  irqCommitDone : Bool := false
  irqMask : Word := 3
  superseded : Bool := false
  rejected : Bool := false
  goBy : Writer := .host
  errCode : BitVec 16 := 0
  errValid : Bool := false
  errLost : Byte := 0
  errInfo : Word := 0
  errAddr : Long := 0
  errTime : Long := 0
  errSrc : Byte := 0
  deriving DecidableEq, Repr

/-! ### Boot -/

/-- The boot record (Table 16.11 RECORD and LEVELS, R576, R603): retained storage. -/
structure BootRecord where
  step : Byte := 0
  attempts : BitVec 4 := 0
  cause : BitVec 4 := 0
  trial : Bool := false
  slot : Bool := false
  source : BitVec 2 := 0
  levels : Vector (BitVec 2) 12 := Vector.replicate 12 0
  sourcePos : Nat := 0
  slotTried : Bool := false
  deriving DecidableEq, Repr

/-- A NOR command in progress (Table 16.7). -/
inductive NorJob where
  | erase (slot : Fin 2)
  | write (slot : Fin 2) (src : Nat) (len : Nat)
  | verify (slot : Fin 2)
  | activate (slot : Fin 2)
  deriving DecidableEq, Repr

/-- The BOOT page and the start in progress (R577 to R607). -/
structure Boot where
  halted : Bool := false
  ready : Bool := false
  readySeen : Bool := false
  nextStep : Nat := 1
  hostPortUp : Bool := false
  hartsReleased : Bool := false
  config : List Byte := []
  image : List Byte := []
  safetyStore : List Byte := []
  imageSeen : Bool := false
  hostImageTaken : Bool := false
  hostImageLen : BitVec 21 := 0
  vineLink : Fin 4 := 1
  keyInUse : BitVec 2 := 0
  norSrc : BitVec 25 := 0
  norLen : BitVec 21 := 0
  norJob : Option NorJob := none
  norResult : BitVec 4 := 0
  pcr : List Byte := List.replicate 32 0
  measLog : List (List Byte) := []
  skSeed : List Byte := []
  skPrf : List Byte := []
  pkSeed : List Byte := []
  retries : Nat := 0
  deriving DecidableEq, Repr

/-- One image slot in NOR: the header words and the image region (R596, R597). -/
structure NorSlot where
  state : Word := 0xFFFFFFFF
  length : Nat := 0xFFFFFFFF
  crc : Word := 0xFFFFFFFF
  image : List Byte := []
  deriving DecidableEq, Repr

/-- One selector record of the journal (R598). -/
structure Selector where
  seq : Word
  slot : Bool
  trial : Bool
  deriving DecidableEq, Repr

/-- The boot flash of the board (Tables 16.3 and 16.6, R387, R390): it outlasts every reset. -/
structure Flash where
  norPresent : Bool := true
  norConfig : List Byte := []
  slots : Vector NorSlot 2 := Vector.replicate 2 {}
  journal : List Selector := []
  training : List Byte := []
  trainingRate : BitVec 2 := 0
  retiredPages : List Nat := []
  emmcPresent : Bool := false
  emmcConfig : List Byte := []
  emmcImages : Vector (List Byte) 2 := Vector.replicate 2 []
  deriving DecidableEq, Repr

/-! ### Clocks -/

/-- The staged fields of one PLL (Table 17.3); FALLBACK_DIV exists for FABRIC alone. -/
structure PllCfg where
  khz : BitVec 24
  depth : BitVec 5 := 0
  rate : BitVec 6 := 30
  fallbackDiv : BitVec 4 := 10
  deriving DecidableEq, Repr

/-- One PLL (Table 17.3, R612). -/
structure Pll where
  cfg : Rws PllCfg
  locked : Bool := false
  on : Bool := false
  loss : Byte := 0
  waiting : Bool := false
  raising : Bool := false
  deriving DecidableEq, Repr

/-- One clock domain (Table 17.3 DOMd) and what the clock monitor holds of it (R667). -/
structure Domain where
  runEn : Bool := true
  sleepEn : Bool := true
  deepEn : Bool := false
  src : BitVec 2 := 1
  st : BitVec 2 := 1
  fails : Nat := 0
  measured : Nat := 0
  deriving DecidableEq, Repr

/-- Reset frequencies of Table 1.4 in kHz, in the order of Table 17.1. -/
def resetKhz (p : Fin 9) : BitVec 24 :=
  match p.val with
  | 0 => 250000 | 1 => 1000000 | 2 => 1200000 | 3 => 500000 | 4 => 800000
  | 5 => 1600000 | 6 => 1066700 | _ => 16000000

/-- May the domain sleep at all (R629)? -/
def sleepAllowed (d : Fin 9) : Bool := d.val = 0 || d.val = 3 || d.val = 4

/-- The CLOCKS page. -/
structure Clocks where
  plls : Vector Pll 9 := Vector.ofFn fun p => { cfg := rwsReset { khz := resetKhz p } }
  doms : Vector Domain 9 := Vector.ofFn fun d => { sleepEn := sleepAllowed d }
  arithHeld : Bool := false
  deriving DecidableEq, Repr

/-! ### Power, thermal, ageing -/

/-- What the ARITH clock is doing (R619, R641, R645, R646, R650). -/
inductive ArithMode where
  | normal
  | raising (mhz : Nat)
  | slewing (mhz : Nat)
  | fallback
  | returning
  deriving DecidableEq, Repr

/-- The AVS loop of one core rail (Table 18.4 AVSr, R635). -/
structure AvsRail where
  mv : BitVec 10 := 800
  guard : BitVec 6 := 3
  slack : Byte := 0
  timeouts : Byte := 0
  trim : Int := 0
  above : Nat := 0
  misses : Nat := 0
  waiting : Bool := false
  deriving DecidableEq, Repr

/-- FLIMIT (Table 18.4). -/
structure Flimit where
  fmin : BitVec 9 := 100
  fmax : BitVec 9 := 300
  deriving DecidableEq, Repr

/-- The POWER page and its loops. -/
structure Power where
  cap : BitVec 10 := 450
  flimit : Rws Flimit := rwsReset {}
  dvfsEn : Bool := true
  raiseMhz : Byte := 5
  lowerMhz : Byte := 10
  fixedMw : BitVec 17 := 10000
  measured : BitVec 17 := 0
  sums : List Nat := []
  arithMhz : BitVec 9 := 0
  limit : BitVec 3 := 0
  capUnreachable : Bool := false
  capUnderMs : Nat := 0
  alertHold : BitVec 16 := 1000
  alerts : Word := 0
  alertAt : Long := 0
  holding : Bool := false
  holdAt : Long := 0
  toppingEn : Bool := true
  toppingLevel : BitVec 5 := 8
  toppingUp : BitVec 6 := 3
  toppingDown : BitVec 6 := 10
  mode : ArithMode := .normal
  rails : Vector AvsRail 3 := Vector.replicate 3 {}
  railMv : List Nat := []
  railMa : List Nat := []
  supplyBad : Vector Nat 8 := Vector.replicate 8 0
  supplyLast : Vector Nat 8 := Vector.replicate 8 0
  deriving DecidableEq, Repr

/-- The THERMAL page (Table 18.5). -/
structure Thermal where
  throttleC : Byte := 120
  hystC : BitVec 4 := 2
  hottest : BitVec 12 := 0
  hotSensor : BitVec 5 := 0
  excluded : Word := 0
  throttles : Word := 0
  sensors : Vector (BitVec 12) 32 := Vector.replicate 32 0
  throttling : Bool := false
  overTemp : Bool := false
  deriving DecidableEq, Repr

/-- The AGEING page (Table 18.6). -/
structure Ageing where
  readings : BitVec 16 := 0
  nextS : Word := 0
  worst : Vector (BitVec 24) 3 := Vector.replicate 3 0
  headroom : Vector (BitVec 16) 3 := Vector.replicate 3 0
  fmaxSustain : BitVec 9 := 300
  excluded : BitVec 48 := 0
  mons : Vector (BitVec 24) 48 := Vector.replicate 48 0
  deferred : Bool := false
  deriving DecidableEq, Repr

/-! ### Safety and diagnostics -/

/-- One alarm slot (Table 19.7) with the source's pending count and data (R666). -/
structure AlarmSlot where
  raised : BitVec 16 := 0
  raisedData : Word := 0
  pending : Bool := false
  saturated : Bool := false
  count : Word := 0
  firstSeq : Word := 0
  data : Word := 0
  firstTime : Long := 0
  lastTime : Long := 0
  deriving DecidableEq, Repr

/-- The SAFETY page and the aggregator (Table 19.6, R666, R672). -/
structure Safety where
  mode : Bool := false
  safe : Bool := false
  reactSafe : BitVec 6 := 0x2D
  reactFreeze : BitVec 6 := 0x0D
  katPeriod : BitVec 14 := 2000
  katMode : Bool := false
  katRuns : Word := 0
  autoReset : BitVec 16 := 0
  safeCause : Byte := 0
  safeAt : Long := 0
  lastKey : Nat := 133
  slots : Vector AlarmSlot 134 := Vector.replicate 134 {}
  hartBeat : Vector Long 4 := Vector.replicate 4 0
  hartsHalted : Bool := false
  deriving DecidableEq, Repr

/-- An event waiting for the log path (Table 19.2, R684). -/
structure LogEvent where
  source : Fin 64
  code : BitVec 16
  time : Long
  data : List Byte
  deriving DecidableEq, Repr

/-- A staging ring of DIAG (Table 19.8). -/
structure RingCfg where
  base : BitVec 9 := 0
  size : BitVec 9 := 0
  shift : BitVec 5 := 0
  deriving DecidableEq, Repr

/-- The DIAG page with the log and trace sources. -/
structure Diag where
  rings : Rws (RingCfg × RingCfg) := rwsReset ({}, {})
  logWrite : Word := 0
  logRead : Word := 0
  traceWrite : Word := 0
  loss : Vector (BitVec 16) 64 := Vector.replicate 64 0
  waiting : List LogEvent := []
  lastSource : Fin 64 := 63
  traceCount : Vector Nat 64 := Vector.replicate 64 0
  bookIndex : BitVec 11 := 0
  deriving DecidableEq, Repr

/-- The cellar book (Table 19.9, R688): retained storage. -/
structure CellarBook where
  records : List (Nat × List Byte) := []
  next : BitVec 11 := 0
  wrapped : Bool := false
  frozen : Bool := false
  freezeCause : BitVec 2 := 0
  freezeKey : Byte := 0
  missed : Word := 0
  eventSeq : Word := 0
  deriving DecidableEq, Repr

/-! ### Commands, operands and programs -/

/-- An operand descriptor as the front end read it (Table 4.5), run-time extents filled in (R162). -/
structure Operand where
  addr : BitVec 40
  format : BitVec 4
  space : BitVec 2
  inner : BitVec 2
  flags : BitVec 16
  sizes : List Nat
  strides : List Int
  pad : BitVec 16
  zp : BitVec 16
  starts : List Int
  incs : List (Nat × Int)
  deriving DecidableEq, Repr

/-- An instruction of a press stream (Table 4.9). -/
structure PressInstr where
  opcode : Byte
  iflags : Byte
  opa : Byte
  opb : Byte
  opout : Byte
  opqp : Byte
  mrows : Byte
  depth : Nat
  kdepth : Nat
  counts : List Nat
  arg : List Byte
  arg2 : List Byte
  deriving DecidableEq, Repr

/-- An entry of a command's object list (Table 4.3). -/
structure ObjRef where
  handle : Nat
  isIn : Bool
  isOut : Bool
  deriving DecidableEq, Repr

/-- Where a command that the front end has read stands (R460, R464, R466, R498 to R502). One that is `due` is done, and ends as
soon as its queue holds fewer than 64 corks (R470). -/
inductive Phase where
  | checked
  | started
  | running
  | requeued
  | saving (slot : Nat)
  | suspended (slot : Nat)
  | restoring (slot : Nat)
  | written (status : Byte) (data : Long)
  | killing (status : Byte) (data : Long)
  | killingRequeue
  | due (status : Byte) (data : Long)
  | ended (status : Byte) (data : Long)
  deriving DecidableEq, Repr

/-- A slot's fold image in LPDDR6 as it stands at a moment (R190): where it begins, where its 64 counters lie, and the live Cask
ranges, start and length, that it holds packed in order. -/
structure FoldImage where
  base : Nat
  counters : Nat
  ranges : List (Nat × Nat)
  deriving DecidableEq, Repr

/-- A swap of a folded program (R190): a press makes it before it issues the instruction at an index. -/
structure FoldSwap where
  press : Fin 16
  index : Nat
  out : FoldImage
  into : FoldImage
  deriving DecidableEq, Repr

/-- A DMA of a folded program that translation sends to a fold image (R191): its press and index, and where the image's counters
lie. -/
structure FoldWrite where
  press : Fin 16
  index : Nat
  counters : Nat
  deriving DecidableEq, Repr

/-- What translation has fixed of a folded program beside its streams (R190, R191): its parcel, PROGRAM address, the counters of its
fold images, its swaps in order, and its writes to fold images. -/
structure FoldPlan where
  parcel : Fin 8
  program : Nat
  images : List Nat
  swaps : List FoldSwap
  writes : List FoldWrite
  deriving DecidableEq, Repr

/-- A command that the front end has read and that has not retired. `rackSlot` is the save slot that a pending RACK
pre-emption has taken, `rackBy` the time by which every press must have stopped for it, `saveLive` its switch mode, and
`savedPoints` the rack point of each press that was saved at one. -/
structure Cmd where
  seq : Word
  desc : List Byte
  phase : Phase
  operands : List Operand := []
  params : List Byte := []
  streams : List (Nat × List PressInstr) := []
  objs : List ObjRef := []
  twinned : Bool := false
  holding : Bool := false
  waits : List Word := []
  doomed : Option Word := none
  rackMap : Option (List Byte) := none
  requeued : Bool := false
  rackRequested : Bool := false
  rackBy : Long := 0
  rackSlot : Option Nat := none
  saveLive : Bool := false
  savedPoints : List (Nat × Nat) := []
  submitted : Long := 0
  since : Long := 0
  waitNs : Nat := 0
  runNs : Nat := 0
  preempted : Nat := 0
  tEnd : Long := 0
  fold : Option FoldPlan := none
  deriving DecidableEq, Repr

/-- The fold swaps of a press in a command, in order (R190). -/
def Cmd.swapsOf (c : Cmd) (p : Fin 16) : List FoldSwap :=
  match c.fold with
  | none => []
  | some f => f.swaps.filter fun w => decide (w.press = p)

/-- CFG of a queue (Table 12.6). -/
structure QueueCfg where
  en : Bool := false
  continuePolicy : Bool := false
  wire : BitVec 2 := 0
  parcel : BitVec 3 := 0
  size : BitVec 9 := 0
  deriving DecidableEq, Repr

/-- One queue (Table 12.6, R455 to R476). -/
structure Queue where
  cfg : Rws QueueCfg := rwsReset {}
  tail : Word := 0
  consumed : Word := 0
  read : Word := 0
  nextCork : Word := 0
  stopped : Bool := false
  stopSeq : Word := 0
  resume : Option Word := none
  lastErrSeq : Word := 0
  lastErr : Byte := 0
  errors : Word := 0
  cancelled : Word := 0
  cmds : List Cmd := []
  submitTimes : List (Word × Long) := []
  readEntry : Nat := 1
  deriving DecidableEq, Repr

/-! ### Presses -/

/-- PRESSn.STATE.STATE (Table 3.7). -/
inductive PressMode where
  | sleep
  | idle
  | matrix
  | elementwise
  | killing
  | topping
  deriving DecidableEq, Repr

/-- A weight tile as the loader holds it (R99, R103, R118): stored codes row by row after the pad and view tests, with
the side data of its rows, groups or blocks. -/
structure Tile where
  codes : List (List Nat)
  index : List (List (Nat × Nat))
  scales : List (List Nat)
  outliers : List (List (Nat × Nat))
  deriving DecidableEq, Repr

/-- A formed output tile that the output stage has yet to drain (R109 to R111, R139). -/
structure OutTile where
  writes : List (Nat × List Byte)
  crc : Word
  deriving DecidableEq, Repr

/-- A DMA that a sequencer started (R167, R173). `image` is where the counters of the fold image lie that it writes to (R191). -/
structure DmaJob where
  src : Operand
  dst : Operand
  rows : Nat
  depth : Nat
  counts : List Nat
  counter : Nat
  next : Nat
  total : Nat
  image : Option Nat := none
  deriving DecidableEq, Repr

/-- What a press's sequencer holds of the command it runs (R167, R503); `swapped` counts the fold swaps it has made (R190). -/
structure Sequencer where
  queue : Fin 256
  seq : Word
  twinOf : Option (Fin 16)
  index : Nat
  ended : Bool
  waiting : Bool
  stopped : Bool
  point : Nat
  passedPoint : Bool
  jobs : List DmaJob
  children : Nat
  drains : List OutTile
  swapped : Nat := 0
  deriving DecidableEq, Repr

/-- The known-answer test of a press (R680 to R683). -/
inductive KatState where
  | none
  | running (full : Bool)
  | ended (full : Bool)
  deriving DecidableEq, Repr

/-- One press with its Cask and accumulator store (Tables 3.6 to 3.9 and 6.5). -/
structure Press where
  en : Bool := true
  mode : PressMode := .idle
  shadow : Option Tile := none
  twin : Bool := false
  twinRole : Bool := false
  twinPeer : BitVec 4 := 0
  context : BitVec 16 := 0
  assigned : Option (Fin 8) := none
  busy : Long := 0
  stallWeight : Long := 0
  stallDrain : Long := 0
  stallOutlier : Long := 0
  stallOperand : Long := 0
  katSig : Word := 0
  twinFail : BitVec 16 := 0
  cask : Mem := Mem.empty
  accumulators : Mem := Mem.empty
  sideStore : Mem := Mem.empty
  arrive : Vector Word 64 := Vector.replicate 64 0
  eccCorr : BitVec 16 := 0
  eccUncorr : Byte := 0
  ueAddr : BitVec 23 := 0
  scrubLine : Vector Nat 32 := Vector.replicate 32 0
  sequencer : Option Sequencer := none
  topping : Nat := 0
  kat : KatState := .none
  katDue : Long := 0
  deriving DecidableEq, Repr

/-! ### Engines, codecs, pipelines -/

/-- An engine command that waits at, runs on or has completed on an engine (R255, R256, R181). -/
structure EngineJob where
  queue : Fin 256
  seq : Word
  press : Option (Fin 16)
  counter : Nat
  parcel : Fin 8
  twinned : Bool
  operands : List Operand
  params : List Byte
  deriving DecidableEq, Repr

/-- One engine page (Table 7.10) with its waiting list. -/
structure Engine where
  busy : Long := 0
  work : Long := 0
  waiting : List EngineJob := []
  done : List EngineJob := []
  lastParcel : Fin 8 := 7
  failStatus : Byte := 0
  failParcel : BitVec 3 := 0
  twinFail : BitVec 16 := 0
  asleep : Bool := false
  deriving DecidableEq, Repr

/-- The Intake's further registers (Table 9.9). -/
structure IntakeRegs where
  maxPixels : BitVec 27 := 33554432
  corrupt : Word := 0
  oversize : Word := 0
  deriving DecidableEq, Repr

/-- An open codec stream (R355). -/
structure Stream where
  function : Byte
  width : Nat
  height : Nat
  depth : Nat
  fpsCenti : Nat
  reservation : Nat
  closing : Bool
  deriving DecidableEq, Repr

/-- The CODEC page (Table 9.10) and its streams. -/
structure Codec where
  streams : List (Nat × Stream) := []
  encCores : Vector (Option (Fin 256 × Word)) 4 := Vector.replicate 4 none
  decCores : Vector (Option (Fin 256 × Word)) 4 := Vector.replicate 4 none
  encPixels : Long := 0
  decPixels : Long := 0
  concealed : Word := 0
  failStatus : Byte := 0
  failParcel : BitVec 3 := 0
  failStream : BitVec 6 := 0
  waiting : List (Fin 256 × Word) := []
  lastEnc : Fin 8 := 7
  lastDec : Fin 8 := 7
  deriving DecidableEq, Repr

/-- The configuration of one pipeline (Table 8.7, the RWS fields). -/
structure PipeCfg where
  lanes : BitVec 2 := 2
  vc : BitVec 4 := 0
  dt : BitVec 6 := 0x2C
  laneMap : Byte := 0xE4
  pol : BitVec 5 := 0
  width : BitVec 15 := 1920
  strip : Bool := false
  height : BitVec 14 := 1080
  stripHeight : BitVec 16 := 1024
  overlap : BitVec 16 := 0
  lineTime : BitVec 20 := 15000
  timeout : BitVec 24 := 0
  mosaic : BitVec 3 := 1
  phaseX : BitVec 2 := 0
  phaseY : BitVec 2 := 0
  table : BitVec 24 := 0
  tableHi : BitVec 24 := 0
  black : Vector (BitVec 16) 5 := Vector.replicate 5 0
  gain : Vector (BitVec 16) 5 := Vector.replicate 5 4096
  matrix : Vector (BitVec 16) 15 := Vector.ofFn fun i => if i.val = 0 ∨ i.val = 6 ∨ i.val = 12 then 4096 else 0
  offset : Vector (BitVec 16) 3 := Vector.replicate 3 0
  gamma : Vector (BitVec 16) 257 := Vector.ofFn fun i => if i.val = 256 then 65535 else BitVec.ofNat 16 (256 * i.val)
  deriving DecidableEq, Repr

/-- A capture command that has reached a pipeline (R322, R326). -/
structure CaptureRef where
  queue : Fin 256
  seq : Word
  parcel : Fin 8
  arrived : Long
  deriving DecidableEq, Repr

/-- A frame or strip in progress (R302, R315, R325). -/
structure OpenFrame where
  claim : Option CaptureRef
  number : Word
  index : Nat
  frameNo : BitVec 16
  firstLine : Nat
  discardedBefore : Word
  crop : Nat × Nat × Nat × Nat
  flags : BitVec 16
  tStart : Long
  tEnd : Long
  received : Nat
  crcLines : Nat
  firstBad : Word
  eccCorr : BitVec 16
  formed : Nat
  closed : Bool
  deriving DecidableEq, Repr

/-- One pipeline (Table 8.7). `lines` holds the raw samples of the frame or stream in progress, oldest first, the first
being line `base`. -/
structure Pipe where
  cfg : Rws PipeCfg := rwsReset {}
  rxState : BitVec 2 := 0
  deskewed : Bool := false
  pendingCaptures : List CaptureRef := []
  discarded : Word := 0
  otherPkt : Word := 0
  crcLines : Word := 0
  eccCorr : Word := 0
  owner : Option (Fin 8) := none
  frames : List OpenFrame := []
  received : Word := 0
  sinceClaim : Word := 0
  lines : List (List Nat) := []
  base : Nat := 0
  lineCount : Nat := 0
  lastLineAt : Long := 0
  reservation : Nat := 0
  deriving DecidableEq, Repr

/-! ### Memory subsystem -/

/-- A translation table entry (Table 10.4). -/
structure TtEntry where
  valid : Bool := false
  read : Bool := false
  write : Bool := false
  exec : Bool := false
  retired : Bool := false
  owner : BitVec 4 := 8
  ppn : BitVec 24 := 0
  deriving DecidableEq, Repr

/-- A carve-out, a Cellar share or a staging share: base and size in the units of its table. -/
structure Share where
  base : BitVec 13 := 0
  size : BitVec 13 := 0
  deriving DecidableEq, Repr

/-- One fault log entry (Table 10.9 LOGi). -/
structure FaultEntry where
  va : BitVec 38 := 0
  cause : BitVec 3 := 0
  access : BitVec 2 := 0
  agent : Byte := 0
  parcel : BitVec 3 := 0
  time : Long := 0
  deriving DecidableEq, Repr

/-- The MMU page, the translation table and the page pool. `retired` lists the retired physical pages, `corrections` a
page and the time of each corrected error in its window (R384), `badBlocks` the uncorrectable blocks met. -/
structure Mmu where
  ttBase : BitVec 24 := 0
  spare : BitVec 24 := 0
  retiredCount : BitVec 24 := 0
  faults : Word := 0
  logNext : BitVec 4 := 0
  log : Vector FaultEntry 16 := Vector.replicate 16 {}
  carves : Vector (Rws Share) 8 := Vector.replicate 8 (rwsReset {})
  table : List (Nat × TtEntry) := []
  retired : List Nat := []
  corrections : List (Nat × Nat) := []
  poolPages : Nat := 0
  badBlocks : List Nat := []
  deriving DecidableEq, Repr

/-- One LPDDR6 channel (Table 10.10 CHn). -/
structure Channel where
  margin : Byte := 0
  marginMin : Byte := 8
  retrains : BitVec 16 := 0
  odecc : Word := 0
  retraining : Bool := false
  temps : Vector Byte 2 := Vector.replicate 2 0
  deriving DecidableEq, Repr

/-- The MEMCTL page. -/
structure Memctl where
  rate : BitVec 2 := 0
  inlineEcc : Bool := false
  capacity : BitVec 2 := 0
  ranks : Bool := false
  trained : Bool := false
  eccCorr : Word := 0
  eccUncorr : BitVec 16 := 0
  linkCorr : Word := 0
  uePa : Word := 0
  threshold : Byte := 3
  windowH : BitVec 16 := 24
  scrubHours : Byte := 12
  scrubBlock : Nat := 0
  channels : Vector Channel 16 := Vector.replicate 16 {}
  training : List Byte := []
  deriving DecidableEq, Repr

/-- A live object (R399). -/
structure Obj where
  base : Nat
  length : Nat
  parcel : Fin 8
  holds : BitVec 24
  releasePending : Bool
  poisoned : Bool
  deriving DecidableEq, Repr

/-! ### Cellar -/

/-- The CELLAR page and the Cellar's contents (Table 6.6). -/
structure Cellar where
  shares : Rws (Vector Share 8) := rwsReset (Vector.replicate 8 {})
  eccCorr : BitVec 16 := 0
  eccUncorr : Byte := 0
  ueAddr : BitVec 26 := 0
  scrubLine : Vector Nat 64 := Vector.replicate 64 0
  mem : Mem := Mem.empty
  deriving DecidableEq, Repr

/-! ### Host port -/

/-- The echo configuration (Table 11.7 ECHO and ECHO_PAGEi; entry 0 of `pageNo` is unused). -/
structure EchoCfg where
  queues : BitVec 9 := 0
  mbox : BitVec 4 := 0
  base : BitVec 9 := 0
  pageNo : Vector (BitVec 10) 16 := Vector.replicate 16 0
  pageValid : Vector Bool 16 := Vector.replicate 16 false
  deriving DecidableEq, Repr

/-- One interrupt wire (R443). -/
structure Wire where
  raised : Word := 0
  acked : Word := 0
  deriving DecidableEq, Repr

/-- One LPDDR5X channel of the host port (R413 to R415, R447). -/
structure HostChannel where
  trained : Bool := false
  asleep : Bool := false
  modeRegs : List (Nat × Byte) := []
  fifo : List Byte := []
  deriving DecidableEq, Repr

/-- A host write that the lead forwards (R436). -/
structure Forward where
  dev : Fin 64
  offset : BitVec 27
  data : List (Option Byte)
  deriving DecidableEq, Repr

/-- R447: news of the host's sleep that the lead owes a device, behind `ahead` forwarded writes to that device. -/
structure SleepNotice where
  dev : Fin 64
  asleep : Bool
  ahead : Nat
  deriving DecidableEq, Repr

/-- A write observer event (R430): a queue's submit word or a pair's mailbox word, with the word's new value. -/
inductive ObserverEvent where
  | submit (q : Fin 256) (word : Long)
  | mailbox (pair : Fin 8) (word : Long)
  deriving DecidableEq, Repr

/-- The HOSTPORT page, the window SRAM by slot offset, and what the port holds. On a remote device `pushes` are the echoed
units that changed and are not yet pushed, oldest first, each with the wire of the event it carries (R441, R444), and `pushed`
the content that each unit of control space had when it was last pushed. -/
structure HostPort where
  rateMts : BitVec 14 := 0
  devices : BitVec 7 := 1
  self : BitVec 6 := 0
  fwdDropped : Word := 0
  linkCorr : Word := 0
  linkUncorr : Word := 0
  errCount : Word := 0
  echo : Rws EchoCfg := rwsReset {}
  synced : Bool := false
  copies : List (Nat × Nat) := []
  lost : List Nat := []
  stages : Vector (Rws Share) 8 := Vector.replicate 8 (rwsReset {})
  wires : Vector Wire 4 := Vector.replicate 4 {}
  mboxWire : BitVec 16 := 0
  mboxEn : Byte := 0xFF
  errWire : BitVec 2 := 0
  errEn : Bool := true
  channels : Vector HostChannel 2 := Vector.replicate 2 {}
  window : Mem := Mem.empty
  forward : List Forward := []
  observer : List ObserverEvent := []
  dq : List Byte := []
  hiLatch : List (Nat × Word) := []
  pushes : List (Nat × Option (BitVec 2)) := []
  pushed : List (Nat × List Byte) := []
  notices : List SleepNotice := []
  sleptAt : Long := 0
  deriving DecidableEq, Repr

/-! ### Vine -/

/-- What the device puts on the Vine links, in order (R517, R533, R436, R441, R589, R672). -/
inductive VineMsg where
  | flit (link : Fin 4) (lseq : Word) (bytes : List Byte)
  | replayRequest (link : Fin 4) (lseq : Word)
  | arrival (ident : BitVec 16) (gen : Word)
  | release (ident : BitVec 16) (gen : Word) (tRel : Long)
  | abort (ident : BitVec 16) (gen : Word)
  | time (t : Long)
  | safeNotice
  | probe (link : Fin 4)
  | number (rows cols : Nat)
  | imageRequest (link : Fin 4)
  | image (link : Fin 4) (config image : List Byte)
  | forwarded (ws : List Forward)
  | echo (unit : BitVec 22) (data : List Byte) (event : Option (BitVec 2))
  | hostSleep (dev : Fin 64) (asleep : Bool)
  | echoConfig (cfg : EchoCfg)
  | collective (seq : Word) (data : List Byte)
  deriving DecidableEq, Repr

/-- A flit that waits to leave on a link: its virtual channel within its class (R518), and bytes [3:0] of its header with its
payload. -/
structure WaitingFlit where
  vc : Bool
  body : List Byte
  deriving DecidableEq, Repr

/-- One Vine link (Table 14.5 LINKi, R518 to R520). `replay` holds the flits that are sent and not acknowledged, at most 128,
`backlog` those that wait behind them, and `ctrlGap` how many flits have left since the last of class CTRL, 3 or more as 3. -/
structure Link where
  state : BitVec 2 := 0
  peerDev : BitVec 6 := 0
  peerLink : BitVec 2 := 0
  retrains : BitVec 16 := 0
  retries : Word := 0
  crcErr : Word := 0
  failedRetrains : Nat := 0
  consecutive : Nat := 0
  rxNext : Word := 0
  rejecting : Bool := false
  txNext : Word := 0
  replay : List (Word × List Byte) := []
  backlog : List WaitingFlit := []
  ctrlGap : Nat := 3
  wanted : Bool := false
  joining : Bool := false
  deriving DecidableEq, Repr

/-- A barrier identifier in use on this device (R531 to R537). -/
structure Barrier where
  ident : BitVec 16
  gen : Word
  arrivedAt : Long
  tRel : Option Long
  queue : Fin 256
  seq : Word
  deriving DecidableEq, Repr

/-- The staged fields of VINE (Table 14.5). -/
structure VineCfg where
  commonRefclk : Bool := false
  det : Bool := false
  leadNs : BitVec 16 := 5000
  timeoutMs : BitVec 16 := 1000
  deriving DecidableEq, Repr

/-- The VINE page and its traffic. `startedAt` is when step VINE began (R585) and `probeFault` the link and result of a probe
that failed (R524); `gaveUp` says that the fault has been recorded. `hold` is the time in ns for which the counter stands
(R530), `correction` what R529 has yet to correct and `edges` the REFCLK edges since its last correction. `generations` holds the next generation of each identifier, `aborted`
the aborted generations not yet met (R537) and `arrivals` device 0's open generations with the devices that arrived. -/
structure Vine where
  cfg : Rws VineCfg := rwsReset {}
  rows : BitVec 4 := 1
  cols : BitVec 4 := 1
  timingBroken : Bool := false
  done : Word := 0
  timeouts : Word := 0
  late : Word := 0
  offset : BitVec 16 := 0
  synced : Bool := false
  links : Vector Link 4 := Vector.replicate 4 {}
  barriers : List Barrier := []
  generations : List (Nat × Word) := []
  aborted : List (Nat × Word) := []
  arrivals : List (Nat × Word × List Nat) := []
  startedAt : Long := 0
  probing : Bool := false
  foundRows : Nat := 0
  foundCols : Nat := 0
  probeFault : Option (Fin 4 × Nat) := none
  gaveUp : Bool := false
  hold : Nat := 0
  correction : Int := 0
  edges : Nat := 0
  detMhz : BitVec 9 := 0
  outbox : List VineMsg := []
  deriving DecidableEq, Repr

/-! ### Parcels and accounting -/

/-- The staged fields of PARCELn (Table 13.7). -/
structure ParcelCfg where
  rack : Bool := false
  live : Bool := false
  sliceUs : BitVec 17 := 10000
  rackWaitUs : BitVec 17 := 2000
  deriving DecidableEq, Repr

/-- One parcel (Table 13.7). -/
structure Parcel where
  cfg : Rws ParcelCfg := rwsReset {}
  state : BitVec 2 := 0
  holder : Option (BitVec 16) := none
  sliceStart : Long := 0
  lastQueue : Fin 256 := 255
  presses : BitVec 16 := 0
  pipes : BitVec 16 := 0
  saveVpn : BitVec 24 := 0
  saveSlots : BitVec 5 := 0
  saveFree : BitVec 16 := 0
  kills : Word := 0
  racks : Word := 0
  fallbacks : Word := 0
  deriving DecidableEq, Repr

/-- One accounting slot (Table 13.8). -/
structure AcctSlot where
  context : BitVec 16
  parcel : BitVec 3
  preempted : Word
  waitCycles : Long
  runCycles : Long
  retired : Word
  deriving DecidableEq, Repr

/-- The accounting table: the slots in use, slot 0 first, and slot 4,095 when pairs have merged (R508). -/
structure Acct where
  slots : List AcctSlot := []
  merged : Option AcctSlot := none
  deriving DecidableEq, Repr

/-! ### Firmware -/

/-- A request whose reply is still owed (R557): its type, sequence number and what it waits for. -/
inductive FwJob where
  | creating (seq : Word) (parcel : Fin 8) (policy : ParcelCfg)
  | destroying (seq : Word) (parcel : Fin 8)
  | signing (seq : Word) (handle : Nat) (parcel : Fin 8) (report : List Byte)
  | collective (seq : Word)
  | swapping (seq : Word)
  | closing (seq : Word) (stream : Nat)
  | failing (seq : Word) (press : Fin 16)
  | echoing (seq : Word)
  | muxing (seq : Word) (stream : Nat) (desc : List Byte)
  | retraining (seq : Word) (link : Fin 4)
  deriving DecidableEq, Repr

/-- One mailbox pair (Table 15.2, R555 to R559). `held` are the out-messages that wait for space, oldest first: true for
an event, and TYPE with the payload. -/
structure Pair where
  inTail : Word := 0
  outConsumed : Word := 0
  inRead : Word := 0
  outTail : Word := 0
  inSlot : Nat := 1
  outSlot : Nat := 1
  job : Option FwJob := none
  held : List (Bool × List Byte) := []
  deriving DecidableEq, Repr

/-- A collective in progress (R539). -/
structure Coll where
  pair : Fin 8
  op : Byte
  format : Byte
  parcel : Fin 8
  seq : Word
  count : Nat
  inHandle : Nat
  outHandle : Nat
  started : Long
  deriving DecidableEq, Repr

/-- A multiplexed stream (R569). -/
structure Mux where
  dev : Fin 64
  parcel : Fin 8
  queue : Fin 256
  deriving DecidableEq, Repr

/-- The FW page, the mailboxes and what firmware holds. `minor` and `translator` are the running image's message minor
version and translator version, which no field of Table 16.5 gives. -/
structure Fw where
  version : Word := 0
  half : Bool := false
  loaded : Option (List Byte) := none
  swapping : Bool := false
  swaps : BitVec 16 := 0
  refused : BitVec 16 := 0
  lastStall : BitVec 12 := 0
  msgErrors : Word := 0
  pairs : Vector Pair 8 := Vector.replicate 8 {}
  minor : Byte := 0
  translator : Word := 0
  eventsLost : Word := 0
  colls : List Coll := []
  muxes : List (Nat × Mux) := []
  muxTurn : List (Nat × Nat) := []
  muxWaiting : List (Fin 8) := []
  signing : List (Fin 8) := []
  folds : List FoldPlan := []
  deriving DecidableEq, Repr

end Sys2Proof.Machine
end

