-- ==== Sys2Proof/Machine/State.lean ====
section
/-! DEFINITION. The state of the device, the reasons a step can stop, and the state right after power-on reset. -/

namespace Sys2Proof.Machine

/-- Why the device stops with a fault. Every trap, kill and alarm of the spec is a next state of this block, so a
fault is only raised where a command names a thing no device has. -/
inductive Fault where
  /-- Raised by no command of the table: kept so that the type is closed and inhabited. Safe. -/
  | noSuchUnit
  deriving DecidableEq, Repr

/-- Why a command has no meaning. -/
inductive Refusal where
  /-- Raised by an arm of `exec` whose command has no meaning yet. Safe: nothing is concluded of it. -/
  | notModelled (mnemonic : String)
  /-- Raised by `answerIf` for a command whose operand lists have a length that no event of the device carries
  (`Instr.wf` is false, for example 31 readings of 32 sensors). Safe: the model stops. -/
  | illFormed (mnemonic : String)
  deriving DecidableEq, Repr

/-- The whole device. `pending` is the queue of commands that wait; `freeCtr` numbers the events that leave contents
undefined; both are the model's own. `checking` holds the queues whose next command the front end is checking and `checkTurn` the
queue that joined them last (R735); `lanes` how many FABRIC cycles each lane of the compressor has worked since all were idle
(R295). -/
structure State where
  pending : List Instr := []
  freeCtr : Nat := 0
  time : Long := 0
  fuses : Fuses := {}
  straps : Straps := { bootOrder := 0, refclk50 := false, hostIlv := 0 }
  pins : Pins := {}
  pages : Vector PageRegs 121 := Vector.replicate 121 {}
  bootRec : BootRecord := {}
  boot : Boot := {}
  flash : Flash := {}
  clocks : Clocks := {}
  power : Power := {}
  thermal : Thermal := {}
  ageing : Ageing := {}
  safety : Safety := {}
  diag : Diag := {}
  book : CellarBook := {}
  port : HostPort := {}
  queues : Vector Queue 256 := Vector.replicate 256 {}
  objects : List (Nat × Obj) := []
  presses : Vector Press 16 := Vector.replicate 16 {}
  failed : BitVec 16 := 0
  engines : Vector Engine 6 := Vector.replicate 6 {}
  intake : IntakeRegs := {}
  codec : Codec := {}
  pipes : Vector Pipe 16 := Vector.replicate 16 {}
  mmu : Mmu := {}
  memctl : Memctl := {}
  dram : Mem := Mem.empty
  cellar : Cellar := {}
  vine : Vine := {}
  parcels : Vector Parcel 8 := Vector.replicate 8 {}
  acct : Acct := {}
  fw : Fw := {}
  heartbeat : Word := 0
  checking : List (Fin 256) := []
  checkTurn : Fin 256 := 255
  lanes : Vector Nat 4 := Vector.replicate 4 0
  deriving DecidableEq, Repr

/-- The device right after power-on reset (R575): every register at its reset value, every memory at its unlisted
contents, no command waiting. -/
def State.reset : State := {}

end Sys2Proof.Machine
end

