-- ==== Sys2Proof/Machine/Ops.lean ====
section
/-! DEFINITION. The shared operations of every block: how a command answers, control pages by number, the log, trace and
alarm paths, error records and interrupt wires. -/

namespace Sys2Proof.Machine

/-! ### How a command answers -/

/-- A command's effect on everything but the queue: `f` runs and the waiting commands stand as they were. -/
def answer (f : State → State) (s : State) : Host.Outcome State Fault Refusal :=
  .next { f s with pending := s.pending }

/-- As `answer`, for a command whose operand lists must have the lengths that the device's events carry. -/
def answerIf (ok : Bool) (mnemonic : String) (f : State → State) (s : State) : Host.Outcome State Fault Refusal :=
  if ok then answer f s else .refused (.illFormed mnemonic)

/-- Fold an operation of the state over a list. -/
def foldState {α : Type} (f : α → State → State) : List α → State → State
  | [], s => s
  | x :: rest, s => foldState f rest (f x s)

/-- Change the state by each element in turn, up to the first that stops. -/
def foldExcept {α ε : Type} (f : State → α → Except ε State) : List α → State → Except ε State
  | [], s => .ok s
  | x :: rest, s => match f s x with
    | .error e => .error e
    | .ok s1 => foldExcept f rest s1

/-! ### Control pages (Table 20.6) -/

/-- A control page by number. -/
def page (n : Nat) : Fin 121 := Fin.ofNat 121 n

/-- DEVICE. -/
def pgDevice : Fin 121 := page 0
/-- FW. -/
def pgFw : Fin 121 := page 1
/-- BOOT. -/
def pgBoot : Fin 121 := page 2
/-- HOSTPORT. -/
def pgHostPort : Fin 121 := page 3
/-- CLOCKS. -/
def pgClocks : Fin 121 := page 4
/-- POWER. -/
def pgPower : Fin 121 := page 5
/-- THERMAL. -/
def pgThermal : Fin 121 := page 6
/-- AGEING. -/
def pgAgeing : Fin 121 := page 7
/-- SAFETY. -/
def pgSafety : Fin 121 := page 8
/-- DIAG. -/
def pgDiag : Fin 121 := page 9
/-- CBOOK. -/
def pgBook : Fin 121 := page 10
/-- VINE. -/
def pgVine : Fin 121 := page 11
/-- MMU. -/
def pgMmu : Fin 121 := page 16
/-- MEMCTL. -/
def pgMemctl : Fin 121 := page 17
/-- CELLAR. -/
def pgCellar : Fin 121 := page 18
/-- PRESSES. -/
def pgPresses : Fin 121 := page 19
/-- PRESSn. -/
def pgPress (n : Fin 16) : Fin 121 := page (20 + n.val)
/-- PIPEn. -/
def pgPipe (n : Fin 16) : Fin 121 := page (36 + n.val)
/-- CODEC. -/
def pgCodec : Fin 121 := page 58
/-- The QGRP page of a queue (R481). -/
def pgQueue (q : Fin 256) : Fin 121 := page (64 + q.val / 16)
/-- PARCELn. -/
def pgParcel (n : Fin 8) : Fin 121 := page (80 + n.val)

/-- Is the page allocated (R705)? -/
def allocated (p : Nat) : Bool := p ≤ 58 || (64 ≤ p && p ≤ 120)

/-! ### Parts of the state by number -/

/-- Press n. -/
def State.press (s : State) (n : Fin 16) : Press := vget s.presses n
/-- Change press n. -/
def State.updPress (s : State) (n : Fin 16) (f : Press → Press) : State := { s with presses := vupd s.presses n f }
/-- Queue q. -/
def State.queue (s : State) (q : Fin 256) : Queue := vget s.queues q
/-- Change queue q. -/
def State.updQueue (s : State) (q : Fin 256) (f : Queue → Queue) : State := { s with queues := vupd s.queues q f }
/-- Pipeline n. -/
def State.pipe (s : State) (n : Fin 16) : Pipe := vget s.pipes n
/-- Change pipeline n. -/
def State.updPipe (s : State) (n : Fin 16) (f : Pipe → Pipe) : State := { s with pipes := vupd s.pipes n f }
/-- Parcel n. -/
def State.parcel (s : State) (n : Fin 8) : Parcel := vget s.parcels n
/-- Change parcel n. -/
def State.updParcel (s : State) (n : Fin 8) (f : Parcel → Parcel) : State := { s with parcels := vupd s.parcels n f }
/-- Engine e: 0 to 4 by number (R180), 5 the compressor. -/
def State.engine (s : State) (e : Fin 6) : Engine := vget s.engines e
/-- Change engine e. -/
def State.updEngine (s : State) (e : Fin 6) (f : Engine → Engine) : State := { s with engines := vupd s.engines e f }
/-- Vine link i. -/
def State.link (s : State) (i : Fin 4) : Link := vget s.vine.links i
/-- Change Vine link i. -/
def State.updLink (s : State) (i : Fin 4) (f : Link → Link) : State :=
  { s with vine := { s.vine with links := vupd s.vine.links i f } }
/-- Mailbox pair p. -/
def State.pair (s : State) (p : Fin 8) : Pair := vget s.fw.pairs p
/-- Change mailbox pair p. -/
def State.updPair (s : State) (p : Fin 8) (f : Pair → Pair) : State :=
  { s with fw := { s.fw with pairs := vupd s.fw.pairs p f } }
/-- Change the common registers of a page. -/
def State.updPage (s : State) (p : Fin 121) (f : PageRegs → PageRegs) : State := { s with pages := vupd s.pages p f }
/-- Change one alarm slot. -/
def State.updSlot (s : State) (k : Fin 134) (f : AlarmSlot → AlarmSlot) : State :=
  { s with safety := { s.safety with slots := vupd s.safety.slots k f } }
/-- PRESSES.ENABLED.MASK (Table 3.10): fused and not failed. -/
def enabledMask (s : State) : BitVec 16 := s.fuses.pressMask &&& ~~~ s.failed

/-- Is the press enabled? -/
def enabled (s : State) (p : Fin 16) : Bool := (enabledMask s).getLsbD p.val

/-- The presses of a 16-bit mask, in rising order. -/
def maskPresses (m : BitVec 16) : List (Fin 16) := (List.finRange 16).filter fun p => m.getLsbD p.val

/-- Number of 1 bits. -/
def popCount {n : Nat} (m : BitVec n) : Nat := (List.range n).countP fun i => m.getLsbD i

/-- This device's number, SYSTEM.SELF. -/
def self (s : State) : Nat := s.port.self.toNat

/-- Is this device the lead, device 0 (R514 of the system chapter: the device on the host's memory channels)? -/
def isLead (s : State) : Bool := s.port.self = 0

/-! ### Routes of the torus (R523, R525) -/

/-- R525: the link on which a flit leaves device `at_` for a device of an R × C torus: along the row first, by the shorter way,
east or south when both are equal; none when the flit is there, or the torus holds no such device. -/
def routeFrom (rows cols at_ dest : Nat) : Option (Fin 4) :=
  let dc := (dest % cols + cols - at_ % cols) % cols
  let dr := (dest / cols + rows - at_ / cols) % rows
  if rows * cols ≤ 1 ∨ rows * cols ≤ dest then none
  else if dc ≠ 0 then some (if dc ≤ cols - dc then 0 else 1)
  else if dr ≠ 0 then some (if dr ≤ rows - dr then 2 else 3)
  else none

/-- R523: the device at the far end of a link. -/
def neighbour (rows cols at_ : Nat) (out : Fin 4) : Nat :=
  let r := at_ / cols
  let c := at_ % cols
  match out.val with
  | 0 => r * cols + (c + 1) % cols
  | 1 => r * cols + (c + cols - 1) % cols
  | 2 => (r + 1) % rows * cols + c
  | _ => (r + rows - 1) % rows * cols + c

/-- R523: the number that a link has at its far end. -/
def farLink (out : Fin 4) : Fin 4 := match out.val with
  | 0 => 1
  | 1 => 0
  | 2 => 3
  | _ => 2

/-- R522: does the fixed route from one device to another cross a link, named from either end? A route has at most 8 hops. -/
def routeCrosses (rows cols : Nat) : Nat → Nat → Nat → Nat → Fin 4 → Bool
  | 0, _, _, _, _ => false
  | fuel + 1, at_, dest, dev, link =>
    match routeFrom rows cols at_ dest with
    | none => false
    | some o =>
      let next := neighbour rows cols at_ o
      (decide (at_ = dev) && decide (o = link)) || (decide (next = dev) && decide (farLink o = link)) ||
        routeCrosses rows cols fuel next dest dev link

/-- R525: the link on which a flit for a device leaves this one. -/
def routeOut (s : State) (dest : Nat) : Option (Fin 4) := routeFrom s.vine.rows.toNat s.vine.cols.toNat (self s) dest

/-- Does the route from this device to another cross a link of a device? -/
def crosses (s : State) (dest dev : Nat) (link : Fin 4) : Bool :=
  routeCrosses s.vine.rows.toNat s.vine.cols.toNat 9 (self s) dest dev link

/-- R442: the lead loses devices: their slots are absent and their echo out of step until each has pushed a full copy again. -/
def loseDevices (gone : List Nat) (s : State) : State :=
  { s with port := { s.port with
    lost := (s.port.lost ++ gone).eraseDups, synced := s.port.synced && gone.isEmpty
    copies := s.port.copies.filter fun c => !gone.contains c.1 } }

/-! ### Vine links (R517 to R521) -/

/-- Number one more event that leaves contents undefined. -/
def State.bump (s : State) : State := { s with freeCtr := s.freeCtr + 1 }

/-- Record what the device puts on its links. -/
def State.emit (s : State) (m : VineMsg) : State := { s with vine := { s.vine with outbox := s.vine.outbox ++ [m] } }

/-- The class by which a link arbitrates a flit (Table 14.1); a reserved code counts as COLLECTIVE, the lowest. -/
def flitClass (body : List Byte) : Nat :=
  if fieldNat body 0 1 = 0 then 0 else if fieldNat body 0 1 = 1 then 1 else 2

/-- R518: the class whose turn it is: SYNC first, then CTRL, which while COLLECTIVE flits wait takes at most one flit in four. -/
def nextClass (l : Link) : Nat :=
  let waits (c : Nat) : Bool := l.backlog.any fun f => flitClass f.body = c
  if waits 0 then 0 else if waits 1 && (!waits 2 || decide (3 ≤ l.ctrlGap)) then 1 else 2

/-- The oldest waiting flit of a class, and those that go on waiting. -/
def takeFlit (cls : Nat) : List WaitingFlit → Option (WaitingFlit × List WaitingFlit)
  | [] => none
  | f :: rest =>
    if flitClass f.body = cls then some (f, rest)
    else (takeFlit cls rest).map fun x => (x.1, f :: x.2)

/-- A flit as it leaves the link: its header fields and payload, LSEQ, ACK and CRC (Table 14.1). -/
def formFlit (l : Link) (body : List Byte) : List Byte :=
  let h := body.take 4 ++ leBytes 4 l.txNext.toNat ++ leBytes 4 (l.rxNext - 1).toNat ++ (body.drop 4).take 240
  h ++ leBytes 4 (crc32 h).toNat

/-- Does a link carry flits: UP, or before step VINE, when the ROM has trained it (R589)? -/
def linkCarries (s : State) (i : Fin 4) : Bool := (s.link i).state = 2 || decide (s.boot.nextStep < 11)

/-- Transmit one flit: it takes the next sequence number and stays in the replay buffer until it is acknowledged. -/
def transmit (i : Fin 4) (body : List Byte) (s : State) : State :=
  let l := s.link i
  let f := formFlit l body
  let gap := if fieldNat body 0 1 = 1 then 0 else min 3 (l.ctrlGap + 1)
  (s.updLink i fun l => { l with txNext := l.txNext + 1, replay := l.replay ++ [(l.txNext, f)], ctrlGap := gap }).emit
    (.flit i l.txNext f)

/-- A flit that carries no message: an IDLE flit (R518) or a calibration flit (R521); TYPE, DEST and payload are free. -/
def fillerFlit (s : State) : List Byte :=
  [3, Config.freeByte s.freeCtr 1, Config.freeByte s.freeCtr 2, BitVec.ofNat 8 (self s)] ++
    (List.range 240).map fun i => Config.freeByte s.freeCtr (12 + i)

/-- R521: is the flit of a sequence number the 1,024th of its run, in whose place a calibration flit travels? -/
def calibrates (lseq : Word) : Bool := decide (lseq.toNat % 1024 = 1023)

/-- Send what waits while the link carries flits and its replay buffer of 128 has room: a calibration flit in its place of the
schedule (R521), otherwise the class whose turn it is. -/
def pumpLink : Nat → Fin 4 → State → State
  | 0, _, s => s
  | fuel + 1, i, s =>
    let l := s.link i
    if !linkCarries s i || decide (128 ≤ l.replay.length) then s
    else match takeFlit (nextClass l) l.backlog with
    | none => s
    | some (f, rest) =>
      if calibrates l.txNext then pumpLink fuel i (transmit i (fillerFlit s) s.bump)
      else pumpLink fuel i (transmit i f.body (s.updLink i fun l => { l with backlog := rest }))

/-- R518: an IDLE flit fills the slot after a flit that was received, when nothing else waits for it, and carries the
acknowledgement back (DESIGN CHOICE, log entry 43: further idle slots are timing). -/
def sendIdle (i : Fin 4) (s : State) : State :=
  let l := s.link i
  if linkCarries s i && l.backlog.isEmpty && decide (l.replay.length < 128) then transmit i (fillerFlit s) s.bump else s

/-- R518: the virtual channel of a flit that leaves on a link: the second one from the dateline of the ring on, which each ring
has between its highest and its lowest position (DESIGN CHOICE, log entry 43). -/
def flitVc (s : State) (out : Fin 4) (src : Nat) : Bool :=
  let cols := s.vine.cols.toNat
  match out.val with
  | 0 => decide (self s % cols < src % cols)
  | 1 => decide (src % cols < self s % cols)
  | 2 => decide (self s / cols < src / cols)
  | _ => decide (src / cols < self s / cols)

/-- A flit joins those that leave on a link. -/
def queueFlit (i : Fin 4) (body : List Byte) (s : State) : State :=
  pumpLink 256 i (s.updLink i fun l => { l with
    backlog := l.backlog ++ [{ vc := flitVc s i (fieldNat body 3 1 % 64), body := body }] })

/-- CLASS of a message's flits where the spec names it (R436, R437, R441, R528, R533, R540); the news of host sleep stays
behind forwarded writes, so it shares their class (R447). -/
def VineMsg.cls : VineMsg → Option Nat
  | .arrival _ _ | .time _ => some 0
  | .forwarded _ | .echo _ _ _ | .hostSleep _ _ => some 1
  | .collective _ _ => some 2
  | _ => none

/-- Bytes of content that a message carries. -/
def VineMsg.bytes : VineMsg → Nat
  | .collective _ data => data.length
  | .image _ cfg img => cfg.length + img.length
  | _ => 240

/-- R517: how many flits of 240 payload bytes a message takes. -/
def VineMsg.flits (m : VineMsg) : Nat := max 1 ((m.bytes + 239) / 240)

/-- A flit of a message to a device: TYPE and PAYLOAD, and a CLASS the spec does not name, are free. -/
def messageFlit (s : State) (m : VineMsg) (dest : Nat) : List Byte :=
  let cls : Nat := m.cls.getD ((Config.freeByte s.freeCtr 0).toNat % 3)
  [BitVec.ofNat 8 cls, Config.freeByte s.freeCtr 1, BitVec.ofNat 8 dest, BitVec.ofNat 8 (self s)] ++
    (List.range 240).map fun i => Config.freeByte s.freeCtr (12 + i)

/-- The flits of a message leave on a link. -/
def queueMessage (i : Fin 4) (m : VineMsg) (dest : Nat) (s : State) : State :=
  foldState (fun _ s => queueFlit i (messageFlit s m dest) s.bump) (List.range m.flits) s

/-- The devices that a message is for. -/
def msgDests (s : State) (m : VineMsg) : List Nat :=
  let others := (List.range s.port.devices.toNat).filter fun d => decide (d ≠ self s)
  match m with
  | .arrival _ _ | .echo _ _ _ => [0]
  | .release _ _ _ | .abort _ _ | .time _ | .safeNotice | .number _ _ | .echoConfig _ | .collective _ _ => others
  | .forwarded ws => (ws.head?.map fun w => w.dev.val).toList
  | .hostSleep d _ => [d.val]
  | _ => []

/-- Put a message on the Vine links: it is recorded, and its flits for each device it is for leave on that device's route. A
system of one device puts nothing on its links (R49). -/
def State.send (s : State) (m : VineMsg) : State :=
  if s.port.devices.toNat ≤ 1 then s
  else foldState (fun d s => match routeOut s d with
    | none => s
    | some i => queueMessage i m d s) (msgDests s m) (s.emit m)

/-- Put a message on one link, for whatever device is at its far end: DEST is free. -/
def State.sendOn (s : State) (i : Fin 4) (m : VineMsg) : State :=
  queueMessage i m ((Config.freeByte s.freeCtr 2).toNat % 64) (s.emit m)

/-! ### Echoed units (R439 to R442, R444) -/

/-- Entry of a control page in an echo configuration: 0 for page 0, else the first valid ECHO_PAGEi that names it. -/
def echoEntry (e : EchoCfg) (p : Nat) : Option Nat :=
  if p = 0 then some 0
  else ((List.finRange 16).find? fun i => i ≠ 0 && vget e.pageValid i && decide ((vget e.pageNo i).toNat = p)).map fun i => i.val

/-- R440: where a slot offset lies in its device's echo; none when it is not echoed. -/
def echoPos (e : EchoCfg) (off : Nat) : Option Nat :=
  let logs := e.queues.toNat * 4096
  let pair := (off - 0x400000) / 0x20000
  if off < 0x400000 then
    (echoEntry e (off / 4096)).map fun i => logs + e.mbox.toNat * 65536 + i * 4096 + off % 4096
  else if off < 0x500000 then
    if (off - 0x400000) / 0x10000 % 2 = 1 && decide (pair < e.mbox.toNat) then some (logs + pair * 65536 + off % 65536) else none
  else if off < 0x500000 + logs then some (off - 0x500000)
  else none

/-- R441, R444: a remote device notes that echoed units changed, in order; the last one carries the event, if there is one. What
is not echoed is not pushed, and its event counts on no wire. -/
def noteEcho (off len : Nat) (event : Option (BitVec 2)) (s : State) : State :=
  if isLead s then s
  else
    let units := (List.range ((off % 32 + len + 31) / 32)).map fun k => off / 32 + k
    let echoed := units.filter fun u => (echoPos s.port.echo.live (u * 32)).isSome
    let last := echoed.length - 1
    { s with port := { s.port with
      pushes := s.port.pushes ++ echoed.zipIdx.map fun u => (u.1, if u.2 = last then event else none) } }

/-! ### Slot offsets of the window SRAM (Table 11.4) -/

/-- Mailbox-in area of a pair. -/
def inArea (p : Fin 8) : Nat := 0x400000 + p.val * 0x20000
/-- Mailbox-out area of a pair. -/
def outArea (p : Fin 8) : Nat := 0x400000 + p.val * 0x20000 + 0x10000
/-- Cork log of a queue. -/
def corkLog (q : Fin 256) : Nat := 0x500000 + q.val * 0x1000
/-- Ring of a queue. -/
def ringBase (q : Fin 256) : Nat := 0x600000 + q.val * 0x8000
/-- Staging offset 0. -/
def stagingBase : Nat := 0x1000000
/-- Size of staging SRAM. -/
def stagingSize : Nat := 0x1800000

/-- Change the window SRAM. -/
def State.updWindow (s : State) (f : Mem → Mem) : State := { s with port := { s.port with window := f s.port.window } }

/-! ### Records of Table 19.2 -/

/-- The 32 bytes of an event record. -/
def eventRecord (time : Long) (seq : Word) (source kind : Nat) (code : BitVec 16) (count : Nat) (data : List Byte) :
    List Byte :=
  leBytes 8 time.toNat ++ leBytes 4 seq.toNat ++ leBytes 1 source ++ leBytes 1 kind ++ leBytes 2 code.toNat ++
    leBytes 4 count ++ (data ++ List.replicate 12 0).take 12

/-- A free 12-byte DATA field: the spec gives log and trace records no layout of it. -/
def freeData (s : State) : List Byte := (List.range 12).map fun i => Config.freeByte s.freeCtr i

/-- R551: an event after which the bound of R550 does not hold. -/
def setTimingBroken (s : State) : State := { s with vine := { s.vine with timingBroken := true } }

/-- Take the next event number (Table 19.2 SEQ). -/
def State.nextSeq (s : State) : State := { s with book := { s.book with eventSeq := s.book.eventSeq + 1 } }

/-- R688, R689: write a record to the cellar book, or count it as missed while the book is frozen. -/
def bookPut (rec : List Byte) (s : State) : State :=
  let b := s.book
  if b.frozen then { s with book := { b with missed := satInc b.missed 1 } }
  else { s with book := { b with
    records := putKey b.records b.next.toNat rec
    next := b.next + 1
    wrapped := b.wrapped || b.next = 0x7FF } }

/-! ### Log and trace paths (R684 to R686) -/

/-- R684: a source adds a log event; a third waiting event of one source is dropped and counted. -/
def logEvent (source : Nat) (code : BitVec 16) (s : State) : State :=
  let src : Fin 64 := Fin.ofNat 64 source
  let d := s.diag
  if (d.waiting.countP fun e => e.source = src) < 2 then
    { s.bump with diag := { d with
      waiting := d.waiting ++ [{ source := src, code := code, time := s.time, data := freeData s }] } }
  else { s with diag := { d with loss := vupd d.loss src fun l => satInc l 1 } }

/-- The trace ring in force. -/
def traceRing (s : State) : RingCfg := s.diag.rings.live.2

/-- The log ring in force. -/
def logRing (s : State) : RingCfg := s.diag.rings.live.1

/-- Capacity of a ring in records. -/
def RingCfg.capacity (r : RingCfg) : Nat := r.size.toNat * 2048

/-- Slot offset of record n of a ring. -/
def RingCfg.place (r : RingCfg) (n : Nat) : Nat := stagingBase + r.base.toNat * 65536 + 32 * (n % r.capacity)

/-- R686: a trace source counts its events and emits one record for every 2^SHIFT of them. -/
def traceEvent (source : Nat) (code : BitVec 16) (s : State) : State :=
  let src : Fin 64 := Fin.ofNat 64 source
  let d := s.diag
  let r := traceRing s
  let n := vget d.traceCount src + 1
  if n < 2 ^ r.shift.toNat then { s with diag := { d with traceCount := vset d.traceCount src n } }
  else
    let s1 := { s with diag := { d with traceCount := vset d.traceCount src 0 } }
    if r.size = 0 then s1
    else
      let rec32 := eventRecord s.time s.book.eventSeq src.val 4 code 1 (freeData s)
      let s2 := s1.nextSeq.bump.updWindow fun m => m.writeBytes (r.place d.traceWrite.toNat) rec32
      { s2 with diag := { s2.diag with traceWrite := d.traceWrite + 1 } }

/-! ### Alarms (Table 19.1, R666) -/

/-- Class of an alarm key. -/
def keyClass (k : Nat) : Nat :=
  if k ≤ 0x23 then 0 else if k ≤ 0x49 then 1 else if k = 0x4A then 2 else if k = 0x4B then 3
  else if k ≤ 0x80 then 4 else 5

/-- Is the key fatal: FABRIC and CTRL clocks, REFCLK, CORE, SRAM and AON supplies, TT_UE, FW_SRAM_UE, LOCKSTEP,
BUS_TIMEOUT? -/
def keyFatal (k : Nat) : Bool :=
  k = 1 || k = 2 || k = 9 || k = 0x14 || k = 0x15 || k = 0x16 || k = 0x45 || k = 0x47 || k = 0x4A || k = 0x4B

/-- The SOURCE code of Table 19.2 of the block that raises a key (DEDUCED, log entry 12). -/
def keySource (k : Nat) : Nat :=
  if k ≤ 0x23 then 0x1F else if k ≤ 0x33 then k - 0x24 else if k = 0x34 then 0x16
  else if k ≤ 0x44 then 0x1E else if k = 0x45 then 0x1D else if k = 0x46 then 0x1C else if k ≤ 0x4B then 0x3E
  else if k ≤ 0x5B then k - 0x4C else if k ≤ 0x60 then 0x10 + (k - 0x5C) else if k ≤ 0x70 then k - 0x61
  else if k ≤ 0x80 then k - 0x71 else 0x3E

/-- R666: a source raises a key; the count saturates at 0xFFFF and the data of the first raise stand. -/
def raiseKey (k : Nat) (data : Word) (s : State) : State :=
  s.updSlot (Fin.ofNat 134 k) fun a =>
    { a with raised := satInc a.raised 1, raisedData := if a.raised = 0 then data else a.raisedData }

/-! ### Interrupt wires (R443, R444) -/

/-- R444: RAISED of wire w rises by 1, on the lead and outside the safe state (R672). -/
def raiseWire (w : BitVec 2) (s : State) : State :=
  if s.safety.safe || !isLead s then s
  else { s with port := { s.port with
    wires := vupd s.port.wires w.toFin fun x => { x with raised := x.raised + 1 } } }

/-- Is IRQ_N[w] asserted (R443)? -/
def irqN (s : State) (w : Fin 4) : Bool :=
  isLead s && decide ((vget s.port.wires w).raised ≠ (vget s.port.wires w).acked)

/-- Is ALARM_N asserted (R667, R670)? -/
def alarmN (s : State) : Bool :=
  s.pins.alarm || s.safety.safe || s.boot.halted || s.safety.slots.toList.any fun a => a.pending

/-! ### Error records (R703) -/

/-- The SOURCE code of a writer (R703, Table 19.2). -/
def writerCode : Writer → Byte
  | .host => 0x40
  | .hart n => BitVec.ofNat 8 (0x3A + n.val)
  | .safetyPair => 0x3E

/-- The SOURCE code of a page's block (DEDUCED from Table 19.2, log entry 12). -/
def pageSource (p : Fin 121) : Nat :=
  let n := p.val
  if n = 1 then 0x3A else if n = 2 then 0x3F else if n = 3 then 0x1C
  else if n = 4 ∨ n = 5 ∨ n = 6 ∨ n = 7 then 0x1F
  else if n = 11 then 0x18 else if n = 16 then 0x1D else if n = 17 then 0x1E else if n = 18 then 0x16
  else if 36 ≤ n ∧ n ≤ 51 then 0x20 + (n - 36)
  else if 64 ≤ n then 0x38 else 0x3E

/-- R703: record an error on a page, or count it as lost, set IRQ_RAW.ERROR and write a log-path event. -/
def pageError (p : Fin 121) (code : BitVec 16) (info : Word) (addr : Long) (src : Byte) (s : State) : State :=
  let s1 := s.updPage p fun r =>
    if r.errValid then { r with irqError := true, errLost := satInc r.errLost 1 }
    else { r with irqError := true, errCode := code, errValid := true, errInfo := info, errAddr := addr,
                  errTime := s.time, errSrc := src }
  logEvent (pageSource p) code s1

/-- R444: the event of a host port error while ERR_IRQ.EN is 1: a wire of the lead, or the echo of the error record, which lies
at 0x020 to 0x03F of the HOSTPORT page. -/
def errorWire (s : State) : State :=
  if !s.port.errEn then s
  else if isLead s then raiseWire s.port.errWire s
  else if s.safety.safe then s
  else noteEcho 0x3020 32 (some s.port.errWire) s

/-- R450: record a host port error at a window address, count it, and raise its event. -/
def hostError (code : BitVec 16) (w : Nat) (s : State) : State :=
  let s1 := pageError pgHostPort code 0 (BitVec.ofNat 64 w) 0x40 s
  errorWire { s1 with port := { s1.port with errCount := satInc s1.port.errCount 1 } }

/-- Window address of an offset in this device's own slot (R422). -/
def ownAddress (s : State) (offset : Nat) : Nat := self s * 2 ^ 27 + offset

/-! ### Clocks as numbers -/

/-- Frequency in kHz that a domain runs at: its PLL, REFCLK, or the fall-back clock. -/
def domainKhz (s : State) (d : Fin 9) : Nat :=
  let pll (p : Fin 9) : Nat := (vget s.clocks.plls p).cfg.live.khz.toNat
  match (vget s.clocks.doms d).src.toNat with
  | 0 => 0
  | 1 => if s.straps.refclk50 then 50000 else 25000
  | 2 => if d.val = 0 then s.power.arithMhz.toNat * 1000 else pll d
  | _ => pll 1 / (vget s.clocks.plls 1).cfg.live.fallbackDiv.toNat

/-- FABRIC cycles in a time given in ns. -/
def fabricCycles (s : State) (ns : Nat) : Nat := ns * domainKhz s 1 / 1000000

/-- Nanoseconds from an earlier global time to now. -/
def elapsed (s : State) (t : Long) : Nat := (s.time - t).toNat

end Sys2Proof.Machine
end

