-- ==== Sys2Proof/Machine/Nor.lean ====
section
/-! DEFINITION. How the boot flash reads: slot state words, the selector journal, sequence comparison (R472, R597 to
R599). -/

namespace Sys2Proof.Machine

/-- R472: sequence number a is earlier than b. -/
def earlier (a b : Word) : Bool := 1 ≤ (b - a).toNat && (b - a).toNat < 2 ^ 31

/-- R597: the state a state word reads as, in the codes of NOR_STATUS.STATE_A. -/
def norState (w : Word) : Nat :=
  if w = 0 then 4 else if w.toNat % 2 ^ 24 = 0 then 3 else if w.toNat % 2 ^ 16 = 0 then 2
  else if w.toNat % 2 ^ 8 = 0 then 1 else 0

/-- The state word of a state code. -/
def norWord (code : Nat) : Word :=
  match code with
  | 0 => 0xFFFFFFFF | 1 => 0xFFFFFF00 | 2 => 0xFFFF0000 | 3 => 0xFF000000 | _ => 0

/-- R598: the selector is the valid record with the latest SEQ. -/
def selectorOf : List Selector → Option Selector
  | [] => none
  | r :: rest =>
    match selectorOf rest with
    | none => some r
    | some t => if earlier t.seq r.seq then some r else some t

/-- The selected slot: A with no valid selector (R599). -/
def selectedSlot (f : Flash) : Fin 2 :=
  match selectorOf f.journal with
  | none => 0
  | some r => if r.slot then 1 else 0

/-- TRIAL of the selector. -/
def selectorTrial (f : Flash) : Bool := ((selectorOf f.journal).map fun r => r.trial).getD false

/-- The other slot. -/
def otherSlot (x : Fin 2) : Fin 2 := if x = 0 then 1 else 0

/-- Append a selector record: its SEQ follows the latest (R598). -/
def appendSelector (slot : Fin 2) (trial : Bool) (f : Flash) : Flash :=
  let seq := ((selectorOf f.journal).map fun r => r.seq + 1).getD 0
  { f with journal := f.journal ++ [{ seq := seq, slot := slot = 1, trial := trial }] }

/-- State of a slot. -/
def slotState (f : Flash) (x : Fin 2) : Nat := norState (vget f.slots x).state

end Sys2Proof.Machine
end

