-- ==== Sys2Proof/Machine/Float.lean ====
section
/-! DEFINITION. Number formats (Table 2.1), exact values and the one rounding of the device (R50 to R68). A value is
held exactly; every narrowing goes through `roundFloat`, `toFormat` or `roundInt`. -/

namespace Sys2Proof.Machine

/-! ### Values -/

/-- A value: NaN, an infinity, or (−1)^neg × m × 2^e. -/
inductive Val where
  | nan
  | inf (neg : Bool)
  | fin (neg : Bool) (m : Nat) (e : Int)
  deriving DecidableEq, Repr

/-- +0. -/
def Val.zero : Val := .fin false 0 0

/-- An integer as a value. -/
def Val.ofInt (i : Int) : Val := .fin (decide (i < 0)) i.natAbs 0

/-- The value with its sign turned. -/
def Val.neg : Val → Val
  | .nan => .nan
  | .inf s => .inf (!s)
  | .fin s m e => .fin (!s) m e

/-- The signed mantissa at a lower exponent `k`. -/
def alignTo (k : Int) (s : Bool) (m : Nat) (e : Int) : Int :=
  let a : Int := (m * 2 ^ (e - k).toNat : Nat)
  if s then -a else a

/-- Exact sum (R55, R67): an exact zero is +0 unless both addends are −0. -/
def Val.add : Val → Val → Val
  | .nan, _ => .nan
  | _, .nan => .nan
  | .inf s, .inf t => if s = t then .inf s else .nan
  | .inf s, .fin .. => .inf s
  | .fin .., .inf t => .inf t
  | .fin s m e, .fin t n f =>
    let k := min e f
    let v := alignTo k s m e + alignTo k t n f
    if v = 0 then .fin (s && t) 0 0 else .fin (decide (v < 0)) v.natAbs k

/-- Exact product (R67): zero times infinity is invalid. -/
def Val.mul : Val → Val → Val
  | .nan, _ => .nan
  | _, .nan => .nan
  | .inf s, .inf t => .inf (s ^^ t)
  | .inf s, .fin t n _ => if n = 0 then .nan else .inf (s ^^ t)
  | .fin s m _, .inf t => if m = 0 then .nan else .inf (s ^^ t)
  | .fin s m e, .fin t n f => .fin (s ^^ t) (m * n) (e + f)

/-- Quotient (R67) to at least 64 bits with a last bit that says whether anything remains, so that rounding it to any
format of the device rounds the exact quotient. -/
def Val.div : Val → Val → Val
  | .nan, _ => .nan
  | _, .nan => .nan
  | .inf _, .inf _ => .nan
  | .inf s, .fin t _ _ => .inf (s ^^ t)
  | .fin s _ _, .inf t => .fin (s ^^ t) 0 0
  | .fin s m e, .fin t n f =>
    if n = 0 then (if m = 0 then .nan else .inf (s ^^ t))
    else
      let k := 64 + Nat.log2 n
      let q := m * 2 ^ k / n
      let sticky := if m * 2 ^ k % n = 0 then 0 else 1
      .fin (s ^^ t) (2 * q + sticky) (e - f - k - 1)

/-- Is the value a NaN? -/
def Val.isNan : Val → Bool
  | .nan => true
  | _ => false

/-- Is the value zero of either sign? -/
def Val.isZero : Val → Bool
  | .fin _ m _ => m = 0
  | _ => false

/-- Ordering of two values that are no NaN: the sign of x − y. -/
def Val.cmp : Val → Val → Int
  | .inf s, .inf t => if s = t then 0 else if s then -1 else 1
  | .inf s, _ => if s then -1 else 1
  | _, .inf t => if t then 1 else -1
  | .fin s m e, .fin t n f =>
    let k := min e f
    let v := alignTo k s m e - alignTo k t n f
    if v < 0 then -1 else if v = 0 then 0 else 1
  | _, _ => 0

/-- x > y; false when either is a NaN (R128). -/
def Val.gt (x y : Val) : Bool := !x.isNan && !y.isNan && decide (0 < x.cmp y)
/-- x ≥ y; false when either is a NaN. -/
def Val.ge (x y : Val) : Bool := !x.isNan && !y.isNan && decide (0 ≤ x.cmp y)
/-- x = y; +0 equals −0; false when either is a NaN. -/
def Val.eqv (x y : Val) : Bool := !x.isNan && !y.isNan && decide (x.cmp y = 0)

/-- Sign of a value; of a NaN, false. -/
def Val.sign : Val → Bool
  | .nan => false
  | .inf s => s
  | .fin s _ _ => s

/-- MAX of Table 3.5: NaN if either is; +0 of two zeros of opposite sign. -/
def Val.max (x y : Val) : Val :=
  if x.isNan || y.isNan then .nan
  else if x.isZero && y.isZero then .fin (x.sign && y.sign) 0 0
  else if x.ge y then x else y

/-- MIN of Table 3.5: NaN if either is; −0 of two zeros of opposite sign. -/
def Val.min (x y : Val) : Val :=
  if x.isNan || y.isNan then .nan
  else if x.isZero && y.isZero then .fin (x.sign || y.sign) 0 0
  else if x.ge y then y else x

/-! ### Floating-point formats -/

/-- A floating-point format: mantissa bits, exponent bits, whether the all-ones exponent means infinity and NaN (not on
E4M3), and the NaN the device writes (Table 2.2). -/
structure FloatFmt where
  m : Nat
  eb : Nat
  hasInf : Bool
  nan : Nat
  deriving DecidableEq, Repr

/-- FP8 E4M3. -/
def e4m3 : FloatFmt := { m := 3, eb := 4, hasInf := false, nan := 0x7F }
/-- FP8 E5M2. -/
def e5m2 : FloatFmt := { m := 2, eb := 5, hasInf := true, nan := 0x7E }
/-- FP16. -/
def fp16 : FloatFmt := { m := 10, eb := 5, hasInf := true, nan := 0x7E00 }
/-- BF16. -/
def bf16 : FloatFmt := { m := 7, eb := 8, hasInf := true, nan := 0x7FC0 }
/-- FP32. -/
def fp32 : FloatFmt := { m := 23, eb := 8, hasInf := true, nan := 0x7FC00000 }

/-- Exponent bias. -/
def FloatFmt.bias (f : FloatFmt) : Nat := 2 ^ (f.eb - 1) - 1

/-- Exponent of the unit of the smallest subnormal. -/
def FloatFmt.emin (f : FloatFmt) : Int := 1 - (f.bias : Int) - f.m

/-- Mantissa and exponent of the largest finite value: on E4M3 the all-ones exponent holds finite values too. -/
def FloatFmt.largest (f : FloatFmt) : Nat × Int :=
  if f.hasInf then (2 ^ (f.m + 1) - 1, (f.bias : Int) - f.m) else (2 ^ (f.m + 1) - 2, (f.bias : Int) + 1 - f.m)

/-- The value of a code (R52, R53). -/
def FloatFmt.decode (f : FloatFmt) (code : Nat) : Val :=
  let mant := code % 2 ^ f.m
  let ex := code / 2 ^ f.m % 2 ^ f.eb
  let s := decide (code / 2 ^ (f.m + f.eb) % 2 = 1)
  if ex = 2 ^ f.eb - 1 ∧ f.hasInf then (if mant = 0 then .inf s else .nan)
  else if ex = 2 ^ f.eb - 1 ∧ mant = 2 ^ f.m - 1 then .nan
  else if ex = 0 then .fin s mant f.emin
  else .fin s (2 ^ f.m + mant) (f.emin + ex - 1)

/-- R64: round m × 2^e to `p` bits with no unit below `emin`, ties to the greater magnitude. -/
def roundMag (p : Nat) (emin : Int) (m : Nat) (e : Int) : Nat × Int :=
  if m = 0 then (0, emin)
  else
    let t := max (e + (Nat.log2 m + 1 : Nat) - p) emin
    if t ≤ e then (m * 2 ^ (e - t).toNat, t)
    else
      let d := (t - e).toNat
      let q := (m + 2 ^ (d - 1)) / 2 ^ d
      if q = 2 ^ p then (2 ^ (p - 1), t + 1) else (q, t)

/-- R64 to R66: round to a format's values. A finite overflow becomes the largest finite value in saturate mode; in
IEEE mode it becomes infinity, or NaN where the format has none. An infinity stays one. -/
def roundFloat (f : FloatFmt) (ieee : Bool) : Val → Val
  | .nan => .nan
  | .inf s => .inf s
  | .fin s m e =>
    let r := roundMag (f.m + 1) f.emin m e
    let top := f.largest
    if top.2 < r.2 ∨ (r.2 = top.2 ∧ top.1 < r.1) then
      if ieee then (if f.hasInf then .inf s else .nan) else .fin s top.1 top.2
    else .fin s r.1 r.2

/-- rnd32: rounding to FP32 under the operation's mode. -/
def rnd32 (ieee : Bool) (v : Val) : Val := roundFloat fp32 ieee v

/-- The code of a value that the format holds. -/
def FloatFmt.encode (f : FloatFmt) (v : Val) : Nat :=
  match v with
  | .nan => f.nan
  | .inf s => (if s then 2 ^ (f.m + f.eb) else 0) + (2 ^ f.eb - 1) * 2 ^ f.m
  | .fin s m e =>
    let r := roundMag (f.m + 1) f.emin m e
    let sg := if s then 2 ^ (f.m + f.eb) else 0
    if r.1 < 2 ^ f.m then sg + r.1 else sg + (r.2 - f.emin + 1).toNat * 2 ^ f.m + (r.1 - 2 ^ f.m)

/-- R65, R66, R69: convert a value to a floating-point output format and encode it. An infinity becomes the largest
finite value in saturate mode, and NaN in IEEE mode where the format has no infinity. -/
def toFormat (f : FloatFmt) (ieee : Bool) (v : Val) : Nat :=
  match roundFloat f ieee v with
  | .inf s =>
    if !ieee then f.encode (.fin s f.largest.1 f.largest.2)
    else if f.hasInf then f.encode (.inf s) else f.nan
  | other => f.encode other

/-- R64: the nearest integer to a finite value, ties to the greater magnitude. -/
def roundFinite (s : Bool) (m : Nat) (e : Int) : Int :=
  let q : Nat := if 0 ≤ e then m * 2 ^ e.toNat else (m + 2 ^ ((-e).toNat - 1)) / 2 ^ (-e).toNat
  if s then -(q : Int) else q

/-- Limit an integer to a range. -/
def clampInt (lo hi x : Int) : Int := if x < lo then lo else if hi < x then hi else x

/-- R68: round to an integer, add `z` exactly, and saturate; a NaN gives sat(z), an infinity an end of the range. -/
def roundInt (lo hi z : Int) : Val → Int
  | .nan => clampInt lo hi z
  | .inf s => if s then lo else hi
  | .fin s m e => clampInt lo hi (roundFinite s m e + z)

/-! ### The eleven formats by index -/

/-- Bits of an element (Table 2.1). -/
def fmtBits (i : Nat) : Nat :=
  match i with
  | 0 | 1 | 4 | 5 => 8
  | 2 | 9 | 10 => 4
  | 3 | 6 | 7 => 16
  | _ => 32

/-- Is the format an integer format? -/
def isIntFmt (i : Nat) : Bool := i ≤ 3

/-- Is the format 4 bits wide? -/
def is4bit (i : Nat) : Bool := fmtBits i = 4

/-- The floating-point format of an index. -/
def floatFmt (i : Nat) : FloatFmt :=
  match i with
  | 4 => e4m3
  | 5 => e5m2
  | 6 => fp16
  | 7 => bf16
  | _ => fp32

/-- Element size in bytes; a 4-bit element counts as one byte for alignment (R229). -/
def fmtBytes (i : Nat) : Nat := (fmtBits i + 7) / 8

/-- The integer a code of an integer format stands for. -/
def intCode (i code : Nat) : Int :=
  match i with
  | 0 => (code % 256 : Nat)
  | 1 => signedOf 8 code
  | 2 => signedOf 4 code
  | _ => signedOf 16 code

/-- Range of an integer format. -/
def intRange (i : Nat) : Int × Int :=
  match i with
  | 0 => (0, 255)
  | 1 => (-128, 127)
  | 2 => (-8, 7)
  | _ => (-32768, 32767)

/-- The code of an integer in an integer format. -/
def codeOfInt (i : Nat) (v : Int) : Nat := (v % (2 ^ fmtBits i : Nat)).toNat

/-- E2M1 (Table 2.1). -/
def e2m1 (code : Nat) : Val :=
  let ex := code / 2 % 4
  let mant := code % 2
  let s := decide (code / 8 % 2 = 1)
  if ex = 0 then .fin s mant (-1) else .fin s (2 + mant) (ex - 2)

/-- E8M0 (R53). -/
def e8m0 (code : Nat) : Val := if code = 0xFF then .nan else .fin false 1 ((code : Int) - 127)

/-- The value of a stored code as it is, with no zero point. -/
def decodeValue (i code : Nat) : Val :=
  if isIntFmt i then Val.ofInt (intCode i code) else if i = 9 then e2m1 code else (floatFmt i).decode code

/-- R127, R259: widen an element to FP32: an integer code is rnd32(scale × (code − zero point)). -/
def widen (ieee : Bool) (i : Nat) (scale : Val) (zp : Nat) (code : Nat) : Val :=
  if isIntFmt i then rnd32 ieee (scale.mul (Val.ofInt (intCode i code - intCode i zp))) else decodeValue i code

/-! ### The output stage (R69 to R72) -/

/-- A quantisation parameter entry (Table 2.6). -/
structure QpEntry where
  scale : Nat
  bias : Nat
  zo : Nat
  lo : Nat
  hi : Nat
  clamp : Bool
  deriving DecidableEq, Repr

/-- Read an entry of 16 bytes. -/
def qpEntry (l : List Byte) : QpEntry :=
  { scale := fieldNat l 0 4, bias := fieldNat l 4 4, zo := fieldNat l 8 2, lo := fieldNat l 10 2,
    hi := fieldNat l 12 2, clamp := fieldNat l 14 2 % 2 = 1 }

/-- A clamp field, low-aligned, as a code of the output format. -/
def clampCode (fmt v : Nat) : Nat := v % 2 ^ fmtBits fmt

/-- R72: is the entry refused at the start of the output stage? -/
def qpBad (fmt : Nat) (q : QpEntry) : Bool :=
  q.clamp &&
    (fmt = 8 || (decodeValue fmt (clampCode fmt q.lo)).isNan || (decodeValue fmt (clampCode fmt q.hi)).isNan ||
      (decodeValue fmt (clampCode fmt q.lo)).gt (decodeValue fmt (clampCode fmt q.hi)))

/-- Step 5 of R69: limit a code to the clamps; a NaN passes. -/
def clampStep (fmt : Nat) (q : QpEntry) (code : Nat) : Nat :=
  if !q.clamp then code
  else
    let v := decodeValue fmt code
    let lo := clampCode fmt q.lo
    let hi := clampCode fmt q.hi
    if (decodeValue fmt lo).gt v then lo else if v.gt (decodeValue fmt hi) then hi else code

/-- Steps 2 to 5 of R69 on c, giving the code written. -/
def outputStage (fmt : Nat) (ieee : Bool) (q : QpEntry) (c : Val) : Nat :=
  let t := rnd32 ieee (c.mul (fp32.decode q.scale))
  let y := rnd32 ieee (t.add (fp32.decode q.bias))
  let code :=
    if isIntFmt fmt then
      let r := intRange fmt
      codeOfInt fmt (roundInt r.1 r.2 (signedOf 16 q.zo) y)
    else toFormat (floatFmt fmt) ieee y
  clampStep fmt q code

end Sys2Proof.Machine
end

