-- ==== Sys2Proof/Machine/Operands.lean ====
section
/-! DEFINITION. Operand descriptors (Tables 4.5 to 4.8): the view of an operand, where its elements lie, translation of
device virtual addresses (Table 10.7), and the reads and writes that commands make. -/

namespace Sys2Proof.Machine

/-! ### Faults of an access -/

/-- Why a command is stopped: the cork's STATUS and DATA (Table 12.5). A `held` access is no failure: it waits for the safe
state that stops its command (R383). -/
structure Stop where
  status : Byte
  data : Long
  held : Bool := false
  deriving DecidableEq, Repr

/-- DATA form I: A in bits [15:0], B in bits [31:16]. -/
def dataI (a b : Nat) : Long := BitVec.ofNat 64 (a % 65536 + b % 65536 * 65536)

/-- The fault data word of Table 10.8; form L is the same with CAUSE 0. -/
def faultWord (va : Int) (cause access agent : Nat) : Long :=
  BitVec.ofNat 64 ((va % (2 ^ 38 : Nat)).toNat + cause % 8 * 2 ^ 38 + access % 4 * 2 ^ 41 + agent % 256 * 2 ^ 43)

/-- OPERAND_FORMAT with an operand index and an agent. -/
def stopFormat (index agent : Nat) : Stop := { status := 0x18, data := dataI index agent }

/-- OPERAND_RANGE at an address of a space. -/
def stopRange (addr : Int) (access agent : Nat) : Stop := { status := 0x23, data := faultWord addr 0 access agent }

/-- ACCESS code of Table 10.8. -/
def accessCode : Access → Nat
  | .read => 0
  | .write => 1
  | .frontEnd => 2

/-- Agent codes of Table 10.8. -/
def agentEngine (e : Nat) : Nat := 0x10 + e
/-- Pipeline n. -/
def agentPipe (n : Nat) : Nat := 0x20 + n
/-- The codec. -/
def agentCodec : Nat := 0x30
/-- The command front end. -/
def agentFrontEnd : Nat := 0x38
/-- COPY. -/
def agentCopy : Nat := 0x39

/-! ### Translation (R392 to R394, R406) -/

/-- The translation table entry of a virtual page; an unwritten entry is not valid. -/
def ttEntry (s : State) (vpn : Nat) : TtEntry := (lookupKey s.mmu.table vpn).getD {}

/-- R383: does the entry of a virtual page lie in an uncorrectable block of the translation table? -/
def ttBlocked (s : State) (vpn : Nat) : Bool := s.mmu.badBlocks.contains ((s.mmu.ttBase.toNat * 16384 + 8 * vpn) / 64)

/-- The number by which `translate` says that an access is held (R383); no cause of Table 10.7 has it. -/
def causeHeld : Nat := 8

/-- The stop of an access that does not translate: the fault of Table 10.7, or the hold of R383. -/
def stopTranslate (va cause access agent : Nat) : Stop :=
  { status := 0x20, data := faultWord va cause access agent, held := cause = causeHeld }

/-- Translate an address for a parcel, or the cause of Table 10.7. -/
def translate (s : State) (parcel : Fin 8) (acc : Access) (va : Nat) : Except Nat Nat :=
  let t := ttEntry s (va / 16384)
  let allowed := match acc with
    | .read => t.read
    | .write => t.write
    | .frontEnd => t.exec
  if ttBlocked s (va / 16384) then .error causeHeld
  else if !t.valid then .error 0
  else if t.owner.toNat ≠ parcel.val then .error 1
  else if !allowed then .error 2
  else if t.retired then .error 3
  else .ok (t.ppn.toNat * 16384 + va % 16384)

/-- Where a byte lies. -/
inductive Loc where
  | cask (p : Fin 16) (a : Nat)
  | cellar (a : Nat)
  | staging (a : Nat)
  | dram (a : Nat)
  deriving DecidableEq, Repr

/-- Read bytes at a place. -/
def State.readLoc (s : State) (n : Nat) : Loc → List Byte
  | .cask p a => (s.press p).cask.readBytes a n
  | .cellar a => s.cellar.mem.readBytes a n
  | .staging a => s.port.window.readBytes a n
  | .dram a => s.dram.readBytes a n

/-- Write bytes at a place. -/
def State.writeLoc (s : State) (l : List Byte) : Loc → State
  | .cask p a => s.updPress p fun x => { x with cask := x.cask.writeBytes a l }
  | .cellar a => { s with cellar := { s.cellar with mem := s.cellar.mem.writeBytes a l } }
  | .staging a => s.updWindow fun m => m.writeBytes a l
  | .dram a => { s with dram := s.dram.writeBytes a l }

/-- Write a list of (place, bytes) in order. -/
def State.writeLocs (s : State) : List (Loc × List Byte) → State
  | [] => s
  | w :: rest => (s.writeLoc w.2 w.1).writeLocs rest

/-- Who makes an access: the parcel, the agent code, the press whose Cask a CASK operand means where the press number is
ignored (R179), and the queue of the command, if it is a command's access. -/
structure Cx where
  parcel : Fin 8
  agent : Nat
  own : Option (Fin 16)
  queue : Option (Fin 256)
  deriving DecidableEq, Repr

/-- Split a device virtual range at its pages and translate each part. -/
def dvParts (s : State) (cx : Cx) (acc : Access) : Nat → Nat → Nat → Except Stop (List (Loc × Nat))
  | 0, _, _ => .ok []
  | fuel + 1, va, n =>
    if n = 0 then .ok []
    else
      let k := min n (16384 - va % 16384)
      match translate s cx.parcel acc va with
      | .error c => .error (stopTranslate va c (accessCode acc) cx.agent)
      | .ok pa => (dvParts s cx acc fuel ((va + k) % 2 ^ 38) (n - k)).map fun rest => (.dram pa, k) :: rest

/-- A range that must lie in [0, size) of a space: its start, or the first address outside. -/
def rangePart (place : Nat → Loc) (size : Nat) (cx : Cx) (acc : Access) (a : Int) (n : Nat) :
    Except Stop (List (Loc × Nat)) :=
  if n = 0 then .ok []
  else if a < 0 ∨ (size : Int) ≤ a then .error (stopRange a (accessCode acc) cx.agent)
  else if (size : Int) < a + n then .error (stopRange size (accessCode acc) cx.agent)
  else .ok [(place a.toNat, n)]

/-- The places of a range of `n` bytes of a memory space (Table 4.6, R178, R241, R432). -/
def locate (s : State) (cx : Cx) (acc : Access) (space : Nat) (press : Fin 16) (a : Int) (n : Nat) :
    Except Stop (List (Loc × Nat)) :=
  match space with
  | 0 => rangePart (.cask (cx.own.getD press)) 0x600000 cx acc a n
  | 1 =>
    let sh := vget s.cellar.shares.live cx.parcel
    rangePart (fun o => .cellar (sh.base.toNat * 1048576 + o)) (sh.size.toNat * 1048576) cx acc a n
  | 2 => dvParts s cx acc (n / 16384 + 2) (a % (2 ^ 38 : Nat)).toNat n
  | _ =>
    let sh := (vget s.port.stages cx.parcel).live
    let lo := sh.base.toNat * 65536
    let hi := lo + sh.size.toNat * 65536
    if n = 0 then .ok []
    else if a < lo ∨ (hi : Int) ≤ a then .error (stopRange a (accessCode acc) cx.agent)
    else if (hi : Int) < a + n then .error (stopRange hi (accessCode acc) cx.agent)
    else .ok [(.staging (stagingBase + a.toNat), n)]

/-! ### Outputs that have no cork yet (R466, R467) -/

/-- Has a command started, and may it have written or yet write outputs that no cork has confirmed? -/
def Cmd.unsettled (c : Cmd) : Bool :=
  match c.phase with
  | .checked => false
  | .due status _ | .ended status _ => status = 0 || status = 1
  | _ => true

/-- The ranges of the objects that such a command lists with OUT set: base and length. -/
def outRanges (s : State) (c : Cmd) : List (Nat × Nat) :=
  c.objs.filterMap fun r => if r.isOut then (lookupKey s.objects r.handle).map fun o => (o.base, o.length) else none

/-- R467: the virtual ranges whose contents are undefined to the commands of a queue: outputs of unsettled commands of others. -/
def unsettledFor (s : State) (queue : Option (Fin 256)) : List (Nat × Nat) :=
  (List.finRange 256).flatMap fun q =>
    if queue = some q then [] else ((s.queue q).cmds.filter Cmd.unsettled).flatMap (outRanges s)

/-- Does an address lie in one of some ranges? -/
def inRanges (l : List (Nat × Nat)) (a : Nat) : Bool := l.any fun r => decide (r.1 ≤ a) && decide (a < r.1 + r.2)

/-- Bytes read from an address on, free where the ranges hold. -/
def maskBytes (s : State) (l : List (Nat × Nat)) (a : Nat) (bytes : List Byte) : List Byte :=
  if l.isEmpty then bytes
  else bytes.zipIdx.map fun b => if inRanges l (a + b.2) then Config.unsettledByte s.freeCtr (a + b.2) else b.1

/-- Read a range: device virtual memory as the commands of the reader's queue see it. -/
def readRange (s : State) (cx : Cx) (acc : Access) (space : Nat) (press : Fin 16) (a : Int) (n : Nat) :
    Except Stop (List Byte) :=
  (locate s cx acc space press a n).map fun parts =>
    let bytes := parts.flatMap fun p => s.readLoc p.2 p.1
    if space = 2 then maskBytes s (unsettledFor s cx.queue) (a % (2 ^ 38 : Nat)).toNat bytes else bytes

/-- Cut bytes over the parts of a range. -/
def spread : List (Loc × Nat) → List Byte → List (Loc × List Byte)
  | [], _ => []
  | p :: rest, l => (p.1, l.take p.2) :: spread rest (l.drop p.2)

/-- The writes of a range. -/
def writeRange (s : State) (cx : Cx) (space : Nat) (press : Fin 16) (a : Int) (l : List Byte) :
    Except Stop (List (Loc × List Byte)) :=
  (locate s cx .write space press a l.length).map fun parts => spread parts l

/-! ### Operand descriptors -/

/-- Sign-extended field of a message. -/
def fieldInt (l : List Byte) (i n : Nat) : Int := signedOf (8 * n) (fieldNat l i n)

/-- Parse the 64 bytes of a descriptor, with run-time extents taken from RT_DIMS (R162). -/
def parseOperand (rt : List Nat) (l : List Byte) : Operand :=
  let b5 := fieldNat l 5 1
  let fl := fieldNat l 6 2
  { addr := BitVec.ofNat 40 (fieldNat l 0 5)
    format := BitVec.ofNat 4 b5
    space := BitVec.ofNat 2 (b5 / 16)
    inner := BitVec.ofNat 2 (b5 / 64)
    flags := BitVec.ofNat 16 fl
    sizes := (List.range 4).map fun i =>
      let v := fieldNat l (8 + 2 * i) 2
      if fl / 2 ^ (9 + i) % 2 = 1 then rt.getD (v % 4) 0 else v
    strides := (List.range 3).map fun i => fieldInt l (16 + 4 * i) 4
    pad := BitVec.ofNat 16 (fieldNat l 28 2)
    zp := BitVec.ofNat 16 (fieldNat l 30 2)
    starts := (List.range 4).map fun i => fieldInt l (32 + 2 * i) 2
    incs := (List.range 6).map fun i =>
      let v := fieldNat l (40 + 4 * i) 4
      (v / 2 ^ 30, signedOf 30 v) }

/-- A zero descriptor, for an operand that is not there. -/
def noOperand : Operand := parseOperand [] []

/-- Operand i of a table. -/
def opAt (ops : List Operand) (i : Nat) : Operand := ops.getD i noOperand

/-- FORMAT as a number. -/
def Operand.fmt (o : Operand) : Nat := o.format.toNat
/-- SPARSE. -/
def Operand.sparse (o : Operand) : Bool := o.flags.getLsbD 0
/-- GQ4_ZP. -/
def Operand.gqZp (o : Operand) : Bool := o.flags.getLsbD 1
/-- GQ4_GROUP. -/
def Operand.gqGroup (o : Operand) : Nat := o.flags.toNat / 4 % 4
/-- QP_TENSOR. -/
def Operand.qpTensor (o : Operand) : Bool := o.flags.getLsbD 4
/-- COMPANIONS. -/
def Operand.companions (o : Operand) : Nat := o.flags.toNat / 32 % 4
/-- COMPRESS. -/
def Operand.compress (o : Operand) : Nat := o.flags.toNat / 128 % 4
/-- Press number of a CASK operand. -/
def Operand.press (o : Operand) : Fin 16 := Fin.ofNat 16 (o.addr.toNat / 2 ^ 24)
/-- Origin in the operand's space (Table 4.6). -/
def Operand.base (o : Operand) : Nat :=
  match o.space.toNat with
  | 0 => o.addr.toNat % 2 ^ 23
  | 1 => o.addr.toNat % 2 ^ 26
  | 2 => o.addr.toNat % 2 ^ 38
  | _ => o.addr.toNat % 2 ^ 25
/-- Bits of ADDR that the space does not use (R159). -/
def Operand.addrReserved (o : Operand) : Bool :=
  match o.space.toNat with
  | 0 => o.addr.toNat / 2 ^ 28 ≠ 0 || o.addr.getLsbD 23
  | 1 => o.addr.toNat / 2 ^ 26 ≠ 0
  | 2 => o.addr.toNat / 2 ^ 38 ≠ 0
  | _ => o.addr.toNat / 2 ^ 25 ≠ 0
/-- SIZEi with run-time extents in force. -/
def Operand.size (o : Operand) (i : Nat) : Nat := o.sizes.getD i 0
/-- STRIDEi, i = 1 to 3. -/
def Operand.stride (o : Operand) (i : Nat) : Int := o.strides.getD (i - 1) 0
/-- Length of a contiguous piece of a run (R163); none means the whole run. -/
def Operand.innerLen (o : Operand) : Option Nat :=
  match o.inner.toNat with
  | 0 => none
  | 1 => some 16
  | 2 => some 32
  | _ => some 64
/-- PAD as a code of the operand's format (R165). -/
def Operand.padCode (o : Operand) : Nat :=
  if o.fmt = 8 then o.pad.toNat * 65536 else o.pad.toNat % 2 ^ fmtBits o.fmt
/-- ZP as a code of the operand's format. -/
def Operand.zpCode (o : Operand) : Nat := o.zp.toNat % 2 ^ fmtBits o.fmt

/-- Coordinates of an element. -/
structure Coords where
  c0 : Int
  c1 : Int
  c2 : Int
  c3 : Int
  deriving DecidableEq, Repr

/-- The origin. -/
def originCoords : Coords := { c0 := 0, c1 := 0, c2 := 0, c3 := 0 }

/-- Add along one dimension. -/
def Coords.bump (c : Coords) (dim : Nat) (d : Int) : Coords :=
  match dim with
  | 0 => { c with c0 := c.c0 + d }
  | 1 => { c with c1 := c.c1 + d }
  | 2 => { c with c2 := c.c2 + d }
  | _ => { c with c3 := c.c3 + d }

/-- R170: an operand's coordinates at an index of the loop nest, one index per level from level 0. -/
def Operand.coordsAt (o : Operand) (idx : List Nat) : Coords :=
  let start : Coords := { c0 := o.starts.getD 0 0, c1 := o.starts.getD 1 0, c2 := o.starts.getD 2 0, c3 := o.starts.getD 3 0 }
  (List.zip idx o.incs).foldl (fun c li => c.bump li.2.1 ((li.1 : Int) * li.2.2)) start

/-- R161: does the coordinate lie inside an extent? -/
def within (c : Int) (size : Nat) : Bool := 0 ≤ c && c < (size : Int)

/-- R161: are dimensions 1 to 3 inside the view? -/
def Operand.insideOuter (o : Operand) (c : Coords) : Bool :=
  within c.c1 (o.size 1) && within c.c2 (o.size 2) && within c.c3 (o.size 3)

/-- R160: byte address of an element of `bits` bits. -/
def Operand.address (o : Operand) (bits : Nat) (c : Coords) : Int :=
  (o.base : Int) + (if bits = 4 then c.c0 / 2 else c.c0 * (bits / 8 : Nat)) + c.c1 * o.stride 1 + c.c2 * o.stride 2 +
    c.c3 * o.stride 3

/-- Coordinates along a dimension at which rows of a view may differ in address. -/
def rowSteps (o : Operand) (i : Nat) : List Nat := List.range (if o.stride i = 0 then min 1 (o.size i) else o.size i)

/-- The byte ranges of the rows of a view whose elements have `bits` bits (R160). -/
def Operand.rowRanges (o : Operand) (bits : Nat) : List (Int × Nat) :=
  (rowSteps o 3).flatMap fun (c3 : Nat) => (rowSteps o 2).flatMap fun (c2 : Nat) => (rowSteps o 1).map fun (c1 : Nat) =>
    (o.address bits { originCoords with c1 := (c1 : Int), c2 := (c2 : Int), c3 := (c3 : Int) },
      (o.size 0 * bits + 7) / 8)

/-- R290: the byte range of the blocks of a compressed end. -/
def Operand.blockRange (o : Operand) : Int × Nat :=
  ((o.base : Int), o.size 3 * ceilDiv (o.size 2) 8 * ceilDiv (o.size 1) 8 * (if o.compress = 1 then 512 else 256))

/-- The byte ranges that writes of a view may touch: its rows, or the blocks of a compressed end (R290). -/
def Operand.ranges (o : Operand) : List (Int × Nat) := if o.compress = 0 then o.rowRanges (fmtBits o.fmt) else [o.blockRange]

/-- R163: the pieces of a run of `n` elements from `c`: each a start and a length. -/
def Operand.runPieces (o : Operand) (c : Coords) (n : Nat) : List (Coords × Nat) :=
  match o.innerLen with
  | none => [(c, n)]
  | some k => (List.range (ceilDiv n k)).map fun (j : Nat) => ({ c with c3 := c.c3 + (j : Int) }, min k (n - j * k))

/-- Codes of elements packed in bytes; `first` is the index of the first element (R56). -/
def unpackCodes (bits first n : Nat) (l : List Byte) : List Nat :=
  (List.range n).map fun i =>
    if bits = 4 then
      let k := first + i
      (byteAt l (k / 2 - first / 2)).toNat / (if k % 2 = 0 then 1 else 16) % 16
    else fieldNat l (i * (bits / 8)) (bits / 8)

/-- Read one contiguous piece along dimension 0; elements outside the view read as `fill` (R161, R205). -/
def readPiece (s : State) (cx : Cx) (o : Operand) (bits fill : Nat) (c : Coords) (len : Nat) : Except Stop (List Nat) :=
  let lo := max 0 c.c0
  let hi := min (o.size 0 : Int) (c.c0 + len)
  if !o.insideOuter c ∨ hi ≤ lo then .ok (List.replicate len fill)
  else
    let n := (hi - lo).toNat
    let first := lo.toNat
    let bytes := if bits = 4 then (first + n - 1) / 2 - first / 2 + 1 else n * (bits / 8)
    match readRange s cx .read o.space.toNat o.press (o.address bits { c with c0 := lo }) bytes with
    | .error e => .error e
    | .ok l => .ok (List.replicate (lo - c.c0).toNat fill ++ unpackCodes bits first n l ++
        List.replicate (c.c0 + len - hi).toNat fill)

/-- Read pieces in order. -/
def readPieces (s : State) (cx : Cx) (o : Operand) (bits fill : Nat) : List (Coords × Nat) → Except Stop (List Nat)
  | [] => .ok []
  | p :: rest =>
    match readPiece s cx o bits fill p.1 p.2 with
    | .error e => .error e
    | .ok l => (readPieces s cx o bits fill rest).map fun m => l ++ m

/-- Read a run of `n` elements (R163) of a principal operand, whose reads outside the view give PAD. -/
def readRun (s : State) (cx : Cx) (o : Operand) (c : Coords) (n : Nat) : Except Stop (List Nat) :=
  readPieces s cx o (fmtBits o.fmt) o.padCode (o.runPieces c n)

/-- Read `n` elements along dimension 0 of a companion or parameter operand, zero outside its view (R205). -/
def readSide (s : State) (cx : Cx) (o : Operand) (bits : Nat) (c : Coords) (n : Nat) : Except Stop (List Nat) :=
  readPiece s cx o bits 0 c n

/-- Pack codes into bytes from an element index; a lone nibble keeps the byte's other half, read from `old`. -/
def packCodes (bits first : Nat) (codes : List Nat) (old : List Byte) : List Byte :=
  if bits = 4 then
    let n := codes.length
    (List.range ((first + n - 1) / 2 - first / 2 + 1)).map fun b =>
      let half (k : Nat) : Nat :=
        if first ≤ k ∧ k < first + n then codes.getD (k - first) 0 % 16
        else (byteAt old b).toNat / (if k % 2 = 0 then 1 else 16) % 16
      let k0 := 2 * (first / 2 + b)
      BitVec.ofNat 8 (half k0 + 16 * half (k0 + 1))
  else codes.flatMap fun v => leBytes (bits / 8) v

/-- The writes of one contiguous piece: elements outside the view are dropped (R161, R207). A 4-bit piece that starts or ends
within a byte keeps the other half as it stood before the step (DESIGN CHOICE, log entry 45). -/
def writePiece (s : State) (cx : Cx) (o : Operand) (bits : Nat) (c : Coords) (codes : List Nat) :
    Except Stop (List (Loc × List Byte)) :=
  let lo := max 0 c.c0
  let hi := min (o.size 0 : Int) (c.c0 + codes.length)
  if !o.insideOuter c ∨ hi ≤ lo then .ok []
  else
    let n := (hi - lo).toNat
    let first := lo.toNat
    let part := (codes.drop (lo - c.c0).toNat).take n
    let a := o.address bits { c with c0 := lo }
    let bytes := if bits = 4 then (first + n - 1) / 2 - first / 2 + 1 else n * (bits / 8)
    match locate s cx .write o.space.toNat o.press a bytes with
    | .error e => .error e
    | .ok parts =>
      let old := if bits = 4 then parts.flatMap fun p => s.readLoc p.2 p.1 else []
      .ok (spread parts (packCodes bits first part old))

/-- The writes of pieces in order, their codes taken from one list. -/
def writePieces (s : State) (cx : Cx) (o : Operand) (bits : Nat) :
    List (Coords × Nat) → List Nat → Except Stop (List (Loc × List Byte))
  | [], _ => .ok []
  | p :: rest, codes =>
    match writePiece s cx o bits p.1 (codes.take p.2) with
    | .error e => .error e
    | .ok l => (writePieces s cx o bits rest (codes.drop p.2)).map fun m => l ++ m

/-- The writes of a run of elements (R163). -/
def writeRun (s : State) (cx : Cx) (o : Operand) (c : Coords) (codes : List Nat) : Except Stop (List (Loc × List Byte)) :=
  writePieces s cx o (fmtBits o.fmt) (o.runPieces c codes.length) codes

/-- Write a run into the state at once. -/
def putRun (s : State) (cx : Cx) (o : Operand) (c : Coords) (codes : List Nat) : Except Stop State :=
  (writeRun s cx o c codes).map fun ws => s.writeLocs ws

/-- Read one element inside or outside the view. -/
def readElem (s : State) (cx : Cx) (o : Operand) (c : Coords) : Except Stop Nat :=
  (readPiece s cx o (fmtBits o.fmt) o.padCode c 1).map fun l => l.getD 0 o.padCode

/-- Fold a fallible operation over a list. -/
def foldStop {α β : Type} (f : β → α → Except Stop β) : List α → β → Except Stop β
  | [], b => .ok b
  | x :: rest, b =>
    match f b x with
    | .error e => .error e
    | .ok b' => foldStop f rest b'

/-- Map a fallible operation over a list. -/
def mapStop {α β : Type} (f : α → Except Stop β) : List α → Except Stop (List β)
  | [] => .ok []
  | x :: rest =>
    match f x with
    | .error e => .error e
    | .ok y => (mapStop f rest).map fun l => y :: l

/-- As `mapStop`, with the position of the element that failed, counted from `i`. -/
def mapStopAt {α β : Type} (f : α → Except Stop β) : Nat → List α → Except (Nat × Stop) (List β)
  | _, [] => .ok []
  | i, x :: rest =>
    match f x with
    | .error e => .error (i, e)
    | .ok y => (mapStopAt f (i + 1) rest).map fun l => y :: l

end Sys2Proof.Machine
end

