-- ==== Sys2Proof/Machine/Regs.lean ====
section
/-! DEFINITION. What every register word of every control page reads as (the register mirror of R424): one function per
page, in the order of Table 20.6. Offsets are in words; a word that no table defines reads 0 (R693). -/

namespace Sys2Proof.Machine

/-- Pack fields, each a value at the number of its lowest bit. -/
def pack : List (Nat × Nat) → Word
  | [] => 0
  | f :: rest => BitVec.ofNat 32 (f.2 <<< f.1) ||| pack rest

/-- A Bool as a field value. -/
def bit (b : Bool) : Nat := if b then 1 else 0

/-- The low 32 bits of a 64-bit value. -/
def loWord (x : Long) : Word := x.setWidth 32

/-- The high 32 bits of a 64-bit value. -/
def hiWord (x : Long) : Word := (x >>> 32).setWidth 32

/-! ### 64-bit pairs: a read of the LO word latches the HI word (R424) -/

/-- The five 64-bit counters of a press (Table 3.6), from word 0x12. -/
def pressCounters (p : Press) : List Long := [p.busy, p.stallWeight, p.stallDrain, p.stallOutlier, p.stallOperand]

/-- Slot of the accounting table (R508): slot 4,095 holds merged pairs. -/
def acctSlot (a : Acct) (i : Nat) : Option AcctSlot := if i = 4095 then a.merged else a.slots[i]?

/-- R515: the accounting slot, and the word within it, that a word of an ACCT page belongs to. -/
def acctPlace (page word : Nat) : Option (Nat × Nat) :=
  let i := (page - 88) * 125 + (word - 0x18) / 8
  if 88 ≤ page ∧ 0x18 ≤ word ∧ word < 0x400 ∧ i < 4096 then some (i, (word - 0x18) % 8) else none

/-- The 64-bit value whose LO word is the given word of a page. -/
def longAt (s : State) (page word : Nat) : Option Long :=
  if h : page < 121 then
    let r := vget s.pages ⟨page, h⟩
    if page = 2 ∧ word = 0x24 then some s.fuses.deviceId
    else if word = 0x0A then some r.errAddr
    else if word = 0x0C then some r.errTime
    else if page = 11 ∧ word = 0x12 then some s.time
    else if 12 ≤ page ∧ page ≤ 15 ∧ 0x40 ≤ word ∧ word < 0x240 then
      let e := (page - 12) * 64 + (word - 0x40) / 8
      if he : e < 134 then
        let a := vget s.safety.slots ⟨e, he⟩
        if word % 8 = 4 then some a.firstTime else if word % 8 = 6 then some a.lastTime else none
      else none
    else if page = 7 ∧ word = 0x19 then some (s.ageing.excluded.setWidth 64)
    else if page = 16 ∧ 0x40 ≤ word ∧ word < 0x80 ∧ word % 4 = 2 then
      some (vget s.mmu.log (Fin.ofNat 16 ((word - 0x40) / 4))).time
    else if 20 ≤ page ∧ page ≤ 35 ∧ 0x12 ≤ word ∧ word < 0x1C ∧ word % 2 = 0 then
      (pressCounters (s.press (Fin.ofNat 16 (page - 20))))[(word - 0x12) / 2]?
    else if 52 ≤ page ∧ page ≤ 57 ∧ word = 0x10 then some (s.engine (Fin.ofNat 6 (page - 52))).busy
    else if 52 ≤ page ∧ page ≤ 57 ∧ word = 0x12 then some (s.engine (Fin.ofNat 6 (page - 52))).work
    else if page = 58 ∧ word = 0x12 then some s.codec.encPixels
    else if page = 58 ∧ word = 0x14 then some s.codec.decPixels
    else
      match acctPlace page word with
      | some (i, 2) => (acctSlot s.acct i).map fun a => a.waitCycles
      | some (i, 4) => (acctSlot s.acct i).map fun a => a.runCycles
      | _ => none
  else none

/-- Number of a word in the whole control space, by which latches are kept. -/
def wordKey (page word : Nat) : Nat := page * 1024 + word

/-- What a HI word of a page shows: the half that the last read of its LO word latched, 0 before the first (R424). -/
def latchedAt (s : State) (p w : Nat) : Word := (lookupKey s.port.hiLatch (wordKey p w)).getD 0

/-- The high half that a read of a word latches: that of a 64-bit pair, or of LOGi.VA, whose VA_HI is a field. -/
def highHalf (s : State) (p w : Nat) : Option Word :=
  if p = 16 ∧ 0x40 ≤ w ∧ w < 0x80 ∧ w % 4 = 0 then
    some (BitVec.ofNat 32 ((vget s.mmu.log (Fin.ofNat 16 ((w - 0x40) / 4))).va.toNat / 2 ^ 32))
  else (longAt s p w).map hiWord

/-! ### Common registers -/

/-- ID.INSTANCE of a page (R705): on page 0 the device number. -/
def instanceOf (s : State) (p : Nat) : Nat :=
  if p = 0 then self s else if 12 ≤ p ∧ p ≤ 15 then p - 12 else if 20 ≤ p ∧ p ≤ 35 then p - 20
  else if 36 ≤ p ∧ p ≤ 51 then p - 36 else if 64 ≤ p ∧ p ≤ 79 then p - 64 else if 80 ≤ p ∧ p ≤ 87 then p - 80
  else if 88 ≤ p then p - 88 else 0

/-- ID.BLOCK of a page (Table 20.6). -/
def blockOf (p : Nat) : Nat :=
  if p ≤ 11 then p + 1 else if p ≤ 15 then 0x0D else if p ≤ 19 then p else if p ≤ 35 then 0x14
  else if p ≤ 51 then 0x15 else if p ≤ 58 then 0x16 + (p - 52) else if p ≤ 79 then 0x20
  else if p ≤ 87 then 0x21 else 0x22

/-- Does the page hold RWS fields (Table 20.7)? -/
def staged (p : Nat) : Bool :=
  p = 3 || p = 4 || p = 5 || p = 9 || p = 11 || p = 16 || p = 18 || (36 ≤ p && p ≤ 51) || (64 ≤ p && p ≤ 87)

/-- May the host write GO and CANCEL on the page (Table 20.7)? -/
def hostCommit (p : Nat) : Bool := p = 5 || p = 9 || (80 ≤ p && p ≤ 87)

/-- COMMIT.PENDING of a page: some unit waits for its boundary. -/
def pagePending (s : State) (p : Nat) : Bool :=
  if p = 3 then s.port.echo.pending.isSome || s.port.stages.toList.any fun r => r.pending.isSome
  else if p = 4 then s.clocks.plls.toList.any fun r => r.cfg.pending.isSome
  else if p = 5 then s.power.flimit.pending.isSome
  else if p = 9 then s.diag.rings.pending.isSome
  else if p = 11 then s.vine.cfg.pending.isSome
  else if p = 16 then s.mmu.carves.toList.any fun r => r.pending.isSome
  else if p = 18 then s.cellar.shares.pending.isSome
  else if 36 ≤ p ∧ p ≤ 51 then (s.pipe (Fin.ofNat 16 (p - 36))).cfg.pending.isSome
  else if 64 ≤ p ∧ p ≤ 79 then
    (List.range 16).any fun i => (s.queue (Fin.ofNat 256 ((p - 64) * 16 + i))).cfg.pending.isSome
  else if 80 ≤ p ∧ p ≤ 87 then (s.parcel (Fin.ofNat 8 (p - 80))).cfg.pending.isSome
  else false

/-- Is the page that of a press which is not enabled (R147, R706)? -/
def offPress (s : State) (p : Nat) : Bool := 20 ≤ p && p ≤ 35 && !enabled s (Fin.ofNat 16 (p - 20))

/-- The common registers (Tables 20.1 to 20.4), but for CTRL. -/
def readCommon (s : State) (p : Fin 121) (word : Nat) : Word :=
  let r := vget s.pages p
  match word with
  | 0 => pack [(0, blockOf p.val), (8, instanceOf s p.val), (16, 1)]
  | 1 => if offPress s p.val then 0 else pack [(0, 1), (1, bit (staged p.val)), (2, bit (hostCommit p.val))]
  | 3 => pack [(0, bit r.errValid), (1, bit (pagePending s p.val))]
  | 4 => pack [(0, bit r.irqError), (1, bit r.irqCommitDone)]
  | 5 => r.irqMask
  | 6 => pack [(0, bit r.irqError), (1, bit r.irqCommitDone)] &&& r.irqMask
  | 7 => pack [(1, bit (pagePending s p.val)), (3, bit r.superseded), (4, bit r.rejected)]
  | 8 => pack [(0, r.errCode.toNat), (16, bit r.errValid), (24, r.errLost.toNat)]
  | 9 => r.errInfo
  | 14 => pack [(0, r.errSrc.toNat)]
  | _ => 0

/-! ### Block-specific registers, one function per page -/

/-- Has twin-run taken over the compute path (R678)? -/
def twinForced (s : State) : Bool := s.safety.mode && (s.safety.katMode || s.vine.cfg.live.det)

/-- DEVICE, Table 20.8. -/
def readDevice (s : State) (w : Nat) : Word :=
  match w with
  | 0x10 => pack [(0, s.fuses.grade.toNat % 4), (2, bit s.safety.mode), (3, bit s.safety.safe), (4, bit (alarmN s)),
      (5, bit s.boot.readySeen), (6, bit s.boot.halted), (7, bit s.vine.timingBroken)]
  | 0x11 => pack [(0, (enabledMask s).toNat)]
  | 0x12 => s.fw.version
  | 0x13 => s.heartbeat
  | _ => 0

/-- FW, Table 15.9. -/
def readFw (s : State) (w : Nat) : Word :=
  match w with
  | 0x10 => s.fw.version
  | 0x11 => pack [(0, bit s.fw.half), (1, bit s.fw.loaded.isSome), (2, bit s.fw.swapping)]
  | 0x12 => pack [(0, s.fw.swaps.toNat), (16, s.fw.refused.toNat)]
  | 0x13 => pack [(0, s.fw.lastStall.toNat)]
  | 0x14 => s.fw.msgErrors
  | _ => 0

/-- BOOT, Table 16.11. -/
def readBoot (s : State) (w : Nat) : Word :=
  let b := s.bootRec
  match w with
  | 0x10 => pack [(0, b.step.toNat), (8, b.attempts.toNat), (12, b.cause.toNat), (16, bit s.boot.halted),
      (17, bit b.trial), (18, bit b.slot), (19, b.source.toNat)]
  | 0x11 => pack ((List.finRange 12).map fun i => (2 * i.val, (vget b.levels i).toNat))
  | 0x12 => pack [(0, s.straps.bootOrder.toNat), (3, bit s.straps.refclk50), (4, s.straps.hostIlv.toNat),
      (8, bit s.fuses.lock), (9, s.fuses.order.toNat)]
  | 0x13 => pack ((List.finRange 4).map (fun i => (i.val, bit (vget s.fuses.digests i).isSome)) ++
      [(4, s.fuses.revoked.toNat), (8, s.fuses.svn % 64), (14, s.boot.keyInUse.toNat)])
  | 0x15 => pack [(0, s.boot.hostImageLen.toNat)]
  | 0x17 => pack [(0, s.boot.norSrc.toNat)]
  | 0x18 => pack [(0, s.boot.norLen.toNat)]
  | 0x19 => pack [(0, bit s.boot.norJob.isSome), (4, s.boot.norResult.toNat), (8, slotState s.flash 0),
      (11, slotState s.flash 1), (14, (selectedSlot s.flash).val), (15, bit (selectorTrial s.flash))]
  | 0x26 => pack [(0, s.boot.measLog.length)]
  | _ => if 0x1C ≤ w ∧ w < 0x24 then BitVec.ofNat 32 (fieldNat s.boot.pcr (4 * (w - 0x1C)) 4) else 0

/-- Is the host asleep (R447)? -/
def hostAsleep (s : State) : Bool := s.port.channels.toList.any fun c => c.asleep

/-- R414, R415: the value that mode register writes have left in a register of a channel; none before the first write. -/
def modeStored (s : State) (ch : Fin 2) (mr : Nat) : Option Byte := lookupKey (vget s.port.channels ch).modeRegs mr

/-- R414, R417: is link ECC on writes enabled on a channel? The place of the field is that of JESD209-5C (log entry 34). -/
def writeEcc (s : State) (ch : Fin 2) : Bool := decide (((modeStored s ch 22).getD 0).toNat / 16 % 4 ≠ 0)

/-- R414: is a flag that a mode register holds set on either channel? The places of the fields are those of JESD209-5C (log
entry 34): MR3 bits 6 and 7 read and write DBI, bits 4 and 3 the bank organisation, MR22 bits 7 to 4 link ECC. -/
def modeFlag (s : State) (mr : Nat) (f : Byte → Bool) : Bool :=
  (List.finRange 2).any fun ch => match modeStored s ch mr with
    | some v => f v
    | none => false

/-- HOSTPORT, Table 11.7. -/
def readHostPort (s : State) (w : Nat) : Word :=
  let h := s.port
  match w with
  | 0x10 => pack [(0, h.rateMts.toNat), (14, s.straps.hostIlv.toNat), (16, bit (modeFlag s 3 fun v => v.getLsbD 6)),
      (17, bit (modeFlag s 3 fun v => v.getLsbD 7)), (18, bit (modeFlag s 22 fun v => decide (v.toNat / 16 ≠ 0))),
      (19, bit (modeFlag s 3 fun v => !v.getLsbD 3 && !v.getLsbD 4)), (20, bit (h.channels.toList.all fun c => c.trained)),
      (21, bit (hostAsleep s))]
  | 0x11 => pack [(0, h.devices.toNat), (8, h.self.toNat)]
  | 0x12 => pack [(0, 4096 - h.forward.length)]
  | 0x13 => h.fwdDropped
  | 0x14 => h.linkCorr
  | 0x15 => h.linkUncorr
  | 0x16 => h.errCount
  | 0x18 => pack [(0, h.echo.staged.queues.toNat), (9, h.echo.staged.mbox.toNat), (13, h.echo.staged.base.toNat)]
  | 0x19 => pack [(0, bit h.synced)]
  | 0x40 => pack [(0, h.mboxWire.toNat), (16, h.mboxEn.toNat)]
  | 0x41 => pack [(0, h.errWire.toNat), (2, bit h.errEn)]
  | _ =>
    if 0x21 ≤ w ∧ w < 0x30 then
      let i : Fin 16 := Fin.ofNat 16 (w - 0x20)
      pack [(0, (vget h.echo.staged.pageNo i).toNat), (10, bit (vget h.echo.staged.pageValid i))]
    else if 0x30 ≤ w ∧ w < 0x38 then
      let t := (vget h.stages (Fin.ofNat 8 (w - 0x30))).staged
      pack [(0, t.base.toNat), (9, t.size.toNat)]
    else if 0x38 ≤ w ∧ w < 0x40 then
      let x := vget h.wires (Fin.ofNat 4 ((w - 0x38) / 2))
      if w % 2 = 0 then x.raised else x.acked
    else 0

/-- DOMd.STATE: a running ARITH domain whose idle sleep is permitted reads SLEEP while every press of it sleeps (R628). -/
def domStateCode (s : State) (d : Fin 9) : Nat :=
  let x := vget s.clocks.doms d
  if d = 0 && x.st = 1 && x.sleepEn && (List.finRange 16).all fun p =>
      !enabled s p || decide ((s.press p).mode = .sleep) then 2
  else x.st.toNat

/-- CLOCKS, Table 17.3. -/
def readClocks (s : State) (w : Nat) : Word :=
  if 0x10 ≤ w ∧ w < 0x34 then
    let pn := (w - 0x10) / 4
    let p := vget s.clocks.plls (Fin.ofNat 9 pn)
    match w % 4 with
    | 0 => pack [(0, p.cfg.staged.khz.toNat)]
    | 1 => pack [(0, p.cfg.staged.depth.toNat), (8, p.cfg.staged.rate.toNat)]
    | 2 => pack [(0, bit p.locked), (1, bit p.on), (8, p.loss.toNat)]
    | _ => if pn = 1 then pack [(0, p.cfg.staged.fallbackDiv.toNat)] else 0
  else if 0x40 ≤ w ∧ w < 0x49 then
    let d := vget s.clocks.doms (Fin.ofNat 9 (w - 0x40))
    pack [(0, bit d.runEn), (1, bit d.sleepEn), (2, bit d.deepEn), (3, d.src.toNat), (5, domStateCode s (Fin.ofNat 9 (w - 0x40)))]
  else if w = 0x50 then pack [(0, s.fuses.otpMem.toNat), (12, s.fuses.otpVine.toNat)]
  else 0

/-- POWER, Table 18.4. -/
def readPower (s : State) (w : Nat) : Word :=
  let p := s.power
  match w with
  | 0x10 => pack [(0, p.cap.toNat)]
  | 0x11 => pack [(0, p.flimit.staged.fmin.toNat), (16, p.flimit.staged.fmax.toNat)]
  | 0x12 => pack [(0, bit p.dvfsEn), (8, p.raiseMhz.toNat), (16, p.lowerMhz.toNat)]
  | 0x13 => pack [(0, p.fixedMw.toNat)]
  | 0x14 => pack [(0, p.measured.toNat)]
  | 0x15 => pack [(0, p.arithMhz.toNat), (9, p.limit.toNat), (12, bit p.capUnreachable), (13, bit s.pins.pwrAlert)]
  | 0x16 => pack [(0, p.alertHold.toNat)]
  | 0x17 => p.alerts
  | 0x18 => pack [(0, bit p.toppingEn), (8, p.toppingLevel.toNat), (16, p.toppingUp.toNat), (24, p.toppingDown.toNat)]
  | _ =>
    if 0x20 ≤ w ∧ w < 0x26 then
      let r : Fin 3 := Fin.ofNat 3 ((w - 0x20) / 2)
      let a := vget p.rails r
      if w % 2 = 0 then pack [(0, a.mv.toNat), (16, vget s.fuses.vmax r)]
      else pack [(0, a.guard.toNat), (8, a.slack.toNat), (20, a.timeouts.toNat)]
    else 0

/-- CRIT_C: 130 on an E grade, 110 on a C grade (R650, Table 16.10). -/
def critC (s : State) : Nat := if s.fuses.grade.toNat % 2 = 0 then 130 else 110

/-- THERMAL, Table 18.5. -/
def readThermal (s : State) (w : Nat) : Word :=
  let t := s.thermal
  match w with
  | 0x10 => pack [(0, t.throttleC.toNat), (8, t.hystC.toNat), (16, critC s)]
  | 0x11 => pack [(0, t.hottest.toNat), (16, t.hotSensor.toNat)]
  | 0x12 => t.excluded
  | 0x13 => t.throttles
  | _ => if 0x40 ≤ w ∧ w < 0x60 then pack [(0, (vget t.sensors (Fin.ofNat 32 (w - 0x40))).toNat)] else 0

/-- AGEING, Table 18.6. -/
def readAgeing (s : State) (w : Nat) : Word :=
  let a := s.ageing
  match w with
  | 0x10 => pack [(0, a.readings.toNat)]
  | 0x11 => a.nextS
  | 0x18 => pack [(0, a.fmaxSustain.toNat)]
  | _ =>
    if 0x12 ≤ w ∧ w < 0x15 then pack [(0, (vget a.worst (Fin.ofNat 3 (w - 0x12))).toNat)]
    else if 0x15 ≤ w ∧ w < 0x18 then pack [(0, (vget a.headroom (Fin.ofNat 3 (w - 0x15))).toNat)]
    else if 0x40 ≤ w ∧ w < 0x70 then pack [(0, (vget a.mons (Fin.ofNat 48 (w - 0x40))).toNat)]
    else 0

/-- SAFETY, Table 19.6. -/
def readSafety (s : State) (w : Nat) : Word :=
  let f := s.safety
  match w with
  | 0x10 => pack [(0, bit f.mode), (1, bit f.safe), (2, bit (alarmN s)), (3, bit (twinForced s)),
      (4, f.slots.toList.countP fun a => a.pending)]
  | 0x11 => pack [(0, f.reactSafe.toNat), (8, f.reactFreeze.toNat)]
  | 0x12 => pack [(0, f.katPeriod.toNat), (16, bit f.katMode)]
  | 0x13 => f.katRuns
  | 0x14 => pack [(0, f.autoReset.toNat)]
  | 0x16 => pack [(0, f.safeCause.toNat)]
  | _ => 0

/-- DIAG, Table 19.8. -/
def readDiag (s : State) (w : Nat) : Word :=
  let d := s.diag
  let g := d.rings.staged
  match w with
  | 0x10 => pack [(0, g.1.base.toNat), (9, g.1.size.toNat)]
  | 0x11 => pack [(0, g.2.base.toNat), (9, g.2.size.toNat), (18, g.2.shift.toNat)]
  | 0x12 => d.logWrite
  | 0x13 => d.logRead
  | 0x14 => d.traceWrite
  | _ =>
    if 0x40 ≤ w ∧ w < 0x60 then
      pack [(0, (vget d.loss (Fin.ofNat 64 (2 * (w - 0x40)))).toNat),
        (16, (vget d.loss (Fin.ofNat 64 (2 * (w - 0x40) + 1))).toNat)]
    else 0

/-- CBOOK, Table 19.9. -/
def readBook (s : State) (w : Nat) : Word :=
  let b := s.book
  match w with
  | 0x10 => pack [(0, b.next.toNat), (11, bit b.wrapped), (12, bit b.frozen), (13, b.freezeCause.toNat),
      (16, b.freezeKey.toNat)]
  | 0x12 => b.missed
  | 0x13 => pack [(0, s.diag.bookIndex.toNat)]
  | _ =>
    if 0x14 ≤ w ∧ w < 0x1C then
      BitVec.ofNat 32 (fieldNat ((lookupKey b.records s.diag.bookIndex.toNat).getD []) (4 * (w - 0x14)) 4)
    else 0

/-- Barrier identifiers with an arrival that is not yet released (R532). -/
def openIdents (v : Vine) : List (BitVec 16) := (v.barriers.map fun b => b.ident).eraseDups

/-- VINE, Table 14.5. -/
def readVine (s : State) (w : Nat) : Word :=
  let v := s.vine
  let c := v.cfg.staged
  match w with
  | 0x10 => pack [(0, v.rows.toNat), (4, v.cols.toNat), (8, bit c.commonRefclk), (9, bit c.det), (10, bit v.timingBroken)]
  | 0x14 => pack [(0, c.leadNs.toNat), (16, c.timeoutMs.toNat)]
  | 0x15 => pack [(0, (openIdents v).length)]
  | 0x16 => v.done
  | 0x17 => v.timeouts
  | 0x18 => v.late
  | 0x19 => pack [(0, v.offset.toNat), (16, bit v.synced)]
  | _ =>
    if 0x20 ≤ w ∧ w < 0x30 then
      let l := s.link (Fin.ofNat 4 ((w - 0x20) / 4))
      match w % 4 with
      | 0 => pack [(0, l.state.toNat), (8, l.peerDev.toNat), (14, l.peerLink.toNat), (16, l.retrains.toNat)]
      | 1 => l.retries
      | 2 => l.crcErr
      | _ => 0
    else 0

/-- ALARM0 to ALARM3, Table 19.7; pages count from 12. -/
def readAlarm (s : State) (pg w : Nat) : Word :=
  if 0x40 ≤ w ∧ w < 0x240 then
    let e := (pg - 12) * 64 + (w - 0x40) / 8
    if he : e < 134 then
      let a := vget s.safety.slots ⟨e, he⟩
      match w % 8 with
      | 0 => pack [(0, bit a.pending), (1, bit a.saturated), (2, bit (keyFatal e)), (3, keyClass e)]
      | 1 => a.count
      | 2 => a.firstSeq
      | 3 => a.data
      | _ => 0
    else 0
  else 0

/-- MMU, Table 10.9. -/
def readMmu (s : State) (w : Nat) : Word :=
  let m := s.mmu
  match w with
  | 0x10 => pack [(0, m.ttBase.toNat)]
  | 0x11 => pack [(0, m.spare.toNat)]
  | 0x12 => pack [(0, m.retiredCount.toNat)]
  | 0x13 => m.faults
  | 0x15 => pack [(0, m.logNext.toNat)]
  | _ =>
    if 0x20 ≤ w ∧ w < 0x28 then
      let c := (vget m.carves (Fin.ofNat 8 (w - 0x20))).staged
      pack [(0, c.base.toNat), (12, c.size.toNat)]
    else if 0x40 ≤ w ∧ w < 0x80 then
      let f := vget m.log (Fin.ofNat 16 ((w - 0x40) / 4))
      match w % 4 with
      | 0 => f.va.setWidth 32
      | 1 => pack [(0, (latchedAt s 16 w).toNat), (6, f.cause.toNat), (9, f.access.toNat), (11, f.agent.toNat),
          (19, f.parcel.toNat)]
      | _ => 0
    else 0

/-- MEMCTL, Table 10.10. -/
def readMemctl (s : State) (w : Nat) : Word :=
  let m := s.memctl
  match w with
  | 0x10 => pack [(0, m.rate.toNat), (2, bit m.inlineEcc), (3, m.capacity.toNat), (5, bit m.ranks)]
  | 0x11 => m.eccCorr
  | 0x12 => pack [(0, m.eccUncorr.toNat)]
  | 0x13 => m.linkCorr
  | 0x14 => m.uePa
  | 0x15 => pack [(0, m.threshold.toNat), (8, m.windowH.toNat)]
  | 0x16 => pack [(0, m.scrubHours.toNat)]
  | _ =>
    if 0x40 ≤ w ∧ w < 0x50 then
      let c := vget m.channels (Fin.ofNat 16 (w - 0x40))
      pack [(0, c.margin.toNat), (8, c.marginMin.toNat), (16, c.retrains.toNat)]
    else if 0x50 ≤ w ∧ w < 0x60 then (vget m.channels (Fin.ofNat 16 (w - 0x50))).odecc
    else 0

/-- CELLAR, Table 6.6. -/
def readCellar (s : State) (w : Nat) : Word :=
  let c := s.cellar
  match w with
  | 0x18 => pack [(0, c.eccCorr.toNat)]
  | 0x19 => pack [(0, c.eccUncorr.toNat)]
  | 0x1A => pack [(0, c.ueAddr.toNat)]
  | _ =>
    if 0x10 ≤ w ∧ w < 0x18 then
      let t := vget c.shares.staged (Fin.ofNat 8 (w - 0x10))
      pack [(0, t.base.toNat), (8, t.size.toNat)]
    else 0

/-- PRESSES, Table 3.10. -/
def readPresses (s : State) (w : Nat) : Word :=
  match w with
  | 0x10 => pack [(0, s.fuses.pressMask.toNat)]
  | 0x11 => pack [(0, s.failed.toNat)]
  | 0x12 => pack [(0, (enabledMask s).toNat), (16, popCount (enabledMask s))]
  | _ => 0

/-- PRESSn.STATE.STATE (Table 3.7). -/
def pressModeCode : PressMode → Nat
  | .sleep => 1
  | .idle => 2
  | .matrix => 3
  | .elementwise => 4
  | .killing => 5
  | .topping => 6

/-- PRESSn, Tables 3.6 to 3.9 and 6.5, CTRL.EN included; all 0 on a press that is not enabled (R147). -/
def readPress (s : State) (n : Fin 16) (w : Nat) : Word :=
  let p := s.press n
  if !enabled s n then 0
  else match w with
  | 2 => pack [(0, bit p.en)]
  | 0x10 => pack [(0, pressModeCode p.mode), (3, bit p.shadow.isSome), (4, bit p.twin), (5, bit p.twinRole),
      (8, p.twinPeer.toNat), (16, p.context.toNat)]
  | 0x11 => match p.assigned with
    | none => 0
    | some k => pack [(0, k.val), (3, 1)]
  | 0x1C => p.katSig
  | 0x1D => pack [(0, p.twinFail.toNat)]
  | 0x80 => pack [(0, p.eccCorr.toNat)]
  | 0x81 => pack [(0, p.eccUncorr.toNat)]
  | 0x82 => pack [(0, p.ueAddr.toNat)]
  | _ => if 0x40 ≤ w ∧ w < 0x80 then vget p.arrive (Fin.ofNat 64 (w - 0x40)) else 0

/-- Two 16-bit halves, low half first. -/
def halves (lo hi : BitVec 16) : Word := pack [(0, lo.toNat), (16, hi.toNat)]

/-- PIPEn, Table 8.7. -/
def readPipe (s : State) (n : Fin 16) (w : Nat) : Word :=
  let p := s.pipe n
  let c := p.cfg.staged
  match w with
  | 0x10 => pack [(0, c.lanes.toNat), (2, c.vc.toNat), (6, c.dt.toNat), (16, c.laneMap.toNat), (24, c.pol.toNat)]
  | 0x11 => pack [(0, c.width.toNat), (15, bit c.strip), (16, c.height.toNat)]
  | 0x12 => halves c.stripHeight c.overlap
  | 0x13 => pack [(0, c.lineTime.toNat)]
  | 0x14 => pack [(0, c.timeout.toNat)]
  | 0x15 => pack [(0, c.mosaic.toNat), (4, c.phaseX.toNat), (6, c.phaseY.toNat), (8, c.table.toNat)]
  | 0x16 => pack [(0, c.tableHi.toNat)]
  | 0x18 => halves (vget c.black 0) (vget c.black 1)
  | 0x19 => halves (vget c.black 2) (vget c.black 3)
  | 0x1A => halves (vget c.black 4) 0
  | 0x1C => halves (vget c.gain 0) (vget c.gain 1)
  | 0x1D => halves (vget c.gain 2) (vget c.gain 3)
  | 0x1E => halves (vget c.gain 4) 0
  | 0x28 => halves (vget c.offset 0) (vget c.offset 1)
  | 0x29 => halves (vget c.offset 2) 0
  | 0x2C => pack [(0, p.rxState.toNat), (2, bit p.deskewed), (3, if p.cfg.live.strip then p.frames.countP fun f => f.claim.isSome && !f.closed else 0), (5, p.pendingCaptures.length)]
  | 0x2D => p.discarded
  | 0x2E => p.otherPkt
  | 0x2F => p.crcLines
  | 0x30 => p.eccCorr
  | 0x31 => match p.owner with
    | none => 0
    | some k => pack [(0, k.val), (3, 1)]
  | _ =>
    if 0x20 ≤ w ∧ w < 0x27 then
      halves (vget c.matrix (Fin.ofNat 15 (2 * (w - 0x20)))) (vget c.matrix (Fin.ofNat 15 (2 * (w - 0x20) + 1)))
    else if w = 0x27 then halves (vget c.matrix 14) 0
    else if 0x100 ≤ w ∧ w < 0x180 then
      halves (vget c.gamma (Fin.ofNat 257 (2 * (w - 0x100)))) (vget c.gamma (Fin.ofNat 257 (2 * (w - 0x100) + 1)))
    else if w = 0x180 then halves (vget c.gamma 256) 0
    else 0

/-- Child commands of a parcel waiting at an engine (Table 7.10 WAITp). -/
def waitingChildren (e : Engine) (parcel : Nat) : Nat :=
  e.waiting.countP fun j => j.press.isSome && j.parcel.val = parcel

/-- JPEG samples and their bytes in the sample list of an Intake command. -/
def jpegWork (s : State) (q : Fin 256) (ops : List Operand) (params : List Byte) : Nat × Nat :=
  match ops with
  | [] => (0, 0)
  | o :: _ =>
    let n := fieldNat params 16 1
    match readRange s { parcel := (s.queue q).cfg.live.parcel.toFin, agent := 0x14, own := none, queue := some q } .read o.space.toNat o.press o.base (16 * n) with
    | .error _ => (0, 0)
    | .ok l => (List.range n).foldl (fun acc i =>
        if fieldNat l (16 * i + 5) 1 % 4 = 0 then (acc.1 + 1, acc.2 + fieldNat l (16 * i + 8) 4) else acc) (0, 0)

/-- R352: the JPEG samples and bytes of the Intake commands that have passed their checks and are not complete. -/
def backlog (s : State) : Nat × Nat :=
  (List.finRange 256).foldl (fun acc q => (s.queue q).cmds.foldl (fun acc c =>
    let open_ := match c.phase with
      | .checked => c.doomed.isNone
      | .started => true
      | .running => true
      | _ => false
    if open_ && fieldNat c.desc 0 1 = 2 && fieldNat c.desc 12 4 = 4 then
      let w := jpegWork s q c.operands c.params
      (acc.1 + w.1, acc.2 + w.2)
    else acc) acc) (0, 0)

/-- Engine pages, Table 7.10; INTAKE goes on in Table 9.9. -/
def readEngine (s : State) (e : Fin 6) (w : Nat) : Word :=
  let x := s.engine e
  match w with
  | 0x1C => pack [(0, x.failStatus.toNat), (8, x.failParcel.toNat)]
  | 0x1D => pack [(0, x.twinFail.toNat)]
  | 0x20 => if e.val = 4 then pack [(0, s.intake.maxPixels.toNat)] else 0
  | 0x21 => if e.val = 4 then pack [(0, (backlog s).1 % 65536)] else 0
  | 0x22 => if e.val = 4 then BitVec.ofNat 32 ((backlog s).2 / 1024) else 0
  | 0x23 => if e.val = 4 then s.intake.corrupt else 0
  | 0x24 => if e.val = 4 then s.intake.oversize else 0
  | _ => if 0x14 ≤ w ∧ w < 0x1C ∧ e.val < 5 then pack [(0, waitingChildren x (w - 0x14))] else 0

/-- Bit n set where core n holds a command. -/
def busyBits (cores : Vector (Option (Fin 256 × Word)) 4) : Nat :=
  (List.range 4).foldl (fun acc i => acc + if (vget cores (Fin.ofNat 4 i)).isSome then 2 ^ i else 0) 0

/-- CODEC, Table 9.10. -/
def readCodec (s : State) (w : Nat) : Word :=
  let c := s.codec
  match w with
  | 0x10 => pack [(0, c.streams.length)]
  | 0x11 => pack [(0, busyBits c.encCores), (4, busyBits c.decCores)]
  | 0x16 => c.concealed
  | 0x17 => pack [(0, c.failStatus.toNat), (8, c.failParcel.toNat), (11, c.failStream.toNat)]
  | _ => 0

/-- R469: has the cork log of a queue room for the next record? -/
def logRoom (q : Queue) : Bool := decide ((q.nextCork - q.consumed).toNat < 128)

/-- R469: may the cork of a sequence number be appended, once its command has ended? -/
def corkDue (q : Queue) (seq : Word) : Bool := seq = q.nextCork && logRoom q

/-- Corks held (R470): ended commands whose cork cannot yet be appended. -/
def corksHeld (q : Queue) : Nat := q.cmds.countP fun c => match c.phase with
  | .ended _ _ => !corkDue q c.seq
  | _ => false

/-- QUEUEq.STATE.STATE (Table 12.6, R447). -/
def queueStateCode (s : State) (q : Fin 256) : Nat :=
  let x := s.queue q
  if !x.cfg.live.en then 0 else if x.stopped then 2 else if hostAsleep s then 3 else 1

/-- QGRPk, Table 12.6. -/
def readQgrp (s : State) (k w : Nat) : Word :=
  if 0x40 ≤ w ∧ w < 0x140 then
    let qn : Fin 256 := Fin.ofNat 256 (16 * k + (w - 0x40) / 16)
    let q := s.queue qn
    let c := q.cfg.staged
    match w % 16 with
    | 0 => pack [(0, bit c.en), (1, bit c.continuePolicy), (2, c.wire.toNat), (4, c.parcel.toNat), (8, c.size.toNat)]
    | 1 => pack [(0, queueStateCode s qn), (2, corksHeld q)]
    | 3 => q.read
    | 4 => q.nextCork
    | 5 => q.lastErrSeq
    | 6 => pack [(0, q.lastErr.toNat)]
    | 7 => q.errors
    | 8 => q.cancelled
    | _ => 0
  else 0

/-- PARCELn, Table 13.7, CTRL included. -/
def readParcel (s : State) (n : Fin 8) (w : Nat) : Word :=
  let p := s.parcel n
  let c := p.cfg.staged
  match w with
  | 2 => pack [(0, bit c.rack), (1, bit c.live), (4, c.sliceUs.toNat)]
  | 0x10 => pack [(0, c.rackWaitUs.toNat)]
  | 0x11 => pack [(0, p.state.toNat), (2, bit p.holder.isSome), (16, (p.holder.getD 0).toNat)]
  | 0x12 => pack [(0, p.presses.toNat), (16, p.pipes.toNat)]
  | 0x13 => pack [(0, p.saveVpn.toNat), (24, p.saveSlots.toNat)]
  | 0x14 => pack [(0, p.saveFree.toNat)]
  | 0x15 => p.kills
  | 0x16 => p.racks
  | 0x17 => p.fallbacks
  | _ => 0

/-- ACCT0 to ACCT32, Table 13.8. -/
def readAcct (s : State) (pg w : Nat) : Word :=
  if pg = 88 ∧ w = 0x10 then
    pack [(0, s.acct.slots.length + bit s.acct.merged.isSome), (13, bit s.acct.merged.isSome)]
  else match acctPlace pg w with
  | none => 0
  | some (i, k) =>
    match acctSlot s.acct i with
    | none => 0
    | some a =>
      match k with
      | 0 => pack [(0, a.context.toNat), (16, a.parcel.toNat), (31, 1)]
      | 1 => a.preempted
      | 6 => a.retired
      | _ => 0

/-- The block-specific word of a page. -/
def readBlock (s : State) (p w : Nat) : Word :=
  if p = 0 then readDevice s w else if p = 1 then readFw s w else if p = 2 then readBoot s w
  else if p = 3 then readHostPort s w else if p = 4 then readClocks s w else if p = 5 then readPower s w
  else if p = 6 then readThermal s w else if p = 7 then readAgeing s w else if p = 8 then readSafety s w
  else if p = 9 then readDiag s w else if p = 10 then readBook s w else if p = 11 then readVine s w
  else if p ≤ 15 then readAlarm s p w else if p = 16 then readMmu s w else if p = 17 then readMemctl s w
  else if p = 18 then readCellar s w else if p = 19 then readPresses s w
  else if p ≤ 35 then readPress s (Fin.ofNat 16 (p - 20)) w
  else if p ≤ 51 then readPipe s (Fin.ofNat 16 (p - 36)) w
  else if p ≤ 57 then readEngine s (Fin.ofNat 6 (p - 52)) w
  else if p = 58 then readCodec s w
  else if p ≤ 79 then readQgrp s (p - 64) w
  else if p ≤ 87 then readParcel s (Fin.ofNat 8 (p - 80)) w
  else readAcct s p w

/-- A register word of an allocated page: a LO word, a HI word as latched, a common or a block-specific register. -/
def regRead (s : State) (p w : Nat) : Word :=
  if offPress s p ∧ 1 ≤ w then 0
  else match longAt s p w with
  | some x => loWord x
  | none =>
    if 1 ≤ w ∧ (longAt s p (w - 1)).isSome then latchedAt s p w
    else if w < 16 ∧ w ≠ 2 then readCommon s (page p) w
    else readBlock s p w

/-- R424: a read of a LO word latches the HI word. -/
def latchHi (p w : Nat) (s : State) : State :=
  match highHalf s p w with
  | none => s
  | some x => { s with port := { s.port with hiLatch := putKey s.port.hiLatch (wordKey p (w + 1)) x } }

/-- Read one register word as the host does: its value, and the state with its HI word latched. -/
def regReadLatch (p w : Nat) (s : State) : Word × State := (regRead s p w, latchHi p w s)

end Sys2Proof.Machine
end

