-- ==== Sys2Proof/Machine/Outputs.lean ====
section
/-! DEFINITION. The fields of a command, the operands that it writes, and what its writes and its kill leave undefined (R249,
R262, R407, R433, R467). -/

namespace Sys2Proof.Machine

/-! ### Descriptor fields (Table 4.1) -/

/-- KIND. -/
def Cmd.kind (c : Cmd) : Nat := fieldNat c.desc 0 1
/-- FLAGS.TWIN. -/
def Cmd.twinFlag (c : Cmd) : Bool := fieldNat c.desc 1 1 % 2 = 1
/-- FLAGS.QUIET. -/
def Cmd.quiet (c : Cmd) : Bool := fieldNat c.desc 1 1 / 2 % 2 = 1
/-- CONTEXT. -/
def Cmd.context (c : Cmd) : BitVec 16 := BitVec.ofNat 16 (fieldNat c.desc 2 2)
/-- TARGET. -/
def Cmd.target (c : Cmd) : Nat := fieldNat c.desc 12 4
/-- PROGRAM. -/
def Cmd.program (c : Cmd) : Nat := fieldNat c.desc 16 8
/-- PARAM_LEN. -/
def Cmd.paramLen (c : Cmd) : Nat := fieldNat c.desc 24 4
/-- RT_DIMS. -/
def rtDims (desc : List Byte) : List Nat := (List.range 4).map fun i => fieldNat desc (48 + 2 * i) 2
/-- RACK_MAP. -/
def Cmd.rackHandle (c : Cmd) : Nat := fieldNat c.desc 56 2

/-- Parcel of a queue. -/
def State.parcelOf (s : State) (q : Fin 256) : Fin 8 := (s.queue q).cfg.live.parcel.toFin

/-- The object of a handle. -/
def State.object (s : State) (h : Nat) : Option Obj := lookupKey s.objects h

/-- Change an object. -/
def State.updObject (s : State) (h : Nat) (f : Obj → Obj) : State :=
  match s.object h with
  | none => s
  | some o => { s with objects := putKey s.objects h (f o) }

/-! ### The operands that a command writes -/

/-- Output operands of an engine command: index and bits of an element. -/
def engineOutputs (e : Nat) (ops : List Operand) (l : List Byte) : List (Operand × Nat) :=
  let t (i : Nat) : Operand × Nat := (opAt ops i, fmtBits (opAt ops i).fmt)
  match e with
  | 0 => [t (if fieldNat l 0 1 = 0 then 2 else 1)]
  | 1 => let r := if fieldNat l 16 1 = 0 then 2 else 3
         [(opAt ops r, 8), (opAt ops (r + 1), 8)]
  | 4 =>
    let w := if fieldNat l 1 1 / 2 % 2 = 1 then 2 else 1
    let out := opAt ops (w + 1)
    [(opAt ops w, 8), (opAt ops (w + 2), 8)] ++ (List.range (fieldNat l 16 1)).map fun i =>
      ({ out with addr := BitVec.ofNat 40 ((out.base + i * fieldNat l 56 8) % 2 ^ 38) }, fmtBits out.fmt)
  | _ => [t 1]

/-- Output operands of a codec function (Table 9.5): index and bits of an element. -/
def codecOutputs (f : Nat) (ops : List Operand) : List (Operand × Nat) :=
  let places := if f = 1 then [5, 6, 7, 8, 9] else if f = 4 then [2, 3] else [2, 3, 4, 5]
  places.map fun i => (opAt ops i, fmtBits (opAt ops i).fmt)

/-- The operands through which a command of another block than the presses writes. -/
def Cmd.outputs (c : Cmd) : List (Operand × Nat) :=
  match c.kind with
  | 2 => engineOutputs (c.target % 256) c.operands c.params
  | 4 => [(opAt c.operands 1, fmtBits (opAt c.operands 1).fmt)]
  | 5 => codecOutputs (c.target % 256) c.operands
  | _ => []

/-- The instructions of all streams of a command. -/
def Cmd.instrs (c : Cmd) : List PressInstr := c.streams.flatMap fun t => t.2

/-- The destinations of the DMA instructions of a command. -/
def Cmd.dmaOutputs (c : Cmd) : List Operand :=
  c.instrs.filterMap fun i => if i.opcode = 3 then c.operands[i.opout.toNat]? else none

/-- The byte ranges that writes of an output may touch. -/
def outputRanges (o : Operand × Nat) : List (Int × Nat) := if o.1.compress = 0 then o.1.rowRanges o.2 else [o.1.blockRange]

/-- R433: the staging ranges, as slot offsets, that commands which have started and not retired write: their contents are
undefined to the host until the cork. -/
def unsettledStaging (s : State) : List (Nat × Nat) :=
  s.queues.toList.flatMap fun q => (q.cmds.filter Cmd.unsettled).flatMap fun c =>
    ((c.outputs ++ c.dmaOutputs.map fun o => (o, fmtBits o.fmt)).filter fun o => o.1.space = 3).flatMap fun o =>
      (outputRanges o).map fun r => ((max 0 ((stagingBase : Int) + r.1)).toNat, r.2)

/-! ### Fold images (R190, R191) -/

/-- Live ranges with the place at which each lies in its fold image: start, length, offset. -/
def packRanges : List (Nat × Nat) → Nat → List (Nat × Nat × Nat)
  | [], _ => []
  | r :: rest, at_ => (r.1, r.2, at_) :: packRanges rest (at_ + r.2)

/-- R191: the address in a fold image that stands for a Cask offset, when it holds that offset. -/
def FoldImage.address (f : FoldImage) (offset : Nat) : Option Nat :=
  ((packRanges f.ranges 0).find? fun r => decide (r.1 ≤ offset) && decide (offset < r.1 + r.2.1)).map fun r =>
    f.base + r.2.2 + (offset - r.1)

/-! ### Undefined contents -/

/-- Leave the bytes at a place undefined. -/
def State.wipeLoc (s : State) (n : Nat) (l : Loc) : State :=
  match l with
  | .cask p a => s.updPress p fun x => { x with cask := x.cask.wipe a n s.freeCtr }
  | .cellar a => { s with cellar := { s.cellar with mem := s.cellar.mem.wipe a n s.freeCtr } }
  | .staging a => s.updWindow fun m => m.wipe a n s.freeCtr
  | .dram a => { s with dram := s.dram.wipe a n s.freeCtr }

/-- Leave a range of a memory space undefined; a part that cannot be accessed was never written. -/
def wipeRange (cx : Cx) (space : Nat) (press : Fin 16) (a : Int) (n : Nat) (s : State) : State :=
  match locate s cx .write space press a n with
  | .error _ => s
  | .ok parts => foldState (fun p s => s.wipeLoc p.2 p.1) parts s.bump

/-- Leave the physical bytes of a virtual range undefined. -/
def wipeVirtual : Nat → Nat → Nat → State → State
  | 0, _, _, s => s
  | fuel + 1, va, n, s =>
    if n = 0 then s
    else
      let k := min n (16384 - va % 16384)
      let t := ttEntry s (va / 16384)
      let s1 := if t.valid then
          { s.bump with dram := s.dram.wipe (t.ppn.toNat * 16384 + va % 16384) k s.freeCtr } else s
      wipeVirtual fuel (va + k) (n - k) s1

/-- R407: every OUT object of a command holds undefined contents. -/
def wipeOutputs (c : Cmd) (s : State) : State :=
  foldState (fun r s => match s.object r.handle with
    | none => s
    | some o => if r.isOut then wipeVirtual (o.length / 16384 + 2) o.base o.length s else s) c.objs s

/-- R249: the Cask contents and counters 0 to 62 of a press are undefined. -/
def wipePress (p : Fin 16) (s : State) : State :=
  s.bump.updPress p fun x => { x with
    cask := x.cask.wipe 0 0x600000 s.freeCtr
    arrive := vmap x.arrive fun i v => if i.val < 63 then Config.freeWord s.freeCtr i.val else v }

/-- Leave the Cellar lines undefined that a range of a parcel's share touches; what lies outside the share was never written. -/
def wipeLines (n : Fin 8) (event : Nat) (a : Int) (len : Nat) (s : State) : State :=
  let sh := vget s.cellar.shares.live n
  let lo := (max a 0).toNat / 128 * 128
  let hi := min (sh.size.toNat * 1048576) (((max (a + len) 0).toNat + 127) / 128 * 128)
  if hi ≤ lo then s
  else { s with cellar := { s.cellar with mem := s.cellar.mem.wipe (sh.base.toNat * 1048576 + lo) (hi - lo) event } }

/-- Leave what may be written through an output operand undefined; in the Cellar that is every line it touches (R249, R262). -/
def wipeOutput (cx : Cx) (s : State) (o : Operand × Nat) : State :=
  (outputRanges o).foldl (fun s r =>
    if o.1.space = 1 then wipeLines cx.parcel s.freeCtr r.1 r.2 s.bump
    else wipeRange cx o.1.space.toNat o.1.press r.1 r.2 s) s

/-- The context in which a queue's outputs lie. -/
def queueCx (s : State) (q : Fin 256) : Cx := { parcel := s.parcelOf q, agent := agentFrontEnd, own := none, queue := some q }

/-- R249, R407, R433: what a killed command could have written besides its OUT objects and Casks: the Cellar lines and staging
bytes of its DMAs, and, through a child whose descriptor it reads only when it issues it, any line of its Cellar share. -/
def wipeMoved (q : Fin 256) (c : Cmd) (s : State) : State :=
  let n := s.parcelOf q
  let outs := (c.dmaOutputs.filter fun o => o.space = 1 || o.space = 3).map fun o => (o, fmtBits o.fmt)
  let s1 := outs.foldl (wipeOutput (queueCx s q)) s
  if c.instrs.any fun i => i.opcode = 5 then
    wipeLines n s1.freeCtr 0 ((vget s.cellar.shares.live n).size.toNat * 1048576) s1.bump
  else s1

end Sys2Proof.Machine
end

