-- ==== Sys2Proof/Machine/Queues.lean ====
section
/-! DEFINITION. What a queue holds and how its commands end: descriptors, holds, waits under R40, queue policies, kills and
requeues (R455 to R478, R131, R249, R402 to R407). -/

namespace Sys2Proof.Machine

/-- Is the command ended (its cork held or about to be appended)? -/
def Phase.isEnded : Phase → Bool
  | .ended _ _ => true
  | _ => false

/-- Has the command been checked and not started? -/
def Phase.isChecked : Phase → Bool
  | .checked => true
  | _ => false

/-- Does the command occupy its presses: started, stopping, saving, being restored or being killed? -/
def Phase.occupies : Phase → Bool
  | .started | .running | .saving _ | .restoring _ | .written _ _ | .killing _ _ | .killingRequeue => true
  | _ => false

/-- May a PRESS_PROGRAM command start or resume (R490): waits met, requeued or suspended? -/
def Cmd.ready (c : Cmd) : Bool :=
  c.kind = 1 && match c.phase with
  | .checked => c.waits.isEmpty && c.doomed.isNone
  | .requeued => true
  | .suspended _ => true
  | _ => false

/-- The command of a queue with a sequence number. -/
def Queue.find (q : Queue) (seq : Word) : Option Cmd := q.cmds.find? fun c => decide (c.seq = seq)

/-- Change the command with a sequence number. -/
def Queue.upd (q : Queue) (seq : Word) (f : Cmd → Cmd) : Queue :=
  { q with cmds := q.cmds.map fun c => if c.seq = seq then f c else c }

/-- The command of a queue of the device. -/
def State.cmd (s : State) (q : Fin 256) (seq : Word) : Option Cmd := (s.queue q).find seq

/-- Change a command of the device. -/
def State.updCmd (s : State) (q : Fin 256) (seq : Word) (f : Cmd → Cmd) : State := s.updQueue q fun x => x.upd seq f

/-- Presses of a parcel in ascending number. -/
def parcelPresses (s : State) (n : Fin 8) : List (Fin 16) := maskPresses (s.parcel n).presses


/-- R137: the twin of a primary press in a parcel, if it has one. -/
def twinPress (s : State) (n : Fin 8) (p : Fin 16) : Option (Fin 16) :=
  let l := parcelPresses s n
  let half := l.length / 2
  match l.findIdx? fun x => decide (x = p) with
  | none => none
  | some j => if j < half then l[j + half]? else none

/-- PRESS_MASK of a PRESS_PROGRAM command. -/
def Cmd.pressMask (c : Cmd) : BitVec 16 := BitVec.ofNat 16 c.target

/-- The presses that a command occupies: those of PRESS_MASK and, when twinned, their twins (R490). -/
def occupied (s : State) (n : Fin 8) (c : Cmd) : List (Fin 16) :=
  let l := maskPresses c.pressMask
  if c.twinned then l ++ l.filterMap (twinPress s n) else l

/-! ### Holds and objects (R399 to R405) -/

/-- R402: acceptance raises the hold count of each listed object. -/
def takeHolds (l : List ObjRef) (s : State) : State :=
  foldState (fun r s => s.updObject r.handle fun o => { o with holds := o.holds + 1 }) l s

/-- R405: release frees the handle. -/
def releaseObject (h : Nat) (s : State) : State := { s with objects := dropKey s.objects h }

/-! ### Faults in the log (R409, Table 10.9) -/

/-- Record a fault in the MMU fault log and count it. -/
def noteFault (n : Fin 8) (st : Stop) (s : State) : State :=
  if st.status = 0x20 ∨ st.status = 0x21 then
    let d := st.data.toNat
    let e : FaultEntry :=
      { va := BitVec.ofNat 38 d, cause := BitVec.ofNat 3 (d / 2 ^ 38), access := BitVec.ofNat 2 (d / 2 ^ 41),
        agent := BitVec.ofNat 8 (d / 2 ^ 43), parcel := BitVec.ofFin n, time := s.time }
    { s with mmu := { s.mmu with
      faults := satInc s.mmu.faults 1
      log := vset s.mmu.log s.mmu.logNext.toFin e
      logNext := s.mmu.logNext + 1 } }
  else s

/-! ### Presses of a command -/

/-- Is a barrier open for a parcel (R651): a BARRIER command on one of its queues accepted and not ended? -/
def barrierOpen (s : State) (n : Fin 8) : Bool :=
  s.queues.toList.any fun q => q.cfg.live.en && q.cfg.live.parcel.toFin = n &&
    q.cmds.any fun c => c.kind = 6 && !c.phase.isEnded

/-- May topping work run: enabled, no alert (R645), not too hot (R650)? Being in state TOPPING is TOPPING.EN and an open
barrier alone (R651). -/
def toppingAllowed (s : State) : Bool := s.power.toppingEn && !s.pins.pwrAlert && !s.thermal.overTemp

/-- A press whose command has left it: idle, or in topping work while a barrier is open for its parcel (R651, R652). CONTEXT keeps
the last tag (DESIGN CHOICE, log entry 49). -/
def freePress (p : Fin 16) (s : State) : State :=
  let open_ := match (s.press p).assigned with
    | none => false
    | some n => barrierOpen s n
  s.updPress p fun x => { x with
    mode := if open_ && s.power.toppingEn then .topping else .idle
    topping := 0, sequencer := none, twin := false, twinRole := false, twinPeer := 0 }

/-- R651: while a barrier is open for a parcel, its presses that hold no command are in state TOPPING and do not sleep;
otherwise they leave it. -/
def settleTopping (n : Fin 8) (s : State) : State :=
  let on := barrierOpen s n && s.power.toppingEn
  { s with presses := vmap s.presses fun _ x =>
    if x.assigned = some n && x.sequencer.isNone then
      match x.mode with
      | .topping => if on then x else { x with mode := .idle, topping := 0 }
      | .idle | .sleep => if on then { x with mode := .topping } else x
      | _ => x
    else x }

/-- The presses that run or are being killed for a command. -/
def pressesOf (s : State) (q : Fin 256) (seq : Word) : List (Fin 16) :=
  (List.finRange 16).filter fun p => match (s.press p).sequencer with
    | none => false
    | some k => k.queue = q && k.seq = seq

/-- Remove a command's waiting engine jobs, its own or its children's (R30, R262). -/
def dropJobs (q : Fin 256) (seq : Word) (s : State) : State :=
  let keep (j : EngineJob) : Bool := !(j.queue = q && j.seq = seq)
  { s with engines := vmap s.engines fun _ e => { e with waiting := e.waiting.filter keep, done := e.done.filter keep } }

/-- The parcel that a unit serves next: round robin after the last one served (R29). -/
def nextParcel (last : Fin 8) (waits : Fin 8 → Bool) : Option (Fin 8) :=
  ((List.range 8).map fun i => last + Fin.ofNat 8 (i + 1)).find? waits

/-- Does a function run on an encode core (R354)? -/
def isEncode (f : Nat) : Bool := f = 1 || f = 4

/-- The waiting command that a core of a kind takes next (R354). -/
def nextCodec (s : State) (encode : Bool) : Option (Fin 256 × Word) :=
  let mine (w : Fin 256 × Word) : Bool := match s.cmd w.1 w.2 with
    | none => false
    | some c => isEncode c.target == encode
  match nextParcel (if encode then s.codec.lastEnc else s.codec.lastDec)
      fun n => s.codec.waiting.any fun w => mine w && decide (s.parcelOf w.1 = n) with
  | none => none
  | some n => s.codec.waiting.find? fun w => mine w && decide (s.parcelOf w.1 = n)

/-- The first free core of a kind. -/
def freeCore (cores : Vector (Option (Fin 256 × Word)) 4) : Option (Fin 4) :=
  ([0, 1, 2, 3] : List (Fin 4)).find? fun i => (vget cores i).isNone

/-- The first free core of a kind takes the next waiting command of that kind. -/
def takeCore (encode : Bool) (s : State) : State :=
  match freeCore (if encode then s.codec.encCores else s.codec.decCores), nextCodec s encode with
  | some i, some w =>
    let c := { s.codec with waiting := s.codec.waiting.filter fun x => decide (x ≠ w) }
    { s with codec :=
      if encode then { c with encCores := vset c.encCores i (some w), lastEnc := s.parcelOf w.1 }
      else { c with decCores := vset c.decCores i (some w), lastDec := s.parcelOf w.1 } }
  | _, _ => s

/-- R354: every free core takes a waiting command of its kind. -/
def assignCores (s : State) : State :=
  foldState takeCore [true, true, true, true, false, false, false, false] s

/-- Remove a command from the codec's waiting list and from its core, which takes the next. -/
def dropCodec (q : Fin 256) (seq : Word) (s : State) : State :=
  let free (x : Option (Fin 256 × Word)) : Option (Fin 256 × Word) := if x = some (q, seq) then none else x
  assignCores { s with codec := { s.codec with
    waiting := s.codec.waiting.filter fun w => !(w.1 = q && w.2 = seq)
    encCores := vmap s.codec.encCores fun _ x => free x
    decCores := vmap s.codec.decCores fun _ x => free x } }

/-- Is a command on a core? -/
def onCore (s : State) (q : Fin 256) (seq : Word) : Bool :=
  (s.codec.encCores.toList ++ s.codec.decCores.toList).any fun x => decide (x = some (q, seq))

/-- R326, R327: a command leaves its pipeline: a pending capture is removed; a claimed frame goes on unclaimed and is
discarded and counted. -/
def dropCapture (q : Fin 256) (seq : Word) (s : State) : State :=
  let mine (r : CaptureRef) : Bool := r.queue = q && r.seq = seq
  { s with pipes := vmap s.pipes fun _ p =>
    let n := p.frames.countP fun f => match f.claim with
      | some r => mine r
      | none => false
    { p with
      pendingCaptures := p.pendingCaptures.filter fun r => !mine r
      discarded := satInc p.discarded n
      sinceClaim := p.sinceClaim + BitVec.ofNat 32 n
      frames := p.frames.map fun f => match f.claim with
        | some r => if mine r then { f with claim := none } else f
        | none => f } }

/-! ### The end of a command -/

/-- R478: mark the commands that wait for a failed command; the root is the failure they arose from. -/
def doomWaiters (failed root : Word) (q : Queue) : Queue :=
  { q with cmds := q.cmds.map fun c =>
    if c.phase.isChecked && c.waits.contains failed && c.doomed.isNone then { c with doomed := some root } else c }

/-- R40: a committed command no longer holds its waiters. -/
def clearWaits (seq : Word) (q : Queue) : Queue :=
  { q with cmds := q.cmds.map fun c => { c with waits := c.waits.filter fun w => decide (w ≠ seq) } }

/-- Does the interval that a command is in count as run time (R509)? A command that is done and waits to end stays on the side
on which it was. -/
def Cmd.charged (c : Cmd) : Bool :=
  match c.phase with
  | .due _ _ => decide (c.runNs ≠ 0)
  | p => p.occupies

/-- Close the running interval of a command's accounting (R509). -/
def closeInterval (now : Long) (c : Cmd) : Cmd :=
  let d := (now - c.since).toNat
  if c.charged then { c with runNs := c.runNs + d, since := now }
  else { c with waitNs := c.waitNs + d, since := now }

/-- Is the status an error (R474)? -/
def isError (status : Byte) : Bool := status ≠ 0 && status ≠ 1 && status ≠ 2

/-- What the end of a command does to its queue: counters, policy STOP, waiters (R474, R475, R478). -/
def queueAfterEnd (seq : Word) (status : Byte) (data : Long) (q : Queue) : Queue :=
  if isError status then
    let q1 := { doomWaiters seq seq q with lastErrSeq := seq, lastErr := status, errors := satInc q.errors 1 }
    if !q.cfg.live.continuePolicy && !q.stopped then { q1 with stopped := true, stopSeq := seq, resume := none } else q1
  else if status = 2 then
    { doomWaiters seq (data.setWidth 32) q with cancelled := satInc q.cancelled 1 }
  else clearWaits seq q

/-- A command that ends now. -/
def endedNow (now : Long) (status : Byte) (data : Long) (c : Cmd) : Cmd :=
  { closeInterval now c with phase := .ended status data, tEnd := now }

/-- Set a command that has not ended yet ended, with its time and its effect on the queue. -/
def endInQueue (now : Long) (seq : Word) (status : Byte) (data : Long) (q : Queue) : Queue :=
  queueAfterEnd seq status data (q.upd seq fun c => if c.phase.isEnded then c else endedNow now status data c)

/-- The first command that the queue should now cancel: doomed under R478, or not started under STOPPED or RESUME. An accepted
OBJECT_FREE command is never cancelled (R462). -/
def cancelCandidate (q : Queue) : Option (Word × Word) :=
  let due (seq : Word) : Bool := q.stopped && match q.resume with
    | none => true
    | some mark => earlier seq mark
  match q.cmds.find? fun c => c.phase.isChecked && c.kind ≠ 7 && (c.doomed.isSome || due c.seq) with
  | none => none
  | some c => some (c.seq, if due c.seq then q.stopSeq else c.doomed.getD q.stopSeq)

/-- Is the next unread command cancelled without being read (R475, R476)? -/
def cancelUnread (q : Queue) : Bool :=
  q.stopped && q.read ≠ q.tail && match q.resume with
  | none => true
  | some mark => earlier q.read mark

/-- Entry of the ring after `e` (R454). -/
def nextEntry (q : Queue) (e : Nat) : Nat := if e < q.cfg.live.size.toNat then e + 1 else 1

/-- When a command of a sequence number was submitted. -/
def submittedAt (q : Queue) (seq : Word) (now : Long) : Long :=
  ((q.submitTimes.find? fun p => decide (p.1 = seq)).map fun p => p.2).getD now

/-- R470: may a command of a queue end now? With 64 corks held, only the one whose cork can be appended at once. -/
def mayEnd (q : Queue) (seq : Word) : Bool := decide (corksHeld q < 64) || corkDue q seq

/-- The first command that is done and whose end has waited for a cork to be appended (R470). -/
def dueCandidate (q : Queue) : Option (Word × Byte × Long) :=
  q.cmds.findSome? fun c => match c.phase with
    | .due st data => if mayEnd q c.seq then some (c.seq, st, data) else none
    | _ => none

/-! ### What a command that is not checked names (R40) -/

/-- The context of front-end reads for a queue. -/
def frontCx (s : State) (q : Fin 256) : Cx := queueCx s q

/-- A front-end read of device virtual memory (R394). -/
def frontRead (s : State) (q : Fin 256) (va len : Nat) : Except Stop (List Byte) :=
  readRange s (frontCx s q) .frontEnd 2 0 (va : Int) len

/-- OBJECT_COUNT in force. -/
def Cmd.objectCount (c : Cmd) : Nat := if c.kind = 8 then 0 else fieldNat c.desc 38 2

/-- OPERAND_COUNT in force. -/
def Cmd.operandCount (c : Cmd) : Nat := if c.kind = 8 then 0 else fieldNat c.desc 36 2

/-- The entries of an object list. -/
def parseObjects (l : List Byte) (n : Nat) : List ObjRef :=
  (List.range n).map fun i =>
    { handle := fieldNat l (4 * i) 2, isIn := fieldNat l (4 * i + 2) 1 % 2 = 1
      isOut := fieldNat l (4 * i + 2) 1 / 2 % 2 = 1 }

/-- R40: the objects that the list of a rejected command, or of one cancelled unread, names as written. -/
def namedObjects (s : State) (q : Fin 256) (c : Cmd) : List ObjRef :=
  let k := c.objectCount
  if k = 0 ∨ 64 < k then []
  else match frontRead s q (fieldNat c.desc 40 8 % 2 ^ 38) (4 * k) with
  | .error _ => []
  | .ok raw => parseObjects raw k

/-- The command in the ring entry that the front end reads next, as its entry stands (R468). -/
def nextEntryCmd (s : State) (qn : Fin 256) : Cmd :=
  let q := s.queue qn
  let at_ := submittedAt q q.read s.time
  { seq := q.read, desc := s.port.window.readBytes (ringBase qn + 64 * q.readEntry) 64, phase := .checked,
    submitted := at_, since := at_ }

/-- The front end has taken the next ring entry of a queue (R459). -/
def takeEntry (q : Queue) : Queue :=
  { q with read := q.read + 1, readEntry := nextEntry q q.readEntry
           submitTimes := q.submitTimes.filter fun p => decide (p.1 ≠ q.read) }

/-- One end that is due in a queue: of a command that is done, or a cancellation while fewer than 64 corks are held (R470). A
command that is cancelled unread stands for the objects that its entry names (R40). -/
def endOne (s : State) (qn : Fin 256) : Option State :=
  let q := s.queue qn
  if s.safety.safe then none
  else match dueCandidate q with
  | some (seq, st, data) => some (s.updQueue qn (endInQueue s.time seq st data))
  | none =>
    if 64 ≤ corksHeld q then none
    else match cancelCandidate q with
    | some (seq, root) => some (s.updQueue qn (endInQueue s.time seq 2 (root.setWidth 64)))
    | none =>
      if cancelUnread q then
        let c := nextEntryCmd s qn
        let c1 := { c with objs := namedObjects s qn c }
        let root := q.stopSeq.setWidth 64
        some (s.updQueue qn fun x => queueAfterEnd c.seq 2 root
          { takeEntry x with cmds := x.cmds ++ [endedNow s.time 2 root c1] })
      else none

/-- R476: with nothing left to cancel before the RESUME, the queue returns to ACTIVE. -/
def finishResume (qn : Fin 256) (s : State) : State :=
  let q := s.queue qn
  if q.resume.isSome && (cancelCandidate q).isNone && !cancelUnread q then
    s.updQueue qn fun x => { x with stopped := false, resume := none }
  else s

/-- End everything that is due, in sequence order, while corks can be held. -/
def sweep : Nat → Fin 256 → State → State
  | 0, qn, s => finishResume qn s
  | fuel + 1, qn, s =>
    match endOne s qn with
    | none => finishResume qn s
    | some s1 => sweep fuel qn s1

/-- The holder of a parcel that has no running or ready PRESS_PROGRAM command goes (R492). -/
def settleHolder (n : Fin 8) (s : State) : State :=
  let busy := s.queues.toList.any fun q => q.cfg.live.en && q.cfg.live.parcel.toFin = n &&
    q.cmds.any fun c => c.kind = 1 && (c.phase.occupies || c.ready)
  if busy then s else s.updParcel n fun p => { p with holder := none }

/-- The ends and cancellations that are due in a queue, of which at most 64 are held; a parcel without a running or ready
PRESS_PROGRAM command has no holder, and presses leave topping work with the last barrier. -/
def sweepQueue (qn : Fin 256) (s : State) : State :=
  let n := s.parcelOf qn
  settleTopping n (settleHolder n (sweep 66 qn s))

/-- Release the save slot that a command holds (R500, R501). -/
def freeSlot (n : Fin 8) (slot : Nat) (s : State) : State :=
  s.updParcel n fun p => { p with saveFree := p.saveFree ||| BitVec.ofNat 16 (2 ^ slot) }

/-- The save slot of a phase. -/
def Phase.slot : Phase → Option Nat
  | .saving k => some k
  | .suspended k => some k
  | .restoring k => some k
  | _ => none

/-- The save slots that a command holds (R500, R501): of its phase, and one taken by a pending pre-emption. -/
def Cmd.slots (c : Cmd) : List Nat := c.phase.slot.toList ++ c.rackSlot.toList

/-- Release every save slot that a command holds (R501, R502, R507). -/
def releaseSlots (qn : Fin 256) (seq : Word) (s : State) : State :=
  match s.cmd qn seq with
  | none => s
  | some c => (foldState (freeSlot (s.parcelOf qn)) c.slots s).updCmd qn seq fun x =>
      { x with rackSlot := none, rackRequested := false }

/-- R461: a command ends with a status. Its presses fall idle, its queue reacts, and due cancellations follow. While 64 corks
are held its end waits (R470). In the safe state no command ends (R672, R675). -/
def endCmd (qn : Fin 256) (seq : Word) (status : Byte) (data : Long) (s : State) : State :=
  if s.safety.safe then s
  else
    let ps := pressesOf s qn seq
    let s1 := releaseSlots qn seq s
    let s2 := if mayEnd (s1.queue qn) seq then s1.updQueue qn (endInQueue s.time seq status data)
      else s1.updCmd qn seq fun c => { closeInterval s.time c with phase := .due status data }
    sweepQueue qn (traceEvent 0x38 0x0201 (foldState freePress ps s2))

/-- R131: a press that a kill reaches stops: no shadow tile, no drain, no DMA, and its state reads KILLING. -/
def stopPress (p : Fin 16) (s : State) : State :=
  s.bump.updPress p fun x => { x with
    mode := .killing, shadow := none
    accumulators := x.accumulators.wipe 0 0x80000 s.freeCtr
    sideStore := x.sideStore.wipe 0 0x1000 s.freeCtr
    sequencer := x.sequencer.map fun k => { k with jobs := [], drains := [], children := 0, waiting := false } }

/-- The engine commands that belong to a command, waiting or finished and not yet signalled: engine, and job. -/
def childJobs (s : State) (q : Fin 256) (seq : Word) : List (Nat × EngineJob) :=
  (s.engines.toList.zipIdx).flatMap fun x =>
    ((x.1.waiting ++ x.1.done).filter fun j => j.queue = q && j.seq = seq).map fun j => (x.2, j)

/-- R262: the outputs of the aborted children of a command are undefined, wherever they lie. -/
def wipeChildren (q : Fin 256) (seq : Word) (s : State) : State :=
  (childJobs s q seq).foldl (fun s j => (engineOutputs j.1 j.2.operands j.2.params).foldl (wipeOutput (queueCx s q)) s) s

/-- R131, R249: what a kill of a PRESS_PROGRAM command stops and leaves undefined. -/
def stopProgram (qn : Fin 256) (c : Cmd) (s : State) : State :=
  let ps := pressesOf s qn c.seq
  let s1 := wipeOutputs c (dropJobs qn c.seq (wipeChildren qn c.seq (foldState stopPress ps s)))
  releaseSlots qn c.seq (wipeMoved qn c (foldState wipePress (ps.filter fun p => !(s.press p).twinRole) s1))

/-- R262, R327, R366, R407: what a kill of a command of another kind stops and leaves undefined. -/
def stopBlock (qn : Fin 256) (c : Cmd) (s : State) : State :=
  let s1 := wipeOutputs c (dropCapture qn c.seq (dropCodec qn c.seq (dropJobs qn c.seq s)))
  c.outputs.foldl (wipeOutput (queueCx s qn)) s1

/-- May a kill still reach a command in a phase? Only the first cause counts (R133, R409). -/
def Phase.killable : Phase → Bool
  | .killing _ _ | .killingRequeue | .due _ _ | .ended _ _ | .checked | .requeued => false
  | _ => true

/-- Kill a command with a status (R131, R249, R262, R327, R366, R407). A PRESS_PROGRAM command ends when its presses are
idle (KILL_COMPLETE), a suspended one and every other kind at the kill. A command that has ended or is being killed is left as it
is, and a held access kills nothing (R383). -/
def killCmd (qn : Fin 256) (seq : Word) (st : Stop) (s0 : State) : State :=
  if st.held then s0
  else
    let s := noteFault (s0.parcelOf qn) st s0
    match s.cmd qn seq with
    | none => s
    | some c =>
      if !c.phase.killable then s
      else if c.kind ≠ 1 then endCmd qn seq st.status st.data (stopBlock qn c s)
      else match c.phase with
      | .suspended _ => endCmd qn seq st.status st.data s
      | _ => (stopProgram qn c s).updCmd qn seq fun x => { x with phase := .killing st.status st.data }

/-- LAST_FAIL of the engine or of the codec whose agent code made the access that failed (Tables 7.10, 9.10 and 10.8). -/
def noteLastFail (n : Fin 8) (agent : Nat) (c : Cmd) (st : Stop) (s : State) : State :=
  if 0x10 ≤ agent ∧ agent ≤ 0x14 then
    s.updEngine (Fin.ofNat 6 (agent - 0x10)) fun x => { x with failStatus := st.status, failParcel := BitVec.ofFin n }
  else if agent = agentCodec then
    { s with codec := { s.codec with
      failStatus := st.status, failParcel := BitVec.ofFin n, failStream := BitVec.ofNat 6 (fieldNat c.params 0 1) } }
  else s

/-- A failed access of an agent kills the command that it was made for. -/
def killAccess (qn : Fin 256) (seq : Word) (agent : Nat) (st : Stop) (s : State) : State :=
  match s.cmd qn seq with
  | none => killCmd qn seq st s
  | some c => killCmd qn seq st (if c.phase.killable && !st.held then noteLastFail (s.parcelOf qn) agent c st s else s)

/-- R496: a KILL pre-emption kills the command and re-queues it with its holds. -/
def preemptKill (qn : Fin 256) (seq : Word) (s : State) : State :=
  match s.cmd qn seq with
  | none => s
  | some c =>
    if c.kind = 1 && c.phase.occupies && c.phase.killable && !c.requeued then
      let n := s.parcelOf qn
      ((stopProgram qn c s).updCmd qn seq fun x =>
          { closeInterval s.time x with phase := .killingRequeue, preempted := x.preempted + 1, rackRequested := false })
        |>.updParcel n fun p => { p with kills := satInc p.kills 1 }
    else s

end Sys2Proof.Machine
end

