-- ==== Sys2Proof/Machine/SafetyUnit.lean ====
section
/-! DEFINITION. The safety complex: the error aggregator, the cellar book, the safe state, the monitors of the safety pair,
the known-answer tests and the log path (R661 to R692). -/

namespace Sys2Proof.Machine

/-! ### Records of the cellar book -/

/-- A free 16-bit CODE for the kinds of record whose CODE the spec does not give (SAFE_ENTRY, FREEZE). -/
def freeCode (s : State) : BitVec 16 := (Config.freeWord s.freeCtr 65536).setWidth 16

/-- Form a record of Table 19.2 and give it to the cellar book. -/
def bookEvent (time : Long) (source kind : Nat) (code : BitVec 16) (count : Nat) (data : List Byte) (s : State) : State :=
  bookPut (eventRecord time s.book.eventSeq source kind code count data) s.nextSeq

/-- R689: freeze the book; a book that is frozen keeps the cause of its freeze. -/
def freezeBook (cause : BitVec 2) (key : Byte) (s : State) : State :=
  if s.book.frozen then s
  else { s with book := { s.book with frozen := true, freezeCause := cause, freezeKey := key } }

/-! ### The safe state (R672 to R675) -/

/-- Step 2 of R672 for one command: the stop of a kill. The command gets no status: the safe state ends no command. -/
def stopCmd (qn : Fin 256) (c : Cmd) (s : State) : State :=
  match c.phase with
  | .started | .running | .saving _ | .restoring _ | .written _ _ =>
    let s1 := if c.kind = 1 then stopProgram qn c s
      else wipeOutputs c (dropCapture qn c.seq (dropCodec qn c.seq (dropJobs qn c.seq s)))
    s1.updCmd qn c.seq fun x => { x with phase := .killing 0xFF 0 }
  | _ => s

/-- Step 2 of R672 for every command of the device. -/
def stopAll (s : State) : State :=
  foldState (fun (qn : Fin 256) s => foldState (stopCmd qn) (s.queue qn).cmds s) (List.finRange 256) s

/-- R672: the five steps of safe-state entry, with the key that caused it or 0xFF for FORCE. -/
def enterSafe (cause : Byte) (s : State) : State :=
  if s.safety.safe then s
  else
    let s1 := freezeBook 1 cause (bookEvent s.time 0x3E 2 (freeCode s) 1 (freeData s) s.bump)
    let s2 := stopAll s1
    let s3 := { s2 with
      safety := { s2.safety with safe := true, safeCause := cause, safeAt := s2.time, hartsHalted := true }
      pins := { s2.pins with safe := true } }
    s3.send .safeNotice

/-! ### Delivery of alarms (R666, R671) -/

/-- The next key with a non-zero pending count, in rising order after the last key delivered. -/
def nextKey (s : State) : Option (Fin 134) :=
  ((List.range 134).map fun i => Fin.ofNat 134 (s.safety.lastKey + 1 + i)).find? fun k =>
    decide ((vget s.safety.slots k).raised ≠ 0)

/-- What a delivery does to the slot of its key. -/
def deliverSlot (now : Long) (seq : Word) (a : AlarmSlot) : AlarmSlot :=
  let full := decide (2 ^ 32 ≤ a.count.toNat + a.raised.toNat)
  let b := { a with
    raised := 0, raisedData := 0, pending := true, lastTime := now
    saturated := a.saturated || full
    count := satInc a.count a.raised.toNat }
  if a.pending then b else { b with firstTime := now, firstSeq := seq, data := a.raisedData }

/-- Is the delivery's reaction SAFE (R671)? -/
def reactsSafe (s : State) (k : Nat) : Bool :=
  keyFatal k || (s.safety.mode && s.safety.reactSafe.getLsbD (keyClass k))

/-- Deliver one key to its slot and to the book, and react. -/
def deliver (k : Fin 134) (s : State) : State :=
  let a := vget s.safety.slots k
  let b := deliverSlot s.time s.book.eventSeq a
  let s1 := (s.updSlot k fun _ => b)
  let s2 := { s1 with safety := { s1.safety with lastKey := k.val } }
  let s3 := bookEvent s.time (keySource k.val) 0 (BitVec.ofNat 16 k.val) a.raised.toNat (leBytes 4 b.data.toNat) s2
  if reactsSafe s k.val && !s.safety.safe then enterSafe (BitVec.ofNat 8 k.val) s3
  else if s.safety.reactFreeze.getLsbD (keyClass k.val) then freezeBook 2 (BitVec.ofNat 8 k.val) s3
  else s3

/-! ### Presses out of service (R145, R146) -/

/-- The commands that a press failure ends at once: those running on the press or suspended with it in their set. -/
def failVictims (p : Fin 16) (s : State) : List (Fin 256 × Word) :=
  (List.finRange 256).flatMap fun qn =>
    let n := s.parcelOf qn
    ((s.queue qn).cmds.filter fun c =>
      c.kind = 1 && (occupied s n c).contains p && match c.phase with
        | .suspended _ | .started | .running | .saving _ | .restoring _ | .written _ _ => true
        | _ => false).map fun c => (qn, c.seq)

/-- PRESS_FAILED with its press. -/
def stopPressFailed (p : Fin 16) : Stop := { status := 0x2B, data := dataI 0 p.val }

/-- R145, R146: set a press's FAILED bit and end what needs it. -/
def setFailed (p : Fin 16) (s : State) : State :=
  foldState (fun w s => killCmd w.1 w.2 (stopPressFailed p) s) (failVictims p s)
    { s with failed := s.failed ||| BitVec.ofNat 16 (2 ^ p.val) }

/-! ### Known-answer tests (R680 to R683) -/

/-- Does the periodic test cover the compute path: safety mode on, and no twin-run (R678)? -/
def katCovers (s : State) : Bool := s.safety.mode && !twinForced s

/-- Is the ARITH domain in deep sleep? -/
def arithDeep (s : State) : Bool := decide ((vget s.clocks.doms 0).st = 3)

/-- R680, R681: a due test starts: full on a press that holds no command, else an array test. -/
def stepKatDue (p : Fin 16) (s : State) : State :=
  if katCovers s && enabled s p && !arithDeep s then
    s.updPress p fun x => { x with
      kat := .running x.sequencer.isNone
      katDue := s.time + BitVec.ofNat 64 (s.safety.katPeriod.toNat * 1000) }
  else s

/-- R680: a test ends and leaves its CRC in KAT_SIG. -/
def stepKatTestEnd (p : Fin 16) (crc : Word) (s : State) : State :=
  match (s.press p).kat with
  | .running full =>
    let s1 := s.updPress p fun x => { x with kat := .ended full, katSig := crc }
    { s1 with safety := { s1.safety with katRuns := satInc s1.safety.katRuns 1 } }
  | _ => s

/-- R682: the safety firmware compares KAT_SIG with the expected value. -/
def stepKatCompare (p : Fin 16) (s : State) : State :=
  match (s.press p).kat with
  | .ended full =>
    let s1 := s.updPress p fun x => { x with kat := .none }
    if (s.press p).katSig = Config.katExpected full then s1
    else setFailed p (raiseKey (0x61 + p.val) (s.press p).katSig s1)
  | _ => s

/-- R682: a due test has not started. -/
def stepKatLate (p : Fin 16) (s : State) : State :=
  match (s.press p).kat with
  | .running _ => s
  | _ => if katCovers s && enabled s p && !arithDeep s then raiseKey (0x71 + p.val) 0 s else s

/-- One full test of R683 with its verdict. -/
def followUpOne (p : Fin 16) (crc : Word) (s : State) : State :=
  let s1 := s.updPress p fun x => { x with kat := .none, katSig := crc }
  let s2 := { s1 with safety := { s1.safety with katRuns := satInc s1.safety.katRuns 1 } }
  let bad := decide (crc ≠ Config.katExpected true)
  let s3 := if bad then raiseKey (0x61 + p.val) crc s2 else s2
  if s.safety.mode && (bad || decide (3 ≤ (s.press p).twinFail.toNat)) then setFailed p s3 else s3

/-- R683: full tests on both presses of a TWIN_PRESS alarm, which are idle after the kill. -/
def stepKatFollowUp (primary twin : Fin 16) (crcPrimary crcTwin : Word) (s : State) : State :=
  if (s.press primary).sequencer.isNone && (s.press twin).sequencer.isNone then
    followUpOne twin crcTwin (followUpOne primary crcPrimary s)
  else s

/-! ### Registers of SAFETY and CBOOK that commands write -/

/-- R670: acknowledge a slot. -/
def ackSlot (k : Fin 134) (s : State) : State :=
  s.updSlot k fun a => { a with pending := false, saturated := false, count := 0 }

/-- Limit a number to a range (a write outside stores the nearest end). -/
def clampNat (lo hi v : Nat) : Nat := if v < lo then lo else if hi < v then hi else v

/-- R662, Table 19.6: a write of SAFETY.KAT (`kat`) or SAFETY.REACT. -/
def writeSafetyConfig (who : Writer) (kat : Bool) (value : Word) (s : State) : State :=
  if s.safety.mode && s.parcels.toList.any fun p => decide (p.state ≠ 0) then
    pageError pgSafety 1 (if kat then 0x48 else 0x44) 0 (writerCode who) s
  else if kat then
    { s with safety := { s.safety with
      katPeriod := BitVec.ofNat 14 (clampNat 1000 9700 (value.toNat % 2 ^ 14)), katMode := value.getLsbD 16 } }
  else
    { s with safety := { s.safety with
      reactSafe := BitVec.ofNat 6 value.toNat, reactFreeze := BitVec.ofNat 6 (value.toNat / 256) } }

/-- R672: a write of FORCE. -/
def writeForce (safe : Bool) (key : Byte) (s : State) : State :=
  if safe && key = 0xC3 then enterSafe 0xFF s else s

/-- R689: OP.FREEZE with its key. -/
def writeFreeze (who : Writer) (key : Byte) (s : State) : State :=
  if key = 0x96 then
    freezeBook 3 s.book.freezeKey (bookEvent s.time (writerCode who).toNat 5 (freeCode s) 1 (freeData s) s.bump)
  else s

/-- R689: OP.THAW with its key. -/
def writeThaw (key : Byte) (s : State) : State :=
  if key = 0x96 then { s with book := { s.book with frozen := false, missed := 0 } } else s

/-! ### The log path (R684) -/

/-- The next source with a waiting event, round robin after the last source served. -/
def nextLogSource (s : State) : Option (Fin 64) :=
  ((List.range 64).map fun i => s.diag.lastSource + Fin.ofNat 64 (i + 1)).find? fun k =>
    s.diag.waiting.any fun e => decide (e.source = k)

/-- Remove the oldest waiting event of a source. -/
def dropFirst (k : Fin 64) : List LogEvent → List LogEvent
  | [] => []
  | e :: rest => if e.source = k then rest else e :: dropFirst k rest

/-- R684: the log path takes one waiting event into the book and the log ring. -/
def stepLogTake (s : State) : State :=
  match nextLogSource s with
  | none => s
  | some k =>
    match s.diag.waiting.find? fun e => decide (e.source = k) with
    | none => s
    | some e =>
      let rec32 := eventRecord e.time s.book.eventSeq k.val 1 e.code 1 e.data
      let s1 := bookPut rec32 s.nextSeq
      let d := { s1.diag with waiting := dropFirst k s1.diag.waiting, lastSource := k }
      let r := logRing s
      if (d.logWrite - d.logRead).toNat < r.capacity then
        { (s1.updWindow fun m => m.writeBytes (r.place d.logWrite.toNat) rec32) with
          diag := { d with logWrite := d.logWrite + 1 } }
      else { s1 with diag := { d with loss := vupd d.loss k fun l => satInc l 1 } }

/-! ### Meanings -/

/-- ALARM_DELIVERY (R666): the aggregator delivers the next pending key. -/
def stepAlarmDelivery (s : State) : State :=
  match nextKey s with
  | none => s
  | some k => deliver k s

/-- Do the control harts run: released at ENTRY and not stopped by a halt of boot or the safe state? -/
def hartsRun (s : State) : Bool := s.boot.hartsReleased && !s.boot.halted && !s.safety.hartsHalted

/-- Does a writer act at all: a hart that runs, the safety pair, the host? -/
def writerActs (who : Writer) (s : State) : Bool :=
  match who with
  | .hart _ => hartsRun s
  | _ => true

/-- What a writer's command does: nothing when it comes from a hart that does not run. -/
def byWriter (who : Writer) (f : State → State) (s : State) : State := if writerActs who s then f s else s

/-- HART_HEARTBEAT (R669). -/
def stepHartHeartbeat (h : Fin 4) (s : State) : State :=
  if hartsRun s then { s with safety := { s.safety with hartBeat := vset s.safety.hartBeat h s.time } } else s

/-- HART_WDOG (R669): a released hart has been silent for 500 µs. -/
def stepHartWdog (h : Fin 4) (s : State) : State :=
  if s.boot.hartsReleased && !s.boot.halted then raiseKey (0x81 + h.val) 0 s else s

/-- HEARTBEAT (R708): hart 0 counts milliseconds from READY on. -/
def stepHeartbeat (s : State) : State :=
  if hartsRun s && s.boot.readySeen then { s with heartbeat := s.heartbeat + 1 } else s

/-- ALARM_DELIVERY. -/
def execAlarmDelivery (s : State) : Host.Outcome State Fault Refusal := answer stepAlarmDelivery s
/-- FORCE_SAFE (R672). -/
def execForceSafe (who : Writer) (safe : Bool) (key : Byte) (s : State) : Host.Outcome State Fault Refusal :=
  answer (byWriter who (writeForce safe key)) s
/-- REMOTE_SAFE (R677). -/
def execRemoteSafe (dev : Fin 64) (s : State) : Host.Outcome State Fault Refusal :=
  answer (raiseKey 0x85 (BitVec.ofNat 32 dev.val)) s
/-- LOCKSTEP (R669). -/
def execLockstep (s : State) : Host.Outcome State Fault Refusal := answer (raiseKey 0x4A 0) s
/-- BUS_TIMEOUT (R669). -/
def execBusTimeout (stop : Fin 48) (s : State) : Host.Outcome State Fault Refusal :=
  answer (raiseKey 0x4B (BitVec.ofNat 32 stop.val)) s
/-- HART_HEARTBEAT. -/
def execHartHeartbeat (h : Fin 4) (s : State) : Host.Outcome State Fault Refusal := answer (stepHartHeartbeat h) s
/-- HART_WDOG. -/
def execHartWdog (h : Fin 4) (s : State) : Host.Outcome State Fault Refusal := answer (stepHartWdog h) s
/-- HEARTBEAT. -/
def execHeartbeat (s : State) : Host.Outcome State Fault Refusal := answer stepHeartbeat s
/-- KAT_DUE. -/
def execKatDue (p : Fin 16) (s : State) : Host.Outcome State Fault Refusal := answer (stepKatDue p) s
/-- KAT_TEST_END. -/
def execKatTestEnd (p : Fin 16) (crc : Word) (s : State) : Host.Outcome State Fault Refusal :=
  answer (stepKatTestEnd p crc) s
/-- KAT_COMPARE. -/
def execKatCompare (p : Fin 16) (s : State) : Host.Outcome State Fault Refusal := answer (stepKatCompare p) s
/-- KAT_LATE. -/
def execKatLate (p : Fin 16) (s : State) : Host.Outcome State Fault Refusal := answer (stepKatLate p) s
/-- KAT_FOLLOW_UP. -/
def execKatFollowUp (primary twin : Fin 16) (crcPrimary crcTwin : Word) (s : State) :
    Host.Outcome State Fault Refusal := answer (stepKatFollowUp primary twin crcPrimary crcTwin) s
/-- ALARM_ACK (R670). -/
def execAlarmAck (who : Writer) (key : Fin 134) (s : State) : Host.Outcome State Fault Refusal :=
  answer (byWriter who (ackSlot key)) s
/-- SAFETY_CONFIG_WRITE (R662). -/
def execSafetyConfigWrite (who : Writer) (kat : Bool) (value : Word) (s : State) : Host.Outcome State Fault Refusal :=
  answer (byWriter who (writeSafetyConfig who kat value)) s
/-- FREEZE (R689). -/
def execFreeze (who : Writer) (key : Byte) (s : State) : Host.Outcome State Fault Refusal :=
  answer (byWriter who (writeFreeze who key)) s
/-- THAW (R689). -/
def execThaw (who : Writer) (key : Byte) (s : State) : Host.Outcome State Fault Refusal :=
  answer (byWriter who (writeThaw key)) s
/-- LOG_TAKE (R684). -/
def execLogTake (s : State) : Host.Outcome State Fault Refusal := answer stepLogTake s

end Sys2Proof.Machine
end

