-- ==== Sys2Proof/Machine/Clocks.lean ====
section
/-! DEFINITION. Clock domains, PLLs and the core rails: sources and switching, lock, gating, voltage requests and the ARITH
clock (R608 to R646). -/

namespace Sys2Proof.Machine

/-- A quotient whose rounding the spec leaves open. -/
def divOpen (a b : Nat) : Nat := a / b + if a % b ≠ 0 && Config.roundsUp a b then 1 else 0

/-- Change one PLL. -/
def State.updPll (s : State) (p : Fin 9) (f : Pll → Pll) : State :=
  { s with clocks := { s.clocks with plls := vupd s.clocks.plls p f } }
/-- Change one clock domain. -/
def State.updDom (s : State) (d : Fin 9) (f : Domain → Domain) : State :=
  { s with clocks := { s.clocks with doms := vupd s.clocks.doms d f } }
/-- Change one core rail. -/
def State.updRail (s : State) (r : Fin 3) (f : AvsRail → AvsRail) : State :=
  { s with power := { s.power with rails := vupd s.power.rails r f } }
/-- A clock domain. -/
def State.dom (s : State) (d : Fin 9) : Domain := vget s.clocks.doms d
/-- A PLL. -/
def State.pll (s : State) (p : Fin 9) : Pll := vget s.clocks.plls p

/-! ### Voltages (R633 to R637) -/

/-- Level of VDD_CORE and VDD_SRAM in tenths: the largest ratio of a set frequency to Table 1.4, rounded up (R635). -/
def railLevel (s : State) : Nat :=
  let ratio (p : Fin 9) : Nat := ceilDiv (10 * (s.pll p).cfg.live.khz.toNat) (resetKhz p).toNat
  max (max (ratio 1) (ratio 2)) (max (ratio 3) (ratio 4))

/-- V_ARITH at a frequency: linear between the entries of the fused table (R635). -/
def vArith (mhz : Nat) : Nat :=
  divOpen (Config.baseMv 0 (mhz / 10) * (10 - mhz % 10) + Config.baseMv 0 (mhz / 10 + 1) * (mhz % 10)) 10

/-- V_r with the rail's trim, limited to the fused range. -/
def limitMv (s : State) (r : Fin 3) (base : Nat) : Nat :=
  let v := (base : Int) + (vget s.power.rails r).trim
  let lo : Nat := vget s.fuses.vmin r
  let hi : Nat := vget s.fuses.vmax r
  if v < (lo : Int) then lo else if (hi : Int) < v then hi else v.toNat

/-- Request a voltage for a rail: the device then waits for the regulator when the request changes. -/
def requestMv (r : Fin 3) (mv : Nat) (s : State) : State :=
  s.updRail r fun a => if a.mv = BitVec.ofNat 10 mv then a else { a with mv := BitVec.ofNat 10 mv, waiting := true }

/-- Request VDD_ARITH for a frequency. -/
def requestArith (mhz : Nat) (s : State) : State := requestMv 0 (limitMv s 0 (vArith mhz)) s

/-- Request VDD_CORE and VDD_SRAM for the level of the set frequencies. -/
def requestCore (s : State) : State :=
  requestMv 2 (limitMv s 2 (Config.baseMv 2 (railLevel s))) (requestMv 1 (limitMv s 1 (Config.baseMv 1 (railLevel s))) s)

/-! ### ARITH (R619, R620, R641, R646, R650) -/

/-- Set the mode of the ARITH clock. -/
def State.arith (s : State) (m : ArithMode) : State := { s with power := { s.power with mode := m } }

/-- SYS.TIMING_BROKEN is set in deterministic mode when ARITH changes (R549, R551). -/
def breakTiming (s : State) : State :=
  if s.vine.cfg.live.det then setTimingBroken s else s

/-- R619: the PLL starts to slew. -/
def startSlew (mhz : Nat) (s : State) : State := s.arith (.slewing mhz)

/-- R641: change ARITH: to raise, voltage first and then the slew; to lower, the slew first. -/
def changeArith (mhz : Nat) (s : State) : State :=
  if s.power.arithMhz.toNat < mhz then
    let s1 := requestArith mhz s
    if (vget s1.power.rails 0).waiting then s1.arith (.raising mhz) else startSlew mhz s1
  else if mhz < s.power.arithMhz.toNat then startSlew mhz s
  else s

/-- The ARITH frequency is now `mhz`: STATUS.ARITH_MHZ and a trace event. -/
def arithIs (mhz : Nat) (s : State) : State :=
  traceEvent 0x1F 0x0204 { s with power := { s.power with arithMhz := BitVec.ofNat 9 mhz } }

/-- Frequency of FALLBACK in MHz (R616). -/
def fallbackMhz (s : State) : Nat := (s.pll 1).cfg.live.khz.toNat / (s.pll 1).cfg.live.fallbackDiv.toNat / 1000

/-- R620: switch ARITH to FALLBACK, or to NONE while FABRIC stands at NONE. A domain that does not run stays as it is. -/
def toFallback (s : State) : State :=
  let d := s.dom 0
  let s1 := breakTiming ((s.arith .fallback))
  if d.st = 0 || d.st = 3 then s1
  else if (s.dom 1).src = 0 then
    let s2 := s1.updDom 0 fun x => { x with src := 0, st := 0 }
    { s2 with clocks := { s2.clocks with arithHeld := true } }
  else requestArith 100 (arithIs (fallbackMhz s) (s1.updDom 0 fun x => { x with src := 3 }))

/-- Stop topping work on every press (R645, R650). -/
def stopTopping (s : State) : State := { s with presses := vmap s.presses fun _ p => { p with topping := 0 } }

/-- What a recognised assertion of PWR_ALERT_N does (R644, R645). -/
def takeAlert (s : State) : State :=
  let s1 := stopTopping (toFallback s)
  logEvent 0x1F 0x0100 { s1 with power := { s1.power with
    alerts := satInc s1.power.alerts 1, alertAt := s1.time, holding := false } }

/-- R646, R650: the return of ARITH begins once neither the pin, the hold nor the temperature keeps it on FALLBACK. -/
def beginReturn (s : State) : State :=
  if s.power.mode = .fallback && !s.pins.pwrAlert && !s.power.holding && !s.thermal.overTemp then s.arith .returning else s

/-! ### Domains -/

/-- A domain starts on its PLL, ARITH on FALLBACK while an alert holds it there; FABRIC's start frees an ARITH that R620
holds at NONE. -/
def startDomain (d : Fin 9) (s : State) : State :=
  let src : BitVec 2 := if d = 0 && (s.power.mode = .fallback || s.power.mode = .returning) then 3
    else if (s.pll d).on then 2 else 1
  let s1 := s.updDom d fun x => { x with src := src, st := 1, fails := 0 }
  if d = 1 && s.clocks.arithHeld then
    let s2 := s1.updDom 0 fun x => { x with src := 3, st := 1 }
    requestArith 100 (arithIs (fallbackMhz s2) { s2 with clocks := { s2.clocks with arithHeld := false } })
  else s1

/-- A PLL whose lock is judged and whose voltage has settled gives its domain back (R618, R630). -/
def resumeDomain (p : Fin 9) (s : State) : State :=
  let x := s.pll p
  if x.locked && !x.raising && (s.dom p).src = 0 && (s.dom p).runEn && !(s.dom p).deepEn then
    (if p.val = 0 then requestArith s.power.arithMhz.toNat (startDomain p s) else requestCore (startDomain p s))
  else s

/-- R628: RUN_EN. -/
def setRunEn (d : Fin 9) (on : Bool) (s : State) : State :=
  let x := s.dom d
  let s1 := s.updDom d fun x => { x with runEn := on }
  if on then (if !x.runEn && x.st = 0 && !(s.pll d).waiting then startDomain d s1 else s1)
  else if x.st = 1 then s1.updDom d fun x => { x with src := 0, st := 0 }
  else s1

/-- R628, R629: SLEEP_EN; it reads 0 and ignores writes where sleep is never allowed. -/
def setSleepEn (d : Fin 9) (on : Bool) (s : State) : State :=
  if sleepAllowed d then
    s.updDom d fun x => { x with sleepEn := on }
  else s

/-- May the domain deep-sleep now (Table 17.1)? -/
def deepAllowed (s : State) (d : Fin 9) : Bool :=
  match d.val with
  | 0 => s.presses.toList.all fun p => p.assigned.isNone
  | 3 => s.pipes.toList.all fun p => p.owner.isNone
  | 4 => s.codec.streams.isEmpty
  | 7 => !(s.link 0).wanted && !(s.link 1).wanted
  | 8 => !(s.link 2).wanted && !(s.link 3).wanted
  | _ => false

/-- R628 to R630: DEEP_EN. -/
def setDeepEn (who : Writer) (d : Fin 9) (on : Bool) (s : State) : State :=
  if d.val = 1 || d.val = 2 || d.val = 5 || d.val = 6 then s
  else if on then
    if (s.dom d).deepEn then s
    else if deepAllowed s d then
      (s.updDom d fun x => { x with deepEn := true, src := 0, st := 3 }).updPll d fun x =>
        { x with on := false, locked := false, waiting := false }
    else pageError pgClocks 1 (BitVec.ofNat 32 (0x100 + 4 * d.val)) 0 (writerCode who) s
  else if (s.dom d).st = 3 then
    (s.updDom d fun x => { x with deepEn := false, st := 0 }).updPll d fun x => { x with on := true, waiting := true }
  else s.updDom d fun x => { x with deepEn := false }

/-- R612: a lock wait has passed. -/
def judgeLock (p : Fin 9) (s : State) : State :=
  if (s.pll p).waiting then resumeDomain p (s.updPll p fun x => { x with waiting := false, locked := true }) else s

/-- R613: the OTP waits; a field that holds a value keeps it. -/
def programOtp (mem vine : BitVec 12) (key : Byte) (s : State) : State :=
  if key = 0x5A then
    { s with fuses := { s.fuses with
      otpMem := if s.fuses.otpMem = 0 then mem else s.fuses.otpMem
      otpVine := if s.fuses.otpVine = 0 then vine else s.fuses.otpVine } }
  else s

/-! ### Commits of a PLL (R618, R619, R621, R624, R625, R631) -/

/-- Is a frequency one that Table 17.1 lists for the PLL? -/
def pllFreqOk (p : Fin 9) (khz : Nat) : Bool :=
  let grid (lo hi step : Nat) : Bool := lo ≤ khz && khz ≤ hi && (khz - lo) % step = 0
  match p.val with
  | 0 => grid 100000 300000 1000
  | 1 => grid 500000 1000000 100000
  | 2 => grid 600000 1200000 100000
  | 3 => grid 100000 500000 50000
  | 4 => grid 200000 800000 100000
  | _ => false

/-- Register offset of the first bad field of a staged PLL set; none when the commit may apply. -/
def pllBad (s : State) (p : Fin 9) (c : PllCfg) : Option Nat :=
  let base := 0x40 + 16 * p.val
  if !pllFreqOk p c.khz.toNat then some base
  else if s.safety.mode && p.val ≠ 0 && c.khz ≠ (s.pll p).cfg.live.khz then some base
  else if 20 < c.depth.toNat || (p.val = 0 && s.vine.cfg.live.det && c.depth ≠ 0) then some (base + 4)
  else if c.rate.toNat < 30 || 63 < c.rate.toNat then some (base + 4)
  else if p.val = 1 && (c.fallbackDiv.toNat < 5 || 10 < c.fallbackDiv.toNat) then some (base + 12)
  else none

/-- R618, R619: a PLL takes its committed set; in deterministic mode ARITH stays where it is (R549). -/
def applyPll (p : Fin 9) (s : State) : State :=
  let old := (s.pll p).cfg.live
  let level := railLevel s
  let s1 := s.updPll p fun x => { x with cfg := x.cfg.apply }
  let new := (s1.pll p).cfg.live
  if new.khz = old.khz then s1
  else if p.val = 0 then
    if (s.dom 0).src = 2 && s.power.mode = .normal && !s.vine.cfg.live.det then changeArith (new.khz.toNat / 1000) s1 else s1
  else if (s.dom p).src = 2 then
    let s2 := (s1.updDom p fun x => { x with src := 0, st := 0 }).updPll p fun x => { x with locked := false, waiting := true }
    if level < railLevel s1 then
      let s3 := requestCore s2
      s3.updPll p fun x => { x with raising := (vget s3.power.rails 1).waiting || (vget s3.power.rails 2).waiting }
    else s2
  else s1

/-! ### The clock monitor (R667) -/

/-- Frequency in kHz that a domain is checked against; none when it is not checked. -/
def monitorKhz (s : State) (d : Fin 9) : Option Nat :=
  let x := s.dom d
  if x.src = 0 || x.st ≠ 1 then none
  else if d = 0 && x.src = 2 then
    match s.power.mode with
    | .slewing m => some (m * 1000)
    | _ => some (domainKhz s d)
  else if d = 0 && x.src = 3 then some 100000
  else some (domainKhz s d)

/-- Does a window's count, in units of 10 kHz, differ by more than DEPTH plus 3 %? -/
def windowFails (s : State) (d : Fin 9) (tenKhz : Nat) : Bool :=
  match monitorKhz s d with
  | none => false
  | some f =>
    let depth := if (s.dom d).src = 2 then (s.pll d).cfg.live.depth.toNat else 0
    decide (f * (30 + depth) < ((tenKhz * 10 : Int) - f).natAbs * 1000)

/-- One window of one domain. -/
def windowOf (s : State) (tenKhz : List Nat) (d : Fin 9) (x : Domain) : Domain :=
  if windowFails s d (tenKhz.getD d.val 0) then { x with fails := x.fails + 1, measured := tenKhz.getD d.val 0 }
  else { x with fails := 0 }

/-- CLOCK_MONITOR_WINDOW: one window of every domain. -/
def stepClockWindow (tenKhz : List Nat) (s : State) : State :=
  { s with clocks := { s.clocks with doms := vmap s.clocks.doms (windowOf s tenKhz) } }

/-- Assert ALARM_N and SAFE_N directly (R667). -/
def assertPins (s : State) : State := { s with pins := { s.pins with alarm := true, safe := true } }

/-- CLK_DOMAIN: two windows in a row have failed; the count of windows then starts again. -/
def stepClkDomain (d : Fin 9) (s : State) : State :=
  if (s.dom d).fails < 2 then s
  else
    let s1 := (raiseKey d.val (BitVec.ofNat 32 (s.dom d).measured) s).updDom d fun x => { x with fails := 0 }
    if d.val = 2 then assertPins s1 else s1

/-- REFCLK_LOSS: no edge for 2 µs. -/
def stepRefclkLoss (silentNs : Nat) (s : State) : State :=
  if silentNs < 2000 then s else assertPins (raiseKey 9 0 s)

/-- PLL_LOSS (R614). -/
def stepPllLoss (p : Fin 9) (s : State) : State :=
  if (s.pll p).locked then raiseKey (0x0A + p.val) 0 (s.updPll p fun x => { x with loss := satInc x.loss 1 }) else s

/-! ### PWR_ALERT_N -/

/-- PWR_ALERT_ASSERT: before ARITH runs from its PLL only the pin's level counts (R722). -/
def stepAlertAssert (s : State) : State :=
  if s.pins.pwrAlert then s
  else
    let s1 := { s with pins := { s.pins with pwrAlert := true } }
    if (s.pll 0).on || (s.dom 0).st = 3 then takeAlert s1 else s1

/-- PWR_ALERT_DEASSERT: the hold starts. -/
def stepAlertDeassert (s : State) : State :=
  if s.pins.pwrAlert then
    { s with
      pins := { s.pins with pwrAlert := false }
      power := { s.power with holding := decide (s.power.mode = .fallback), holdAt := s.time } }
  else s

/-- ALERT_HOLD_EXPIRY: the pin has stayed high for ALERT_HOLD.US (R646). -/
def stepAlertHold (s : State) : State :=
  if s.power.holding && !s.pins.pwrAlert && decide (s.power.alertHold.toNat * 1000 ≤ elapsed s s.power.holdAt) then
    beginReturn { s with power := { s.power with holding := false } } else s

/-- ARITH_RETURN_SWITCH (R646): steps 2 and 3, and in deterministic mode the raise to the frequency of R549. -/
def stepReturnSwitch (s : State) : State :=
  match s.power.mode with
  | .returning =>
    let s1 := s.arith .normal
    let s2 := if (s.dom 0).src = 3 then arithIs 100 (s1.updDom 0 fun x => { x with src := 2 }) else s1
    if s.vine.cfg.live.det then changeArith s.vine.detMhz.toNat (breakTiming s2) else s2
  | _ => s

/-- ARITH_SLEW_COMPLETE (R619): the frequency stands, and a lowered one takes its lower voltage (R641). -/
def stepSlewComplete (s : State) : State :=
  match s.power.mode with
  | .slewing m => requestArith m (arithIs m (s.arith .normal))
  | _ => s

/-! ### Rows -/

/-- PLL_LOCK_JUDGED. -/
def execPllLockJudged (p : Fin 9) (s : State) : Host.Outcome State Fault Refusal := answer (judgeLock p) s
/-- PLL_LOSS. -/
def execPllLoss (p : Fin 9) (s : State) : Host.Outcome State Fault Refusal := answer (stepPllLoss p) s
/-- PWR_ALERT_ASSERT. -/
def execPwrAlertAssert (s : State) : Host.Outcome State Fault Refusal := answer stepAlertAssert s
/-- PWR_ALERT_DEASSERT. -/
def execPwrAlertDeassert (s : State) : Host.Outcome State Fault Refusal := answer stepAlertDeassert s
/-- ALERT_HOLD_EXPIRY. -/
def execAlertHoldExpiry (s : State) : Host.Outcome State Fault Refusal := answer stepAlertHold s
/-- ARITH_RETURN_SWITCH. -/
def execArithReturnSwitch (s : State) : Host.Outcome State Fault Refusal := answer stepReturnSwitch s
/-- ARITH_SLEW_COMPLETE. -/
def execArithSlewComplete (s : State) : Host.Outcome State Fault Refusal := answer stepSlewComplete s
/-- CLOCK_MONITOR_WINDOW (R667): one count for each of the nine domains. -/
def execClockMonitorWindow (tenKhz : List Nat) (s : State) : Host.Outcome State Fault Refusal :=
  answerIf (decide (tenKhz.length = 9)) "CLOCK_MONITOR_WINDOW" (stepClockWindow tenKhz) s
/-- CLK_DOMAIN (R667). -/
def execClkDomain (d : Fin 9) (s : State) : Host.Outcome State Fault Refusal := answer (stepClkDomain d) s
/-- REFCLK_LOSS (Table 19.1). -/
def execRefclkLoss (silentNs : Nat) (s : State) : Host.Outcome State Fault Refusal := answer (stepRefclkLoss silentNs) s

end Sys2Proof.Machine
end

