-- ==== Sys2Proof/Machine/Commit.lean ====
section
/-! DEFINITION. The end of a staged commit (R694, R695, R698): a unit applied or rejected. -/

namespace Sys2Proof.Machine

/-- R694, R695: with no unit of the page waiting any longer, PENDING has cleared and COMMIT_DONE sets. -/
def settleCommit (p : Fin 121) (s : State) : State :=
  if pagePending s p.val then s else s.updPage p fun r => { r with irqCommitDone := true }

/-- R698, R703: the error of a rejected unit; its agent is the writer of GO. -/
def rejectCommit (p : Fin 121) (code : BitVec 16) (info : Word) (s : State) : State :=
  pageError p code info 0 (writerCode (vget s.pages p).goBy) (s.updPage p fun r => { r with rejected := true })

/-! ### Parcels (R514) -/

/-- Offset of the first staged field of a parcel that lies outside its range (Table 13.7). -/
def parcelCfgBad (c : ParcelCfg) : Option Nat :=
  if c.sliceUs.toNat < 500 ∨ 100000 < c.sliceUs.toNat then some 0x08
  else if c.rackWaitUs.toNat < 100 ∨ 100000 < c.rackWaitUs.toNat then some 0x40 else none

/-- Apply the pending fields of a parcel at its boundary, or reject them. -/
def applyParcel (n : Fin 8) (s : State) : State :=
  match (s.parcel n).cfg.pending with
  | none => s
  | some c =>
    match parcelCfgBad c with
    | some off => settleCommit (pgParcel n) (rejectCommit (pgParcel n) 1 (BitVec.ofNat 32 off)
        (s.updParcel n fun p => { p with cfg := p.cfg.reject }))
    | none => settleCommit (pgParcel n) (s.updParcel n fun p => { p with cfg := p.cfg.apply })

/-! ### FLIMIT (R660) -/

/-- Does FMIN exceed FMAX, or does either lie outside 100 to 300? -/
def flimitBad (f : Flimit) : Bool :=
  decide (f.fmax.toNat < f.fmin.toNat) || decide (f.fmin.toNat < 100) || decide (300 < f.fmax.toNat)

/-- A controller step applies or rejects a committed FLIMIT; in the safe state nothing is applied (R701). -/
def applyFlimit (s : State) : State :=
  if s.safety.safe then s
  else match s.power.flimit.pending with
  | none => s
  | some f =>
    if flimitBad f then settleCommit pgPower (rejectCommit pgPower 1 0x44
      { s with power := { s.power with flimit := s.power.flimit.reject } })
    else settleCommit pgPower { s with power := { s.power with flimit := s.power.flimit.apply } }

end Sys2Proof.Machine
end

