-- ==== Sys2Proof/Machine/Power.lean ====
section
/-! DEFINITION. Supplies, adaptive voltage, frequency control, power cap, thermal control and topping work (R632 to R658,
R668, R722). -/

namespace Sys2Proof.Machine

/-! ### The supply monitor (R668, Table 21.6) -/

/-- Is a sample of a rail, in mV, outside its window? Rails are in the order of keys 0x13 to 0x1A. -/
def supplyOut (s : State) (rail : Fin 8) (mv : Nat) : Bool :=
  let outside (lo hi : Nat) : Bool := mv * 10 < lo || hi < mv * 10
  match rail.val with
  | 0 | 1 | 2 =>
    let want := (vget s.power.rails (Fin.ofNat 3 rail.val)).mv.toNat
    mv * 100 < want * 94 || want * 106 < mv * 100
  | 3 => outside 17100 18900
  | 4 | 6 => outside 4750 5250
  | 5 => outside 7125 7875
  | _ => outside 7600 8400

/-- SUPPLY_SAMPLE: one sample of every rail. -/
def stepSupplySample (mv : List Nat) (s : State) : State :=
  let bad (i : Fin 8) (n : Nat) : Nat := if supplyOut s i (mv.getD i.val 0) then n + 1 else 0
  { s with power := { s.power with
    supplyBad := vmap s.power.supplyBad bad
    supplyLast := vmap s.power.supplyLast fun i _ => mv.getD i.val 0 } }

/-- SUPPLY: ten samples in a row lay outside; the count of samples then starts again. -/
def stepSupply (rail : Fin 8) (s : State) : State :=
  if vget s.power.supplyBad rail < 10 then s
  else
    let s1 := raiseKey (0x13 + rail.val) (BitVec.ofNat 32 (vget s.power.supplyLast rail)) s
    { s1 with power := { s1.power with supplyBad := vset s1.power.supplyBad rail 0 } }

/-! ### Adaptive voltage scaling (R634 to R636) -/

/-- Number of critical-path monitors on a rail. -/
def monitorCount (r : Fin 3) : Nat := match r.val with
  | 0 => 16
  | 1 => 6
  | _ => 2

/-- The slacks of a rail's valid monitors: those of presses that are not enabled are excluded. -/
def validSlacks (s : State) (r : Fin 3) (slacks : List Nat) : List Nat :=
  if r.val = 0 then ((List.finRange 16).filter (enabled s)).map fun p => slacks.getD p.val 0 else slacks

/-- The smallest number of a list. -/
def smallest : List Nat → Option Nat
  | [] => none
  | x :: rest => match smallest rest with
    | none => some x
    | some y => some (min x y)

/-- The base voltage of a rail at the present frequencies (R635, R645). -/
def baseOf (s : State) (r : Fin 3) : Nat :=
  if r.val = 0 then vArith (if s.pins.pwrAlert then 100 else s.power.arithMhz.toNat) else Config.baseMv r.val (railLevel s)

/-- Steps of 2 µs that make 100 µs. -/
def avsHoldSteps : Nat := 50

/-- AVS_STEP of one rail. -/
def stepAvs (r : Fin 3) (slacks : List Nat) (s : State) : State :=
  match smallest (validSlacks s r slacks) with
  | none => s
  | some k =>
    let a := vget s.power.rails r
    if r.val = 0 && s.pins.pwrAlert then s.updRail r fun a => { a with slack := BitVec.ofNat 8 k }
    else
      let short := decide (k < a.guard.toNat)
      let above := if a.guard.toNat + 2 < k then a.above + 1 else 0
      let trim := if short then a.trim + 5 else if avsHoldSteps ≤ above then a.trim - 5 else a.trim
      let s1 := s.updRail r fun a => { a with slack := BitVec.ofNat 8 k, above := min above avsHoldSteps, trim := trim }
      let s2 := requestMv r (limitMv s1 r (baseOf s1 r)) s1
      if short && r.val ≠ 0 && decide (a.mv.toNat = vget s.fuses.vmax r) then
        raiseKey (0x1E + (r.val - 1)) (a.mv.setWidth 32) s2
      else s2

/-- AVS_SETTLED (R633): the step that needed the voltage continues. -/
def stepAvsSettled (r : Fin 3) (s : State) : State :=
  if (vget s.power.rails r).waiting then
    let s1 := s.updRail r fun a => { a with waiting := false, misses := 0 }
    if r.val = 0 then
      match s1.power.mode with
      | .raising m => startSlew m s1
      | _ => s1
    else if (vget s1.power.rails 1).waiting || (vget s1.power.rails 2).waiting then s1
    else
      foldState (fun p s => if (s.pll p).raising then resumeDomain p (s.updPll p fun x => { x with raising := false }) else s)
        (List.finRange 9) s1
  else s

/-- AVS_TIMEOUT (R633): the step is abandoned, and the third in a row raises AVS_TIMEOUT. -/
def stepAvsTimeout (r : Fin 3) (s : State) : State :=
  let a := vget s.power.rails r
  if a.waiting then
    let s1 := s.updRail r fun a => { a with
      waiting := false, timeouts := satInc a.timeouts 1, misses := if a.misses = 2 then 0 else a.misses + 1 }
    let s2 := if a.misses = 2 then raiseKey (0x1B + r.val) (a.mv.setWidth 32) s1 else s1
    match s2.power.mode with
    | .raising _ => if r.val = 0 then s2.arith .normal else s2
    | _ => s2
  else s

/-! ### Frequency control (R638 to R643) -/

/-- Does R636 apply on VDD_ARITH: the rail stands at VMAX and its slack is short? -/
def arithShort (s : State) : Bool :=
  let a := vget s.power.rails 0
  decide (a.mv.toNat = vget s.fuses.vmax 0) && decide (a.slack.toNat < a.guard.toNat)

/-- The cap limit of R640 and R643. -/
def capLimit (s : State) : Nat :=
  let cur := s.power.arithMhz.toNat
  if s.vine.cfg.live.det then s.vine.detMhz.toNat
  else if !s.power.dvfsEn then cur
  else if 100 * s.power.cap.toNat < s.power.measured.toNat then cur - s.power.lowerMhz.toNat
  else if s.power.measured.toNat < 98 * s.power.cap.toNat then cur + s.power.raiseMhz.toNat
  else cur

/-- The limits of R638 in the order in which the rule lists them, each with its STATUS.LIMIT code. -/
def arithLimits (s : State) : List (Nat × Nat) :=
  let cur := s.power.arithMhz.toNat
  let det := s.vine.cfg.live.det
  [(if det then s.vine.detMhz.toNat else s.power.flimit.live.fmax.toNat, if det then 5 else 0),
   (capLimit s, if det then 5 else if s.power.dvfsEn then 1 else 7)] ++
  (if s.thermal.throttling then [(cur - 10, 2)] else []) ++ (if arithShort s then [(cur - 10, 3)] else [])

/-- The smallest limit, the first of equals. -/
def lowestLimit : List (Nat × Nat) → Nat × Nat → Nat × Nat
  | [], best => best
  | x :: rest, best => lowestLimit rest (if x.1 < best.1 then x else best)

/-- The ARITH target and the limit that decided it. In deterministic mode FMIN does not raise ARITH above the frequency of R549. -/
def arithTarget (s : State) : Nat × Nat :=
  let t := lowestLimit (arithLimits s) (1023, 0)
  let fmin := s.power.flimit.live.fmin.toNat
  let floor := if s.vine.cfg.live.det then min fmin s.vine.detMhz.toNat else fmin
  if t.1 < floor then (floor, 6) else t

/-- DVFS_STEP: a committed FLIMIT applies (R660); the controller makes no change while PWR_ALERT_N is asserted or ARITH is
away from its PLL. -/
def stepDvfs (s0 : State) : State :=
  let s := applyFlimit s0
  if s.pins.pwrAlert then { s with power := { s.power with limit := 4 } }
  else if s.power.mode = .normal && (s.dom 0).src = 2 then
    let t := arithTarget s
    let s1 := { s with power := { s.power with limit := BitVec.ofNat 3 t.2 } }
    if t.1 = s.power.arithMhz.toNat then s1
    else changeArith t.1 (breakTiming s1)
  else s

/-- POWER_MEASURE (R639), and the 10 ms at or below CAP that clear CAP_UNREACHABLE (R642). -/
def stepPowerMeasure (mv ma : List Nat) (s : State) : State :=
  let uw := ((List.zip mv ma).map fun x => x.1 * x.2).sum
  let sums := (divOpen uw 1000 + s.power.fixedMw.toNat) :: s.power.sums.take 9
  let mean := divOpen sums.sum sums.length
  let under := if mean ≤ 100 * s.power.cap.toNat then s.power.capUnderMs + 1 else 0
  { s with power := { s.power with
    railMv := mv, railMa := ma, sums := sums, measured := BitVec.ofNat 17 (min mean 131071)
    capUnderMs := min under 100
    capUnreachable := s.power.capUnreachable && decide (under < 100) } }

/-- CAP_UNREACHABLE (R642). -/
def stepCapUnreachable (s : State) : State :=
  if s.power.arithMhz.toNat ≤ s.power.flimit.live.fmin.toNat && 100 * s.power.cap.toNat < s.power.measured.toNat then
    { s with power := { s.power with capUnreachable := true } }
  else s

/-- ALERT_LONG (R645). -/
def stepAlertLong (s : State) : State := if s.pins.pwrAlert then raiseKey 0x20 0 s else s

/-! ### Temperature (R647 to R650) -/

/-- Insert into a rising list. -/
def insertInt (x : Int) : List Int → List Int
  | [] => [x]
  | y :: rest => if x ≤ y then x :: y :: rest else y :: insertInt x rest

/-- Twice the median of a list: of an even number of readings, the two in the middle. -/
def medianTwice (l : List Int) : Int :=
  let m := l.foldr insertInt []
  m.getD ((m.length - 1) / 2) 0 + m.getD (m.length / 2) 0

/-- Does a reading lie outside −55 to +150 °C, in units of 0.25 °C? -/
def readingOut (x : Int) : Bool := x < -220 || 600 < x

/-- The sensors that a sample excludes anew (R648). -/
def newExclusions (s : State) (readings : List Int) : List Nat :=
  let live := (List.range 32).filter fun i => !s.thermal.excluded.getLsbD i
  let out := live.filter fun i => readingOut (readings.getD i 0)
  let valid := live.filter fun i => !readingOut (readings.getD i 0)
  let med := medianTwice (valid.map fun i => readings.getD i 0)
  out ++ valid.filter fun i => decide (320 < (2 * readings.getD i 0 - med).natAbs)

/-- The hottest valid sensor, the lowest-numbered of equals. -/
def hottestOf (readings : List Int) : List Nat → Option (Nat × Int)
  | [] => none
  | i :: rest =>
    match hottestOf readings rest with
    | none => some (i, readings.getD i 0)
    | some b => if readings.getD i 0 < b.2 then some b else some (i, readings.getD i 0)

/-- R649: throttling starts and stops. -/
def throttleStep (h : Int) (s : State) : State :=
  let t := s.thermal
  let limit : Int := 4 * t.throttleC.toNat
  if limit ≤ h then
    if t.throttling then s else { s with thermal := { t with throttling := true, throttles := satInc t.throttles 1 } }
  else if t.throttling && h < limit - 4 * t.hystC.toNat then { s with thermal := { t with throttling := false } }
  else s

/-- R650: critical temperature. -/
def criticalStep (h : Int) (sensor : Nat) (s : State) : State :=
  if 4 * (critC s : Int) ≤ h then
    if s.thermal.overTemp then s
    else
      let s1 := stopTopping (toFallback { s with thermal := { s.thermal with overTemp := true } })
      raiseKey 0x22 (BitVec.ofNat 32 ((h % 4096).toNat + sensor * 65536)) s1
  else if s.thermal.overTemp && h < 4 * (s.thermal.throttleC.toNat : Int) then
    beginReturn { s with thermal := { s.thermal with overTemp := false } }
  else s

/-- THERMAL_SAMPLE: 32 readings in units of 0.25 °C. -/
def stepThermal (readings : List Int) (s : State) : State :=
  let fresh := newExclusions s readings
  let mask := fresh.foldl (fun m i => m ||| BitVec.ofNat 32 (2 ^ i)) s.thermal.excluded
  let s1 := { s with thermal := { s.thermal with
    excluded := mask, sensors := vmap s.thermal.sensors fun i _ => BitVec.ofInt 12 (readings.getD i.val 0) } }
  let s2 := foldState (fun _ s => logEvent 0x1F 0x0101 s) fresh s1
  let s3 := if !fresh.isEmpty && 4 < popCount mask then raiseKey 0x21 mask s2 else s2
  match hottestOf readings ((List.range 32).filter fun i => !mask.getLsbD i) with
  | none => s3
  | some (i, h) =>
    criticalStep h i (throttleStep h { s3 with thermal := { s3.thermal with
      hottest := BitVec.ofInt 12 h, hotSensor := BitVec.ofNat 5 i } })

/-! ### Vintage monitors (R657, R658) -/

/-- Degradation in ppm of a pair of counts (reference, stressed). With a reference that did not run R657 states no value. -/
def degradation (c : Nat × Nat) : Int :=
  if c.1 = 0 then Config.stoppedReference c.2
  else
  let n : Int := ((c.1 : Int) - c.2) * 1000000
  n / c.1 + if n % c.1 ≠ 0 && Config.roundsUp n.natAbs c.1 then 1 else 0

/-- VINTAGE_READING: 48 pairs of counts. -/
def stepVintage (counts : List (Nat × Nat)) (s : State) : State :=
  let d (i : Nat) : Int := degradation (counts.getD i (1, 1))
  let out := (List.range 48).filter fun i => d i < -2000 || 200000 < d i
  let s1 := { s with ageing := { s.ageing with
    readings := s.ageing.readings + 1, nextS := 2592000
    excluded := out.foldl (fun m i => m ||| BitVec.ofNat 48 (2 ^ i)) 0
    mons := vmap s.ageing.mons fun i _ => BitVec.ofInt 24 (d i.val) } }
  foldState (fun _ s => logEvent 0x1F 0x0102 s) out s1

/-! ### Topping work (R651, R653) -/

/-- TOPPING_RAMP_UP: the presses of a parcel with an open barrier that hold no command reach LEVEL. -/
def stepToppingUp (n : Fin 8) (s : State) : State :=
  if barrierOpen s n && toppingAllowed s then
    { s with presses := vmap s.presses fun _ p =>
      if p.assigned = some n && p.sequencer.isNone then { p with mode := .topping, topping := s.power.toppingLevel.toNat }
      else p }
  else s

/-! ### Rows -/

/-- SUPPLY_SAMPLE (R668): one reading in mV for each of the eight rails. -/
def execSupplySample (mv : List Nat) (s : State) : Host.Outcome State Fault Refusal :=
  answerIf (decide (mv.length = 8)) "SUPPLY_SAMPLE" (stepSupplySample mv) s
/-- SUPPLY (R668). -/
def execSupply (rail : Fin 8) (s : State) : Host.Outcome State Fault Refusal := answer (stepSupply rail) s
/-- AVS_STEP (R635): one slack for each monitor of the rail. -/
def execAvsStep (rail : Fin 3) (slacks : List Nat) (s : State) : Host.Outcome State Fault Refusal :=
  answerIf (decide (slacks.length = monitorCount rail)) "AVS_STEP" (stepAvs rail slacks) s
/-- AVS_SETTLED (R633). -/
def execAvsSettled (rail : Fin 3) (s : State) : Host.Outcome State Fault Refusal := answer (stepAvsSettled rail) s
/-- AVS_TIMEOUT (R633). -/
def execAvsTimeout (rail : Fin 3) (s : State) : Host.Outcome State Fault Refusal := answer (stepAvsTimeout rail) s
/-- DVFS_STEP (R638). -/
def execDvfsStep (s : State) : Host.Outcome State Fault Refusal := answer stepDvfs s
/-- POWER_MEASURE (R639): the voltage and current of each core rail. -/
def execPowerMeasure (mv ma : List Nat) (s : State) : Host.Outcome State Fault Refusal :=
  answerIf (decide (mv.length = 3) && decide (ma.length = 3)) "POWER_MEASURE" (stepPowerMeasure mv ma) s
/-- CAP_UNREACHABLE (R642). -/
def execCapUnreachable (s : State) : Host.Outcome State Fault Refusal := answer stepCapUnreachable s
/-- ALERT_LONG (R645). -/
def execAlertLong (s : State) : Host.Outcome State Fault Refusal := answer stepAlertLong s
/-- THERMAL_SAMPLE (R647): 32 readings. -/
def execThermalSample (readings : List Int) (s : State) : Host.Outcome State Fault Refusal :=
  answerIf (decide (readings.length = 32)) "THERMAL_SAMPLE" (stepThermal readings) s
/-- VINTAGE_READING (R657): 48 pairs of counts. -/
def execVintageReading (counts : List (Nat × Nat)) (s : State) : Host.Outcome State Fault Refusal :=
  answerIf (decide (counts.length = 48)) "VINTAGE_READING" (stepVintage counts) s
/-- TOPPING_RAMP_UP (R653). -/
def execToppingRampUp (parcel : Fin 8) (s : State) : Host.Outcome State Fault Refusal := answer (stepToppingUp parcel) s

end Sys2Proof.Machine
end

