-- ==== Sys2Proof/Machine/Mail.lean ====
section
/-! DEFINITION. Mailboxes: message format, out-areas, reading of requests and the checks of R561 (R555 to R563, R731). -/

namespace Sys2Proof.Machine

/-! ### Out-messages -/

/-- The slot after a slot of an area (R555). -/
def nextSlot (k : Nat) : Nat := if k < 255 then k + 1 else 1

/-- A message: header of Table 15.3 and payload. -/
def message (minor : Byte) (typ : Nat) (seq : Word) (payload : List Byte) : List Byte :=
  let head (crc : Nat) : List Byte :=
    [1, minor] ++ leBytes 2 typ ++ leBytes 2 (16 + payload.length) ++ [0, 0] ++ leBytes 4 seq.toNat ++ leBytes 4 crc
  head (crc32 (head 0 ++ payload)).toNat ++ payload

/-- Table 15.2: the out control block shows the pair's registers; on a remote device its echo carries an event with it. -/
def syncOutWith (p : Fin 8) (event : Option (BitVec 2)) (s : State) : State :=
  let x := s.pair p
  noteEcho (outArea p) 14 event <| s.updWindow fun m => m.writeBytes (outArea p)
    (leBytes 4 x.inRead.toNat ++ leBytes 4 x.outTail.toNat ++ leBytes 4 (if p = 0 then s.fw.eventsLost.toNat else 0) ++
      leBytes 1 x.inSlot ++ leBytes 1 x.outSlot)

/-- The out control block shows the pair's registers. -/
def syncOut (p : Fin 8) (s : State) : State := syncOutWith p none s

/-- R444: the wire of a pair's messages while MBOX_IRQ enables it, outside the safe state. -/
def mailEvent (p : Fin 8) (s : State) : Option (BitVec 2) :=
  if s.port.mboxEn.getLsbD p.val && !s.safety.safe then some (BitVec.ofNat 2 (s.port.mboxWire.toNat / 4 ^ p.val)) else none

/-- R444: a message raises the pair's wire on the lead; on a remote device the echo of the control block carries the event. -/
def mailWire (p : Fin 8) (s : State) : State :=
  match mailEvent p s with
  | some w => raiseWire w s
  | none => s

/-- Write one out-message: the whole slot and then OUT_TAIL (R558). -/
def writeOut (p : Fin 8) (body : List Byte) (s : State) : State :=
  let x := s.pair p
  let m := message s.fw.minor (fieldNat body 0 2) x.outTail (body.drop 2)
  let slot := outArea p + 256 * x.outSlot
  let s1 := noteEcho slot 256 none (s.updWindow fun w => w.writeBytes slot (m ++ List.replicate (256 - m.length) 0))
  mailWire p (syncOutWith p (mailEvent p s) (s1.updPair p fun x => { x with outTail := x.outTail + 1, outSlot := nextSlot x.outSlot }))

/-- R558: is there room for an out-message? -/
def outRoom (s : State) (p : Fin 8) : Bool := ((s.pair p).outTail - (s.pair p).outConsumed).toNat < 255

/-- Write held messages while there is room, in the order in which firmware wrote them (R559). -/
def drainOut : Nat → Fin 8 → State → State
  | 0, _, s => s
  | fuel + 1, p, s =>
    match (s.pair p).held with
    | [] => s
    | m :: rest =>
      if outRoom s p then drainOut fuel p (writeOut p m.2 (s.updPair p fun x => { x with held := rest })) else s

/-- Put a message out, or hold it. -/
def putOut (p : Fin 8) (isEvent : Bool) (body : List Byte) (s : State) : State :=
  drainOut 257 p (s.updPair p fun x => { x with held := x.held ++ [(isEvent, body)] })

/-- R559: an event travels on pair 0; beyond 256 held it is dropped, counted and logged. -/
def fwEvent (typ : Nat) (payload : List Byte) (s : State) : State :=
  if ((s.pair 0).held.countP fun m => m.1) < 256 then putOut 0 true (leBytes 2 typ ++ payload) s
  else
    logEvent 0x3A 0x0104 (syncOut 0 { s with fw := { s.fw with eventsLost := satInc s.fw.eventsLost 1 } })

/-- Bytes of a reply's own fields (Table 15.12). -/
def replyFieldBytes (typ : Nat) : Nat :=
  match typ with
  | 0x0001 | 0x0050 => 16
  | 0x0030 | 0x0040 | 0x0058 => 8
  | 0x0068 | 0x0078 | 0x0080 | 0x0081 | 0x0090 => 4
  | _ => 0

/-- R563: reply to a request. A reply other than OK has its own fields 0 (DEDUCED). -/
def sendReply (p : Fin 8) (typ : Nat) (seq : Word) (result : Nat) (fields : List Byte) (s : State) : State :=
  let s1 := if result = 0 then s else { s with fw := { s.fw with msgErrors := satInc s.fw.msgErrors 1 } }
  let own := if result = 0 then fields else List.replicate (replyFieldBytes typ) 0
  putOut p false (leBytes 2 (typ ||| 0x4000) ++ leBytes 4 seq.toNat ++ leBytes 2 result ++ [0, 0] ++ own) s1

/-! ### Requests -/

/-- LENGTH that Table 15.10 gives a request; none for a TYPE that Table 15.4 does not list. -/
def requestLength (typ : Nat) (raw : List Byte) : Option Nat :=
  match typ with
  | 0x0001 | 0x0081 => some 16
  | 0x0010 => some (48 + 16 * min (fieldNat raw 19 1) 13)
  | 0x0011 | 0x0021 | 0x0031 | 0x0051 | 0x0058 | 0x0060 | 0x0068 | 0x0078 | 0x007A => some 20
  | 0x0020 => some 28
  | 0x0030 | 0x0070 => some 40
  | 0x0040 => some (24 + 2 * min (fieldNat raw 18 1 + fieldNat raw 19 1) 116)
  | 0x0048 => some 56
  | 0x0050 | 0x0080 => some 24
  | 0x0079 => some 88
  | 0x0090 => some 52
  | _ => none

/-- Bytes `lo` to `hi` as wholly reserved. -/
def resBytes (lo hi : Nat) : List (Nat × Nat) := (List.range (hi + 1 - lo)).map fun i => (lo + i, 0xFF)

/-- Reserved bits of a request (Tables 15.3, 15.10 and 15.11): byte and mask. -/
def reservedBits (typ : Nat) (raw : List Byte) : List (Nat × Nat) :=
  [(6, 0xFF), (7, 0xFF)] ++
  match typ with
  | 0x0010 => [(18, 0xFC), (31, 0xF0), (33, 0xE0)] ++ resBytes 42 47 ++
      (List.range (min (fieldNat raw 19 1) 13)).flatMap fun i => resBytes (57 + 16 * i) (63 + 16 * i)
  | 0x0011 | 0x0021 | 0x0051 | 0x0058 | 0x0060 | 0x0068 => resBytes 17 19
  | 0x0020 => [(20, 0xF8)] ++ resBytes 21 23
  | 0x0030 => resBytes 17 23 ++ [(28, 0xC0)] ++ resBytes 29 31
  | 0x0031 | 0x0070 => resBytes 19 19 ++ if typ = 0x70 then resBytes 36 39 else []
  | 0x0040 => [(17, 0xFE)] ++ resBytes 20 23
  | 0x0048 => resBytes 19 19 ++ resBytes 22 23 ++ ((List.range 15).map fun i => (25 + 2 * i, 0x7C)) ++ resBytes 54 55
  | 0x0078 => resBytes 19 19
  | 0x0079 => resBytes 18 23
  | 0x007A => resBytes 18 19
  | 0x0080 => [(19, 0xFE)]
  | 0x0090 => resBytes 51 51
  | _ => []

/-- The 256 bytes of a request with everything beyond its LENGTH taken as 0 (R562). -/
def requestBody (raw : List Byte) : List Byte :=
  let n := min (fieldNat raw 4 2) 256
  raw.take n ++ List.replicate (256 - n) 0

/-- R561, R562: the checks that every request meets, in order; 0 when it passes, else the RESULT. -/
def requestCheck (minor : Byte) (raw : List Byte) : Nat :=
  let typ := fieldNat raw 2 2
  let len := fieldNat raw 4 2
  let newer := decide (minor.toNat < fieldNat raw 1 1)
  let body := requestBody raw
  let zeroed := (raw.take len).take 12 ++ [0, 0, 0, 0] ++ (raw.take len).drop 16
  if len < 16 ∨ 256 < len then 4
  else if !newer && decide (len < (requestLength typ raw).getD 0) then 4
  else if BitVec.ofNat 32 (fieldNat raw 12 4) ≠ crc32 zeroed then 2
  else if fieldNat raw 0 1 ≠ 1 then 1
  else if (requestLength typ raw).isNone then 3
  else if !newer && (reservedBits typ body).any fun b => (byteAt body b.1).toNat &&& b.2 ≠ 0 then 5
  else 0

/-- Does a live swap keep requests from being read (R571)? -/
def swapPending (s : State) : Bool := s.fw.pairs.toList.any fun x => match x.job with
  | some (.swapping _) => true
  | _ => false

/-- Does firmware serve mailboxes: past READY, its harts running? -/
def firmwareUp (s : State) : Bool := s.boot.ready && hartsRun s

/-- The next request of a pair, when firmware may read it (R557, R558, R571). -/
def nextRequest (p : Fin 8) (s : State) : Option (List Byte) :=
  let x := s.pair p
  if firmwareUp s && x.inRead ≠ x.inTail && x.job.isNone && !(x.held.any fun m => !m.1) && !swapPending s then
    some (s.port.window.readBytes (inArea p + 256 * x.inSlot) 256)
  else none

/-- R557: IN_READ advances when the request has been copied. -/
def takeRequest (p : Fin 8) (s : State) : State :=
  syncOut p (s.updPair p fun x => { x with inRead := x.inRead + 1, inSlot := nextSlot x.inSlot })

/-- Answer the requests at the head of a pair that fail the checks of R561. -/
def refuseBad : Nat → Fin 8 → State → State
  | 0, _, s => s
  | fuel + 1, p, s =>
    match nextRequest p s with
    | none => s
    | some raw =>
      let r := requestCheck s.fw.minor raw
      if r = 0 then s
      else refuseBad fuel p (sendReply p (fieldNat raw 2 2) (BitVec.ofNat 32 (fieldNat raw 8 4)) r [] (takeRequest p s))

/-- SEQ of a request. -/
def reqSeq (body : List Byte) : Word := BitVec.ofNat 32 (fieldNat body 8 4)

/-- Serve the next request of a pair when it is of a type: `act` performs it and says the RESULT and the reply's own
fields, or none while the reply is owed. -/
def serve (typ : Nat) (p : Fin 8) (act : List Byte → State → State × Option (Nat × List Byte)) (s : State) : State :=
  match nextRequest p s with
  | none => s
  | some raw =>
    if requestCheck s.fw.minor raw = 0 && fieldNat raw 2 2 = typ then
      let body := requestBody raw
      let r := act body (takeRequest p s)
      match r.2 with
      | none => r.1
      | some (code, fields) => refuseBad 256 p (sendReply p typ (reqSeq body) code fields r.1)
    else s

/-- R630: a domain that a request would give work is in deep sleep, or on its way out of it. -/
def leavesDeep (s : State) (d : Fin 9) : Bool := (s.dom d).deepEn || ((s.dom d).src = 0 && (s.pll d).waiting)

/-- R630: before firmware acts on a request that gives work to domains in deep sleep, it takes them out of it; until they run the
request stays unread (DESIGN CHOICE, log entry 51). -/
def serveAwake (typ : Nat) (p : Fin 8) (work : List Byte → State → List (Fin 9))
    (act : List Byte → State → State × Option (Nat × List Byte)) (s : State) : State :=
  match nextRequest p s with
  | none => s
  | some raw =>
    let asleep := (work (requestBody raw) s).filter (leavesDeep s)
    if asleep.isEmpty || requestCheck s.fw.minor raw ≠ 0 || decide (fieldNat raw 2 2 ≠ typ) then serve typ p act s
    else foldState (fun d s => setDeepEn (.hart 0) d false s) (asleep.filter fun d => (s.dom d).deepEn) s

/-- The reply of a request that was owed: its job ends and the pair goes on. -/
def finishJob (p : Fin 8) (typ : Nat) (seq : Word) (code : Nat) (fields : List Byte) (s : State) : State :=
  refuseBad 256 p (sendReply p typ seq code fields (s.updPair p fun x => { x with job := none }))

/-! ### Mailbox words (R556) -/

/-- Does an observer event belong to a pair's mailbox word? -/
def isMailbox (p : Fin 8) : ObserverEvent → Bool
  | .mailbox q _ => q = p
  | _ => false

/-- Remove the first event that satisfies a test. -/
def dropEvent (f : ObserverEvent → Bool) : List ObserverEvent → List ObserverEvent
  | [] => []
  | e :: rest => if f e then rest else e :: dropEvent f rest

/-- The IN_TAIL half of a mailbox word (R556, Table 12.2). -/
def acceptInTail (p : Fin 8) (t : Word) (s : State) : State :=
  let x := s.pair p
  if t = x.inTail then s
  else if (t - x.inTail).toNat < 2 ^ 31 ∧ (t - x.inRead).toNat ≤ 255 then s.updPair p fun x => { x with inTail := t }
  else pageError pgFw 1 (BitVec.ofNat 32 p.val) 0 0x40 s

/-- The OUT_CONSUMED half of a mailbox word (R556, R471). -/
def acceptOutConsumed (p : Fin 8) (c : Word) (s : State) : State :=
  let x := s.pair p
  if (c - x.outConsumed).toNat ≤ (x.outTail - x.outConsumed).toNat then
    drainOut 257 p (s.updPair p fun x => { x with outConsumed := c })
  else pageError pgFw 2 (BitVec.ofNat 32 p.val) 0 0x40 s

/-- MAILBOX_WORD_WRITE (R556): firmware takes the oldest observer event of the pair's mailbox word. -/
def stepMailboxWord (p : Fin 8) (s : State) : State :=
  if firmwareUp s then
    match s.port.observer.find? (isMailbox p) with
    | some (.mailbox _ w) =>
      let s1 := { s with port := { s.port with observer := dropEvent (isMailbox p) s.port.observer } }
      refuseBad 256 p (acceptOutConsumed p (w >>> 32 |>.setWidth 32) (acceptInTail p (w.setWidth 32) s1))
    | _ => s
  else s

/-- MAILBOX_WORD_WRITE. -/
def execMailboxWordWrite (pair : Fin 8) (s : State) : Host.Outcome State Fault Refusal := answer (stepMailboxWord pair) s

/-! ### Vintage guards (R659), whose report is an event -/

/-- The largest degradation of a rail's valid monitors. -/
def worstOf (s : State) (r : Fin 3) : Option Int :=
  let l := ((List.range 16).map fun i => 16 * r.val + i).filter fun i => !s.ageing.excluded.getLsbD i
  l.foldl (fun best i =>
    let d := (vget s.ageing.mons (Fin.ofNat 48 i)).toInt
    match best with
    | none => some d
    | some b => some (max b d)) none

/-- GUARD_r of a degradation: 3 to 53 (R659). -/
def guardOf (d : Int) : Nat := min 53 (3 + -((-d) / 4000)).toNat

/-- VMAX of a rail in mV. -/
def vmaxMv (s : State) (r : Fin 3) : Nat := vget s.fuses.vmax r

/-- Headroom of a rail in mV: VMAX_r less the voltage at its top frequency with the rail's trim. -/
def headroomOf (s : State) (r : Fin 3) : Int :=
  let base : Nat := if r.val = 0 then vArith s.power.flimit.live.fmax.toNat else Config.baseMv r.val 10
  (vmaxMv s r : Int) - (base + (vget s.power.rails r).trim)

/-- The highest ARITH frequency with headroom, searched downwards; none when no frequency has headroom. -/
def sustainFrom (s : State) : Nat → Option Nat
  | 0 => none
  | n + 1 =>
    if (vArith (100 + n) : Int) + (vget s.power.rails 0).trim ≤ (vmaxMv s 0 : Int) then some (100 + n)
    else sustainFrom s n

/-- One rail's guard after a reading. -/
def guardRail (s : State) (r : Fin 3) (a : AvsRail) : AvsRail :=
  match worstOf s r with
  | none => a
  | some d => { a with guard := BitVec.ofNat 6 (max a.guard.toNat (guardOf d)) }

/-- Stage and commit FMAX_SUSTAIN as the new FMAX (R659): firmware's commit of FLIMIT. -/
def commitFmax (mhz : BitVec 9) (s : State) : State :=
  let f := s.power.flimit
  { s with
    power := { s.power with flimit := Rws.go { f with staged := { f.staged with fmax := mhz } } }
    ageing := { s.ageing with deferred := false } }.updPage pgPower fun r => { r with goBy := .hart 2 }

/-- Payload of MARGIN_REPORT (Table 18.3). -/
def marginReport (s : State) : List Byte :=
  let a := s.ageing
  leBytes 4 a.readings.toNat ++
  (List.finRange 3).flatMap (fun r => leBytes 4 (BitVec.ofInt 32 (vget a.worst r).toInt).toNat) ++
  (List.finRange 3).flatMap (fun r => leBytes 1 (vget s.power.rails r).guard.toNat) ++ [0] ++
  (List.finRange 3).flatMap (fun r => leBytes 2 (vget a.headroom r).toNat) ++
  leBytes 2 a.fmaxSustain.toNat ++ leBytes 6 a.excluded.toNat ++ [0, 0]

/-- GUARD_UPDATE (R659). -/
def stepGuardUpdate (s : State) : State :=
  if !hartsRun s then s
  else
    let s1 := { s with power := { s.power with rails := vmap s.power.rails (guardRail s) } }
    let sustain := (sustainFrom s1 201).getD s.ageing.fmaxSustain.toNat
    let s2 := { s1 with ageing := { s1.ageing with
      worst := vmap s1.ageing.worst fun r w => match worstOf s r with
        | none => w
        | some d => BitVec.ofInt 24 d
      headroom := vmap s1.ageing.headroom fun r _ => BitVec.ofInt 16 (headroomOf s1 r)
      fmaxSustain := BitVec.ofNat 9 sustain } }
    let s3 := if sustain < s2.power.flimit.live.fmax.toNat then
        (if s2.vine.cfg.live.det then { s2 with ageing := { s2.ageing with deferred := true } }
         else commitFmax (BitVec.ofNat 9 sustain) s2)
      else s2
    fwEvent 0x8004 (marginReport s3) s3

/-- GUARD_UPDATE. -/
def execGuardUpdate (s : State) : Host.Outcome State Fault Refusal := answer stepGuardUpdate s

end Sys2Proof.Machine
end

