-- ==== Sys2Proof/Machine/Boot.lean ====
section
/-! DEFINITION. Resets, the steps of a start, image checks, image slots and attestation measurements (R575 to R605). -/

namespace Sys2Proof.Machine

/-! ### Boot configuration and images (Tables 16.2 to 16.5) -/

/-- Order of sources by code: 0 NOR, 1 eMMC, 2 host, 3 Vine (Table 16.2). -/
def sourceOrder (code : Nat) : List Nat :=
  match code with
  | 0 => [0, 1, 2, 3]
  | 1 => [0, 2, 3]
  | 2 => [1, 0, 2, 3]
  | 3 => [2, 0, 1]
  | 4 => [3, 0]
  | 5 => [3]
  | 6 => [0]
  | _ => [2]

/-- R586: the order in force, by strap or by fuse. -/
def bootOrder (s : State) : List Nat :=
  sourceOrder (if s.fuses.lock then s.fuses.order.toNat else s.straps.bootOrder.toNat)

/-- A boot configuration (Table 16.4). -/
structure BootCfg where
  inlineEcc : Bool
  maxRate : Nat
  safety : Bool
  waitS : Nat
  deriving DecidableEq, Repr

/-- R590: does the configuration carry its MAGIC and its CRC? -/
def configGood (l : List Byte) : Bool :=
  fieldNat l 0 4 = 0x47464342 && BitVec.ofNat 32 (fieldNat l 60 4) = crc32 ((l ++ List.replicate 60 0).take 60)

/-- The configuration in force: the default column where MAGIC or CRC fails. -/
def bootCfg (l : List Byte) : BootCfg :=
  if configGood l then
    { inlineEcc := fieldNat l 4 1 ≠ 0, maxRate := fieldNat l 5 1, safety := fieldNat l 6 1 ≠ 0, waitS := fieldNat l 7 1 }
  else { inlineEcc := true, maxRate := 0, safety := false, waitS := 30 }

/-- LENGTH of an image. -/
def imageLength (img : List Byte) : Nat := fieldNat img 8 4

/-- Bytes of an image as the copy holds them: beyond what the source gave, 0. -/
def imageBytes (img : List Byte) (n : Nat) : List Byte := img.take n ++ List.replicate (n - img.length) 0

/-- Are all bytes lo to hi of an image 0? -/
def zeroBytes (img : List Byte) (lo hi : Nat) : Bool :=
  ((img.drop lo).take (hi + 1 - lo)).all fun b => decide (b = 0)

/-- R593: the checks of an image in order; the CAUSE code of the first that fails. -/
def imageFault (f : Fuses) (img : List Byte) : Option (BitVec 4) :=
  let len := imageLength img
  let key := fieldNat img 13 1
  let pk := imageBytes (img.drop 64) 32
  if fieldNat img 0 4 ≠ 0x474D4950 ∨ len < 8112 ∨ 1048576 < len ∨ !zeroBytes img 15 15 ∨ !zeroBytes img 36 63 ∨
      !zeroBytes img 96 255 ∨ fieldNat img 14 1 / 16 ≠ 0 then some 7
  else if 4 ≤ key then some 8
  else if f.revoked.getLsbD key then some 8
  else
    match vget f.digests (Fin.ofNat 4 key) with
    | none => some 8
    | some d =>
      if sha256 pk ≠ d then some 8
      else if fieldNat img 12 1 < f.svn then some 9
      else if !Config.slhVerify pk (imageBytes img (len - 7856)) (imageBytes (img.drop (len - 7856)) 7856) then some 10
      else none

/-! ### Resets (R575, R576, R580) -/

/-- Throttling threshold at reset by grade (Table 18.5). -/
def throttleReset (f : Fuses) : Byte := if f.grade.toNat % 2 = 0 then 120 else 100

/-- A store whose contents a device reset leaves undefined. -/
def freeMem (len event : Nat) : Mem := { cells := [], spans := [⟨0, len, event⟩] }

/-- The level of a step. -/
def levelOf (r : BootRecord) (step : Nat) : Nat := (vget r.levels (Fin.ofNat 12 (step - 1))).toNat

/-- Set the level of a step. -/
def setLevel (r : BootRecord) (step v : Nat) : BootRecord :=
  { r with levels := vset r.levels (Fin.ofNat 12 (step - 1)) (BitVec.ofNat 2 v) }

/-- Show the positions of SOURCE and CHECK in LEVELS (R579). -/
def showPositions (r : BootRecord) : BootRecord := setLevel (setLevel r 4 r.sourcePos) 5 (if r.slotTried then 1 else 0)

/-- The next source of the order (R579). -/
def nextSource (order : List Nat) (r : BootRecord) : Option BootRecord :=
  if r.sourcePos + 1 < order.length then some (showPositions { r with sourcePos := r.sourcePos + 1, slotTried := false })
  else none

/-- R579: the next alternative of a failed step; none when it has no further one. -/
def raiseLevel (order : List Nat) (step : Nat) (r : BootRecord) : Option BootRecord :=
  match step with
  | 4 => nextSource order r
  | 5 => if (order.getD r.sourcePos 2) < 2 && !r.slotTried then some (showPositions { r with slotTried := true })
         else nextSource order r
  | 7 => if levelOf r 7 < 2 then some (setLevel r 7 (levelOf r 7 + 1)) else none
  | 10 => if levelOf r 10 = 0 then some (setLevel r 10 1) else none
  | 12 => if levelOf r 12 = 0 then some (setLevel r 12 1) else none
  | _ => none

/-- R599: every level at 0 and the other slot. -/
def trialFallback (r : BootRecord) : BootRecord :=
  showPositions { r with levels := Vector.replicate 12 0, slotTried := true }

/-- Every memory of the device after a device reset: contents undefined. -/
def loseMemories (e : Nat) (s : State) : State :=
  { s with
    freeCtr := e + 64
    presses := vmap s.presses fun i p => { p with
      cask := freeMem 0x600000 (e + i.val), accumulators := freeMem 0x80000 (e + 16 + i.val)
      sideStore := freeMem 0x1000 (e + 32 + i.val) }
    cellar := { s.cellar with mem := freeMem 0x3000000 (e + 48) }
    port := { s.port with window := freeMem 0x8000000 (e + 49) }
    dram := freeMem (2 ^ 38) (e + 50) }

/-- Everything but retained storage, fuses, flash, pins and time's origin takes its reset value. -/
def resetDevice (rec : BootRecord) (straps : Straps) (s : State) : State :=
  loseMemories s.freeCtr { State.reset with
    pending := s.pending, fuses := s.fuses, flash := s.flash, straps := straps, book := s.book, failed := s.failed
    bootRec := rec
    pins := { alarm := false, safe := true, pwrAlert := s.pins.pwrAlert }
    thermal := { State.reset.thermal with throttleC := throttleReset s.fuses } }

/-- Boot halts (R580). -/
def haltBoot (s : State) : State := { s with boot := { s.boot with halted := true } }

/-- Is a cause that of an operator reset: RESET_N or HOST_RESET? -/
def isOperator (cause : BitVec 4) : Bool := cause = 1 || cause = 3

/-- The boot record after a device reset with a cause; none when the start halts (R579, R580, R599). -/
def recordAfterReset (cause : BitVec 4) (s : State) : BootRecord × Bool :=
  let order := bootOrder s
  let r := s.bootRec
  let failedStart := !s.boot.readySeen
  let attempts : BitVec 4 := if isOperator cause then 0 else if failedStart then r.attempts + 1 else r.attempts
  let r1 := { r with cause := cause, attempts := attempts }
  let full := !isOperator cause && decide (8 ≤ attempts.toNat)
  if (failedStart || cause = 2) && r.trial && decide (6 ≤ r.step.toNat) then (trialFallback r1, full)
  else if cause = 2 then
    match raiseLevel order r.step.toNat r1 with
    | none => (r1, true)
    | some r2 => (r2, full)
  else (r1, full)

/-- R575: a device reset. A halted device ends its halt only by an operator reset. -/
def deviceReset (cause : BitVec 4) (straps : Straps) (s : State) : State :=
  if s.boot.halted && !isOperator cause then s
  else
    let r := recordAfterReset cause s
    let s1 := resetDevice r.1 straps s
    if r.2 then haltBoot s1 else s1

/-- R575: a power-on reset. The pin PWR_ALERT_N, the fuses and the flash are the board's. -/
def powerOn (straps : Straps) (s : State) : State :=
  { State.reset with
    pending := s.pending, freeCtr := s.freeCtr, fuses := s.fuses, flash := s.flash, straps := straps
    pins := { alarm := false, safe := true, pwrAlert := s.pins.pwrAlert }
    thermal := { State.reset.thermal with throttleC := throttleReset s.fuses } }

/-- BOOT_WATCHDOG (R578): the step in progress has a timeout and has not completed. -/
def stepBootWatchdog (straps : Straps) (s : State) : State :=
  let n := s.boot.nextStep
  if s.boot.halted || s.safety.safe || n = 3 || n = 11 || 12 < n then s
  else deviceReset 2 straps { s with bootRec := { s.bootRec with step := BitVec.ofNat 8 n } }

/-- CAUSE of a reset by who requests it (Table 16.11). -/
def resetCause : Writer → BitVec 4
  | .host => 3
  | .hart _ => 4
  | .safetyPair => 5

/-- R607: a write of BOOT.RESET. -/
def writeReset (who : Writer) (dev : Bool) (key : Byte) (straps : Straps) (s : State) : State :=
  if dev && key = 0xA5 then deviceReset (resetCause who) straps s else s

/-! ### Steps of a start (Table 16.1) -/

/-- Change the boot page. -/
def State.updBoot (s : State) (f : Boot → Boot) : State := { s with boot := f s.boot }
/-- Change the boot record. -/
def State.updRecord (s : State) (f : BootRecord → BootRecord) : State := { s with bootRec := f s.bootRec }

/-- Run a step when it is the next one: its code goes to RECORD.STEP first (R578). -/
def bootStep (n : Nat) (f : State → State) (s : State) : State :=
  if s.boot.halted || s.safety.safe || s.boot.nextStep ≠ n then s
  else f (s.updRecord fun r => { r with step := BitVec.ofNat 8 n })

/-- The step passed: the next one may begin. -/
def passTo (n : Nat) (s : State) : State := s.updBoot fun b => { b with nextStep := n }

/-- R579: a step's own test fails: CAUSE, and the next alternative from step `again` on, or the halt. -/
def failStep (step again : Nat) (cause : BitVec 4) (s : State) : State :=
  let r1 := { s.bootRec with cause := cause }
  match raiseLevel (bootOrder s) step r1 with
  | none => haltBoot { s with bootRec := r1 }
  | some r => passTo again { s with bootRec := r }

/-- R605: extend PCR by an item's digest and log it. -/
def measureDigest (d : List Byte) (s : State) : State :=
  s.updBoot fun b => { b with
    pcr := sha256 (b.pcr ++ d), measLog := if b.measLog.length < 32 then b.measLog ++ [d] else b.measLog }

/-- ROM_START: the RESET record, the ROM's own checksum and the identity keys (R604, R605, R688). -/
def romStartBody (checksumOk : Bool) (s0 : State) : State :=
  let s := bookEvent s0.time 0x3F 3 (s0.bootRec.cause.setWidth 16) 1 (freeData s0) s0.bump
  if !checksumOk then failStep 1 1 6 s
  else
    let seed := imageBytes Config.identitySeed 32
    let sk := sha256 (seed ++ [1])
    passTo 2 (measureDigest (imageBytes Config.romDigest 32)
      (s.updBoot fun b => { b with
        skSeed := sk.take 16, skPrf := sk.drop 16, pkSeed := (sha256 (seed ++ [2])).take 16 }))

/-- CLOCKS: every PLL but MEMPHY and Vine, and every such domain but HOSTPHY on its PLL (R615, R719, R722). -/
def clocksBody (s : State) : State :=
  let onPll (p : Fin 9) : Bool := p.val ≠ 5 && p.val < 7
  let s1 := { s with power := { s.power with arithMhz := BitVec.ofNat 9 ((s.pll 0).cfg.live.khz.toNat / 1000) } }
  let s2 := requestArith s1.power.arithMhz.toNat (requestCore s1)
  let s3 := { s2 with clocks := { s2.clocks with
    plls := vmap s2.clocks.plls fun p x => if onPll p then { x with on := true, locked := true } else x
    doms := vmap s2.clocks.doms fun d x => if onPll d && d.val ≠ 6 then { x with src := 2, st := 1 } else x } }
  passTo 3 (if s3.pins.pwrAlert then takeAlert s3 else s3)

/-- HOST_PORT: HOSTPHY on its PLL and the host port released for training (R582, R615). -/
def hostPortBody (s : State) : State :=
  passTo 4 ((s.updDom 6 fun x => { x with src := 2, st := 1 }).updBoot fun b => { b with hostPortUp := true })

/-- R599: the NOR slot that the ROM takes. -/
def norChoice (f : Flash) (other : Bool) : Option (Fin 2) :=
  let a := selectedSlot f
  let b := otherSlot a
  let spare := if slotState f b = 3 || slotState f b = 4 then some b else none
  if !f.norPresent then none
  else if !other && slotState f a = 3 then some a else spare

/-- Configuration, image and slot that a source other than Vine gives; none when it fails to answer. -/
def fetchSource (s : State) (src : Nat) (other : Bool) : Option (List Byte × List Byte × Bool) :=
  match src with
  | 0 => (norChoice s.flash other).map fun x =>
      (imageBytes s.flash.norConfig 64, (vget s.flash.slots x).image, decide (x = 1))
  | 1 => if s.flash.emmcPresent then
      some (imageBytes s.flash.emmcConfig 64, vget s.flash.emmcImages (if other then 1 else 0), other) else none
  | _ => some (s.port.window.readBytes (stagingBase + 0x100000) 64,
      s.port.window.readBytes stagingBase (min s.boot.hostImageLen.toNat 1048576), false)

/-- The image and configuration of a source are on chip: SOURCE passes (R590, R592). -/
def takeImage (src : Nat) (config image : List Byte) (slot trial : Bool) (s : State) : State :=
  let s1 := (s.updBoot fun b => { b with config := config, image := imageBytes image (min (imageLength image) 1048576) })
  let s2 := s1.updRecord fun r => { r with source := BitVec.ofNat 2 src, slot := slot, trial := trial }
  let s3 := if configGood config then s2 else pageError pgBoot 1 (BitVec.ofNat 32 src) 0 0x3F s2
  passTo 5 s3

/-- The sources from the present position on: the first that answers; the host and Vine are waited for. -/
def sourceLoop (relay : Option Relay) : Nat → State → State
  | 0, s => s
  | fuel + 1, s =>
    let src := (bootOrder s).getD s.bootRec.sourcePos 2
    let lose := fun s => sourceLoop relay fuel (failStep 4 4 6 s)
    if s.boot.halted then s
    else if src = 3 then
      match relay with
      | none => s
      | some r => takeImage 3 (imageBytes r.config 64) r.image false false s
    else if src = 2 && !s.boot.imageSeen then s
    else
      match fetchSource s src s.bootRec.slotTried with
      | none => lose s
      | some (config, image, slot) =>
        let s1 := if src = 2 then s.updBoot fun b => { b with hostImageTaken := true } else s
        takeImage src config image slot
          (src = 0 && selectorTrial s.flash && decide (slot = decide (selectedSlot s.flash = 1))) s1

/-- CHECK (R593): the checks of the copy; a failure goes on with the other slot or the next source. -/
def checkRegions (s : State) : State :=
  match imageFault s.fuses s.boot.image with
  | some cause => failStep 5 4 cause s
  | none =>
    let off := fieldNat s.boot.image 24 4
    passTo 6 (s.updBoot fun b => { b with
      keyInUse := BitVec.ofNat 2 (fieldNat b.image 13 1)
      safetyStore := (b.image.drop off).take (min (fieldNat b.image 28 4) 131072) })

/-- ENTRY (R577, R605): the last measurements, and harts 0 to 3 enter the image. -/
def entryBody (s : State) : State :=
  let s1 := measureDigest (sha256 s.boot.image) (measureDigest (sha256 s.boot.config) s)
  let s2 := { s1 with
    fw := { s1.fw with
      version := BitVec.ofNat 32 (fieldNat s.boot.image 4 4), half := false
      minor := Config.imageMinor s.boot.image, translator := Config.imageTranslator s.boot.image }
    safety := { s1.safety with hartBeat := Vector.replicate 4 s1.time } }
  passTo 7 (s2.updBoot fun b => { b with hartsReleased := true })

/-- Capacity code of a channel in GiB (Table 10.10). -/
def capacityCode (gib : Nat) : Option (BitVec 2) :=
  if gib = 4 then some 0 else if gib = 8 then some 1 else if gib = 16 then some 2 else none

/-- R370: the code of a population of sixteen equal channels. -/
def populationCode : List Nat → Option (BitVec 2)
  | [] => none
  | g :: rest => if rest.all fun x => decide (x = g) then capacityCode g else none

/-- MEMPHY frequency of a rate in kHz (Table 10.2). -/
def memKhz (rate : Nat) : Nat := if rate = 0 then 1600000 else if rate = 1 then 1300000 else 1062500

/-- LPDDR6 (R372, R583): training at the level that the record holds. -/
def lpddr6Body (pass : Bool) (channelGiB : List Nat) (twoRanks : Bool) (values : List Byte) (s : State) : State :=
  match populationCode channelGiB with
  | none => failStep 7 7 6 s
  | some cap =>
    if !pass then failStep 7 7 6 s
    else
      let level := levelOf s.bootRec 7
      let rate : BitVec 2 := if level = 0 then BitVec.ofNat 2 (bootCfg s.boot.config).maxRate
        else if level = 1 then s.flash.trainingRate else 2
      let s1 := { s with memctl := { s.memctl with
        rate := rate, capacity := cap, ranks := twoRanks, trained := true
        training := if level = 1 then s.flash.training else values } }
      let s2 := s1.updPll 5 fun x => { x with on := true, locked := true, cfg := rwsReset { x.cfg.live with khz := BitVec.ofNat 24 (memKhz rate.toNat) } }
      passTo 8 (s2.updDom 5 fun x => { x with src := 2, st := 1 })

/-- Populated bytes of a capacity code. -/
def populatedBytes (cap : BitVec 2) : Nat := 64 * 2 ^ cap.toNat * 2 ^ 30

/-- D of R374. -/
def addressableBytes (cap : BitVec 2) (inlineEcc : Bool) : Nat :=
  if inlineEcc then populatedBytes cap / 32 * 31 else populatedBytes cap

/-- MEMORY (R374, R376, R387, R584, R661). -/
def memoryBody (s : State) : State :=
  let c := bootCfg s.boot.config
  let ecc := c.inlineEcc || c.safety
  let pages := (addressableBytes s.memctl.capacity ecc - 2 ^ 27) / 16384
  let lost := s.flash.retiredPages.filter fun p => decide (p < pages)
  passTo 9 { s with
    memctl := { s.memctl with inlineEcc := ecc }
    safety := { s.safety with mode := c.safety }
    mmu := { s.mmu with
      table := [], retired := lost, poolPages := pages, ttBase := BitVec.ofNat 24 pages
      spare := BitVec.ofNat 24 (pages - lost.length), retiredCount := BitVec.ofNat 24 lost.length } }

/-- SAFETY: the safety firmware starts and tests itself; SAFE_N is released at the end of the step (R714). -/
def safetyBody (pass : Bool) (s : State) : State :=
  if pass then passTo 10 { s with pins := { s.pins with safe := s.safety.safe } } else failStep 9 9 6 s

/-- One link at bring-up: UP with its far end, or DOWN. -/
def linkTrained (peer : Option Peer) (l : Link) : Link :=
  match peer with
  | none => { l with state := 0, wanted := false }
  | some q => { l with state := 2, wanted := true, peerDev := BitVec.ofFin q.dev, peerLink := BitVec.ofFin q.link }

/-- VINE (R585, R615): the Vine PLLs and every link whose far end answers; at level 1 the device runs alone. -/
def vineBody (peers : List (Option Peer)) (s : State) : State :=
  if levelOf s.bootRec 10 = 1 then
    passTo 11 { s with port := { s.port with devices := 1 } }
  else
    let s1 := { s with
      vine := { s.vine with
        links := vmap s.vine.links fun i l => linkTrained (peers.getD i.val none) l, startedAt := s.time }
      clocks := { s.clocks with
        plls := vmap s.clocks.plls fun p x => if 7 ≤ p.val then { x with on := true, locked := true } else x
        doms := vmap s.clocks.doms fun d x => if 7 ≤ d.val then { x with src := 2, st := 1 } else x } }
    passTo 11 s1

/-- READY (R555, R581): mailboxes open; ATTEMPTS and levels are cleared. -/
def readyBody (s : State) : State :=
  let s1 := s.updRecord fun r => { r with attempts := 0, levels := Vector.replicate 12 0, sourcePos := 0, slotTried := false }
  let s2 := foldState syncOut (List.finRange 8) s1
  passTo (if s.bootRec.trial then 12 else 13) (s2.updBoot fun b => { b with ready := true, readySeen := true })

/-- R601: blow the REVOKED fuses that an image names, one digest at a time. -/
def revokeNamed (names key : Nat) : List Nat → Fuses → Fuses
  | [], f => f
  | i :: rest, f =>
    let left := (List.range 4).countP fun k => (vget f.digests (Fin.ofNat 4 k)).isSome && !f.revoked.getLsbD k
    let ok := names.testBit i && i ≠ key && !f.revoked.getLsbD i && 1 < left
    revokeNamed names key rest (if ok then { f with revoked := f.revoked ||| BitVec.ofNat 4 (2 ^ i) } else f)

/-- SLOT_CONFIRM (R601): the four actions in order; at level 1 it is skipped. -/
def slotConfirmBody (s : State) : State :=
  if levelOf s.bootRec 12 = 1 then passTo 13 s
  else
    let slot : Fin 2 := if s.bootRec.slot then 1 else 0
    let other := otherSlot slot
    let f1 := appendSelector slot false s.flash
    let f2 := { f1 with slots := vupd f1.slots other fun x => { x with state := 0 } }
    let svn := { s.fuses with svn := max s.fuses.svn (min 63 (fieldNat s.boot.image 12 1)) }
    passTo 13 { s with flash := f2, fuses := revokeNamed (fieldNat s.boot.image 14 1) s.boot.keyInUse.toNat [0, 1, 2, 3] svn }

/-! ### Host image and Vine image (R588, R589) -/

/-- R588: a write of HOST_IMAGE.LEN; the ROM takes the first and ignores later ones. -/
def writeHostImage (len : BitVec 21) (s : State) : State :=
  if s.boot.hostImageTaken then s.updBoot fun b => { b with hostImageLen := len }
  else
    let s1 := s.updBoot fun b => { b with hostImageLen := len, imageSeen := true }
    if s1.boot.nextStep = 4 && s1.bootRec.step = 4 && (bootOrder s1).getD s1.bootRec.sourcePos 0 = 2 then
      bootStep 4 (sourceLoop none 5) s1
    else s1

/-- The link after a link in the order 1, 3, 0, 2. -/
def nextImageLink (l : Fin 4) : Fin 4 := match l.val with
  | 1 => 3
  | 3 => 0
  | 0 => 2
  | _ => 1

/-- VINE_IMAGE_REQUEST (R589). -/
def stepImageRequest (s : State) : State :=
  if !s.boot.halted && s.boot.nextStep = 4 && (bootOrder s).getD s.bootRec.sourcePos 0 = 3 then
    (s.sendOn s.boot.vineLink (.imageRequest s.boot.vineLink)).updBoot fun b => { b with vineLink := nextImageLink b.vineLink }
  else s

/-- R442: a neighbour that asks for an image is in its boot, so one that had joined the lead's system has been reset (DEDUCED, log
entry 52). -/
def noteReset (link : Fin 4) (s : State) : State :=
  let dev := neighbour s.vine.rows.toNat s.vine.cols.toNat (self s) link
  if isLead s && decide (1 < s.port.devices.toNat) && decide (dev ≠ self s) then loseDevices [dev] s else s

/-- VINE_BOOT_SERVICE (R589): configuration and image, read again from the device's own source or relayed. -/
def stepBootService (link : Fin 4) (s0 : State) : State :=
  let s := noteReset link s0
  if firmwareUp s then
    match if s.bootRec.source = 3 then none else fetchSource s s.bootRec.source.toNat s.bootRec.slot with
    | none => s.sendOn link (.image link s.boot.config s.boot.image)
    | some (config, image, _) => s.sendOn link (.image link config image)
  else s

/-! ### NOR commands (R600, Table 16.7) -/

/-- RESULT of a command whose precondition fails; none when it holds. -/
def norRefusal (s : State) : NorJob → Option (BitVec 4)
  | .erase x => if selectedSlot s.flash = x then some 4 else none
  | .write x src len => if slotState s.flash x ≠ 0 then some 4
      else if 1048576 < len ∨ stagingSize < src + len then some 2 else none
  | .verify x => if slotState s.flash x ≠ 1 then some 4 else none
  | .activate x => if slotState s.flash x ≠ 2 then some 4 else none

/-- A NOR command is written: refused while one is in progress, or when its precondition fails. -/
def startNor (job : NorJob) (s : State) : State :=
  if s.boot.norJob.isSome then s.updBoot fun b => { b with norResult := 1 }
  else
    match norRefusal s job with
    | some r => s.updBoot fun b => { b with norResult := r }
    | none => s.updBoot fun b => { b with norJob := some job }

/-- The command that a CMD code spells for a slot. -/
def norCommand (s : State) (cmd : Nat) (x : Fin 2) : Option NorJob :=
  match cmd with
  | 1 => some (.erase x)
  | 2 => some (.write x s.boot.norSrc.toNat s.boot.norLen.toNat)
  | 3 => some (.verify x)
  | 4 => some (.activate x)
  | _ => none

/-- Change a slot in NOR. -/
def State.updNor (s : State) (x : Fin 2) (f : NorSlot → NorSlot) : State :=
  { s with flash := { s.flash with slots := vupd s.flash.slots x f } }

/-- The action of a NOR command, with its RESULT. -/
def norAction (s : State) : NorJob → State × BitVec 4
  | .erase x => (s.updNor x fun _ => {}, 0)
  | .write x src len =>
    let img := s.port.window.readBytes (stagingBase + src) len
    (s.updNor x fun _ => { image := img, length := len, crc := crc32 img, state := norWord 1 }, 0)
  | .verify x =>
    let slot := vget s.flash.slots x
    if (imageFault s.fuses slot.image).isNone && crc32 slot.image = slot.crc then
      (s.updNor x fun y => { y with state := norWord 2 }, 0)
    else (s, 3)
  | .activate x =>
    let s1 := s.updNor x fun y => { y with state := norWord 3 }
    ({ s1 with flash := appendSelector x true s1.flash }, 0)

/-- What a NOR command whose program or erase failed its status check leaves (Table 16.11): of the image region bytes that
the spec does not state, and of the state word the old or the new state, whichever R597 reads. -/
def norTorn (s : State) (job : NorJob) : State :=
  let done := (norAction s job).1
  let word (x : Fin 2) : Word :=
    if Config.norTaken s.freeCtr then (vget done.flash.slots x).state else (vget s.flash.slots x).state
  let junk (n : Nat) : List Byte := (List.range n).map fun i => Config.freeByte s.freeCtr i
  match job with
  | .erase x | .write x _ _ => (s.bump.updNor x fun y => { y with state := word x, image := junk 0x100000 })
  | .verify x | .activate x => s.bump.updNor x fun y => { y with state := word x }

/-- NOR_COMMAND_COMPLETE: BUSY clears and RESULT is set. -/
def stepNorComplete (deviceOk : Bool) (s : State) : State :=
  match s.boot.norJob with
  | none => s
  | some job =>
    if !hartsRun s then s
    else
      let r := if !s.flash.norPresent then (s, 5) else if deviceOk then norAction s job else (norTorn s job, 5)
      r.1.updBoot fun b => { b with norJob := none, norResult := r.2 }

/-! ### Rows -/

/-- POWER_ON_RESET (R575, R713). -/
def execPowerOnReset (straps : Straps) (s : State) : Host.Outcome State Fault Refusal := answer (powerOn straps) s
/-- VDD_AON_DROP (R722): below 1.50 V a power-on reset; below the operating range the fatal key. -/
def execVddAonDrop (mv : Nat) (straps : Straps) (s : State) : Host.Outcome State Fault Refusal :=
  answer (if mv < 1500 then powerOn straps else if mv < 1710 then raiseKey 0x16 (BitVec.ofNat 32 mv) else id) s
/-- DEVICE_RESET (R575, R714): RESET_N low for at least 1 µs. -/
def execDeviceReset (lowNs : Nat) (straps : Straps) (s : State) : Host.Outcome State Fault Refusal :=
  answer (if 1000 ≤ lowNs then deviceReset 1 straps else id) s
/-- BOOT_WATCHDOG (R578). -/
def execBootWatchdog (straps : Straps) (s : State) : Host.Outcome State Fault Refusal :=
  answer (stepBootWatchdog straps) s
/-- RESET_DEVICE (R607). -/
def execResetDevice (who : Writer) (dev : Bool) (key : Byte) (straps : Straps) (s : State) :
    Host.Outcome State Fault Refusal := answer (byWriter who (writeReset who dev key straps)) s
/-- AUTO_RESET (R674). -/
def execAutoReset (straps : Straps) (s : State) : Host.Outcome State Fault Refusal :=
  answer (if s.safety.safe && s.safety.autoReset ≠ 0 then deviceReset 5 straps else id) s
/-- ROM_START. -/
def execRomStart (checksumOk : Bool) (s : State) : Host.Outcome State Fault Refusal :=
  answer (bootStep 1 (romStartBody checksumOk)) s
/-- CLOCKS. -/
def execClocks (s : State) : Host.Outcome State Fault Refusal := answer (bootStep 2 clocksBody) s
/-- HOST_PORT. -/
def execHostPort (s : State) : Host.Outcome State Fault Refusal := answer (bootStep 3 hostPortBody) s
/-- SOURCE (R586, R587). -/
def execSource (relay : Option Relay) (s : State) : Host.Outcome State Fault Refusal :=
  answer (bootStep 4 (sourceLoop relay 5)) s
/-- CHECK (R593). -/
def execCheck (s : State) : Host.Outcome State Fault Refusal := answer (bootStep 5 checkRegions) s
/-- ENTRY (R577). -/
def execEntry (s : State) : Host.Outcome State Fault Refusal := answer (bootStep 6 entryBody) s
/-- LPDDR6 (R583): the capacity of each of the sixteen channels. -/
def execLpddr6 (pass : Bool) (channelGiB : List Nat) (twoRanks : Bool) (values : List Byte) (s : State) :
    Host.Outcome State Fault Refusal :=
  answerIf (decide (channelGiB.length = 16)) "LPDDR6" (bootStep 7 (lpddr6Body pass channelGiB twoRanks values)) s
/-- MEMORY (R584). -/
def execMemory (s : State) : Host.Outcome State Fault Refusal := answer (bootStep 8 memoryBody) s
/-- SAFETY (R578). -/
def execSafety (pass : Bool) (s : State) : Host.Outcome State Fault Refusal := answer (bootStep 9 (safetyBody pass)) s
/-- VINE (R585): the far end of each of the four links. -/
def execVine (peers : List (Option Peer)) (s : State) : Host.Outcome State Fault Refusal :=
  answerIf (decide (peers.length = 4)) "VINE" (bootStep 10 (vineBody peers)) s
/-- READY (R581). -/
def execReady (s : State) : Host.Outcome State Fault Refusal := answer (bootStep 11 readyBody) s
/-- SLOT_CONFIRM (R601). -/
def execSlotConfirm (s : State) : Host.Outcome State Fault Refusal := answer (bootStep 12 slotConfirmBody) s
/-- HOST_IMAGE_WRITE (R588). -/
def execHostImageWrite (len : BitVec 21) (s : State) : Host.Outcome State Fault Refusal := answer (writeHostImage len) s
/-- VINE_IMAGE_REQUEST (R589). -/
def execVineImageRequest (s : State) : Host.Outcome State Fault Refusal := answer stepImageRequest s
/-- VINE_BOOT_SERVICE (R589). -/
def execVineBootService (link : Fin 4) (s : State) : Host.Outcome State Fault Refusal := answer (stepBootService link) s
/-- ERASE_SLOT (Table 16.7). -/
def execEraseSlot (who : Writer) (slot : Fin 2) (s : State) : Host.Outcome State Fault Refusal :=
  answer (byWriter who (startNor (.erase slot))) s
/-- WRITE_SLOT (Table 16.7). -/
def execWriteSlot (who : Writer) (slot : Fin 2) (s : State) : Host.Outcome State Fault Refusal :=
  answer (byWriter who (startNor (.write slot s.boot.norSrc.toNat s.boot.norLen.toNat))) s
/-- VERIFY_SLOT (Table 16.7). -/
def execVerifySlot (who : Writer) (slot : Fin 2) (s : State) : Host.Outcome State Fault Refusal :=
  answer (byWriter who (startNor (.verify slot))) s
/-- ACTIVATE_SLOT (Table 16.7). -/
def execActivateSlot (who : Writer) (slot : Fin 2) (s : State) : Host.Outcome State Fault Refusal :=
  answer (byWriter who (startNor (.activate slot))) s
/-- NOR_COMMAND_COMPLETE (R600). -/
def execNorCommandComplete (deviceOk : Bool) (s : State) : Host.Outcome State Fault Refusal :=
  answer (stepNorComplete deviceOk) s

end Sys2Proof.Machine
end

