-- ==== Sys2Proof/Machine/Compress.lean ====
section
/-! DEFINITION. Feature-map compression (R288 to R295), block copies of DMA and COPY (R173, R182, R183). -/

namespace Sys2Proof.Machine

/-! ### Work that stops part of the way -/

/-- Run steps in order until one stops; the effects of the steps before it stand. -/
def runSteps {α : Type} (f : State → α → Except Stop State) : List α → State → State × Option Stop
  | [], s => (s, none)
  | x :: rest, s =>
    match f s x with
    | .error e => (s, some e)
    | .ok s1 => runSteps f rest s1

/-- Outer coordinates of a view: c1 innermost and c3 outermost (R182). -/
def outerCoords (o : Operand) : List Coords :=
  (List.range (o.size 3)).flatMap fun (c3 : Nat) => (List.range (o.size 2)).flatMap fun (c2 : Nat) =>
    (List.range (o.size 1)).map fun (c1 : Nat) => { c0 := 0, c1 := (c1 : Int), c2 := (c2 : Int), c3 := (c3 : Int) }

/-! ### The compressor's planes (R291 to R293) -/

/-- Round a quotient to the nearest integer, ties away from zero. -/
def roundDiv (n : Int) (d : Nat) : Int :=
  let q : Int := ((2 * n.natAbs + d) / (2 * d) : Nat)
  if n < 0 then -q else q

/-- Smallest number of a list. -/
def minInt : List Int → Int
  | [] => 0
  | x :: rest => rest.foldl min x

/-- Largest number of a list. -/
def maxInt : List Int → Int
  | [] => 0
  | x :: rest => rest.foldl max x

/-- Cell of position i of a plane. -/
def cellOf (i : Nat) : Nat := i / 8 / 2 * 4 + i % 8 / 2

/-- Saturate to the range of UINT8 or INT8. -/
def satFmt (fmt : Nat) (v : Int) : Int := clampInt (intRange fmt).1 (intRange fmt).2 v

/-- The seven-bit means of a plane's cells. -/
def planeMeans (v : List Int) (mn : Int) (shift : Nat) : List Int :=
  (List.range 16).map fun j =>
    let sum := (((List.range 64).filter fun i => decide (cellOf i = j)).map fun i => v.getD i 0).foldl (· + ·) 0
    min 127 (roundDiv (sum - 4 * mn) (4 * 2 ^ shift))

/-- chat of R291: the reconstructed cell mean. -/
def chat (fmt : Nat) (mn : Int) (shift : Nat) (m : List Int) (j : Nat) : Int :=
  satFmt fmt (mn + m.getD j 0 * (2 ^ shift : Nat))

/-- The smallest shift of 0 to 7 that holds every difference, else 7. -/
def planeShift (d : List Int) : Nat :=
  ((List.range 8).find? fun r =>
    d.all fun x => decide (-((2 * 2 ^ r : Nat) : Int) ≤ x) && decide (x ≤ ((2 ^ r : Nat) : Int))).getD 7

/-- Compress one plane of 64 values (R291, R292): 32 bytes at 2:1, 16 at 4:1. -/
def packPlane (two : Bool) (fmt : Nat) (v : List Int) : List Byte :=
  let mn := minInt v
  let shift := if maxInt v - mn > 127 then 1 else 0
  let m := planeMeans v mn shift
  let d := (List.range 64).map fun i => v.getD i 0 - chat fmt mn shift m (cellOf i)
  let r := planeShift d
  let head := (mn % 256).toNat + shift * 256 + (if two then r else 0) * 512
  let means := (List.range 16).foldl (fun acc j => acc + (m.getD j 0).toNat * 2 ^ (7 * j)) 0
  let e := (List.range 64).foldl (fun acc i =>
    acc + (clampInt (-2) 1 (roundDiv (d.getD i 0) (2 ^ r)) % 4).toNat * 2 ^ (2 * i)) 0
  leBytes 16 (head + means * 65536) ++ if two then leBytes 16 e else []

/-- Reconstruct one plane (R293). -/
def unpackPlane (two : Bool) (fmt : Nat) (l : List Byte) : List Int :=
  let head := fieldNat l 0 2
  let mn := intCode fmt (head % 256)
  let shift := head / 256 % 2
  let rs := head / 512 % 8
  let means := fieldNat l 2 14
  let e := fieldNat l 16 16
  let m := (List.range 16).map fun j => ((means / 2 ^ (7 * j) % 128 : Nat) : Int)
  (List.range 64).map fun i =>
    let c := chat fmt mn shift m (cellOf i)
    if two then satFmt fmt (c + signedOf 2 (e / 2 ^ (2 * i)) * (2 ^ rs : Nat)) else c

/-- Bytes of a compressed block (R290). -/
def blockBytes (two : Bool) : Nat := if two then 512 else 256

/-- Blocks across and down of a compressed view. -/
def blockGrid (o : Operand) : Nat × Nat := (ceilDiv (o.size 1) 8, ceilDiv (o.size 2) 8)

/-- Address of a block of a compressed end, when the block lies in the view. -/
def blockAddr (o : Operand) (two : Bool) (b3 by_ bx : Int) : Option Int :=
  let g := blockGrid o
  if within bx g.1 && within by_ g.2 && within b3 (o.size 3) && 0 < o.size 0 then
    some (o.base + ((b3 * g.2 + by_) * g.1 + bx) * blockBytes two)
  else none

/-- Codes of the uncompressed block at a coordinate: 8 lines of 8 columns of 16 channels. -/
def readBlockCodes (s : State) (cx : Cx) (o : Operand) (c : Coords) : Except Stop (List (List (List Nat))) :=
  mapStop (fun (y : Nat) => mapStop (fun (x : Nat) =>
    readPiece s cx o 8 o.padCode { c with c1 := c.c1 + (x : Int), c2 := c.c2 + (y : Int) } 16) (List.range 8)) (List.range 8)

/-- Values of channel k of a block. -/
def channelOf (fmt k : Nat) (b : List (List (List Nat))) : List Int :=
  b.flatMap fun line => line.map fun cell => intCode fmt (cell.getD k 0)

/-- Write the codes of an uncompressed block; positions outside the view are not written. -/
def writeBlockCodes (s : State) (cx : Cx) (o : Operand) (c : Coords) (planes : List (List Int)) : Except Stop State :=
  foldStop (fun s (y : Nat) => foldStop (fun s (x : Nat) =>
      (writePiece s cx o 8 { c with c1 := c.c1 + (x : Int), c2 := c.c2 + (y : Int) }
        (planes.map fun p => codeOfInt o.fmt (p.getD (8 * y + x) 0))).map fun ws => s.writeLocs ws)
    (List.range 8) s) (List.range 8) s

/-- Move one block through the compressor: `two` is 2:1; the compressed end is the destination when `pack`. -/
def moveBlock (cx : Cx) (src dst : Operand) (two pack : Bool) (cs cd : Coords) (s : State) : Except Stop State :=
  if pack then
    match readBlockCodes s cx src cs with
    | .error e => .error e
    | .ok b =>
      let bytes := (List.range 16).flatMap fun k => packPlane two src.fmt (channelOf src.fmt k b)
      match blockAddr dst two cd.c3 (cd.c2 / 8) (cd.c1 / 8) with
      | none => .ok s
      | some a => (writeRange s cx dst.space.toNat dst.press a bytes).map fun ws => s.writeLocs ws
  else
    match blockAddr src two cs.c3 (cs.c2 / 8) (cs.c1 / 8) with
    | none =>
      writeBlockCodes s cx dst cd (List.replicate 16 (List.replicate 64 (intCode src.fmt src.padCode)))
    | some a =>
      match readRange s cx .read src.space.toNat src.press a (blockBytes two) with
      | .error e => .error e
      | .ok l =>
        let step := blockBytes two / 16
        writeBlockCodes s cx dst cd ((List.range 16).map fun k => unpackPlane two src.fmt (l.drop (k * step)))

/-- The COMPRESS code in force between two ends: 2:1, and whether the destination is the compressed end. -/
def compressEnds (src dst : Operand) : Option (Bool × Bool) :=
  if dst.compress ≠ 0 then some (decide (dst.compress = 1), true)
  else if src.compress ≠ 0 then some (decide (src.compress = 1), false)
  else none

/-! ### Lanes of the compressor (R295) -/

/-- The lane of a DMA of a press. -/
def pressLane (p : Fin 16) : Fin 4 := Fin.ofNat 4 p.val

/-- The lane of a COPY of a queue. -/
def queueLane (q : Fin 256) : Fin 4 := Fin.ofNat 4 q.val

/-- Does a transfer pass through the compressor? -/
def DmaJob.compresses (j : DmaJob) : Bool := (compressEnds j.src j.dst).isSome

/-- Has a press a transfer through the compressor that has begun and not ended? -/
def pressCompresses (x : Press) : Bool :=
  match x.sequencer with
  | none => false
  | some k => k.jobs.any fun j => j.compresses && decide (0 < j.next)

/-- Is a lane busy with a transfer that has begun? -/
def laneHeld (s : State) (lane : Fin 4) : Bool :=
  (List.finRange 16).any fun p => decide (pressLane p = lane) && pressCompresses (s.press p)

/-- Cycles of the lane that has worked longest since all were idle. -/
def longestLane (s : State) : Nat := s.lanes.toList.foldl max 0

/-- A lane works for a number of FABRIC cycles; BUSY counts the cycles in which any lane does (Table 7.10). Lanes at work together
are taken to work at the same time (DESIGN CHOICE, log 50). -/
def workLane (lane : Fin 4) (cycles : Nat) (s : State) : State :=
  let s1 := { s with lanes := vupd s.lanes lane fun n => n + cycles }
  s1.updEngine 5 fun e => { e with busy := e.busy + BitVec.ofNat 64 (longestLane s1 - longestLane s) }

/-- A transfer takes its lane: from now on the lane counts with the others at work, and the latency of 24 cycles comes first. -/
def takeLane (lane : Fin 4) (s : State) : State :=
  let now := if (List.finRange 4).any (laneHeld s) then longestLane s else 0
  let lanes := if now = 0 then Vector.replicate 4 0 else s.lanes
  workLane lane 24 ({ s with lanes := vset lanes lane now }.updEngine 5 fun e => { e with asleep := false })

/-- A block has passed a lane: 8 lines of 128 uncompressed bytes. -/
def countBlock (lane : Fin 4) (s : State) : State :=
  (workLane lane 8 s).updEngine 5 fun e => { e with work := e.work + 1 }

/-- R170 with the counts of a nest: the loop index of iteration n, one per level from level 0. -/
def nestIndex : List Nat → Nat → List Nat
  | [], _ => []
  | c :: rest, n => n % c :: nestIndex rest (n / c)

/-- Iterations of a nest of a depth. -/
def nestTotal (depth : Nat) (counts : List Nat) : Nat := (counts.take depth).foldl (· * ·) 1

/-- R173, R289: one DMA iteration at its coordinates, on a lane where it compresses. -/
def dmaIteration (cx : Cx) (lane : Fin 4) (src dst : Operand) (rows : Nat) (cs cd : Coords) (s : State) : State × Option Stop :=
  match compressEnds src dst with
  | none =>
    runSteps (fun s (r : Nat) =>
      match readRun s cx src (cs.bump 1 (r : Int)) 128 with
      | .error e => .error e
      | .ok codes => putRun s cx dst (cd.bump 1 (r : Int)) codes) (List.range rows) s
  | some (two, pack) =>
    runSteps (fun s (j : Nat) =>
      (moveBlock cx src dst two pack (cs.bump 1 ((8 * j : Nat) : Int)) (cd.bump 1 ((8 * j : Nat) : Int)) s).map
        (countBlock lane)) (List.range (rows / 8)) s

/-- R182, R183: the whole of a COPY, on a lane where it compresses. -/
def copyView (cx : Cx) (lane : Fin 4) (src dst : Operand) (s : State) : State × Option Stop :=
  match compressEnds src dst with
  | none =>
    runSteps (fun s c =>
      match readPiece s cx src (fmtBits src.fmt) src.padCode c (src.size 0) with
      | .error e => .error e
      | .ok codes => (writePiece s cx dst (fmtBits src.fmt) c codes).map fun ws => s.writeLocs ws)
      (if src.size 0 = 0 then [] else outerCoords src) s
  | some (two, pack) =>
    let open_ := if pack then src else dst
    let g := blockGrid open_
    let blocks : List Coords := (List.range (open_.size 3)).flatMap fun (b3 : Nat) =>
      (List.range g.2).flatMap fun (y : Nat) => (List.range g.1).map fun (x : Nat) =>
        { c0 := 0, c1 := ((8 * x : Nat) : Int), c2 := ((8 * y : Nat) : Int), c3 := (b3 : Int) }
    runSteps (fun s c => (moveBlock cx src dst two pack c c s).map (countBlock lane)) blocks (takeLane lane s)

/-! ### Format checks of a copy or DMA (R173, R182, R288) -/

/-- Are an operand's dimension 1 and 2 steps multiples of 8 over a depth? -/
def stepsBy8 (o : Operand) (depth : Nat) : Bool :=
  (o.incs.take depth).all fun i => (i.1 ≠ 1 && i.1 ≠ 2) || decide (i.2 % 8 = 0)

/-- R288: is the compression of a pair of ends refused? `nest` says that STARTs and steps count (a DMA). -/
def compressBad (src dst : Operand) (nest : Bool) (depth : Nat) : Bool :=
  if src.compress = 0 && dst.compress = 0 then false
  else
    let open_ := if dst.compress ≠ 0 then src else dst
    (src.compress ≠ 0 && dst.compress ≠ 0) ||
    [src, dst].any (fun o => 2 ≤ o.fmt || o.inner ≠ 1) ||
    (nest && (decide (open_.starts.getD 1 0 % 8 ≠ 0) || decide (open_.starts.getD 2 0 % 8 ≠ 0) || !stepsBy8 open_ depth))

end Sys2Proof.Machine
end

