-- ==== Sys2Proof/Machine/EngineMath.lean ====
section
/-! DEFINITION. The exponential and the reciprocal square root of R261, and small arithmetic of the engines. -/

namespace Sys2Proof.Machine

/-- Fraction bits of the fixed-point evaluation behind R261. -/
def mathBits : Nat := 160

/-- ln 2 in fixed point: the sum of 1 / (k · 2^k). -/
def ln2Fixed : Nat := (List.range mathBits).foldl (fun acc k => acc + 2 ^ mathBits / ((k + 1) * 2 ^ (k + 1))) 0

/-- e^r in fixed point for a fixed-point r below 1, by its series; the pair holds the term and the sum. -/
def expSeries : Nat → Nat → Nat → Nat × Nat → Nat
  | 0, _, _, acc => acc.2
  | n + 1, k, r, acc =>
    let term := acc.1 * r / 2 ^ mathBits / k
    expSeries n (k + 1) r (term, acc.2 + term)

/-- A finite value in fixed point, rounded towards minus infinity. -/
def fixedOf (s : Bool) (m : Nat) (e : Int) : Int :=
  let k := e + mathBits
  let v : Int := if s then -(m : Int) else m
  if 0 ≤ k then v * (2 ^ k.toNat : Nat) else v / (2 ^ (-k).toNat : Nat)

/-- The largest FP32 value not above m × 2^e, in units of its last place, and whether it is exact. -/
def floor32 (m : Nat) (e : Int) : Nat × Int × Bool :=
  let t := max (e + (Nat.log2 m + 1 : Nat) - 24) (-149)
  if m = 0 then (0, -149, true)
  else if t ≤ e then (m * 2 ^ (e - t).toNat, t, true)
  else
    let d := 2 ^ (t - e).toNat
    (m / d, t, m % d = 0)

/-- R261: one of the FP32 values within 2 units in the last place of a positive result m × 2^e: the one the fixed
algorithm gives, which the spec leaves open. A step past a power of two is rounded to the FP32 value there. -/
def within2Ulp (choice : BitVec 3) (m : Nat) (e : Int) : Val :=
  let f := floor32 m e
  let offset : Int := if f.2.2 then (choice.toNat % 5 : Nat) - 2 else (choice.toNat % 4 : Nat) - 1
  rnd32 false (.fin false ((f.1 : Int) + offset).toNat f.2.1)

/-- R261: the exponential in FP32. -/
def expVal (ieee : Bool) (x : Val) : Val :=
  match x with
  | .nan => .nan
  | .inf s => if s then Val.zero else .inf false
  | .fin s m e =>
    if (Val.fin true 104 0).gt x then Val.zero
    else if x.gt (.fin false 128 0) then (if ieee then .inf false else .fin false fp32.largest.1 fp32.largest.2)
    else
      let v := fixedOf s m e
      let k := v / (ln2Fixed : Int)
      let r := (v % (ln2Fixed : Int)).toNat
      let y := expSeries 64 1 r (2 ^ mathBits, 2 ^ mathBits)
      let ex : Int := k - mathBits
      if (Val.fin false y ex).gt (.fin false fp32.largest.1 fp32.largest.2) then
        (if ieee then .inf false else .fin false fp32.largest.1 fp32.largest.2)
      else
        (within2Ulp (Config.expUlp (BitVec.ofNat 32 (fp32.encode x))) y ex).min
          (.fin false fp32.largest.1 fp32.largest.2)

/-- R261: the reciprocal square root in FP32. -/
def rsqrtVal (x : Val) : Val :=
  match x with
  | .nan => .nan
  | .inf s => if s then .nan else Val.zero
  | .fin s m e =>
    if m = 0 then .inf s
    else if s then .nan
    else
      let odd := e % 2
      let q := Nat.sqrt (2 ^ (2 * mathBits) / (m * 2 ^ odd.toNat))
      within2Ulp (Config.rsqrtUlp (BitVec.ofNat 32 (fp32.encode x))) q (-(mathBits : Int) - (e - odd) / 2)

/-- Largest integer not above a value, limited to a range; a NaN gives the lower end. -/
def floorClamp (lo hi : Int) : Val → Int
  | .nan => lo
  | .inf s => if s then lo else hi
  | .fin s m e =>
    let v : Int := if s then -(m : Int) else m
    clampInt lo hi (if 0 ≤ e then v * (2 ^ e.toNat : Nat) else v / (2 ^ (-e).toNat : Nat))

/-- An FP32 parameter of a block. -/
def paramVal (l : List Byte) (i : Nat) : Val := fp32.decode (fieldNat l i 4)

/-- Smallest k with 2^k ≥ n. -/
def ceilLog2 (n : Nat) : Nat := if n ≤ 1 then 0 else Nat.log2 (n - 1) + 1

end Sys2Proof.Machine
end

