-- ==== Sys2Proof/Machine/EngineChecks.lean ====
section
/-! DEFINITION. The checks of operand descriptors (R159, R164, R179, R180, R229, R732, R733) and of engine parameter
blocks (R257). A check answers the status that stops the command, or none. -/

namespace Sys2Proof.Machine

/-! ### Shapes of answers -/

/-- The first answer of a list of checks. -/
def firstStop : List (Option Stop) → Option Stop
  | [] => none
  | none :: rest => firstStop rest
  | some e :: _ => some e

/-- A check: the status when the condition holds. -/
def stopIf (b : Bool) (st : Stop) : Option Stop := if b then some st else none

/-- ENGINE_PARAM at a byte offset of an engine's block. -/
def stopParam (e off : Nat) : Stop := { status := 0x1A, data := dataI off (agentEngine e) }

/-- DESCRIPTOR_INVALID at a position (R153). -/
def stopDescriptor (pos : Nat) : Stop := { status := 0x11, data := dataI pos 0 }

/-- PRESS_NOT_IN_PARCEL for the press that an operand names (R179). -/
def stopOutside (p index : Nat) : Stop := { status := 0x12, data := dataI (2 ^ p) index }

/-- Are any bits of a mask set in a byte? -/
def bitsSet (l : List Byte) (i mask : Nat) : Bool := (byteAt l i).toNat &&& mask ≠ 0

/-- Is any byte of a field not zero? -/
def fieldSet (l : List Byte) (i n : Nat) : Bool := fieldNat l i n ≠ 0

/-! ### Operand descriptors -/

/-- R159: is a reserved bit set or a reserved code held? -/
def operandBad (o : Operand) : Bool :=
  o.flags.toNat / 2 ^ 13 ≠ 0 || o.addrReserved || o.gqGroup = 3 || o.compress = 3

/-- R732: a flag that the operand's role does not use. -/
def flagsBad (o : Operand) (sparse qp ends : Bool) : Bool :=
  (o.sparse && !sparse) || ((o.gqZp || o.gqGroup ≠ 0) && o.fmt ≠ 10) || (o.qpTensor && !qp) ||
    (o.compress ≠ 0 && !ends)

/-- R229: ADDR or a stride of a Cask operand off its element size. -/
def alignBad (o : Operand) (bytes : Nat) : Bool :=
  o.space = 0 && (o.base % bytes ≠ 0 || o.strides.any fun t => decide (t % (bytes : Int) ≠ 0))

/-- R50, R57: a reserved format, or an odd innermost size of a 4-bit operand. -/
def formatBad (o : Operand) : Bool := 11 ≤ o.fmt || (is4bit o.fmt && o.size 0 % 2 = 1)

/-- R733: a format whose elements only a press multiply reads. -/
def blockFormat (o : Operand) : Bool := o.fmt = 9 || o.fmt = 10

/-- R50, R57, R164, R229, R732: is an operand whose FORMAT counts refused in its role? -/
def principalBad (o : Operand) (sparse ends : Bool) : Bool :=
  formatBad o || flagsBad o sparse false ends || alignBad o (fmtBytes o.fmt)

/-- The same for an operand whose element size its role fixes. -/
def roleBad (o : Operand) (bytes : Nat) (qp : Bool) : Bool := flagsBad o false qp false || alignBad o bytes

/-- R179: a CASK operand whose press lies outside a parcel. -/
def pressOutside (s : State) (n : Fin 8) (o : Operand) : Bool :=
  o.space = 0 && !(s.parcel n).presses.getLsbD o.press.val

/-- R180, R179 for one engine operand, before the checks of its role. -/
def enginePlace (s : State) (n : Fin 8) (e i : Nat) (o : Operand) : Option Stop :=
  firstStop [stopIf (o.space = 3 && e ≠ 4) (stopDescriptor (0x4000 + 64 * i + 5)),
    stopIf (pressOutside s n o) (stopOutside o.press.val i)]

/-! ### Roles of engine operands (Table 7.2) -/

/-- What an engine operand is: a tensor in one of some formats, parameters of 16 bytes, bytes, or bytes whose FORMAT is ignored
(R333). -/
inductive EngineRole where
  | tensor (formats : List Nat)
  | params
  | bytes
  | plain
  deriving DecidableEq, Repr

/-- The formats that an engine reads and writes (R733). -/
def engineFormats : List Nat := [0, 1, 2, 3, 4, 5, 6, 7, 8]

/-- The roles of an engine command's operands, in order. -/
def engineRoles (e : Nat) (params : List Byte) : List EngineRole :=
  let op := fieldNat params 0 1
  match e with
  | 0 => (if op = 0 then [.tensor engineFormats, .tensor engineFormats] else [.tensor engineFormats]) ++
      [.tensor engineFormats, .params]
  | 1 => [.tensor [0, 1, 6, 7, 8], .tensor [0, 1, 6, 7, 8]] ++ (if fieldNat params 16 1 = 0 then [] else [.tensor [8]]) ++
      [.bytes, .bytes]
  | 2 => [.tensor engineFormats, .tensor engineFormats, .params] ++
      if op = 1 ∨ op = 2 then [.tensor engineFormats, .tensor engineFormats] else []
  | _ => [.tensor engineFormats, .tensor engineFormats, .params] ++ List.replicate (fieldNat params 16 1) .bytes

/-- The checks of one engine operand in its role. -/
def engineOperand (agent i : Nat) (o : Operand) (role : EngineRole) : Option Stop :=
  match role with
  | .tensor fs => stopIf (principalBad o false false || o.companions ≠ 0 || !fs.contains o.fmt) (stopFormat i agent)
  | .params => stopIf (roleBad o 16 true || o.companions ≠ 0) (stopFormat i agent)
  | .plain => stopIf (roleBad o 1 false || o.companions ≠ 0) (stopFormat i agent)
  | .bytes => stopIf (formatBad o || blockFormat o || roleBad o 1 false || o.companions ≠ 0) (stopFormat i agent)

/-! ### Parameter blocks -/

/-- PARAM_LEN of an engine (Table 7.2, Table 9.1). -/
def engineLength (e : Nat) : Nat :=
  match e with
  | 0 => 48
  | 1 => 64
  | 4 => 80
  | _ => 32

/-- Is a byte field outside a range? -/
def outside (l : List Byte) (i n lo hi : Nat) : Bool := fieldNat l i n < lo || hi < fieldNat l i n

/-- The header of Table 7.1: OP at most `top`, the PFLAGS bits outside `flags` reserved. -/
def headerChecks (l : List Byte) (top flags : Nat) : List (Bool × Nat) :=
  [(top < fieldNat l 0 1, 0), (bitsSet l 1 (255 - flags), 1), (fieldSet l 2 2, 2), (fieldSet l 12 4, 12)]

/-- Table 7.3. Resampling has no window: KW, KH, DX and DY are 0. -/
def windowFields (l : List Byte) : List (Bool × Nat) :=
  let op := fieldNat l 0 1
  let k := if op = 0 then (1, 7) else if op ≤ 2 then (1, 16) else (0, 0)
  let d := if op = 0 then (1, 4) else if op ≤ 2 then (1, 1) else (0, 0)
  headerChecks l 4 3 ++
  [(outside l 16 1 k.1 k.2, 16), (outside l 17 1 k.1 k.2, 17), (outside l 18 1 1 4, 18), (outside l 19 1 1 4, 19),
   (outside l 20 1 d.1 d.2, 20), (outside l 21 1 d.1 d.2, 21), (fieldSet l 22 2, 22), (fieldSet l 40 8, 40)]

/-- Is an FP32 parameter below zero or a NaN? -/
def negOrNan (l : List Byte) (i : Nat) : Bool := !(paramVal l i).ge Val.zero

/-- Table 7.4. -/
def detectFields (l : List Byte) : List (Bool × Nat) :=
  headerChecks l 0 1 ++
  [(outside l 16 1 0 2, 16), (outside l 17 1 0 2, 17), (outside l 18 2 1 4096, 18),
   (negOrNan l 24 || (paramVal l 24).gt (.fin false 1 0), 24), (negOrNan l 44, 44), (negOrNan l 48, 48),
   (fieldSet l 52 12, 52)]

/-- Is an FP32 parameter finite? -/
def isFinite : Val → Bool
  | .fin .. => true
  | _ => false

/-- Table 7.8. -/
def foldFields (l : List Byte) : List (Bool × Nat) :=
  headerChecks l 7 1 ++
  [(bitsSet l 16 0xF0, 16), (fieldSet l 17 1, 17), (fieldNat l 0 1 = 2 && outside l 18 2 1 1024, 18),
   (negOrNan l 20 || !isFinite (paramVal l 20), 20), (fieldSet l 24 8, 24)]

/-- Table 7.9. -/
def lookupFields (l : List Byte) : List (Bool × Nat) :=
  headerChecks l 0 1 ++
  [(outside l 16 1 1 8, 16), (fieldSet l 17 1, 17)] ++
  ((List.range 8).map fun i => (bitsSet l (18 + i) 0xFE, 18 + i)) ++ [(fieldSet l 26 6, 26)]

/-- The field checks of engines 0 to 3. -/
def engineFields (e : Nat) (l : List Byte) : List (Bool × Nat) :=
  match e with
  | 0 => windowFields l
  | 1 => detectFields l
  | 2 => foldFields l
  | _ => lookupFields l

/-- Channel index of R260: blocked layouts count whole blocks. -/
def channelIndex (o : Operand) (c0 c3 : Nat) : Nat :=
  match o.inner.toNat with
  | 1 => c3 * 16 + c0
  | 2 => c3 * 32 + c0
  | _ => c0

/-- Is a view of a layout whose channels run over dimensions 0 and 3 (R203)? -/
def Operand.blocked (o : Operand) : Bool := o.inner = 1 || o.inner = 2

/-- Indices of the channels that a view holds (R260). -/
def viewChannels (o : Operand) : List Nat :=
  (List.range (if o.blocked then o.size 3 else 1)).flatMap fun c3 =>
    (List.range (o.size 0)).map fun c0 => channelIndex o c0 c3

/-- Product of the extents of the dimensions in a mask. -/
def maskedElements (o : Operand) (mask : Nat) : Nat :=
  (List.range 4).foldl (fun acc d => if bitsOf mask d 1 = 1 then acc * o.size d else acc) 1

/-- R281: the sizes of the reduction sets of a Fold command, each with the number of sets that have it. GROUPNORM takes the channels
of one quotient by GROUP, over blocks too where the layout has them. -/
def foldSetSizes (o : Operand) (l : List Byte) : List (Nat × Nat) :=
  if fieldNat l 0 1 = 2 then
    let quotients := (viewChannels o).map fun c => c / fieldNat l 18 2
    (List.range (quotients.foldl max 0 + 1)).map fun g =>
      (quotients.count g * o.size 1 * o.size 2, if o.blocked then 1 else o.size 3)
  else [(maskedElements o (fieldNat l 16 1), maskedElements o (15 - fieldNat l 16 1))]

/-- R274, R279, R281, R285: do the views not fit the operation? -/
def viewsBad (e : Nat) (ops : List Operand) (l : List Byte) : Bool :=
  let o (i : Nat) : Operand := ops.getD i (parseOperand [] [])
  match e with
  | 1 =>
    let n := (o 0).size 1
    let rec_ := if fieldNat l 16 1 = 0 then 2 else 3
    (o 0).size 0 ≠ 4 || 65536 < n || (o 1).size 0 = 0 || 1024 < (o 1).size 0 || (o 1).size 1 ≠ n ||
      (rec_ = 3 && ((o 2).size 0 ≠ 4 || (o 2).size 1 ≠ n)) || (o rec_).size 0 ≠ 32 || (o rec_).size 1 < fieldNat l 18 2
  | 2 =>
    let op := fieldNat l 0 1
    (foldSetSizes (o 0) l).any (fun x => decide (2 ^ 24 < x.1)) ||
      (List.range 4).any fun d =>
        if 3 ≤ op then bitsOf (fieldNat l 16 1) d 1 = 1 && decide ((o 1).size d ≠ 1)
        else decide ((o 1).size d ≠ (o 0).size d)
  | 3 => (List.range (fieldNat l 16 1)).any fun i => decide ((o (3 + i)).size 0 ≠ 4128)
  | _ => false

/-- R266: is a DEPTHWISE pair refused? -/
def depthwiseBad (a w : Nat) : Bool :=
  !((a ≤ 1 && w = 1) || ((a = 4 || a = 5) && (w = 4 || w = 5)) || (a = 6 && w = 6) || (a = 7 && w = 7))

/-- The checks of an engine command of engines 0 to 3 after its operand table (R257, R266): `agent` is the unit that
checks. -/
def engineChecks (s : State) (n : Fin 8) (agent e : Nat) (ops : List Operand) (len : Nat) (params : List Byte) :
    Option Stop :=
  let index := List.range ops.length
  let roles := engineRoles e params
  firstStop (
    (List.zip index ops).map (fun x => enginePlace s n e x.1 x.2) ++
    [stopIf (len ≠ engineLength e) (stopParam e 0xFFFF)] ++
    (engineFields e params).map (fun c => stopIf c.1 (stopParam e c.2)) ++
    [stopIf (ops.length ≠ roles.length) (stopParam e 0xFFFF)] ++
    (List.zip index (List.zip ops roles)).map (fun x => engineOperand agent x.1 x.2.1 x.2.2) ++
    [stopIf (e = 0 && fieldNat params 0 1 = 0 &&
        depthwiseBad ((ops.map fun o => o.fmt).getD 0 15) ((ops.map fun o => o.fmt).getD 1 15)) (stopFormat 1 agent),
     stopIf (viewsBad e ops params) (stopParam e 0xFFFF)])

end Sys2Proof.Machine
end

