-- ==== Sys2Proof/Machine/Engines.lean ====
section
/-! DEFINITION. The Window, Detect, Fold and Lookup engines (R255 to R287): what each command computes, and the engine
that serves its waiting commands one at a time. -/

namespace Sys2Proof.Machine

/-- The writes of an engine command and the status that stopped it, if one did. -/
abbrev EngineRun := List (Loc × List Byte) × Option Stop

/-- Collect the writes of steps until one stops. -/
def collectRun {α : Type} (f : α → Except Stop (List (Loc × List Byte))) : List α → EngineRun
  | [] => ([], none)
  | x :: rest =>
    match f x with
    | .error e => ([], some e)
    | .ok ws =>
      let r := collectRun f rest
      (ws ++ r.1, r.2)

/-- The context of an engine's accesses for a command. -/
def engineCx (e : Nat) (j : EngineJob) : Cx := { parcel := j.parcel, agent := agentEngine e, own := none, queue := some j.queue }

/-- PFLAGS.IEEE. -/
def ieeeFlag (params : List Byte) : Bool := fieldNat params 1 1 % 2 = 1

/-- Read one element widened to FP32 (R259). -/
def readWide (s : State) (cx : Cx) (o : Operand) (ieee : Bool) (scale : Val) (c : Coords) : Except Stop Val :=
  (readElem s cx o c).map fun code => widen ieee o.fmt scale o.zpCode code

/-- The quantisation parameter entry of a channel (R71, R260). -/
def qpAt (s : State) (cx : Cx) (qp : Operand) (channel : Nat) : Except Stop QpEntry :=
  (readSide s cx qp 128 { c0 := if qp.qpTensor then 0 else (channel : Int), c1 := 0, c2 := 0, c3 := 0 } 1).map
    fun l => qpEntry (leBytes 16 (l.getD 0 0))

/-- R260, R72: finish an engine result; none writes PAD unchanged (R268). -/
def finishElem (s : State) (cx : Cx) (out qp : Operand) (index : Nat) (ieee : Bool) (c0 : Nat) (c3 : Int)
    (c : Option Val) : Except Stop Nat :=
  match c with
  | none => .ok out.padCode
  | some v =>
    match qpAt s cx qp (channelIndex out c0 c3.toNat) with
    | .error e => .error e
    | .ok q =>
      if qpBad out.fmt q then .error { status := 0x18, data := dataI index cx.agent }
      else .ok (outputStage out.fmt ieee q v)

/-- R258: walk the output view; `f` gives the result at a coordinate. -/
def walkOutput (s : State) (cx : Cx) (out qp : Operand) (index : Nat) (ieee : Bool)
    (f : Coords → Except Stop (Option Val)) : EngineRun :=
  collectRun (fun (row : Coords) =>
    match mapStop (fun (c0 : Nat) =>
        match f { row with c0 := (c0 : Int) } with
        | .error e => .error e
        | .ok v => finishElem s cx out qp index ieee c0 row.c3 v) (List.range (out.size 0)) with
    | .error e => .error e
    | .ok codes => writePiece s cx out (fmtBits out.fmt) row codes) (outerCoords out)

/-! ### Window (R265 to R271) -/

/-- A signed 16.16 parameter. -/
def fixedParam (l : List Byte) (i : Nat) : Int := fieldInt l i 4

/-- The taps of an output position (R265), ky ascending and kx ascending within it. -/
def windowTaps (inp : Operand) (l : List Byte) (c : Coords) : List (Coords × Nat × Nat) :=
  let p (i : Nat) : Nat := fieldNat l i 1
  (List.range (p 17)).flatMap fun ky => (List.range (p 16)).map fun kx =>
    ({ c with c1 := inp.starts.getD 1 0 + c.c1 * (p 18 : Nat) + ((kx * p 20 : Nat) : Int),
              c2 := inp.starts.getD 2 0 + c.c2 * (p 19 : Nat) + ((ky * p 21 : Nat) : Int) }, kx, ky)

/-- Is a coordinate inside a view? -/
def insideView (o : Operand) (c : Coords) : Bool := within c.c0 (o.size 0) && o.insideOuter c

/-- DEPTHWISE (R267). -/
def depthwiseAt (s : State) (cx : Cx) (inp w : Operand) (l : List Byte) (c : Coords) : Except Stop (Option Val) :=
  match mapStop (fun (t : Coords × Nat × Nat) =>
      match readElem s cx inp t.1 with
      | .error e => .error e
      | .ok a => (readElem s cx w { c0 := c.c0, c1 := (t.2.1 : Int), c2 := (t.2.2 : Int), c3 := c.c3 }).map
          fun b => (a, b)) (windowTaps inp l c) with
  | .error e => .error e
  | .ok pairs =>
    if isIntFmt inp.fmt then
      let sum := pairs.foldl (fun acc x => acc + (intCode inp.fmt x.1 - intCode inp.fmt inp.zpCode) *
        (intCode w.fmt x.2 - intCode w.fmt w.zpCode)) (0 : Int)
      .ok (some (rnd32 (ieeeFlag l) (Val.ofInt (clampInt (-2147483648) 2147483647 sum))))
    else
      .ok (some (pairs.foldl (fun acc x => rnd32 (ieeeFlag l)
        (acc.add (rnd32 (ieeeFlag l) ((decodeValue inp.fmt x.1).mul (decodeValue w.fmt x.2))))) Val.zero))

/-- Read the codes of the taps that lie inside the view. -/
def insideCodes (s : State) (cx : Cx) (inp : Operand) (l : List Byte) (c : Coords) : Except Stop (List Nat) :=
  mapStop (fun (t : Coords × Nat × Nat) => readElem s cx inp t.1)
    ((windowTaps inp l c).filter fun t => insideView inp t.1)

/-- MAXPOOL (R268). -/
def maxpoolAt (s : State) (cx : Cx) (inp : Operand) (l : List Byte) (c : Coords) : Except Stop (Option Val) :=
  (insideCodes s cx inp l c).map fun codes =>
    match codes with
    | [] => none
    | a :: rest =>
      if isIntFmt inp.fmt then
        let best := rest.foldl (fun m x => if intCode inp.fmt m < intCode inp.fmt x then x else m) a
        some (widen (ieeeFlag l) inp.fmt (paramVal l 4) inp.zpCode best)
      else some (rest.foldl (fun m x => m.max (decodeValue inp.fmt x)) (decodeValue inp.fmt a))

/-- AVGPOOL (R269). -/
def avgpoolAt (s : State) (cx : Cx) (inp : Operand) (l : List Byte) (c : Coords) : Except Stop (Option Val) :=
  (insideCodes s cx inp l c).map fun codes =>
    let n := if fieldNat l 1 1 / 2 % 2 = 1 then fieldNat l 16 1 * fieldNat l 17 1 else codes.length
    if n = 0 then none
    else
      let sum :=
        if isIntFmt inp.fmt then
          Val.ofInt (codes.foldl (fun acc x => acc + (intCode inp.fmt x - intCode inp.fmt inp.zpCode)) (0 : Int))
        else codes.foldl (fun acc x => rnd32 (ieeeFlag l) (acc.add (decodeValue inp.fmt x))) Val.zero
      some (rnd32 (ieeeFlag l) (sum.div (Val.ofInt n)))

/-- R270: a source coordinate limited to the view. -/
def limitTo (size : Nat) (x : Int) : Int := clampInt 0 ((size : Int) - 1) x

/-- NEAREST (R270). -/
def nearestAt (s : State) (cx : Cx) (inp : Operand) (l : List Byte) (c : Coords) : Except Stop (Option Val) :=
  let u := fixedParam l 24 + c.c1 * fixedParam l 28
  let v := fixedParam l 32 + c.c2 * fixedParam l 36
  (readWide s cx inp (ieeeFlag l) (paramVal l 4)
    { c with c1 := limitTo (inp.size 1) (roundDiv u 65536), c2 := limitTo (inp.size 2) (roundDiv v 65536) }).map some

/-- BILINEAR (R270, R271). -/
def bilinearAt (s : State) (cx : Cx) (inp : Operand) (l : List Byte) (c : Coords) : Except Stop (Option Val) :=
  let ieee := ieeeFlag l
  let u := fixedParam l 24 + c.c1 * fixedParam l 28
  let v := fixedParam l 32 + c.c2 * fixedParam l 36
  let fx := (u % 65536).toNat
  let fy := (v % 65536).toNat
  let q (dx dy : Int) : Except Stop Val := readWide s cx inp ieee (paramVal l 4)
    { c with c1 := limitTo (inp.size 1) (u / 65536 + dx), c2 := limitTo (inp.size 2) (v / 65536 + dy) }
  let w (a b : Nat) : Val := .fin false (a * b) (-32)
  match q 0 0, q 1 0, q 0 1, q 1 1 with
  | .ok q00, .ok q01, .ok q10, .ok q11 =>
    let m (x y : Val) : Val := rnd32 ieee (x.mul y)
    let a (x y : Val) : Val := rnd32 ieee (x.add y)
    .ok (some (a (a (a (m q00 (w (65536 - fx) (65536 - fy))) (m q01 (w fx (65536 - fy))))
      (m q10 (w (65536 - fx) fy))) (m q11 (w fx fy))))
  | .error e, _, _, _ => .error e
  | _, .error e, _, _ => .error e
  | _, _, .error e, _ => .error e
  | _, _, _, .error e => .error e

/-- A Window command. -/
def windowRun (cx : Cx) (ops : List Operand) (l : List Byte) (s : State) : EngineRun :=
  let inp := opAt ops 0
  match fieldNat l 0 1 with
  | 0 => walkOutput s cx (opAt ops 2) (opAt ops 3) 3 (ieeeFlag l) (depthwiseAt s cx inp (opAt ops 1) l)
  | 1 => walkOutput s cx (opAt ops 1) (opAt ops 2) 2 (ieeeFlag l) (maxpoolAt s cx inp l)
  | 2 => walkOutput s cx (opAt ops 1) (opAt ops 2) 2 (ieeeFlag l) (avgpoolAt s cx inp l)
  | 3 => walkOutput s cx (opAt ops 1) (opAt ops 2) 2 (ieeeFlag l) (nearestAt s cx inp l)
  | _ => walkOutput s cx (opAt ops 1) (opAt ops 2) 2 (ieeeFlag l) (bilinearAt s cx inp l)

/-- Elements of a view. -/
def viewElements (o : Operand) : Nat := maskedElements o 15

/-- Bytes of a view. -/
def viewBytes (o : Operand) : Nat := viewElements o * fmtBits o.fmt / 8

/-- R272, R273: the phase term of a Window command. -/
def windowCycles (ops : List Operand) (l : List Byte) : Nat :=
  let op := fieldNat l 0 1
  let inp := opAt ops 0
  let out := opAt ops (if op = 0 then 2 else 1)
  let t := if op ≤ 2 then fieldNat l 16 1 * fieldNat l 17 1 else if op = 3 then 1 else 4
  let wide := if [inp, out].any fun o => fmtBits o.fmt = 16 then 2 else 1
  let slow := if ops.any fun o => o.inner = 0 || o.inner = 3 then 4 else 1
  let rows := if op ≤ 2 then (fieldNat l 17 1 - 1) * fieldNat l 21 1 + 1 else if op = 3 then 1 else 2
  let line := inp.size 1 * (inp.innerLen.getD (inp.size 0)) * fmtBits inp.fmt / 8
  let read := if rows * line ≤ 262144 then viewBytes inp else out.size 2 * out.size 3 * rows * line
  max (ceilDiv (viewElements out) 128 * ceilDiv t 9 * wide * slow) (max (ceilDiv read 128) (ceilDiv (viewBytes out) 128))

/-! ### Detect (R274 to R279) -/

/-- A decoded candidate box. -/
structure DetBox where
  x1 : Val
  y1 : Val
  x2 : Val
  y2 : Val
  deriving DecidableEq, Repr

/-- An entry of the list: score, class, candidate and box. -/
structure DetEntry where
  score : Val
  cls : Nat
  index : Nat
  box : DetBox
  deriving DecidableEq, Repr

/-- Clamp a coordinate to [0, hi]. -/
def clipVal (hi x : Val) : Val :=
  if x.isNan then x else if Val.zero.gt x then Val.zero else if x.gt hi then hi else x

/-- R275: decode one candidate from its four box values and four prior values. -/
def decodeBox (l : List Byte) (b p : List Val) : DetBox :=
  let ieee := ieeeFlag l
  let m (x y : Val) : Val := rnd32 ieee (x.mul y)
  let a (x y : Val) : Val := rnd32 ieee (x.add y)
  let d (x y : Val) : Val := rnd32 ieee (x.add y.neg)
  let g (v : List Val) (i : Nat) : Val := v.getD i Val.zero
  let half : Val := .fin false 1 (-1)
  let box : DetBox :=
    match fieldNat l 16 1 with
    | 0 => { x1 := g b 0, y1 := g b 1, x2 := g b 2, y2 := g b 3 }
    | 1 =>
      let size (i : Nat) (var : Nat) : Val := m (g p i) (expVal ieee ((m (g b i) (paramVal l var)).min (.fin false 16 0)))
      let cx := a (g p 0) (m (m (g b 0) (paramVal l 28)) (g p 2))
      let cy := a (g p 1) (m (m (g b 1) (paramVal l 32)) (g p 3))
      let w := size 2 36
      let h := size 3 40
      { x1 := d cx (m half w), y1 := d cy (m half h), x2 := a cx (m half w), y2 := a cy (m half h) }
    | _ =>
      { x1 := d (g p 0) (m (g b 0) (g p 2)), y1 := d (g p 1) (m (g b 1) (g p 2)),
        x2 := a (g p 0) (m (g b 2) (g p 2)), y2 := a (g p 1) (m (g b 3) (g p 2)) }
  if (paramVal l 44).gt Val.zero then
    { x1 := clipVal (paramVal l 44) box.x1, y1 := clipVal (paramVal l 48) box.y1,
      x2 := clipVal (paramVal l 44) box.x2, y2 := clipVal (paramVal l 48) box.y2 }
  else box

/-- Has a box a NaN coordinate? -/
def DetBox.bad (b : DetBox) : Bool := b.x1.isNan || b.y1.isNan || b.x2.isNan || b.y2.isNan

/-- R276: the list entries of one candidate. -/
def candidateEntries (l : List Byte) (i : Nat) (box : DetBox) (scores : List Val) : List DetEntry :=
  let all := (List.zip (List.range scores.length) scores).map fun x =>
    ({ score := x.2, cls := x.1, index := i, box := box } : DetEntry)
  let real := all.filter fun e => !e.score.isNan
  let chosen :=
    if fieldNat l 17 1 = 2 then
      match real with
      | [] => []
      | e :: rest => [rest.foldl (fun best x => if x.score.gt best.score then x else best) e]
    else real
  chosen.filter fun e => e.score.ge (paramVal l 20)

/-- R276: does an entry come before another? -/
def DetEntry.before (a b : DetEntry) : Bool :=
  a.score.gt b.score || (a.score.eqv b.score && (decide (a.cls < b.cls) || (a.cls = b.cls && decide (a.index < b.index))))

/-- Insert an entry in order. -/
def insertEntry (e : DetEntry) : List DetEntry → List DetEntry
  | [] => [e]
  | x :: rest => if e.before x then e :: x :: rest else x :: insertEntry e rest

/-- R277: does a kept entry suppress a later one? -/
def suppresses (l : List Byte) (a b : DetEntry) : Bool :=
  let ieee := ieeeFlag l
  let m (x y : Val) : Val := rnd32 ieee (x.mul y)
  let d (x y : Val) : Val := rnd32 ieee (x.add y.neg)
  let side (lo hi : Val) : Val := Val.zero.max (d hi lo)
  let area (x : DetBox) : Val := m (side x.x1 x.x2) (side x.y1 x.y2)
  let inter := m (side (a.box.x1.max b.box.x1) (a.box.x2.min b.box.x2))
    (side (a.box.y1.max b.box.y1) (a.box.y2.min b.box.y2))
  let union_ := d (rnd32 ieee ((area a.box).add (area b.box))) inter
  (fieldNat l 17 1 = 2 || a.cls = b.cls) && inter.gt (m (paramVal l 24) union_)

/-- What suppression leaves: kept entries in order, evaluations, and whether entries remain (R277, R278). -/
def suppress (l : List Byte) : Nat → Nat → List DetEntry → List DetEntry × Nat × Bool
  | _, _, [] => ([], 0, false)
  | 0, _, _ :: _ => ([], 0, true)
  | _, 0, _ :: _ => ([], 0, true)
  | fuel + 1, room + 1, a :: rest =>
    let none_ := fieldNat l 17 1 = 0
    let r := suppress l fuel room (if none_ then rest else rest.filter fun b => !suppresses l a b)
    (a :: r.1, (if none_ then 0 else rest.length) + r.2.1, r.2.2)

/-- The bytes of a box record (Table 7.5). An infinity stays one in FP32, in saturate mode too (DEDUCED from R65, log entry 54). -/
def boxRecord (e : DetEntry) : List Byte :=
  let f (v : Val) : List Byte := leBytes 4 (fp32.encode v)
  f e.box.x1 ++ f e.box.y1 ++ f e.box.x2 ++ f e.box.y2 ++ f e.score ++ leBytes 2 e.cls ++ [0, 0] ++
    leBytes 4 e.index ++ [0, 0, 0, 0]

/-- The summary (Table 7.6). -/
def detectSummary (kept passed dropped invalid : Nat) (full : Bool) : List Byte :=
  leBytes 4 kept ++ leBytes 4 passed ++ leBytes 4 dropped ++ leBytes 4 invalid ++ leBytes 4 (if full then 1 else 0) ++
    leBytes 12 0

/-- Read the candidates: none for a candidate that R275 discards. -/
def readCandidates (s : State) (cx : Cx) (ops : List Operand) (l : List Byte) :
    Except Stop (List (Option (List DetEntry))) :=
  let box := opAt ops 0
  let score := opAt ops 1
  let prior := opAt ops 2
  let col (n : Nat) (k : Nat) : Coords := { c0 := (k : Int), c1 := (n : Int), c2 := 0, c3 := 0 }
  mapStop (fun (n : Nat) =>
    match mapStop (fun (k : Nat) => readWide s cx box (ieeeFlag l) (paramVal l 4) (col n k)) (List.range 4) with
    | .error e => .error e
    | .ok b =>
      match (if fieldNat l 16 1 = 0 then .ok []
          else mapStop (fun (k : Nat) => readWide s cx prior (ieeeFlag l) Val.zero (col n k)) (List.range 4)) with
      | .error e => .error e
      | .ok p =>
        (mapStop (fun (k : Nat) => readWide s cx score (ieeeFlag l) (paramVal l 8) (col n k))
          (List.range (score.size 0))).map fun sc =>
          let d := decodeBox l b p
          if d.bad then none else some (candidateEntries l n d sc)) (List.range (box.size 1))

/-- What the lists of a Detect command come to: the sorted list, what suppression left of it, and INVALID. -/
def detectLists (l : List Byte) (cands : List (Option (List DetEntry))) :
    List DetEntry × (List DetEntry × Nat × Bool) × Nat :=
  let entries := (cands.flatMap fun c => c.getD []).foldr insertEntry []
  let kept := suppress l 65536 (fieldNat l 18 2) (entries.take 65536)
  (entries, kept, cands.countP fun c => c.isNone)

/-- The writes of a Detect command. -/
def detectRun (cx : Cx) (ops : List Operand) (l : List Byte) (s : State) : EngineRun :=
  let rec_ := if fieldNat l 16 1 = 0 then 2 else 3
  match readCandidates s cx ops l with
  | .error e => ([], some e)
  | .ok cands =>
    let d := detectLists l cands
    let n := d.1.length
    let row (o : Operand) (k : Nat) (bytes : List Byte) : Except Stop (List (Loc × List Byte)) :=
      writePiece s cx o 8 { c0 := 0, c1 := (k : Int), c2 := 0, c3 := 0 } (bytes.map fun b => b.toNat)
    let summary := detectSummary d.2.1.1.length n (n - 65536) d.2.2 d.2.1.2.2
    collectRun (fun (x : Operand × Nat × List Byte) => row x.1 x.2.1 x.2.2)
      ((List.zip (List.range d.2.1.1.length) d.2.1.1).map (fun x => (opAt ops rec_, x.1, boxRecord x.2)) ++
        [(opAt ops (rec_ + 1), 0, summary)])

/-- R280: the phase terms of a Detect command. -/
def detectCycles (cx : Cx) (ops : List Operand) (l : List Byte) (s : State) : Nat :=
  match readCandidates s cx ops l with
  | .error _ => 0
  | .ok cands =>
    let d := detectLists l cands
    let p := min d.1.length 65536
    let read := viewBytes (opAt ops 0) + viewBytes (opAt ops 1) + if fieldNat l 16 1 = 0 then 0 else viewBytes (opAt ops 2)
    max (ceilDiv read 128) (ceilDiv ((opAt ops 0).size 1) 32) + ceilDiv (p * ceilLog2 (max p 2)) 8 +
      ceilDiv d.2.1.2.1 32 + ceilDiv (32 * d.2.1.1.length + 32) 128

end Sys2Proof.Machine
end

