-- ==== Sys2Proof/Machine/Health.lean ====
section
/-! DEFINITION. What errors of the memories leave behind (R251, R376 to R388): corrections and their counts, uncorrectable blocks,
and the retirement of pages. -/

namespace Sys2Proof.Machine

/-! ### Page retirement (R384 to R388) -/

/-- The virtual page that maps a physical page. -/
def mappedAt (s : State) (ppn : Nat) : Option (Nat × TtEntry) :=
  s.mmu.table.find? fun e => e.2.valid && !e.2.retired && e.2.ppn.toNat = ppn

/-- Is a page of the pool free: in the pool, not retired and not mapped? -/
def pageFree (s : State) (ppn : Nat) : Bool :=
  decide (ppn < s.mmu.poolPages) && !s.mmu.retired.contains ppn && (mappedAt s ppn).isNone

/-- The free page that firmware takes (R396): the choice is open. -/
def freePage (s : State) : Option Nat :=
  let n := s.mmu.poolPages
  ((List.range n).map fun i => (Config.choosePage s.freeCtr + i) % n).find? (pageFree s)

/-- Handles of the live objects that overlap a virtual page. -/
def objectsOn (s : State) (vpn : Nat) : List Nat :=
  (s.objects.filter fun o => decide (o.2.base < (vpn + 1) * 16384) && decide (vpn * 16384 < o.2.base + o.2.length)).map
    fun o => o.1

/-- Mark objects as poisoned (R388). -/
def poisonAll (hs : List Nat) (s : State) : State :=
  foldState (fun h s => s.updObject h fun o => { o with poisoned := true }) hs s

/-- PAGE_RETIRED with at most 48 handles an event (Table 15.14). -/
def reportRetired : Nat → Nat → Option Nat → Option (Fin 8) → Nat → List Nat → State → State
  | 0, _, _, _, _, _, s => s
  | fuel + 1, ppn, vpn, parcel, kind, hs, s =>
    let now := hs.take 48
    let rest := hs.drop 48
    let body := leBytes 4 ppn ++ leBytes 4 (vpn.getD 0xFFFFFFFF) ++
      leBytes 1 ((parcel.map fun n => n.val).getD 0xFF) ++ leBytes 1 kind ++ leBytes 1 now.length ++
      leBytes 1 (bit !rest.isEmpty) ++ now.flatMap fun h => leBytes 2 h
    let s1 := fwEvent 0x8001 body s
    if rest.isEmpty then s1 else reportRetired fuel ppn vpn parcel kind rest s1

/-- Firmware's report of a retirement. -/
def sendRetired (ppn : Nat) (vpn : Option Nat) (parcel : Option (Fin 8)) (kind : Nat) (hs : List Nat) (s : State) : State :=
  reportRetired (hs.length + 1) ppn vpn parcel kind hs s

/-- R387: the page joins the retired pages and, while there is room, the list in NOR. -/
def noteRetired (ppn : Nat) (s : State) : State :=
  let s1 := { s with mmu := { s.mmu with
    retired := s.mmu.retired ++ [ppn], retiredCount := satInc s.mmu.retiredCount 1
    corrections := s.mmu.corrections.filter fun c => decide (c.1 ≠ ppn) } }
  if s.flash.retiredPages.length < 4096 then
    { s1 with flash := { s1.flash with retiredPages := s1.flash.retiredPages ++ [ppn] } }
  else logEvent 0x3A 0x0103 s1

/-- Parcel of an entry. -/
def TtEntry.parcel (e : TtEntry) : Fin 8 := Fin.ofNat 8 e.owner.toNat

/-- R386: a mapped page is retired without a replacement: its entry is set RETIRED and the objects on it are poisoned. -/
def retireInPlace (ppn vpn : Nat) (e : TtEntry) (s : State) : State :=
  let hs := objectsOn s vpn
  sendRetired ppn (some vpn) (some e.parcel) 1 hs (poisonAll hs
    { s with mmu := { s.mmu with table := putKey s.mmu.table vpn { e with retired := true } } })

/-- R384 to R386: firmware retires a physical page. A mapped page waits for its migration when the pool holds a free
page; otherwise its entry is set RETIRED at once. -/
def retirePage (ppn : Nat) (s : State) : State :=
  if s.mmu.poolPages ≤ ppn ∨ s.mmu.retired.contains ppn ∨ !hartsRun s then s
  else
    let s1 := noteRetired ppn s
    match mappedAt s ppn with
    | none =>
      sendRetired ppn none none 2 [] { s1 with mmu := { s1.mmu with spare := s1.mmu.spare - 1 } }
    | some (vpn, e) => if (freePage s1).isSome then s1 else retireInPlace ppn vpn e s1

/-- The bytes of a page that migrates: exact, but for each uncorrectable block, which is 0 (R385). -/
def migratedBytes (s : State) (ppn : Nat) : List Byte :=
  (List.range 256).flatMap fun b =>
    if s.mmu.badBlocks.contains (ppn * 256 + b) then List.replicate 64 0
    else s.dram.readBytes (ppn * 16384 + 64 * b) 64

/-! ### Errors (R251, R378 to R384) -/

/-- Channel of a physical address (R375). -/
def channelOfPa (pa : Nat) : Nat := bitsOf pa 8 4 ^^^ bitsOf pa 18 4

/-- R380, R384: a corrected error: counted, and its page retired at the threshold within the window. Without inline ECC no error
is corrected (R376). -/
def noteCorrection (block : Nat) (s : State) : State :=
  if !s.memctl.inlineEcc then s
  else
  let ppn := block / 256
  let window := s.memctl.windowH.toNat * 3600000000000
  let kept := (s.mmu.corrections.filter fun c => decide (s.time.toNat < c.2 + window)) ++ [(ppn, s.time.toNat)]
  let s1 := { s with
    memctl := { s.memctl with eccCorr := satInc s.memctl.eccCorr 1 }
    mmu := { s.mmu with corrections := kept } }
  if s.memctl.threshold.toNat ≤ (kept.countP fun c => decide (c.1 = ppn)) then retirePage ppn s1 else s1

/-- R381 to R383: an uncorrectable block: counted, recorded and alarmed. Its page is retired, but a block of the translation table
holds the accesses that need it (`ttBlocked`). -/
def noteUncorrectable (block : Nat) (s : State) : State :=
  let pa := block * 64
  let s1 := { s with memctl := { s.memctl with
    eccUncorr := satInc s.memctl.eccUncorr 1, uePa := BitVec.ofNat 32 block } }
  let s2 := { s1 with mmu := { s1.mmu with badBlocks := s1.mmu.badBlocks ++ [block] } }
  if s.mmu.ttBase.toNat * 16384 ≤ pa then raiseKey 0x45 (BitVec.ofNat 32 block) s2
  else retirePage (block / 256) (raiseKey (0x35 + channelOfPa pa) (BitVec.ofNat 32 block) s2)

/-- R251: a word of a Cask was corrected. -/
def correctCask (p : Fin 16) (s : State) : State := s.updPress p fun x => { x with eccCorr := satInc x.eccCorr 1 }

/-- R251: words of the Cellar were corrected. -/
def correctCellar (n : Nat) (s : State) : State := { s with cellar := { s.cellar with eccCorr := satInc s.cellar.eccCorr n } }

/-- R251, R378, R380: what the reads of a step reported. -/
def noteHealth (h : ReadHealth) (s : State) : State :=
  let s1 := foldState (fun b s => noteCorrection b.toNat s) h.corrected
    { s with memctl := { s.memctl with linkCorr := satInc s.memctl.linkCorr h.linkCorrections } }
  correctCellar h.cellar (foldState correctCask h.casks s1)

/-- As `answer`, for a step on whose reads the error correction reported. -/
def answerNoting (h : ReadHealth) (f : State → State) : State → Host.Outcome State Fault Refusal :=
  answer fun s => noteHealth h (f s)

end Sys2Proof.Machine
end

