-- ==== Sys2Proof/Machine/EngineServe.lean ====
section
/-! DEFINITION. The Fold and Lookup engines (R281 to R287), and how an engine serves its waiting commands (R29, R255,
R256, R262, R263). -/

namespace Sys2Proof.Machine

/-! ### Fold (R281 to R283) -/

/-- Is a dimension reduced? -/
def reduces (l : List Byte) (d : Nat) : Bool :=
  if fieldNat l 0 1 = 2 then d = 1 || d = 2 else bitsOf (fieldNat l 16 1) d 1 = 1

/-- The values of one dimension that a reduction set covers. -/
def dimRange (size : Nat) (reduced : Bool) (c : Int) : List Int :=
  if reduced then (List.range size).map fun i => ((i : Nat) : Int) else if within c size then [c] else []

/-- Channel of a coordinate (R260). -/
def channelAt (o : Operand) (c : Coords) : Nat := channelIndex o c.c0.toNat c.c3.toNat

/-- R281, R282: the coordinates of the reduction set that an element belongs to, c3 most significant. -/
def foldSet (inp : Operand) (l : List Byte) (c : Coords) : List Coords :=
  if fieldNat l 0 1 = 2 then
    let g := fieldNat l 18 2
    let all := (dimRange (inp.size 3) inp.blocked c.c3).flatMap fun c3 => (dimRange (inp.size 2) true c.c2).flatMap fun c2 =>
      (dimRange (inp.size 1) true c.c1).flatMap fun c1 => (dimRange (inp.size 0) true c.c0).map fun c0 =>
        ({ c0 := c0, c1 := c1, c2 := c2, c3 := c3 } : Coords)
    all.filter fun x => decide (channelAt inp x / g = channelAt inp c / g)
  else
    (dimRange (inp.size 3) (reduces l 3) c.c3).flatMap fun c3 =>
      (dimRange (inp.size 2) (reduces l 2) c.c2).flatMap fun c2 =>
        (dimRange (inp.size 1) (reduces l 1) c.c1).flatMap fun c1 =>
          (dimRange (inp.size 0) (reduces l 0) c.c0).map fun c0 => { c0 := c0, c1 := c1, c2 := c2, c3 := c3 }

/-- Sum from +0, each addition rounded (R282). -/
def sumVals (ieee : Bool) (xs : List Val) : Val := xs.foldl (fun acc x => rnd32 ieee (acc.add x)) Val.zero

/-- An element of gamma or beta: an integer element has no scale in Table 7.1. -/
def readAffine (s : State) (cx : Cx) (o : Operand) (ieee : Bool) (channel : Nat) : Except Stop Val :=
  (readElem s cx o { c0 := (channel : Int), c1 := 0, c2 := 0, c3 := 0 }).map fun code =>
    if isIntFmt o.fmt then rnd32 ieee (fp32.decode (Config.unscaled o.fmt o.zpCode code).toNat) else decodeValue o.fmt code

/-- R282, R283: one output element of a Fold command. -/
def foldAt (s : State) (cx : Cx) (ops : List Operand) (l : List Byte) (c : Coords) : Except Stop (Option Val) :=
  let ieee := ieeeFlag l
  let inp := opAt ops 0
  let scale := paramVal l 4
  let op := fieldNat l 0 1
  let m (x y : Val) : Val := rnd32 ieee (x.mul y)
  let a (x y : Val) : Val := rnd32 ieee (x.add y)
  match mapStop (readWide s cx inp ieee scale) (foldSet inp l c) with
  | .error e => .error e
  | .ok xs =>
    let n : Val := Val.ofInt xs.length
    if xs.isEmpty then .ok (some (if op = 3 ∨ op = 7 then Val.zero else .nan))
    else if op = 3 then .ok (some (sumVals ieee xs))
    else if op = 4 then .ok (some (rnd32 ieee ((sumVals ieee xs).div n)))
    else if op = 5 then .ok (some ((xs.drop 1).foldl Val.max (xs.getD 0 .nan)))
    else if op = 6 then .ok (some ((xs.drop 1).foldl Val.min (xs.getD 0 .nan)))
    else if op = 7 then .ok (some (sumVals ieee (xs.map fun x => m x x)))
    else
      match readWide s cx inp ieee scale c with
      | .error e => .error e
      | .ok x =>
        if op = 0 then
          let top := (xs.drop 1).foldl Val.max (xs.getD 0 .nan)
          let e (v : Val) : Val := expVal ieee (a v top.neg)
          .ok (some (rnd32 ieee ((e x).div (sumVals ieee (xs.map e)))))
        else
          let mean := rnd32 ieee ((sumVals ieee xs).div n)
          let var := rnd32 ieee ((sumVals ieee (xs.map fun v => m (a v mean.neg) (a v mean.neg))).div n)
          let k := rsqrtVal (a var (paramVal l 20))
          match readAffine s cx (opAt ops 3) ieee (channelAt inp c), readAffine s cx (opAt ops 4) ieee (channelAt inp c) with
          | .ok g, .ok b => .ok (some (a (m (m (a x mean.neg) k) g) b))
          | .error e, _ => .error e
          | _, .error e => .error e

/-- A Fold command. -/
def foldRun (cx : Cx) (ops : List Operand) (l : List Byte) (s : State) : EngineRun :=
  walkOutput s cx (opAt ops 1) (opAt ops 2) 2 (ieeeFlag l) (foldAt s cx ops l)

/-- R284: the phase term of a Fold command. A set of at most 16,384 elements is read once, a larger one once a pass. -/
def foldCycles (ops : List Operand) (l : List Byte) : Nat :=
  let inp := opAt ops 0
  let passes := if fieldNat l 0 1 ≤ 2 then 3 else 1
  let read := (foldSetSizes inp l).foldl (fun acc x => acc + (if x.1 ≤ 16384 then 1 else passes) * x.1 * x.2) 0
  max (passes * ceilDiv (viewElements inp) 64) (ceilDiv (read * fmtBits inp.fmt / 8) 128)

/-! ### Lookup (R285 to R287) -/

/-- A stage's table, or the kill of R285. -/
def lookupTable (s : State) (cx : Cx) (ops : List Operand) (i : Nat) : Except Stop (List Byte) :=
  let o := opAt ops (3 + i)
  match readSide s cx o 8 { c0 := 0, c1 := 0, c2 := 0, c3 := 0 } 4128 with
  | .error e => .error e
  | .ok codes =>
    let t : List Byte := codes.map fun c => BitVec.ofNat 8 c
    if [0, 4, 8, 16, 20].all (fun i => isFinite (paramVal t i)) && (paramVal t 4).gt Val.zero &&
        fieldNat t 12 1 ≤ 1 && fieldNat t 13 1 ≤ 2 then .ok t
    else .error { status := 0x18, data := dataI (3 + i) cx.agent }

/-- The polynomial of segment i (R286). -/
def segmentAt (ieee : Bool) (t : List Byte) (i : Nat) (x : Val) : Val :=
  let m (a b : Val) : Val := rnd32 ieee (a.mul b)
  let a (x y : Val) : Val := rnd32 ieee (x.add y)
  let c (k : Nat) : Val := paramVal t (32 + 16 * i + 4 * k)
  let d := a x (a (paramVal t 0) (m (Val.ofInt i) (paramVal t 4))).neg
  a (c 0) (m d (a (c 1) (m d (a (c 2) (m d (c 3))))))

/-- f of one stage (R286). -/
def stageAt (ieee mulInput : Bool) (t : List Byte) (x : Val) : Val :=
  let m (a b : Val) : Val := rnd32 ieee (a.mul b)
  let a (x y : Val) : Val := rnd32 ieee (x.add y)
  let lo := paramVal t 0
  let hi := a lo (m (Val.ofInt 256) (paramVal t 4))
  let f :=
    if x.isNan then .nan
    else if lo.gt x then (if fieldNat t 12 1 = 0 then paramVal t 16 else segmentAt ieee t 0 x)
    else if hi.gt x then
      segmentAt ieee t (floorClamp 0 255 (m (a x lo.neg) (paramVal t 8))).toNat x
    else if fieldNat t 13 1 = 0 then paramVal t 20
    else if fieldNat t 13 1 = 1 then segmentAt ieee t 255 x
    else x
  if mulInput then m x f else f

/-- A Lookup command. -/
def lookupRun (cx : Cx) (ops : List Operand) (l : List Byte) (s : State) : EngineRun :=
  let n := fieldNat l 16 1
  match mapStop (lookupTable s cx ops) (List.range n) with
  | .error e => ([], some e)
  | .ok tables =>
    walkOutput s cx (opAt ops 1) (opAt ops 2) 2 (ieeeFlag l) fun c =>
      (readWide s cx (opAt ops 0) (ieeeFlag l) (paramVal l 4) c).map fun x =>
        some ((List.zip (List.range n) tables).foldl
          (fun v st => stageAt (ieeeFlag l) (fieldNat l (18 + st.1) 1 % 2 = 1) st.2 v) x)

/-- R287: the phase term of a Lookup command. -/
def lookupCycles (ops : List Operand) (l : List Byte) : Nat :=
  let inp := opAt ops 0
  33 * fieldNat l 16 1 + max (ceilDiv (viewElements (opAt ops 1)) 64) (ceilDiv (viewBytes inp) 128)

/-! ### Serving commands (R29, R255) -/

/-- The command that an engine serves next: in submission order within the parcel. -/
def nextJob (e : Engine) : Option EngineJob :=
  match nextParcel e.lastParcel fun n => e.waiting.any fun j => decide (j.parcel = n) with
  | none => none
  | some n => e.waiting.find? fun j => decide (j.parcel = n)

/-- Remove the oldest waiting command of a parcel. -/
def dropJob (n : Fin 8) : List EngineJob → List EngineJob
  | [] => []
  | j :: rest => if j.parcel = n then rest else j :: dropJob n rest

/-- R262: a command that an engine could not finish: its outputs are undefined, and it or its parent is killed. -/
def engineFail (e : Fin 6) (j : EngineJob) (st : Stop) (s : State) : State :=
  let s1 := (engineOutputs e.val j.operands j.params).foldl (wipeOutput (engineCx e.val j)) s
  let s2 := s1.updEngine e fun x => { x with failStatus := st.status, failParcel := BitVec.ofFin j.parcel }
  killCmd j.queue j.seq st s2

/-- TWIN_MISMATCH of an engine (R263). -/
def stopTwinEngine (e : Nat) : Stop := { status := 0x25, data := dataI (agentEngine e) 0xFFFF }

/-- R263: the two runs of a twinned engine command differ. -/
def engineMismatch (e : Fin 6) (j : EngineJob) (s : State) : State :=
  engineFail e j (stopTwinEngine e.val) (raiseKey (0x5C + e.val) (BitVec.ofNat 32 j.parcel.val)
    (s.updEngine e fun x => { x with twinFail := satInc x.twinFail 1 }))

/-- A command that an engine has finished: a top-level one has completed its writes, a child waits to be signalled. -/
def engineDone (e : Fin 6) (j : EngineJob) (s : State) : State :=
  match j.press with
  | some _ => s.updEngine e fun x => { x with done := x.done ++ [j] }
  | none => s.updCmd j.queue j.seq fun c => { c with phase := .written 0 0 }

/-- R255: an engine runs its next waiting command to its end. `run` gives the writes, `cycles` the duration of R264. A command
with an access that is held (R383) waits as it is. -/
def serveEngine (e : Fin 6) (mismatch : Bool) (run : EngineJob → State → EngineRun) (cycles : EngineJob → State → Nat)
    (s : State) : State :=
  if s.safety.safe then s
  else match nextJob (s.engine e) with
  | none => s
  | some j =>
    let times := if j.twinned then 2 else 1
    let s1 := s.updEngine e fun x => { x with
      waiting := dropJob j.parcel x.waiting, lastParcel := j.parcel, asleep := false }
    let r := run j s
    let s2 := (s1.writeLocs r.1).updEngine e fun x => { x with
      busy := x.busy + BitVec.ofNat 64 (times * (100 + cycles j s)) }
    match r.2 with
    | some st => if st.held then s else engineFail e j st s2
    | none =>
      if mismatch && j.twinned then engineMismatch e j s2
      else engineDone e j (s2.updEngine e fun x => { x with work := x.work + 1 })

/-- WINDOW. -/
def execWindow (mismatch : Bool) (health : ReadHealth) (s : State) : Host.Outcome State Fault Refusal :=
  answerNoting health (serveEngine 0 mismatch (fun j s => windowRun (engineCx 0 j) j.operands j.params s)
    fun j _ => windowCycles j.operands j.params) s
/-- DETECT. -/
def execDetect (mismatch : Bool) (health : ReadHealth) (s : State) : Host.Outcome State Fault Refusal :=
  answerNoting health (serveEngine 1 mismatch (fun j s => detectRun (engineCx 1 j) j.operands j.params s)
    fun j s => detectCycles (engineCx 1 j) j.operands j.params s) s
/-- FOLD. -/
def execFold (mismatch : Bool) (health : ReadHealth) (s : State) : Host.Outcome State Fault Refusal :=
  answerNoting health (serveEngine 2 mismatch (fun j s => foldRun (engineCx 2 j) j.operands j.params s)
    fun j _ => foldCycles j.operands j.params) s
/-- LOOKUP. -/
def execLookup (mismatch : Bool) (health : ReadHealth) (s : State) : Host.Outcome State Fault Refusal :=
  answerNoting health (serveEngine 3 mismatch (fun j s => lookupRun (engineCx 3 j) j.operands j.params s)
    fun j _ => lookupCycles j.operands j.params) s

end Sys2Proof.Machine
end

