-- ==== Sys2Proof/Machine/Pixels.lean ====
section
/-! DEFINITION. The arithmetic of the pixel pipelines (R304 to R314), and the normalisation of a tensor element (R314,
R345) that the Intake shares. -/

namespace Sys2Proof.Machine

/-- The code of a value in an INT8 or FP16 tensor, in saturate mode. -/
def normCode (fmt : Nat) (mean scale : Val) (zp : Int) (v : Val) : Nat :=
  let y := rnd32 false ((rnd32 false (v.add mean.neg)).mul scale)
  if fmt = 1 then codeOfInt 1 (roundInt (-128) 127 zp y) else toFormat fp16 false y

/-- The channel sources of a list that 0xFF ends. -/
def channelSources : List Nat → List Nat
  | [] => []
  | c :: rest => if c = 0xFF then [] else c :: channelSources rest

/-! ### Mosaic (R305, R306, R308) -/

/-- Row `r` of the table of Table 8.3, colours 0 R, 1 G, 2 B, 3 C, 4 IR. -/
def mosaicRow (mode r : Nat) : List Nat :=
  match mode, r % 4 with
  | 0, _ => [3, 3, 3, 3]
  | 1, 0 => [0, 1, 0, 1]
  | 1, 1 => [1, 2, 1, 2]
  | 1, 2 => [0, 1, 0, 1]
  | 1, _ => [1, 2, 1, 2]
  | 2, 0 => [2, 1, 0, 1]
  | 2, 2 => [0, 1, 2, 1]
  | 2, _ => [1, 4, 1, 4]
  | 3, 0 => [0, 3, 0, 3]
  | 3, 2 => [0, 3, 0, 3]
  | 3, _ => [3, 2, 3, 2]
  | 4, 0 => [0, 3, 0, 3]
  | 4, 2 => [0, 3, 0, 3]
  | 4, _ => [3, 1, 3, 1]
  | 5, 0 => [3, 0, 3, 1]
  | 5, 1 => [0, 3, 1, 3]
  | 5, 2 => [3, 1, 3, 2]
  | 5, _ => [1, 3, 2, 3]
  | _, _ => []

/-- Entry e of a USER table. -/
def userEntry (c : PipeCfg) (e : Nat) : Nat :=
  if e < 8 then c.table.toNat / 8 ^ e % 8 else c.tableHi.toNat / 8 ^ (e - 8) % 8

/-- R306: the mosaic colour of a position. -/
def colourAt (c : PipeCfg) (x y : Nat) : Nat :=
  let row := (y + c.phaseY.toNat) % 4
  let col := (x + c.phaseX.toNat) % 4
  if c.mosaic = 6 then userEntry c (4 * row + col) else (mosaicRow c.mosaic.toNat row).getD col 3

/-- R308: a coordinate outside the image moves by 4 towards it; without a size there is no far border. -/
def moveInside (v : Int) (size : Option Nat) : Nat :=
  if v < 0 then (v + 4).toNat
  else match size with
  | none => v.toNat
  | some n => if (n : Int) ≤ v then (v - 4).toNat else v.toNat

/-- R305: black level and gain of a sample of a colour. -/
def levelled (c : PipeCfg) (k sample : Nat) : Int :=
  let d : Nat := sample - (vget c.black (Fin.ofNat 5 k)).toNat
  min 65535 (roundDiv ((d * (vget c.gain (Fin.ofNat 5 k)).toNat : Nat) : Int) 4096)

/-- An image as the stages see it: configuration, number of lines where there is a lower border, and raw samples by line
and column. -/
structure RawImage where
  cfg : PipeCfg
  height : Option Nat
  first : Nat
  lines : List (List Nat)
  zeroFrom : Nat
  freeFrom : Nat
  deriving DecidableEq, Repr

/-- The raw 16-bit sample of a line and column: 0 from the first line that never arrived on, and a free value from the
first line that no strip holds on. -/
def RawImage.sample (im : RawImage) (line col : Nat) : Nat :=
  if im.freeFrom ≤ line then (Config.absentSample line col).toNat
  else if im.zeroFrom ≤ line then 0
  else (im.lines.getD (line - im.first) []).getD col 0

/-! ### Reconstruction (R307) -/

/-- s′ of a window position (R305, R308), with its colour. -/
def RawImage.cell (im : RawImage) (x y : Int) : Nat × Int :=
  let cx := moveInside x (some im.cfg.width.toNat)
  let cy := moveInside y im.height
  let k := colourAt im.cfg cx cy
  (k, levelled im.cfg k (im.sample cy cx))

/-- The cells of the square window of a radius. -/
def RawImage.window (im : RawImage) (r : Nat) (x y : Nat) : List (Nat × Int) :=
  (List.range (2 * r + 1)).flatMap fun (j : Nat) => (List.range (2 * r + 1)).map fun (i : Nat) =>
    im.cell ((x : Int) + (i : Int) - (r : Int)) ((y : Int) + (j : Int) - (r : Int))

/-- rnd of the mean of a list. -/
def meanRnd (l : List Int) : Int := roundDiv (l.foldl (· + ·) 0) l.length

/-- The mean of the cells of a colour, where there are any. -/
def meanColour (k : Nat) (l : List (Nat × Int)) : Option Int :=
  let own := (l.filter fun c => decide (c.1 = k)).map fun c => c.2
  if own.isEmpty then none else some (meanRnd own)

/-- R307: plane k at a position. -/
def RawImage.plane (im : RawImage) (k x y : Nat) : Int :=
  let c := im.cell (x : Int) (y : Int)
  if c.1 = k then c.2
  else match meanColour k (im.window 1 x y) with
  | some v => v
  | none => (meanColour k (im.window 2 x y)).getD 0

/-! ### Colour matrix and gamma (R309, R310) -/

/-- One pixel after stage 3 and after gamma. -/
structure Pixel where
  q : List Nat
  gamma : List Nat
  clear : Nat
  ir : Nat
  deriving DecidableEq, Repr

/-- R309: output r of the matrix. -/
def matrixOut (c : PipeCfg) (planes : List Int) (r : Nat) : Nat :=
  let sum := (List.range 5).foldl (fun (acc : Int) k =>
    acc + (vget c.matrix (Fin.ofNat 15 (5 * r + k))).toInt * planes.getD k 0) 0
  (clampInt 0 65535 (roundDiv sum 4096 + (vget c.offset (Fin.ofNat 3 r)).toInt)).toNat

/-- R310. -/
def gammaOut (c : PipeCfg) (q : Nat) : Nat :=
  let i := q / 256
  let f := q % 256
  let lut (j : Nat) : Nat := (vget c.gamma (Fin.ofNat 257 j)).toNat
  (roundDiv ((lut i * (256 - f) + lut (i + 1) * f : Nat) : Int) 256).toNat

/-- The pixel at a position. -/
def RawImage.pixel (im : RawImage) (x y : Nat) : Pixel :=
  let planes := (List.range 5).map fun k => im.plane k x y
  let q := (List.range 3).map fun r => matrixOut im.cfg planes r
  { q := q, gamma := q.map (gammaOut im.cfg), clear := (planes.getD 3 0).toNat, ir := (planes.getD 4 0).toNat }

/-! ### Output values (R311 to R314) -/

/-- Channel i after gamma. -/
def Pixel.g (p : Pixel) (i : Nat) : Int := ((p.gamma.getD i 0 : Nat) : Int)

/-- Luma at 10 bits. -/
def Pixel.luma (p : Pixel) : Int := 64 + roundDiv (186 * p.g 0 + 627 * p.g 1 + 63 * p.g 2) 65536

/-- Chroma at 10 bits: 0 Cb, 1 Cr. -/
def Pixel.chroma (p : Pixel) (which : Nat) : Int :=
  if which = 0 then 512 + roundDiv (-103 * p.g 0 - 345 * p.g 1 + 448 * p.g 2) 65536
  else 512 + roundDiv (448 * p.g 0 - 407 * p.g 1 - 41 * p.g 2) 65536

/-- A 10-bit value as an 8-bit code (R312). -/
def toEight (v : Int) : Nat := (roundDiv v 4).toNat

/-- A 10-bit value as an element of NV12 or P010 (R313). -/
def codingCode (p010 : Bool) (v : Int) : Nat := if p010 then v.toNat * 64 else toEight v

/-- The three bytes of RGB888 (R311). -/
def Pixel.rgb (p : Pixel) : List Nat := p.gamma.map fun g => min 255 (roundDiv (g : Int) 256).toNat

/-- The mean chroma of the pixels that form a pair or block; a free value where clipping left it incomplete. -/
def chromaOf (full : Nat) (bx by_ which : Nat) (l : List Pixel) : Int :=
  let v := l.map fun p => p.chroma which
  if l.length = full then meanRnd v else ((Config.edgeChroma bx by_ which v).toNat : Int)

/-- The value of a tensor source (R314): 0 to 2 R′ to B′, or Γ of them; 3 C, 4 IR. -/
def Pixel.source (p : Pixel) (useGamma : Bool) (k : Nat) : Nat :=
  if k = 3 then p.clear else if k = 4 then p.ir else if useGamma then p.gamma.getD k 0 else p.q.getD k 0

end Sys2Proof.Machine
end

