-- ==== Sys2Proof/Machine/Camera.lean ====
section
/-! DEFINITION. The sixteen CSI-2 ports and pixel pipelines (R297 to R331): configuration, reception, strips, capture
commands and their outputs. -/

namespace Sys2Proof.Machine

/-! ### Configuration (R330, R331) -/

/-- The register offset of the first field that R331 refuses. -/
def pipeConfigBad (c : PipeCfg) : Option Nat :=
  let h := c.stripHeight.toNat
  let top := if c.strip then 16384 else 8192
  let user (l : List Nat) : Bool := c.mosaic = 6 && l.any fun e => decide (4 < userEntry c e)
  if c.lanes = 3 ∨ c.dt.toNat < 0x2A ∨ 0x2E < c.dt.toNat then some 0x40
  else if c.width.toNat < 16 ∨ top < c.width.toNat ∨ c.height.toNat < 16 ∨ 8192 < c.height.toNat then some 0x44
  else if h < 16 ∨ 16384 < h ∨ h < 2 * c.overlap.toNat then some 0x48
  else if c.mosaic = 7 ∨ user (List.range 8) then some 0x54
  else if user ((List.range 8).map fun i => i + 8) then some 0x58
  else none

/-- R330, R331, R695: apply a pipeline's pending configuration, or reject it. An applied configuration restarts the line
numbering. -/
def pipeApply (n : Fin 16) (s : State) : State :=
  if s.safety.safe then s
  else match (s.pipe n).cfg.pending with
  | none => s
  | some c =>
    match pipeConfigBad c with
    | some off =>
      settleCommit (pgPipe n) (rejectCommit (pgPipe n) 1 (BitVec.ofNat 32 off)
        (s.updPipe n fun p => { p with cfg := p.cfg.reject }))
    | none =>
      settleCommit (pgPipe n) (s.updPipe n fun p => { p with
        cfg := p.cfg.apply, frames := [], lines := [], base := 0, lineCount := 0
        rxState := if p.rxState = 3 then 2 else p.rxState })

/-- May a waiting configuration be applied at once: area mode with no frame in progress (R330)? -/
def pipeIdle (p : Pipe) : Bool := !p.cfg.live.strip && p.frames.isEmpty

/-! ### Capture parameters (Table 8.4) -/

/-- The checks of a parameter block (R321). -/
def captureFields (l : List Byte) : List (Bool × Nat) :=
  let en (i : Nat) : Bool := fieldNat l 0 1 / 2 ^ i % 2 = 1
  let sel := (List.range 5).map fun i => fieldNat l (16 + i) 1
  let used := (channelSources sel).length
  let even := en 1 || (en 0 && fieldNat l 1 1 = 1)
  let dim (i : Nat) : Bool × Nat := (fieldNat l i 2 = 0 || (even && fieldNat l i 2 % 2 = 1), i)
  let finite (i : Nat) : Bool × Nat := (!isFinite (paramVal l i), i)
  [(bitsSet l 0 0xF8, 0), (1 < fieldNat l 1 1, 1), (1 < fieldNat l 2 1, 2), (bitsSet l 3 0xFE, 3), dim 8, dim 10,
   (sel.getD 0 0 = 0xFF, 16)] ++
  (List.range used).map (fun i => (decide (4 < sel.getD i 0), 16 + i)) ++
  [(fieldSet l 21 3, 21)] ++
  (List.range used).map (fun j => finite (24 + 4 * j)) ++ (List.range used).map (fun j => finite (44 + 4 * j)) ++
  [(fieldSet l 65 15, 65)]

/-- The output of an operand of a capture: OUT_EN bit, or none for the frame record. -/
def captureOutput (i : Nat) : Option Nat := if i = 0 then some 0 else if i ≤ 2 then some 1 else if i = 3 then some 2 else none

/-- Does OUT_EN use operand i? -/
def captureUses (l : List Byte) (i : Nat) : Bool :=
  match captureOutput i with
  | none => true
  | some b => fieldNat l 0 1 / 2 ^ b % 2 = 1

/-- CAPTURE_PARAM at a byte offset. -/
def stopCapture (off : Nat) : Stop := { status := 0x1B, data := dataI off 0 }

/-- The checks of a CAPTURE command after its operand table (R159, R320, R321). -/
def captureChecks (ops : List Operand) (len : Nat) (params : List Byte) : Option Stop :=
  let used := (List.zip (List.range ops.length) ops).filter fun x => captureUses params x.1
  firstStop (
    used.map (fun x => stopIf (x.2.space ≠ 2) (stopDescriptor (0x4000 + 64 * x.1 + 5))) ++
    [stopIf (len ≠ 80) (stopCapture 0xFFFF)] ++
    (captureFields params).map (fun c => stopIf c.1 (stopCapture c.2)) ++
    used.map (fun x => stopIf (if x.1 = 3 then
        principalBad x.2 false false || x.2.companions ≠ 0 || !(x.2.fmt = 1 || x.2.fmt = 6) ||
          !(x.2.inner = 1 || x.2.inner = 2)
      else flagsBad x.2 false false false || x.2.companions ≠ 0) (stopFormat x.1 agentFrontEnd)))

/-- Field of the crop: 0 X, 1 Y, 2 W, 3 H. -/
def cropField (l : List Byte) (i : Nat) : Nat := fieldNat l (4 + 2 * i) 2

/-- R323: the crop within a frame or strip of a size, and whether it was clipped. -/
def clipCrop (l : List Byte) (w h : Nat) : (Nat × Nat × Nat × Nat) × Bool :=
  let x := cropField l 0
  let y := cropField l 1
  ((x, y, min (cropField l 2) (w - x), min (cropField l 3) (h - y)),
    decide (w < x + cropField l 2) || decide (h < y + cropField l 3))

/-! ### Output rows (R311 to R314, R320) -/

/-- One piece of an output row: operand, bits of an element, coordinates and codes. -/
structure RowPiece where
  operand : Operand
  bits : Nat
  at_ : Coords
  codes : List Nat
  deriving DecidableEq, Repr

/-- Coordinates of a row or pixel. -/
def rowAt (c0 c1 c2 : Nat) : Coords := { c0 := (c0 : Int), c1 := (c1 : Int), c2 := (c2 : Int), c3 := 0 }

/-- The display row. -/
def displayRow (o : Operand) (l : List Byte) (y : Nat) (px : List Pixel) : RowPiece :=
  let codes := if fieldNat l 1 1 = 0 then px.flatMap fun p => p.rgb
    else (List.range px.length).flatMap fun x =>
      let p := (px.drop x).take 1
      let pair := (px.drop (x / 2 * 2)).take 2
      p.flatMap fun q => [toEight q.luma, toEight (chromaOf 2 (x / 2) y (x % 2) pair)]
  { operand := o, bits := 8, at_ := rowAt 0 y 0, codes := codes }

/-- The luma row. -/
def lumaRow (o : Operand) (p010 : Bool) (y : Nat) (px : List Pixel) : RowPiece :=
  { operand := o, bits := if p010 then 16 else 8, at_ := rowAt 0 y 0, codes := px.map fun p => codingCode p010 p.luma }

/-- The chroma row of cropped rows 2i and 2i + 1. -/
def chromaRow (o : Operand) (p010 : Bool) (i : Nat) (upper lower : List Pixel) : RowPiece :=
  let w := upper.length
  let codes := (List.range (ceilDiv w 2)).flatMap fun j =>
    let block := (upper.drop (2 * j)).take 2 ++ (lower.drop (2 * j)).take 2
    [codingCode p010 (chromaOf 4 j i 0 block), codingCode p010 (chromaOf 4 j i 1 block)]
  { operand := o, bits := if p010 then 16 else 8, at_ := rowAt 0 i 0, codes := codes }

/-- The tensor elements of one pixel, unused channel positions PAD (R204). -/
def tensorPixel (o : Operand) (l : List Byte) (x y : Nat) (p : Pixel) : RowPiece :=
  let sel := channelSources ((List.range 5).map fun i => fieldNat l (16 + i) 1)
  let codes := (List.range (o.innerLen.getD 16)).map fun j =>
    match sel[j]? with
    | none => o.padCode
    | some k => normCode o.fmt (paramVal l (24 + 4 * j)) (paramVal l (44 + 4 * j)) (fieldInt l 64 1)
        (Val.ofInt (p.source (fieldNat l 3 1 % 2 = 1) k))
  { operand := o, bits := fmtBits o.fmt, at_ := rowAt 0 x y, codes := codes }

/-- The pixels of a cropped row. -/
def cropRow (im : RawImage) (crop : Nat × Nat × Nat × Nat) (origin y : Nat) : List Pixel :=
  (List.range crop.2.2.1).map fun x => im.pixel (crop.1 + x) (origin + crop.2.1 + y)

/-- Every piece of cropped row `y`; `origin` is the image line of row 0 of the frame or strip. -/
def rowPieces (im : RawImage) (ops : List Operand) (l : List Byte) (crop : Nat × Nat × Nat × Nat) (origin y : Nat) :
    List RowPiece :=
  let px := cropRow im crop origin y
  let p010 := fieldNat l 2 1 = 1
  let last := decide (y + 1 = crop.2.2.2)
  let chroma :=
    if y % 2 = 1 then [chromaRow (opAt ops 2) p010 (y / 2) (cropRow im crop origin (y - 1)) px]
    else if last then [chromaRow (opAt ops 2) p010 (y / 2) px []]
    else []
  (if captureUses l 0 then [displayRow (opAt ops 0) l y px] else []) ++
  (if captureUses l 1 then lumaRow (opAt ops 1) p010 y px :: chroma else []) ++
  (if captureUses l 3 then (List.zip (List.range px.length) px).map fun p => tensorPixel (opAt ops 3) l p.1 y p.2 else [])

/-- The context of a pipeline's accesses. -/
def pipeCx (n : Fin 16) (parcel : Fin 8) : Cx := { parcel := parcel, agent := agentPipe n.val, own := none, queue := none }

/-- The writes of a list of pieces. -/
def pieceRun (s : State) (cx : Cx) (l : List RowPiece) : EngineRun :=
  collectRun (fun p => writePiece s cx p.operand p.bits p.at_ p.codes) l

/-! ### Frames and strips in progress -/

/-- The frame or strip of a pipeline that starts at a line. -/
def frameOf (p : Pipe) (key : Nat) : Option OpenFrame := p.frames.find? fun f => decide (f.firstLine = key)

/-- Change the frame or strip that starts at a line. -/
def updFrame (n : Fin 16) (key : Nat) (f : OpenFrame → OpenFrame) (s : State) : State :=
  s.updPipe n fun p => { p with frames := p.frames.map fun x => if x.firstLine = key then f x else x }

/-- Lines of a frame or of a strip. -/
def frameHeight (c : PipeCfg) : Nat := if c.strip then c.stripHeight.toNat else c.height.toNat

/-- The end of the last strip in progress, in lines. -/
def lastOpenLine (p : Pipe) : Nat := p.frames.foldl (fun acc f => max acc (f.firstLine + frameHeight p.cfg.live)) 0

/-- The image that the stages see of the lines received. -/
def rawImage (p : Pipe) : RawImage :=
  let c := p.cfg.live
  let got := p.base + p.lines.length
  { cfg := c, height := if c.strip then none else some c.height.toNat, first := p.base, lines := p.lines,
    zeroFrom := got, freeFrom := if c.strip then max got (lastOpenLine p) else c.height.toNat + got }

/-- Set a flag of a frame record (R325) and note the first line with an anomaly. -/
def flagFrame (bit : Nat) (line : Nat) (f : OpenFrame) : OpenFrame :=
  { f with flags := f.flags ||| BitVec.ofNat 16 (2 ^ bit)
           firstBad := if f.firstBad = 0xFFFFFFFF then BitVec.ofNat 32 line else f.firstBad }

/-- Set a flag that belongs to no line. -/
def flagOnly (bit : Nat) (f : OpenFrame) : OpenFrame := { f with flags := f.flags ||| BitVec.ofNat 16 (2 ^ bit) }

/-- Set a flag when a condition holds. -/
def flagIf (b : Bool) (bit line : Nat) (f : OpenFrame) : OpenFrame := if b then flagFrame bit line f else f

/-- Table 8.5. -/
def frameRecord (p : Pipe) (f : OpenFrame) : List Byte :=
  leBytes 4 f.number.toNat ++ leBytes 2 f.frameNo.toNat ++ leBytes 2 f.flags.toNat ++ leBytes 8 f.tStart.toNat ++
  leBytes 8 f.tEnd.toNat ++ leBytes 4 f.index ++ leBytes 4 f.received ++ leBytes 4 f.crcLines ++
  leBytes 4 f.firstBad.toNat ++ leBytes 4 f.discardedBefore.toNat ++ leBytes 2 f.eccCorr.toNat ++
  leBytes 1 p.cfg.live.vc.toNat ++ leBytes 1 p.cfg.live.dt.toNat ++ leBytes 16 0

/-- R324: form output row `y` of a frame or strip: the claiming command's writes, or its kill. -/
def formRow (n : Fin 16) (key : Nat) (y : Nat) (s : State) : State :=
  let s1 := updFrame n key (fun f => { f with formed := f.formed + 1 }) s
  match frameOf (s.pipe n) key with
  | none => s
  | some f =>
    match f.claim with
    | none => s1
    | some r =>
      match s.cmd r.queue r.seq with
      | none => s1
      | some c =>
        if y < f.crop.2.1 ∨ f.crop.2.1 + f.crop.2.2.2 ≤ y then s1
        else
          let run := pieceRun s (pipeCx n r.parcel)
            (rowPieces (rawImage (s.pipe n)) c.operands c.params f.crop key (y - f.crop.2.1))
          let s2 := s1.writeLocs run.1
          match run.2 with
          | none => s2
          | some e => killCmd r.queue r.seq e s2

/-- R325: after the last row, the frame record, and the frame leaves the pipeline. -/
def finishFrame (n : Fin 16) (key : Nat) (s : State) : State :=
  let drop (s : State) : State := s.updPipe n fun p => { p with frames := p.frames.filter fun x => decide (x.firstLine ≠ key) }
  match frameOf (s.pipe n) key with
  | none => s
  | some f =>
    match f.claim with
    | none => drop s
    | some r =>
      match s.cmd r.queue r.seq with
      | none => drop s
      | some c =>
        match writePiece s (pipeCx n r.parcel) (opAt c.operands 4) 8 (rowAt 0 0 0)
            ((frameRecord (s.pipe n) f).map fun b => b.toNat) with
        | .error e => drop (killCmd r.queue r.seq e s)
        | .ok ws => (drop (s.writeLocs ws)).updCmd r.queue r.seq fun c => { c with phase := .written 0 0 }

/-- Form the rows of a frame or strip that lie below image line `upTo`, and finish it after its last row. -/
def advanceFrame (n : Fin 16) (upTo : Nat) (key : Nat) (s : State) : State :=
  match frameOf (s.pipe n) key with
  | none => s
  | some f =>
    let h := frameHeight (s.pipe n).cfg.live
    let stop_ := min h (upTo - key)
    let s1 := foldState (formRow n key) ((List.range (stop_ - f.formed)).map fun i => f.formed + i) s
    if h ≤ stop_ then finishFrame n key s1 else s1

/-- Form what the lines received allow in every frame and strip in progress. -/
def advanceAll (n : Fin 16) (upTo : Nat) (s : State) : State :=
  foldState (advanceFrame n upTo) ((s.pipe n).frames.map fun f => f.firstLine) s

/-- R302: the frames and strips in progress end now: missing lines are 0. -/
def endFrames (n : Fin 16) (more : OpenFrame → OpenFrame) (s : State) : State :=
  let h := frameHeight (s.pipe n).cfg.live
  let close (f : OpenFrame) : OpenFrame :=
    if f.closed then f
    else { more (flagIf (decide (f.received < h)) 1 f.received f) with tEnd := s.time, closed := true }
  let s1 := s.updPipe n fun p => { p with frames := p.frames.map close }
  advanceAll n (lastOpenLine (s1.pipe n)) s1

/-! ### Claims (R36, R37, R317, R322) -/

/-- A frame or strip starts: the oldest pending capture claims it, or it is discarded and counted; so is every one of a pipeline
that no parcel owns (R331). -/
def openFrame (n : Fin 16) (key index : Nat) (frameNo : BitVec 16) (s : State) : State :=
  let p := s.pipe n
  let c := p.cfg.live
  let base : OpenFrame :=
    { claim := none, number := p.received + 1, index := index, frameNo := frameNo, firstLine := key
      discardedBefore := 0, crop := (0, 0, 0, 0), flags := 0, tStart := s.time, tEnd := 0, received := 0, crcLines := 0
      firstBad := 0xFFFFFFFF, eccCorr := 0, formed := 0, closed := false }
  match if p.owner.isSome then p.pendingCaptures else [] with
  | [] => s.updPipe n fun p => { p with
      received := p.received + 1, rxState := 3, discarded := satInc p.discarded 1, sinceClaim := p.sinceClaim + 1
      frames := p.frames ++ [base] }
  | r :: rest =>
    let params := match s.cmd r.queue r.seq with
      | none => []
      | some cmd => cmd.params
    let crop := clipCrop params c.width.toNat (frameHeight c)
    let f := { base with claim := some r, discardedBefore := p.sinceClaim, crop := crop.1 }
    s.updPipe n fun p => { p with
      received := p.received + 1, rxState := 3, sinceClaim := 0, pendingCaptures := rest
      frames := p.frames ++ [if crop.2 then flagOnly 9 f else f] }

/-- R300: a corrected header is counted, in the frames in progress too. -/
def countCorrected (n : Fin 16) (corrected : Bool) (s : State) : State :=
  if !corrected then s
  else s.updPipe n fun p => { p with
    eccCorr := p.eccCorr + 1
    frames := p.frames.map fun f => if f.closed then f else { f with eccCorr := f.eccCorr + 1 } }

/-! ### The rows of the table -/

/-- A packet that the receiver discards (R299, R315), with a corrected header counted (R300). -/
def otherPacket (n : Fin 16) (corrected : Bool) (s : State) : State :=
  countCorrected n corrected (s.updPipe n fun p => { p with otherPkt := p.otherPkt + 1 })

/-- FRAME_START: of another virtual channel, or in strip mode, only counted (R299, R315); in area mode the frame in progress ends,
the waiting configuration is applied and a new frame starts (R36, R302, R330). -/
def stepFrameStart (n : Fin 16) (vc : BitVec 4) (frame : BitVec 16) (corrected : Bool) (s : State) : State :=
  let live := (s.pipe n).cfg.live
  if live.vc ≠ vc ∨ live.strip then otherPacket n corrected s
  else
    let s1 := pipeApply n (endFrames n (flagOnly 5) s)
    if (s1.pipe n).cfg.live.strip then otherPacket n corrected s1
    else
      let s2 := s1.updPipe n fun p => { p with lines := [], base := 0, lineCount := 0 }
      countCorrected n corrected (openFrame n 0 0 frame s2)

/-- FRAME_START. -/
def execFrameStart (n : Fin 16) (vc : BitVec 4) (frame : BitVec 16) (corrected : Bool) (s : State) :
    Host.Outcome State Fault Refusal := answer (stepFrameStart n vc frame corrected) s

/-- FRAME_END: of another virtual channel, or in strip mode, only counted; in area mode the frame ends and its last rows are formed
(R302, R324, R325). -/
def stepFrameEnd (n : Fin 16) (vc : BitVec 4) (corrected : Bool) (s : State) : State :=
  let live := (s.pipe n).cfg.live
  if live.vc ≠ vc ∨ live.strip then otherPacket n corrected s
  else (endFrames n (fun f => f) (countCorrected n corrected s)).updPipe n fun p => { p with rxState := 2 }

/-- FRAME_END. -/
def execFrameEnd (n : Fin 16) (vc : BitVec 4) (corrected : Bool) (s : State) : Host.Outcome State Fault Refusal :=
  answer (stepFrameEnd n vc corrected) s

/-- Bits of a RAW sample (Table 8.1). -/
def rawBits (dt : BitVec 6) : Nat :=
  match dt.toNat with
  | 0x2A => 8
  | 0x2B => 10
  | 0x2C => 12
  | 0x2D => 14
  | _ => 16

/-- Samples that CSI-2 packs together, the bytes they take, and the low bits of each that follow their high bytes. -/
def rawGroup (bits : Nat) : Nat × Nat × Nat :=
  match bits with
  | 10 => (4, 5, 2)
  | 12 => (2, 3, 4)
  | 14 => (4, 7, 6)
  | 16 => (1, 2, 8)
  | _ => (1, 1, 0)

/-- R301: the samples of a payload, packed as CSI-2 defines (PRESUMED, log 47): in each group the high 8 bits of every sample, a
byte each, and then their low bits, the first sample's lowest. -/
def unpackRaw (bits : Nat) (payload : List Byte) : List Nat :=
  let g := rawGroup bits
  (List.range (payload.length / g.2.1 * g.1)).map fun k =>
    let at_ := k / g.1 * g.2.1
    let low := fieldNat payload (at_ + g.1) (g.2.1 - g.1)
    fieldNat payload (at_ + k % g.1) 1 * 2 ^ g.2.2 + bitsOf low (k % g.1 * g.2.2) g.2.2

/-- R301: the samples of a packet, each shifted to 16 bits. -/
def packetSamples (c : PipeCfg) (pkt : LongPacket) : List Nat :=
  let n := rawBits c.dt
  (unpackRaw n pkt.payload).map fun v => v * 2 ^ (16 - n)

/-- Table 8.2: a line of exactly WIDTH samples. -/
def lineSamples (c : PipeCfg) (l : List Nat) : List Nat :=
  l.take c.width.toNat ++ List.replicate (c.width.toNat - l.length) 0

/-- The lines of the raw store that rows still to be formed can need. -/
def keptLines : Nat := 12

/-- R324: the rows that may be formed once a number of lines has come: row y two lines later. Row 0 waits for line 3, which its
window reads in place of line −1 (R308). -/
def rowsReady (received : Nat) : Nat := if received < 4 then 0 else received - 2

/-- Add a line to the raw store. -/
def pushLine (c : PipeCfg) (pkt : LongPacket) (now : Long) (p : Pipe) : Pipe :=
  let all := p.lines ++ [lineSamples c (packetSamples c pkt)]
  let k := all.length - keptLines
  { p with lines := all.drop k, base := p.base + k, lineCount := p.lineCount + 1, lastLineAt := now }

/-- What a line does to the record of a frame or strip it belongs to; `y` is its number there. -/
def noteLine (c : PipeCfg) (pkt : LongPacket) (y : Nat) (f : OpenFrame) : OpenFrame :=
  let w := c.width.toNat
  let got := (packetSamples c pkt).length
  let g := flagIf pkt.overflow 7 y (flagIf (decide (w < got)) 4 y
    (flagIf (pkt.overflow || decide (got < w)) 3 y (flagIf (!pkt.crcOk) 0 y f)))
  { g with received := g.received + 1, crcLines := g.crcLines + if pkt.crcOk then 0 else 1 }

/-- R300: what header ECC and CRC said of a packet that is used. -/
def countChecks (n : Fin 16) (pkt : LongPacket) (s : State) : State :=
  countCorrected n pkt.headerCorrected (s.updPipe n fun p => { p with crcLines := p.crcLines + if pkt.crcOk then 0 else 1 })

/-- A line in area mode (R302, R324); outside a frame it belongs to none. -/
def areaLine (n : Fin 16) (pkt : LongPacket) (s : State) : State :=
  let p := s.pipe n
  let c := p.cfg.live
  let s1 := countChecks n pkt s
  match frameOf p 0 with
  | none => s1
  | some f =>
    if c.height.toNat ≤ p.lineCount then
      updFrame n 0 (fun f => flagFrame 2 p.lineCount (flagIf (!pkt.crcOk) 0 p.lineCount
        { f with crcLines := f.crcLines + if pkt.crcOk then 0 else 1 })) s1
    else
      let s2 := updFrame n 0 (noteLine c pkt f.received) (s1.updPipe n (pushLine c pkt s.time))
      advanceAll n (min (c.height.toNat - 2) (rowsReady (p.lineCount + 1))) s2

/-- R330: at the start of a strip with no claimed strip open, the waiting configuration is applied. -/
def stripBoundary (n : Fin 16) (s : State) : State :=
  let p := s.pipe n
  if p.cfg.pending.isSome && !p.frames.any fun f => f.claim.isSome then pipeApply n s else s

/-- Does a strip start at a line: a multiple of H − O (R315)? -/
def stripStarts (c : PipeCfg) (line : Nat) : Bool := line % (c.stripHeight.toNat - c.overlap.toNat) = 0

/-- Does a strip hold a line? -/
def stripHolds (c : PipeCfg) (line : Nat) (f : OpenFrame) : Bool :=
  f.firstLine ≤ line && line < f.firstLine + c.stripHeight.toNat

/-- A line in strip mode, after a configuration that waited for it (R315 to R318, R324). -/
def stripLine (n : Fin 16) (pkt : LongPacket) (s : State) : State :=
  let p := s.pipe n
  let c := p.cfg.live
  let line := p.lineCount
  let h := c.stripHeight.toNat
  let s1 := if stripStarts c line then openFrame n line (line / (h - c.overlap.toNat)) 0 s else s
  let s2 := (countChecks n pkt s1).updPipe n fun p => { pushLine c pkt s.time p with
    rxState := 3
    frames := p.frames.map fun f =>
      if !stripHolds c line f then f
      else
        let g := noteLine c pkt (line - f.firstLine) f
        if line + 1 = f.firstLine + h then { g with tEnd := s.time, closed := true } else g }
  advanceAll n (rowsReady (line + 1)) s2

/-- LINE_PACKET: a long packet; one of another virtual channel or data type is discarded (R299). -/
def stepLinePacket (n : Fin 16) (pkt : LongPacket) (s : State) : State :=
  let c := (s.pipe n).cfg.live
  if c.vc ≠ pkt.vc ∨ c.dt ≠ pkt.dt then otherPacket n pkt.headerCorrected s
  else if !c.strip then areaLine n pkt s
  else
    let s1 := if stripStarts c (s.pipe n).lineCount then stripBoundary n s else s
    if (s1.pipe n).cfg.live.strip then stripLine n pkt s1 else areaLine n pkt s1

/-- LINE_PACKET. -/
def execLinePacket (n : Fin 16) (pkt : LongPacket) (s : State) : Host.Outcome State Fault Refusal :=
  answer (stepLinePacket n pkt) s

/-- OTHER_PACKET: a long packet is one like any other; a line start or end of the virtual channel is accepted and ignored (Table
8.1), another short packet discarded (R299); and a header that is lost is recorded (R300). -/
def stepOtherPacket (n : Fin 16) (kind : OtherPacket) (s : State) : State :=
  match kind with
  | .long pkt => stepLinePacket n pkt s
  | .short vc line corrected =>
    if line && (s.pipe n).cfg.live.vc = vc then countCorrected n corrected s else otherPacket n corrected s
  | .headerLost => s.updPipe n fun p => { p with
      frames := p.frames.map fun f => if f.closed then f else flagOnly 8 f }

/-- OTHER_PACKET. -/
def execOtherPacket (n : Fin 16) (kind : OtherPacket) (s : State) : Host.Outcome State Fault Refusal :=
  answer (stepOtherPacket n kind) s

/-- FRAME_TIMEOUT: the frame or the open strips end (R302, R318); 0 disables the timeout. -/
def stepFrameTimeout (n : Fin 16) (s : State) : State :=
  let c := (s.pipe n).cfg.live
  if c.timeout = 0 ∨ (s.pipe n).frames.isEmpty then s
  else
    let s1 := (endFrames n (fun f => if c.strip then flagOnly 1 (flagOnly 6 f) else flagOnly 6 f) s).updPipe n
      fun p => { p with rxState := 2 }
    if c.strip then s1.updPipe n fun p => { p with frames := [], lines := [], base := 0, lineCount := 0 } else s1

/-- FRAME_TIMEOUT. -/
def execFrameTimeout (n : Fin 16) (s : State) : Host.Outcome State Fault Refusal := answer (stepFrameTimeout n) s

/-- WAIT_LIMIT of a pending capture, µs. -/
def waitLimit (s : State) (r : CaptureRef) : Nat :=
  match s.cmd r.queue r.seq with
  | none => 0
  | some c => fieldNat c.params 12 4

/-- The pending capture whose limit runs out first. -/
def firstExpiry (s : State) : List CaptureRef → Option CaptureRef
  | [] => none
  | r :: rest =>
    match firstExpiry s rest with
    | none => if waitLimit s r = 0 then none else some r
    | some b =>
      if waitLimit s r ≠ 0 ∧ r.arrived.toNat + 1000 * waitLimit s r ≤ b.arrived.toNat + 1000 * waitLimit s b then some r
      else some b

/-- CAPTURE_TIMEOUT: a pending capture leaves its pipeline and ends, having written nothing (R326). -/
def stepCaptureTimeout (n : Fin 16) (s : State) : State :=
  if s.safety.safe then s
  else match firstExpiry s (s.pipe n).pendingCaptures with
  | none => s
  | some r =>
    endCmd r.queue r.seq 0x26 (dataI n.val 0) (s.updPipe n fun p => { p with
      pendingCaptures := p.pendingCaptures.filter fun x => !(x.queue = r.queue && x.seq = r.seq) })

/-- CAPTURE_TIMEOUT. -/
def execCaptureTimeout (n : Fin 16) (s : State) : Host.Outcome State Fault Refusal := answer (stepCaptureTimeout n) s

/-- The state that a receiver returns to: in a frame or strip, or receiving. -/
def rxResume (p : Pipe) : Pipe := { p with rxState := if p.frames.isEmpty then 2 else 3 }

/-- ULPS_ENTRY. -/
def execUlpsEntry (n : Fin 16) (s : State) : Host.Outcome State Fault Refusal :=
  answer (fun s => s.updPipe n fun p => { p with rxState := 1 }) s

/-- ULPS_EXIT. -/
def execUlpsExit (n : Fin 16) (s : State) : Host.Outcome State Fault Refusal :=
  answer (fun s => s.updPipe n rxResume) s

/-- DESKEW_SEQUENCE. -/
def execDeskewSequence (n : Fin 16) (s : State) : Host.Outcome State Fault Refusal :=
  answer (fun s => s.updPipe n fun p => rxResume { p with deskewed := true }) s

end Sys2Proof.Machine
end

