-- ==== Sys2Proof/Machine/Jpeg.lean ====
section
/-! DEFINITION. The Intake's JPEG decoder: the baseline subset of ITU-T T.81 that R337 supports, with the transform of
R340 and the colour conversion of R341. -/

namespace Sys2Proof.Machine

/-- Why a sample does not decode (Table 9.3); `noPixels` is the UNSUPPORTED of R338, a declared size of 0. -/
inductive JpegErr where
  | syntaxError
  | truncated
  | unsupported
  | noPixels
  deriving DecidableEq, Repr

/-- STATUS of a result record. -/
def JpegErr.code : JpegErr → Nat
  | .syntaxError => 1
  | .truncated => 2
  | .unsupported => 3
  | .noPixels => 3

/-- A Huffman table: the number of codes of each length from 1 to 16, and the symbols in order. -/
structure Huffman where
  counts : List Nat
  symbols : List Nat
  deriving DecidableEq, Repr

/-- A component of the frame. -/
structure JpegComp where
  id : Nat
  h : Nat
  v : Nat
  tq : Nat
  deriving DecidableEq, Repr

/-- A frame header. -/
structure JpegFrame where
  width : Nat
  height : Nat
  comps : List JpegComp
  deriving DecidableEq, Repr

/-- A decoded block of 64 coefficients in zigzag order, of a component at a block position. -/
structure JpegBlock where
  comp : Nat
  bx : Nat
  by_ : Nat
  coefs : List Int
  deriving DecidableEq, Repr

/-- What the marker segments read so far hold. -/
structure JpegTables where
  quant : List (Nat × List Nat) := []
  dc : List (Nat × Huffman) := []
  ac : List (Nat × Huffman) := []
  restart : Nat := 0
  frame : Option JpegFrame := none
  blocks : List JpegBlock := []
  scanned : List Nat := []
  deriving DecidableEq, Repr

/-- Big-endian pair of bytes. -/
def bePair (l : List Byte) (i : Nat) : Nat := (byteAt l i).toNat * 256 + (byteAt l (i + 1)).toNat

/-- The first value with a key. -/
def findKey {α : Type} (l : List (Nat × α)) (k : Nat) : Option α := (l.find? fun x => decide (x.1 = k)).map fun x => x.2

/-! ### Segments -/

/-- Is a Huffman table one whose codes fit their lengths? -/
def huffmanOk (counts : List Nat) : Bool :=
  (counts.foldl (fun (acc : Nat × Bool) c => (2 * acc.1 - c, acc.2 && decide (c ≤ 2 * acc.1))) (1, true)).2

/-- DQT: 8-bit tables; a 16-bit table belongs to 12-bit precision (R337). -/
def parseDqt : Nat → List Byte → JpegTables → Except JpegErr JpegTables
  | 0, _, t => .ok t
  | fuel + 1, l, t =>
    match l with
    | [] => .ok t
    | b :: rest =>
      let q := (rest.take 64).map fun x => x.toNat
      if 2 ≤ b.toNat / 16 ∨ 4 ≤ b.toNat % 16 then .error .syntaxError
      else if 16 ≤ b.toNat then .error .unsupported
      else if rest.length < 64 ∨ q.contains 0 then .error .syntaxError
      else parseDqt fuel (rest.drop 64) { t with quant := (b.toNat, q) :: t.quant }

/-- DHT: tables 0 and 1 of each class; tables 2 and 3 belong to the extended and progressive processes (R337). -/
def parseDht : Nat → List Byte → JpegTables → Except JpegErr JpegTables
  | 0, _, t => .ok t
  | fuel + 1, l, t =>
    match l with
    | [] => .ok t
    | b :: rest =>
      let counts := (rest.take 16).map fun x => x.toNat
      let n := counts.foldl (· + ·) 0
      let syms := ((rest.drop 16).take n).map fun x => x.toNat
      let k := b.toNat % 16
      if 2 ≤ b.toNat / 16 ∨ 4 ≤ k ∨ rest.length < 16 + n ∨ 256 < n ∨ !huffmanOk counts then .error .syntaxError
      else if 2 ≤ k then .error .unsupported
      else
        let h : Huffman := { counts := counts, symbols := syms }
        parseDht fuel (rest.drop (16 + n))
          (if b.toNat < 16 then { t with dc := (k, h) :: t.dc } else { t with ac := (k, h) :: t.ac })

/-- Are the sampling factors those of R337? -/
def samplingOk : List JpegComp → Bool
  | [c] => 1 ≤ c.h && c.h ≤ 4 && 1 ≤ c.v && c.v ≤ 4
  | [y, b, r] => ((y.h = 1 && y.v = 1) || (y.h = 2 && y.v = 1) || (y.h = 2 && y.v = 2)) &&
      b.h = 1 && b.v = 1 && r.h = 1 && r.v = 1
  | _ => false

/-- Is a frame header malformed: its length, an identifier named twice, or a factor or table number outside T.81's range? -/
def sofBad (l : List Byte) (comps : List JpegComp) : Bool :=
  comps.isEmpty || l.length ≠ 6 + 3 * comps.length || (comps.map fun c => c.id).eraseDups.length ≠ comps.length ||
    comps.any fun c => c.h = 0 || 4 < c.h || c.v = 0 || 4 < c.v || 3 < c.tq

/-- X and Y of a frame header that has been read. -/
def sofSize (l : List Byte) : Nat × Nat := if l.length < 6 then (0, 0) else (bePair l 3, bePair l 1)

/-- SOF0. -/
def parseSof (l : List Byte) (t : JpegTables) : Except JpegErr JpegTables :=
  let comps := (List.range (byteAt l 5).toNat).map fun i =>
    let f (k : Nat) : Nat := (byteAt l (6 + 3 * i + k)).toNat
    ({ id := f 0, h := f 1 / 16, v := f 1 % 16, tq := f 2 } : JpegComp)
  if t.frame.isSome ∨ sofBad l comps then .error .syntaxError
  else if (byteAt l 0).toNat ≠ 8 ∨ !samplingOk comps then .error .unsupported
  else if bePair l 1 = 0 ∨ bePair l 3 = 0 then .error .noPixels
  else .ok { t with frame := some { width := bePair l 3, height := bePair l 1, comps := comps } }

/-! ### Entropy-coded segments -/

/-- An error in entropy-coded data, with the number of bytes not yet read. -/
abbrev ScanErr := JpegErr × Nat

/-- A bit reader: the bytes to come, and the bits of the current byte still to be read with their number. -/
structure BitReader where
  rest : List Byte
  cur : Nat
  left : Nat
  deriving DecidableEq, Repr

/-- Read one bit; a marker or the end of the data ends the segment. -/
def BitReader.bit (r : BitReader) : Except ScanErr (Nat × BitReader) :=
  match r.left with
  | k + 1 => .ok (r.cur / 2 ^ k % 2, { r with left := k })
  | 0 =>
    match r.rest with
    | [] => .error (.truncated, 0)
    | b :: more =>
      if b = 0xFF then
        match more with
        | [] => .error (.truncated, 0)
        | m :: more2 =>
          if m = 0 then .ok (1, { rest := more2, cur := 255, left := 7 })
          else .error (if m = 0xD9 then .truncated else .syntaxError, r.rest.length)
      else .ok (b.toNat / 128, { rest := more, cur := b.toNat, left := 7 })

/-- Read `n` bits, most significant first. -/
def BitReader.bits : Nat → Nat → BitReader → Except ScanErr (Nat × BitReader)
  | 0, acc, r => .ok (acc, r)
  | n + 1, acc, r =>
    match r.bit with
    | .error e => .error e
    | .ok (b, r1) => BitReader.bits n (2 * acc + b) r1

/-- Read a Huffman symbol: code so far, first code and first index of the length at hand. -/
def huffSymbol (h : Huffman) : List Nat → Nat → Nat → Nat → BitReader → Except ScanErr (Nat × BitReader)
  | [], _, _, _, r => .error (.syntaxError, r.rest.length)
  | c :: rest, code, first, index, r =>
    match r.bit with
    | .error e => .error e
    | .ok (b, r1) =>
      let code1 := 2 * code + b
      if code1 < first + c ∧ first ≤ code1 then .ok (h.symbols.getD (index + (code1 - first)) 0, r1)
      else huffSymbol h rest code1 (2 * (first + c)) (index + c) r1

/-- Read one symbol of a table. -/
def readSymbol (h : Huffman) (r : BitReader) : Except ScanErr (Nat × BitReader) := huffSymbol h h.counts 0 0 0 r

/-- EXTEND of T.81. -/
def extendBits (n v : Nat) : Int := if n = 0 then 0 else if v < 2 ^ (n - 1) then (v : Int) - (2 ^ n : Nat) + 1 else v

/-- The 63 AC coefficients from index k on, in zigzag order. -/
def acCoefs (h : Huffman) : Nat → Nat → BitReader → Except ScanErr (List (Nat × Int) × BitReader)
  | 0, _, r => .ok ([], r)
  | fuel + 1, k, r =>
    if 64 ≤ k then .ok ([], r)
    else match readSymbol h r with
    | .error e => .error e
    | .ok (rs, r1) =>
      let run := rs / 16
      let size := rs % 16
      if size = 0 then
        if run = 15 then (if 64 < k + 16 then .error (.syntaxError, r1.rest.length) else acCoefs h fuel (k + 16) r1)
        else if run = 0 then .ok ([], r1)
        else .error (.syntaxError, r1.rest.length)
      else if 10 < size ∨ 63 < k + run then .error (.syntaxError, r1.rest.length)
      else match BitReader.bits size 0 r1 with
      | .error e => .error e
      | .ok (v, r2) =>
        match acCoefs h fuel (k + run + 1) r2 with
        | .error e => .error e
        | .ok (l, r3) => .ok ((k + run, extendBits size v) :: l, r3)

/-- One block: its coefficients and the new DC prediction. -/
def readBlock8 (dc ac : Huffman) (pred : Int) (r : BitReader) : Except ScanErr (List Int × Int × BitReader) :=
  match readSymbol dc r with
  | .error e => .error e
  | .ok (t, r1) =>
    if 11 < t then .error (.syntaxError, r1.rest.length)
    else match BitReader.bits t 0 r1 with
    | .error e => .error e
    | .ok (v, r2) =>
      match acCoefs ac 64 1 r2 with
      | .error e => .error e
      | .ok (l, r3) =>
        let d := pred + extendBits t v
        .ok (d :: (List.range 63).map (fun k => (findKey l (k + 1)).getD 0), d, r3)

/-- A component as a scan codes it: its index, blocks per MCU across and down, and its tables. -/
structure ScanComp where
  comp : Nat
  h : Nat
  v : Nat
  dc : Huffman
  ac : Huffman
  deriving DecidableEq, Repr

/-- The blocks of one component in one MCU, at block offsets. -/
def compBlocks (c : ScanComp) (mx my : Nat) :
    List (Nat × Nat) → Int → BitReader → Except ScanErr (List JpegBlock × Int × BitReader)
  | [], pred, r => .ok ([], pred, r)
  | o :: rest, pred, r =>
    match readBlock8 c.dc c.ac pred r with
    | .error e => .error e
    | .ok (coefs, p1, r1) =>
      match compBlocks c mx my rest p1 r1 with
      | .error e => .error e
      | .ok (l, p2, r2) => .ok ({ comp := c.comp, bx := mx * c.h + o.1, by_ := my * c.v + o.2, coefs := coefs } :: l, p2, r2)

/-- Block offsets of an MCU. -/
def blockOffsets (h v : Nat) : List (Nat × Nat) := (List.range v).flatMap fun y => (List.range h).map fun x => (x, y)

/-- One MCU: its components in order, with their DC predictions. -/
def readMcu (mx my : Nat) : List ScanComp → List Int → BitReader → Except ScanErr (List JpegBlock × List Int × BitReader)
  | [], _, r => .ok ([], [], r)
  | c :: rest, preds, r =>
    match compBlocks c mx my (blockOffsets c.h c.v) (preds.headD 0) r with
    | .error e => .error e
    | .ok (l, p, r1) =>
      match readMcu mx my rest (preds.drop 1) r1 with
      | .error e => .error e
      | .ok (l2, ps, r2) => .ok (l ++ l2, p :: ps, r2)

/-- Skip fill bytes before a marker. -/
def skipFill : List Byte → List Byte
  | b :: c :: rest => if b = 0xFF ∧ c = 0xFF then skipFill (c :: rest) else b :: c :: rest
  | l => l

/-- A restart marker with a number from 0 to 7 (R346). -/
def takeRestart (n : Nat) (l : List Byte) : Except ScanErr (List Byte) :=
  match skipFill l with
  | b :: m :: rest =>
    if b = 0xFF ∧ m.toNat = 0xD0 + n then .ok rest
    else .error (if b = 0xFF ∧ m = 0xD9 then .truncated else .syntaxError, l.length)
  | _ => .error (.truncated, 0)

/-- An error of a scan: its kind, the bytes not read at the start of the MCU that it lies in and where it was found, and the MCUs
read before it. -/
structure ScanFail where
  kind : JpegErr
  first : Nat
  last : Nat
  mcus : Nat
  deriving DecidableEq, Repr

/-- The MCUs of a scan, `m` the number read so far. -/
def readMcus (comps : List ScanComp) (restart across : Nat) :
    Nat → Nat → List Int → BitReader → Except ScanFail (List JpegBlock × List Byte)
  | 0, _, _, r => .ok ([], r.rest)
  | n + 1, m, preds, r =>
    let ready : Except ScanErr (List Int × BitReader) :=
      if restart ≠ 0 ∧ m ≠ 0 ∧ m % restart = 0 then
        (takeRestart ((m / restart - 1) % 8) r.rest).map fun l => ([], { rest := l, cur := 0, left := 0 })
      else .ok (preds, r)
    match ready with
    | .error e => .error { kind := e.1, first := r.rest.length, last := e.2, mcus := m }
    | .ok (ps, r0) =>
      match readMcu (m % across) (m / across) comps ps r0 with
      | .error e => .error { kind := e.1, first := r.rest.length, last := e.2, mcus := m }
      | .ok (l, ps1, r1) =>
        match readMcus comps restart across n (m + 1) ps1 r1 with
        | .error e => .error e
        | .ok (l2, rest) => .ok (l ++ l2, rest)

/-- Largest sampling factors of a frame. -/
def maxSampling (f : JpegFrame) : Nat × Nat :=
  (f.comps.foldl (fun m c => max m c.h) 1, f.comps.foldl (fun m c => max m c.v) 1)

/-- A component's entry in a scan header. -/
def scanComp (t : JpegTables) (f : JpegFrame) (alone : Bool) (cs tables : Nat) : Except JpegErr ScanComp :=
  match f.comps.findIdx? fun c => decide (c.id = cs) with
  | none => .error .syntaxError
  | some i =>
    match f.comps[i]?, findKey t.dc (tables / 16), findKey t.ac (tables % 16) with
    | some c, some d, some a =>
      if t.scanned.contains i ∨ (findKey t.quant c.tq).isNone then .error .syntaxError
      else .ok { comp := i, h := if alone then 1 else c.h, v := if alone then 1 else c.v, dc := d, ac := a }
    | _, _, _ => .error .syntaxError

/-- Collect results until one fails. -/
def mapJpeg {α β : Type} (f : α → Except JpegErr β) : List α → Except JpegErr (List β)
  | [] => .ok []
  | x :: rest =>
    match f x with
    | .error e => .error e
    | .ok y => (mapJpeg f rest).map fun l => y :: l

/-- Dequantise the blocks of a scan: the tables in force are those of the scan. -/
def dequantise (t : JpegTables) (f : JpegFrame) (b : JpegBlock) : JpegBlock :=
  let q := (f.comps[b.comp]?.bind fun c => findKey t.quant c.tq).getD []
  { b with coefs := List.zipWith (fun (x : Int) (y : Nat) => x * y) b.coefs q }

/-- What a failed decode leaves known (R346, R348, R353): the status, the bytes not read at the start of the segment or MCU that the
error lies in and where it was found, the declared size once read, and the pixels decoded. -/
structure JpegFail where
  kind : JpegErr
  first : Nat
  last : Nat
  size : Nat × Nat
  pixels : Nat
  deriving DecidableEq, Repr

/-- Size of the frame read so far. -/
def frameSize (t : JpegTables) : Nat × Nat :=
  match t.frame with
  | none => (0, 0)
  | some f => (f.width, f.height)

/-- Are the components of a scan in the order of the frame, each once (T.81 B.2.3)? -/
def scanOrdered : List ScanComp → Bool
  | a :: b :: rest => decide (a.comp < b.comp) && scanOrdered (b :: rest)
  | _ => true

/-- The header of a scan: its components, or the error in it. -/
def scanHeader (l : List Byte) (t : JpegTables) (f : JpegFrame) : Except JpegErr (List ScanComp) :=
  let n := (byteAt l 0).toNat
  if n = 0 ∨ 3 < n ∨ l.length ≠ 4 + 2 * n ∨ byteAt l (1 + 2 * n) ≠ 0 ∨ byteAt l (2 + 2 * n) ≠ 63 ∨
      byteAt l (3 + 2 * n) ≠ 0 then .error .syntaxError
  else match mapJpeg (fun i => scanComp t f (n = 1) (byteAt l (1 + 2 * i)).toNat (byteAt l (2 + 2 * i)).toNat)
      (List.range n) with
  | .error e => .error e
  | .ok comps => if scanOrdered comps then .ok comps else .error .syntaxError

/-- MCUs across and down of a scan, and the pixels that an MCU spans each way. -/
def scanGrid (f : JpegFrame) (comps : List ScanComp) : (Nat × Nat) × Nat × Nat :=
  let m := maxSampling f
  let up (a b : Nat) : Nat := (a + b - 1) / b
  match comps with
  | [x] =>
    match f.comps[x.comp]? with
    | none => ((0, 0), 8, 8)
    | some c => ((up (up (f.width * c.h) m.1) 8, up (up (f.height * c.v) m.2) 8), 8 * m.1 / c.h, 8 * m.2 / c.v)
  | _ => ((up f.width (8 * m.1), up f.height (8 * m.2)), 8 * m.1, 8 * m.2)

/-- Pixels of the picture that the first MCUs of a grid cover. -/
def mcuPixels (f : JpegFrame) (g : (Nat × Nat) × Nat × Nat) (n : Nat) : Nat :=
  (List.range n).foldl (fun acc m =>
    acc + min g.2.1 (f.width - m % g.1.1 * g.2.1) * min g.2.2 (f.height - m / g.1.1 * g.2.2)) 0

/-- SOS: header and entropy-coded data, `first` the bytes not read at its marker; the answer holds the data after it. A pixel counts
as decoded in the scan that brings its last component. -/
def readScan (first : Nat) (l data : List Byte) (t : JpegTables) : Except JpegFail (JpegTables × List Byte) :=
  let stop (e : JpegErr) : JpegFail := { kind := e, first := first, last := data.length, size := frameSize t, pixels := 0 }
  match t.frame with
  | none => .error (stop .syntaxError)
  | some f =>
    match scanHeader l t f with
    | .error e => .error (stop e)
    | .ok comps =>
      let g := scanGrid f comps
      match readMcus comps t.restart g.1.1 (g.1.1 * g.1.2) 0 [] { rest := data, cur := 0, left := 0 } with
      | .error e => .error
          { kind := e.kind, first := e.first, last := e.last, size := frameSize t
            pixels := if t.scanned.length + comps.length = f.comps.length then mcuPixels f g e.mcus else 0 }
      | .ok (blocks, rest) =>
        .ok ({ t with blocks := t.blocks ++ blocks.map (dequantise t f),
                      scanned := t.scanned ++ comps.map fun c => c.comp }, rest)

/-! ### Markers -/

/-- Is the marker a feature that R337 leaves unsupported: a frame type but SOF0, DAC, DNL, DHP, EXP, JPGn? -/
def unsupportedMarker (m : Nat) : Bool :=
  (0xC1 ≤ m && m ≤ 0xCF && m ≠ 0xC4) || m = 0xDC || m = 0xDE || m = 0xDF || (0xF0 ≤ m && m ≤ 0xFD)

/-- Read one segment that is no scan. -/
def readSegment (m : Nat) (l : List Byte) (t : JpegTables) : Except JpegErr JpegTables :=
  if m = 0xDB then parseDqt 256 l t
  else if m = 0xC4 then parseDht 4096 l t
  else if m = 0xC0 then parseSof l t
  else if m = 0xDD then (if l.length = 2 then .ok { t with restart := bePair l 0 } else .error .syntaxError)
  else if (0xE0 ≤ m ∧ m ≤ 0xEF) ∨ m = 0xFE then .ok t
  else if unsupportedMarker m then .error .unsupported
  else .error .syntaxError

/-- Have all components of the frame been decoded? -/
def allScanned (t : JpegTables) : Bool :=
  match t.frame with
  | none => false
  | some f => t.scanned.length = f.comps.length

/-- Pixels decoded when markers are read: all of them once every component has come. -/
def pixelsSoFar (t : JpegTables) : Nat := if allScanned t then (frameSize t).1 * (frameSize t).2 else 0

/-- Read markers to the end of the image, or to the first SOS when `header` is set; the answer holds the bytes not read. -/
def readMarkers (header : Bool) : Nat → List Byte → JpegTables → Except JpegFail (JpegTables × Nat)
  | 0, l, t => .error { kind := .truncated, first := l.length, last := 0, size := frameSize t, pixels := pixelsSoFar t }
  | fuel + 1, l, t =>
    let stop (e : JpegErr) (last : Nat) : JpegFail :=
      { kind := e, first := l.length, last := last, size := frameSize t, pixels := pixelsSoFar t }
    match skipFill l with
    | b :: m :: rest =>
      if b ≠ 0xFF then .error (stop .syntaxError l.length)
      else if m = 0xD9 then
        if allScanned t then .ok (t, rest.length) else .error (stop .truncated rest.length)
      else if m.toNat < 0xC0 ∨ (0xD0 ≤ m.toNat ∧ m.toNat ≤ 0xD8) then .error (stop .syntaxError rest.length)
      else if rest.length < 2 then .error (stop .truncated 0)
      else
        let n := bePair rest 0
        if n < 2 then .error (stop .syntaxError rest.length)
        else if rest.length < n then .error (stop .truncated 0)
        else
          let seg := (rest.take n).drop 2
          let after := rest.drop n
          if m = 0xDA then
            if header then (if t.frame.isSome then .ok (t, l.length) else .error (stop .syntaxError after.length))
            else match readScan l.length seg after t with
            | .error e => .error e
            | .ok (t1, rest1) => readMarkers header fuel rest1 t1
          else match readSegment m.toNat seg t with
          | .error e => .error
              { stop e after.length with size := if m = 0xC0 ∧ t.frame.isNone then sofSize seg else frameSize t }
          | .ok t1 => readMarkers header fuel after t1
    | _ => .error (stop .truncated 0)

/-- Read a sample's markers after its SOI. -/
def readJpeg (header : Bool) (l : List Byte) : Except JpegFail (JpegTables × Nat) :=
  let stop (e : JpegErr) (last : Nat) : JpegFail := { kind := e, first := l.length, last := last, size := (0, 0), pixels := 0 }
  match l with
  | a :: b :: rest =>
    if a = 0xFF ∧ b = 0xD8 then readMarkers header (l.length + 1) rest {} else .error (stop .syntaxError rest.length)
  | _ => .error (stop .truncated 0)

/-! ### The transform (R340) -/

/-- 8,192 × cos(kπ/16), rounded, for k = 0 to 8. -/
def cosTable (k : Nat) : Int :=
  match k with
  | 0 => 8192
  | 1 => 8035
  | 2 => 7568
  | 3 => 6811
  | 4 => 5793
  | 5 => 4551
  | 6 => 3135
  | 7 => 1598
  | _ => 0

/-- A[x][u]. -/
def idctA (x u : Nat) : Int :=
  if u = 0 then 5793
  else
    let k := (2 * x + 1) * u % 32
    if k ≤ 8 then cosTable k else if k ≤ 16 then -cosTable (16 - k) else if k ≤ 24 then -cosTable (k - 16)
    else cosTable (32 - k)

/-- Round a quotient by a power of two, ties away from zero (R64). -/
def rndShift (v : Int) (k : Nat) : Int :=
  let q : Int := ((v.natAbs + 2 ^ k / 2) / 2 ^ k : Nat)
  if v < 0 then -q else q

/-- Zigzag place of the coefficient at row v and column u. -/
def zigzagPlace (v u : Nat) : Nat :=
  let d := v + u
  let before := if d ≤ 7 then d * (d + 1) / 2 else 64 - (15 - d) * (16 - d) / 2
  let first := if d ≤ 7 then 0 else d - 7
  before + if d % 2 = 0 then u - first else v - first

/-- The 64 samples of a block, row by row. -/
def idct (coefs : List Int) : List Nat :=
  let f (v u : Nat) : Int := coefs.getD (zigzagPlace v u) 0
  let t := (List.range 64).map fun i =>
    rndShift ((List.range 8).foldl (fun acc u => acc + idctA (i % 8) u * f (i / 8) u) 0) 11
  (List.range 64).map fun i =>
    let s := rndShift ((List.range 8).foldl (fun acc v => acc + idctA (i / 8) v * t.getD (8 * v + i % 8) 0) 0) 17 + 128
    (min 255 (max 0 s)).toNat

/-- A decoded picture: extents, whether it is grey, and its pixels row by row. -/
structure Picture where
  width : Nat
  height : Nat
  grey : Bool
  pixels : List (Nat × Nat × Nat)
  deriving DecidableEq, Repr

/-- Limit to 0 to 255. -/
def clip255 (v : Int) : Nat := (min 255 (max 0 v)).toNat

/-- R341: one pixel from YCbCr. -/
def ycbcr (y cb cr : Nat) : Nat × Nat × Nat :=
  let b : Int := (cb : Int) - 128
  let r : Int := (cr : Int) - 128
  (clip255 ((y : Int) + rndShift (91881 * r) 16), clip255 ((y : Int) - rndShift (22554 * b + 46802 * r) 16),
   clip255 ((y : Int) + rndShift (116130 * b) 16))

/-- The sample of a component at a position of its own grid. -/
def compSample (blocks : List (Nat × Nat × Nat × List Nat)) (comp x y : Nat) : Nat :=
  match blocks.find? fun b => decide (b.1 = comp) && decide (b.2.1 = x / 8) && decide (b.2.2.1 = y / 8) with
  | none => 0
  | some b => b.2.2.2.getD (8 * (y % 8) + x % 8) 0

/-- The picture of a whole sample. -/
def pictureOf (t : JpegTables) (f : JpegFrame) : Picture :=
  let blocks := t.blocks.map fun b => (b.comp, b.bx, b.by_, idct b.coefs)
  let m := maxSampling f
  let grey := f.comps.length = 1
  { width := f.width, height := f.height, grey := grey
    pixels := (List.range f.height).flatMap fun y => (List.range f.width).map fun x =>
      if grey then
        let v := compSample blocks 0 x y
        (v, v, v)
      else ycbcr (compSample blocks 0 x y) (compSample blocks 1 (x / m.1) (y / m.2)) (compSample blocks 2 (x / m.1) (y / m.2)) }

end Sys2Proof.Machine
end

