-- ==== Sys2Proof/Machine/JpegWrite.lean ====
section
/-! DEFINITION. The baseline JFIF file that JPEG_ENCODE writes (R363): the quantisation tables scaled by quality, the Huffman
tables of ITU-T T.81 Annex K (PRESUMED, log 48: the standard's, which the spec names and does not print), 4:2:0 MCUs and
restart intervals. What the forward transform makes of a block is a free value. -/

namespace Sys2Proof.Machine

/-! ### Tables -/

/-- The luma quantisation table of T.81 Annex K, row by row. -/
def annexLuma : List Nat :=
  [16, 11, 10, 16, 24, 40, 51, 61, 12, 12, 14, 19, 26, 58, 60, 55, 14, 13, 16, 24, 40, 57, 69, 56,
   14, 17, 22, 29, 51, 87, 80, 62, 18, 22, 37, 56, 68, 109, 103, 77, 24, 35, 55, 64, 81, 104, 113, 92,
   49, 64, 78, 87, 103, 121, 120, 101, 72, 92, 95, 98, 112, 100, 103, 99]

/-- The chroma quantisation table of T.81 Annex K. -/
def annexChroma : List Nat :=
  [17, 18, 24, 47] ++ List.replicate 4 99 ++ [18, 21, 26, 66] ++ List.replicate 4 99 ++ [24, 26, 56] ++
    List.replicate 5 99 ++ [47, 66] ++ List.replicate 38 99

/-- R363: a table scaled by quality. -/
def scaleQuant (q : Nat) (t : List Nat) : List Nat :=
  let sc := if q < 50 then 5000 / q else 200 - 2 * q
  t.map fun x => min 255 (max 1 ((x * sc + 50) / 100))

/-- A table in zigzag order. -/
def toZigzag (t : List Nat) : List Nat :=
  (List.range 64).map fun k =>
    match (List.range 64).find? fun i => decide (zigzagPlace (i / 8) (i % 8) = k) with
    | none => 0
    | some i => t.getD i 0

/-- Annex K, DC luma. -/
def dcLuma : Huffman := { counts := [0, 1, 5, 1, 1, 1, 1, 1, 1] ++ List.replicate 7 0, symbols := List.range 12 }

/-- Annex K, DC chroma. -/
def dcChroma : Huffman := { counts := [0, 3] ++ List.replicate 9 1 ++ List.replicate 5 0, symbols := List.range 12 }

/-- Run and size symbols of one run, sizes from `lo` to 10. -/
def runSymbols (run lo : Nat) : List Nat := (List.range (11 - lo)).map fun i => 16 * run + lo + i

/-- Annex K, AC luma. -/
def acLuma : Huffman :=
  { counts := [0, 2, 1, 3, 3, 2, 4, 3, 5, 5, 4, 4, 0, 0, 1, 125]
    symbols := [0x01, 0x02, 0x03, 0x00, 0x04, 0x11, 0x05, 0x12, 0x21, 0x31, 0x41, 0x06, 0x13, 0x51, 0x61, 0x07, 0x22, 0x71,
      0x14, 0x32, 0x81, 0x91, 0xA1, 0x08, 0x23, 0x42, 0xB1, 0xC1, 0x15, 0x52, 0xD1, 0xF0, 0x24, 0x33, 0x62, 0x72, 0x82] ++
      runSymbols 0 9 ++ runSymbols 1 6 ++ runSymbols 2 5 ++ runSymbols 3 4 ++ runSymbols 4 3 ++ runSymbols 5 3 ++
      runSymbols 6 3 ++ runSymbols 7 3 ++ runSymbols 8 3 ++ runSymbols 9 2 ++ runSymbols 10 2 ++ runSymbols 11 2 ++
      runSymbols 12 2 ++ runSymbols 13 2 ++ runSymbols 14 1 ++ runSymbols 15 1 }

/-- Annex K, AC chroma. -/
def acChroma : Huffman :=
  { counts := [0, 2, 1, 2, 4, 4, 3, 4, 7, 5, 4, 4, 0, 1, 2, 119]
    symbols := [0x00, 0x01, 0x02, 0x03, 0x11, 0x04, 0x05, 0x21, 0x31, 0x06, 0x12, 0x41, 0x51, 0x07, 0x61, 0x71, 0x13, 0x22,
      0x32, 0x81, 0x08, 0x14, 0x42, 0x91, 0xA1, 0xB1, 0xC1, 0x09, 0x23, 0x33, 0x52, 0xF0, 0x15, 0x62, 0x72, 0xD1, 0x0A,
      0x16, 0x24, 0x34, 0xE1, 0x25, 0xF1] ++
      runSymbols 1 7 ++ runSymbols 2 6 ++ runSymbols 3 5 ++ runSymbols 4 3 ++ runSymbols 5 3 ++ runSymbols 6 3 ++
      runSymbols 7 3 ++ runSymbols 8 2 ++ runSymbols 9 2 ++ runSymbols 10 2 ++ runSymbols 11 2 ++ runSymbols 12 2 ++
      runSymbols 13 2 ++ runSymbols 14 2 ++ runSymbols 15 2 }

/-! ### Entropy coding -/

/-- Code and length of the symbol at an index: the counts left from a length on, the code next given and the symbols before. -/
def huffCode : List Nat → Nat → Nat → Nat → Nat → Nat × Nat
  | [], _, _, _, _ => (0, 0)
  | c :: rest, len, code, before, i =>
    if i < before + c then (code + (i - before), len) else huffCode rest (len + 1) (2 * (code + c)) (before + c) i

/-- The bits of a number, most significant first. -/
def bitsMsb (v n : Nat) : List Bool := (List.range n).map fun i => v.testBit (n - 1 - i)

/-- The bits of a symbol. -/
def symbolBits (h : Huffman) (sym : Nat) : List Bool :=
  let x := huffCode h.counts 1 0 0 (h.symbols.idxOf sym)
  bitsMsb x.1 x.2

/-- T.81's size of a coefficient: the bits of its magnitude. -/
def coefSize (v : Int) : Nat := if v = 0 then 0 else Nat.log2 v.natAbs + 1

/-- The further bits of a coefficient. -/
def coefBits (v : Int) : List Bool :=
  let n := coefSize v
  bitsMsb (if v < 0 then (v + (2 ^ n : Nat) - 1).toNat else v.toNat) n

/-- The bits of the AC coefficients of a block, `run` zeros before the list. -/
def acBits (h : Huffman) : Nat → List Int → List Bool
  | run, [] => if run = 0 then [] else symbolBits h 0
  | run, v :: rest =>
    if v = 0 then acBits h (run + 1) rest
    else (List.replicate (run / 16) (symbolBits h 0xF0)).flatten ++ symbolBits h (16 * (run % 16) + coefSize v) ++ coefBits v ++
      acBits h 0 rest

/-- The bits of a block and its DC value, after a DC prediction. -/
def blockBits (dc ac : Huffman) (pred : Int) (coefs : List Int) : List Bool × Int :=
  let d := coefs.headD 0
  (symbolBits dc (coefSize (d - pred)) ++ coefBits (d - pred) ++ acBits ac 0 ((coefs.drop 1).take 63), d)

/-- Bytes of entropy-coded bits: filled up with ones, a 0 after each 0xFF. -/
def stuffBits : Nat → List Bool → List Byte
  | 0, _ => []
  | fuel + 1, l =>
    if l.isEmpty then []
    else
      let v := (l.take 8 ++ List.replicate (8 - l.length) true).foldl (fun acc b => 2 * acc + if b then 1 else 0) 0
      (if v = 255 then [0xFF, 0x00] else [BitVec.ofNat 8 v]) ++ stuffBits fuel (l.drop 8)

/-! ### Blocks and MCUs -/

/-- A plane of bytes: width, height, and the bytes of its rows. -/
structure BytePlane where
  width : Nat
  height : Nat
  bytes : List Byte
  deriving DecidableEq, Repr

/-- The samples of the 8 × 8 block at a block position that the plane holds, row by row. -/
def BytePlane.block (p : BytePlane) (bx by_ : Nat) : List (List Byte) :=
  (List.range (min 8 (p.height - 8 * by_))).map fun y =>
    (p.bytes.drop ((8 * by_ + y) * p.width + 8 * bx)).take (min 8 (p.width - 8 * bx))

/-- The quantised coefficients of a block, in zigzag order and in the range that baseline coding can hold. -/
def codedBlock (quant : List Nat) (p : BytePlane) (bx by_ : Nat) : List Int :=
  let c := Config.forwardTransform quant (p.block bx by_)
  (List.range 64).map fun k => clampInt (-1023) 1023 (c.getD k 0)

/-- What an encoder of one picture holds: the two zigzag quantisation tables and the three planes. -/
structure JpegSource where
  lumaQ : List Nat
  chromaQ : List Nat
  y : BytePlane
  cb : BytePlane
  cr : BytePlane
  deriving DecidableEq, Repr

/-- The bits of blocks in order, with the DC prediction after them. -/
def blocksBits (dc ac : Huffman) : List (List Int) → Int → List Bool × Int
  | [], pred => ([], pred)
  | b :: rest, pred =>
    let x := blockBits dc ac pred b
    let r := blocksBits dc ac rest x.2
    (x.1 ++ r.1, r.2)

/-- The bits of an MCU of 4:2:0: four blocks of luma, one of Cb and one of Cr, with the three DC predictions. -/
def mcuBits (src : JpegSource) (mx my : Nat) (preds : Int × Int × Int) : List Bool × Int × Int × Int :=
  let y := blocksBits dcLuma acLuma ([(0, 0), (1, 0), (0, 1), (1, 1)].map fun o =>
    codedBlock src.lumaQ src.y (2 * mx + o.1) (2 * my + o.2)) preds.1
  let b := blockBits dcChroma acChroma preds.2.1 (codedBlock src.chromaQ src.cb mx my)
  let r := blockBits dcChroma acChroma preds.2.2 (codedBlock src.chromaQ src.cr mx my)
  (y.1 ++ b.1 ++ r.1, y.2, b.2, r.2)

/-- The bits of MCUs in order. -/
def mcusBits (src : JpegSource) : List (Nat × Nat) → Int × Int × Int → List Bool
  | [], _ => []
  | m :: rest, preds =>
    let x := mcuBits src m.1 m.2 preds
    x.1 ++ mcusBits src rest x.2

/-- The entropy-coded segments of a picture: one for each restart interval of MCU rows, with its marker between. -/
def scanBytes (src : JpegSource) (across down rows : Nat) : List Byte :=
  let step := if rows = 0 then max down 1 else rows
  (List.range ((down + step - 1) / step)).flatMap fun i =>
    let mcus := (List.range (min step (down - i * step))).flatMap fun y => (List.range across).map fun x => (x, i * step + y)
    let bits := mcusBits src mcus (0, 0, 0)
    (if i = 0 then [] else [0xFF, BitVec.ofNat 8 (0xD0 + (i - 1) % 8)]) ++ stuffBits (bits.length + 1) bits

/-! ### The file -/

/-- A number as two bytes, most significant first. -/
def be16 (n : Nat) : List Byte := [BitVec.ofNat 8 (n / 256), BitVec.ofNat 8 n]

/-- A marker segment. -/
def segment (marker : Byte) (body : List Byte) : List Byte := [0xFF, marker] ++ be16 (body.length + 2) ++ body

/-- Bytes of small numbers. -/
def toBytes (l : List Nat) : List Byte := l.map fun n => BitVec.ofNat 8 n

/-- The body of a DHT segment. -/
def dhtBody (id : Nat) (h : Huffman) : List Byte := toBytes (id :: h.counts) ++ toBytes h.symbols

/-- R363: the file of a picture of a quality, with restart intervals of a number of MCU rows. The order of the segments is the
common one (DESIGN CHOICE, log 48). -/
def jfifFile (quality w h rows : Nat) (luma chroma : List Byte) : List Byte :=
  let cw := (w + 1) / 2
  let ch := (h + 1) / 2
  let plane (k : Nat) : BytePlane :=
    { width := cw, height := ch, bytes := (List.range (cw * ch)).map fun i => byteAt chroma (2 * i + k) }
  let lq := toZigzag (scaleQuant quality annexLuma)
  let cq := toZigzag (scaleQuant quality annexChroma)
  let across := (w + 15) / 16
  [0xFF, 0xD8] ++
  segment 0xE0 ([0x4A, 0x46, 0x49, 0x46, 0, 1, 1, 0] ++ be16 1 ++ be16 1 ++ [0, 0]) ++
  segment 0xDB (0 :: toBytes lq) ++ segment 0xDB (1 :: toBytes cq) ++
  segment 0xC0 ([8] ++ be16 h ++ be16 w ++ [3, 1, 0x22, 0, 2, 0x11, 1, 3, 0x11, 1]) ++
  segment 0xC4 (dhtBody 0x00 dcLuma) ++ segment 0xC4 (dhtBody 0x10 acLuma) ++
  segment 0xC4 (dhtBody 0x01 dcChroma) ++ segment 0xC4 (dhtBody 0x11 acChroma) ++
  (if rows = 0 then [] else segment 0xDD (be16 (rows * across))) ++
  segment 0xDA [3, 1, 0x00, 2, 0x11, 3, 0x11, 0, 63, 0] ++
  scanBytes { lumaQ := lq, chromaQ := cq, y := { width := w, height := h, bytes := luma }, cb := plane 0, cr := plane 1 }
    across ((h + 15) / 16) rows ++
  [0xFF, 0xD9]

end Sys2Proof.Machine
end

