-- ==== Sys2Proof/Machine/CodecUnit.lean ====
section
/-! DEFINITION. The codec complex (R354 to R368): the checks of a CODEC command, and its four functions. The bits that
the coding standards leave to the encoder, and the parsing and decoding of a bitstream, are opaque constants of Config. -/

namespace Sys2Proof.Machine

/-! ### Checks (Tables 9.5, 9.6 and 9.8) -/

/-- CODEC_PARAM at a byte offset. -/
def stopCodec (off stream : Nat) : Stop := { status := 0x1C, data := dataI off stream }

/-- Operands of a function (Table 9.5). -/
def codecOperandCount (f : Nat) : Nat := if f = 1 then 10 else if f = 4 then 4 else 38

/-- The field checks of Table 9.6. -/
def codecFields (f : Nat) (l : List Byte) : List (Bool × Nat) :=
  [(64 ≤ fieldNat l 0 1, 0), (bitsSet l 1 0xFC, 1),
   ((f = 1 && 51 < fieldNat l 2 1) || (f = 4 && outside l 2 1 1 100), 2), (f = 1 && 1 < fieldNat l 3 1, 3),
   ((f = 2 || f = 3) && 15 < fieldNat l 8 1, 8), (fieldSet l 10 22, 10)]

/-- Is a picture size outside what the function and the stream allow (R355, R358, R363)? -/
def codecSizeBad (f : Nat) (st : Stream) (w h : Nat) : Bool :=
  (f = 1 && (w < 64 || 8192 < w || h < 64 || 8192 < h || w % 8 ≠ 0 || h % 8 ≠ 0)) ||
    (f = 4 && (w < 16 || 8192 < w || h < 16 || 8192 < h)) || st.width < w || st.height < h

/-- The luma operand that gives the picture's size. -/
def codecLuma (f : Nat) (ops : List Operand) : Operand := if f = 1 ∨ f = 4 then opAt ops 0 else opAt ops 3

/-- CFLAGS.FIRST. -/
def codecFirst (l : List Byte) : Bool := fieldNat l 1 1 / 2 % 2 = 1

/-- CFLAGS.IDR or FIRST: the picture takes no reference (R358). -/
def codecIdr (l : List Byte) : Bool := fieldNat l 1 1 % 2 = 1 || codecFirst l

/-- Is an operand absent or ignored: the state in of a first picture (Table 9.6), the references of an IDR picture (R358)? -/
def codecIgnores (f : Nat) (l : List Byte) (i : Nat) : Bool :=
  if f = 1 then ((i = 2 || i = 3) && codecIdr l) || (i = 4 && codecFirst l)
  else (f = 2 || f = 3) && i = 1 && codecFirst l

/-- One operand of a CODEC command. -/
def codecOperand (i : Nat) (o : Operand) : Option Stop :=
  stopIf (principalBad o false false || o.companions ≠ 0 || 9 ≤ o.fmt) (stopFormat i agentFrontEnd)

/-- The checks of a CODEC command after its operand table. -/
def codecChecks (s : State) (f : Nat) (ops : List Operand) (len : Nat) (params : List Byte) : Option Stop :=
  let k := fieldNat params 0 1
  let stream := lookupKey s.codec.streams k
  firstStop (
    ((List.zip (List.range ops.length) ops).filter fun x => !codecIgnores f params x.1).map (fun x => codecOperand x.1 x.2) ++
    [stopIf (len ≠ 32) (stopCodec 0xFFFF k)] ++
    (codecFields f params).map (fun c => stopIf c.1 (stopCodec c.2 k)) ++
    [match stream with
      | none => some (stopCodec 0 k)
      | some st =>
        if st.closing ∨ st.function.toNat ≠ f then some (stopCodec 0 k)
        else if ops.length ≠ codecOperandCount f ∨ codecSizeBad f st ((codecLuma f ops).size 0) ((codecLuma f ops).size 1) then
          some (stopCodec 0xFFFF k)
        else none])

/-! ### Pictures and state objects -/

/-- The context of the codec's accesses. -/
def codecCx (s : State) (q : Fin 256) : Cx :=
  { parcel := s.parcelOf q, agent := agentCodec, own := none, queue := some q }

/-- The bytes of a plane, row by row (R313): two bytes an element at 10 bits. -/
def readPlane (s : State) (cx : Cx) (o : Operand) (bits : Nat) : Except Stop (List Byte) :=
  (mapStop (fun (y : Nat) => readPiece s cx o bits 0 { c0 := 0, c1 := (y : Int), c2 := 0, c3 := 0 } (o.size 0))
    (List.range (o.size 1))).map fun rows => rows.flatMap fun r => r.flatMap fun v => leBytes (bits / 8) v

/-- Read planes in order. -/
def readPlanes (s : State) (cx : Cx) (bits : Nat) (os : List Operand) : Except Stop (List Byte) :=
  (mapStop (fun o => readPlane s cx o bits) os).map fun l => l.flatten

/-- The writes of a plane from its bytes. -/
def writePlane (s : State) (cx : Cx) (o : Operand) (bits : Nat) (l : List Byte) : EngineRun :=
  let w := o.size 0
  let b := bits / 8
  collectRun (fun (y : Nat) => writePiece s cx o bits { c0 := 0, c1 := (y : Int), c2 := 0, c3 := 0 }
    ((List.range w).map fun x => fieldNat l ((y * w + x) * b) b)) (List.range (o.size 1))

/-- Bytes of a plane. -/
def planeBytes (o : Operand) (bits : Nat) : Nat := o.size 0 * o.size 1 * (bits / 8)

/-- Join the writes of parts; the first stop ends them. -/
def joinRun : List EngineRun → EngineRun
  | [] => ([], none)
  | r :: rest =>
    match r.2 with
    | some e => (r.1, some e)
    | none =>
      let t := joinRun rest
      (r.1 ++ t.1, t.2)

/-- The writes of bytes from an operand's origin on. -/
def writeFlat (s : State) (cx : Cx) (o : Operand) (l : List Byte) : EngineRun :=
  match writeRange s cx o.space.toNat o.press o.base l with
  | .error e => ([], some e)
  | .ok ws => (ws, none)

/-- Value i of a state object. -/
def stateValue (l : List Byte) (i : Nat) : Nat := (byteAt l i ^^^ Config.statePad i).toNat

/-- The bytes of a state object: function, stream and QP, then what the codec keeps of the picture. -/
def stateBytes (f stream qp : Nat) (pic : List Byte) : List Byte :=
  let head := (List.zip [0, 1, 2] [f, stream, qp]).map fun x => Config.statePad x.1 ^^^ BitVec.ofNat 8 x.2
  (head ++ (Config.codecStateTail f stream pic) ++ List.replicate 4096 0).take 4096

/-- R357: the state in, or the kill when it belongs to another stream or function. -/
def readCodecState (s : State) (cx : Cx) (o : Operand) (f stream : Nat) (first : Bool) : Except Stop (List Byte) :=
  if first then .ok []
  else match readRange s cx .read o.space.toNat o.press o.base 4096 with
  | .error e => .error e
  | .ok l =>
    if stateValue l 0 = f ∧ stateValue l 1 = stream then .ok l
    else .error { status := 0x27, data := dataI stream 0 }

/-- R359: the QP of the next picture under a target rate. -/
def nextQp (qp bits target : Nat) : Nat :=
  let d : Int := if 2 * target < bits then 2 else if 5 * target < 4 * bits then 1 else if 5 * bits < 4 * target then -1 else 0
  (clampInt 10 51 ((qp : Int) + d)).toNat

/-- Table 9.7. -/
def codecResult (bytes qp : Nat) (idr : Bool) (concealed : Nat) (poc mask cycles : Nat) : List Byte :=
  leBytes 4 bytes ++ leBytes 1 qp ++ leBytes 1 ((if idr then 1 else 0) + if 0 < concealed then 2 else 0) ++
    leBytes 2 concealed ++ leBytes 4 poc ++ leBytes 2 mask ++ [0, 0] ++ leBytes 4 cycles ++ leBytes 12 0

/-- What a codec command comes to: its writes or kill, pixels, and whether it concealed. -/
structure CodecOut where
  run : EngineRun
  pixels : Nat
  concealed : Bool
  deriving DecidableEq, Repr

/-- A codec command that wrote nothing. -/
def codecStop (e : Stop) : CodecOut := { run := ([], some e), pixels := 0, concealed := false }

/-- CODEC_OVERFLOW (R364) when the bitstream view is too small. -/
def bitstreamRun (s : State) (cx : Cx) (o : Operand) (stream : Nat) (l : List Byte) : EngineRun :=
  if viewElements o < l.length then ([], some { status := 0x29, data := dataI stream 0 }) else writeFlat s cx o l

/-! ### The four functions -/

/-- Emulation prevention: after two zero bytes a byte of at most 3 is preceded by 3; `zeros` come just before. -/
def escapeNal (zeros : Nat) : List Byte → List Byte
  | [] => []
  | b :: rest =>
    if 2 ≤ zeros ∧ b.toNat ≤ 3 then 3 :: b :: escapeNal (if b = 0 then 1 else 0) rest
    else b :: escapeNal (if b = 0 then zeros + 1 else 0) rest

/-- A NAL unit of a type in the Annex B byte stream of HEVC: start code, header, payload and stop bit (PRESUMED, log 48: the
standard's syntax, which the spec names). -/
def nalUnit (kind : Nat) (payload : List Byte) : List Byte :=
  [0, 0, 0, 1] ++ [BitVec.ofNat 8 (2 * kind), 1] ++ escapeNal 0 (payload ++ [0x80])

/-- R358: the stream of a picture: a VPS, an SPS and a PPS before an IDR picture, and one slice. -/
def hevcPicture (qp : Nat) (idr : Bool) (src ref : List Byte) : List Byte :=
  let u (k : Nat) : List Byte := Config.hevcUnit k qp idr src ref
  (if idr then nalUnit 32 (u 0) ++ nalUnit 33 (u 1) ++ nalUnit 34 (u 2) else []) ++ nalUnit (if idr then 20 else 1) (u 3)

/-- HEVC_ENCODE (R358, R359). -/
def hevcEncodeOut (s : State) (cx : Cx) (st : Stream) (ops : List Operand) (l : List Byte) (cycles : Nat) : CodecOut :=
  let bits := if st.depth = 10 then 16 else 8
  let k := fieldNat l 0 1
  let first := codecFirst l
  let idr := codecIdr l
  match readCodecState s cx (opAt ops 4) 1 k first with
  | .error e => codecStop e
  | .ok stIn =>
    match readPlanes s cx bits [opAt ops 0, opAt ops 1],
        (if idr then .ok [] else readPlanes s cx bits [opAt ops 2, opAt ops 3]) with
    | .error e, _ => codecStop e
    | _, .error e => codecStop e
    | .ok src, .ok ref =>
      let rc := fieldNat l 3 1 = 1
      let qp := if rc ∧ !first then stateValue stIn 2 else fieldNat l 2 1
      let dims := leBytes 2 ((opAt ops 0).size 0) ++ leBytes 2 ((opAt ops 0).size 1)
      let stream := hevcPicture qp idr (dims ++ src) (stIn ++ ref)
      let recon := Config.hevcRecon qp idr (dims ++ src) (stIn ++ ref)
      let n := planeBytes (opAt ops 6) bits
      let qpNext := if rc then nextQp qp (8 * stream.length) (fieldNat l 4 4) else qp
      let extra := Config.encodeExtra 1 (stIn ++ src)
      { run := joinRun [bitstreamRun s cx (opAt ops 8) k stream,
          writeFlat s cx (opAt ops 5) (stateBytes 1 k qpNext src),
          writePlane s cx (opAt ops 6) bits recon, writePlane s cx (opAt ops 7) bits (recon.drop n),
          writeFlat s cx (opAt ops 9)
            (codecResult stream.length qp idr 0 (extra.toNat % 2 ^ 32) (extra.toNat / 2 ^ 32) cycles)]
        pixels := (opAt ops 0).size 0 * (opAt ops 0).size 1, concealed := false }

/-- R360, R362: does the decoder refuse a picture: an invalid parameter set, an unsupported feature, or a size beyond the stream's?
Levels are in tenths. -/
def pictureRefused (f : Nat) (st : Stream) (p : Config.PictureInfo) : Bool :=
  !p.parametersOk || !p.inProfile || p.chromaFormat ≠ 1 || p.rangeExtension || p.interlaced || p.layered ||
    (f = 2 && (p.highTier || 61 < p.level || 10 < p.depth)) || (f = 3 && (52 < p.level || 8 < p.depth)) ||
    st.width < p.width || st.height < p.height

/-- R362: a plane of `width` bytes a row in which the units that failed take the co-located bytes of another; a unit spans `across`
bytes and `down` rows. -/
def concealPlane (width across down : Nat) (failed : List Nat) (other l : List Byte) : List Byte :=
  let columns := ceilDiv width across
  (List.zip (List.range l.length) l).map fun x =>
    if failed.contains (x.1 / width / down * columns + x.1 % width / across) then byteAt other x.1 else x.2

/-- The bytes of the DPB slots that a picture references (R361): slot, and luma then chroma. -/
def readSlots (s : State) (cx : Cx) (bits : Nat) (ops : List Operand) (refs : BitVec 16) :
    Except Stop (List (Nat × List Byte)) :=
  mapStop (fun (i : Nat) =>
    (readPlanes s cx bits [opAt ops (6 + 2 * i), opAt ops (7 + 2 * i)]).map fun l => (i, l))
    ((List.range 16).filter fun i => refs.getLsbD i)

/-- HEVC_DECODE and H264_DECODE (R360 to R362). -/
def decodeOut (f : Nat) (s : State) (cx : Cx) (st : Stream) (ops : List Operand) (l : List Byte) (cycles : Nat) : CodecOut :=
  let bits := if st.depth = 10 then 16 else 8
  let k := fieldNat l 0 1
  let slot := fieldNat l 8 1
  let refused := codecStop { status := 0x28, data := dataI k 0 }
  match readCodecState s cx (opAt ops 1) f k (codecFirst l), readPlane s cx (opAt ops 0) 8 with
  | .error e, _ => codecStop e
  | _, .error e => codecStop e
  | .ok stIn, .ok au =>
    match Config.parsePicture f stIn au with
    | none => refused
    | some p =>
      if pictureRefused f st p then refused
      else match readSlots s cx bits ops p.refs with
      | .error e => codecStop e
      | .ok dpb =>
        let r := Config.decodePicture f stIn au slot dpb
        let near : List Byte := match r.nearest with
          | none => []
          | some i => ((dpb.find? fun x => decide (x.1 = i.val)).map fun x => x.2).getD []
        let conceal (down : Nat) (o : Operand) (other own : List Byte) : List Byte :=
          if near.isEmpty then own else concealPlane (o.size 0 * (bits / 8)) (r.unit * (bits / 8)) down r.failed other own
        let n := planeBytes (opAt ops 3) bits
        { run := joinRun [writeFlat s cx (opAt ops 2) (stateBytes f k 0 r.kept),
            writePlane s cx (opAt ops 3) bits (conceal r.unit (opAt ops 3) near r.luma),
            writePlane s cx (opAt ops 4) bits (conceal (r.unit / 2) (opAt ops 4) (near.drop n) r.chroma),
            writeFlat s cx (opAt ops 5) (codecResult r.used (fieldNat l 2 1) p.idr r.failed.length
              (r.poc % (2 ^ 32 : Nat)).toNat (r.mask ||| BitVec.ofNat 16 (2 ^ slot)).toNat cycles)]
          pixels := (opAt ops 3).size 0 * (opAt ops 3).size 1, concealed := !r.failed.isEmpty }

/-- JPEG_ENCODE (R363). -/
def jpegEncodeOut (s : State) (cx : Cx) (ops : List Operand) (l : List Byte) (cycles : Nat) : CodecOut :=
  let q := fieldNat l 2 1
  match readPlane s cx (opAt ops 0) 8, readPlane s cx (opAt ops 1) 8 with
  | .error e, _ => codecStop e
  | _, .error e => codecStop e
  | .ok luma, .ok chroma =>
    let w := (opAt ops 0).size 0
    let h := (opAt ops 0).size 1
    let file := jfifFile q w h (fieldNat l 9 1) luma chroma
    let extra := Config.encodeExtra 4 (luma ++ chroma)
    { run := joinRun [bitstreamRun s cx (opAt ops 2) (fieldNat l 0 1) file,
        writeFlat s cx (opAt ops 3) (codecResult file.length q (fieldNat l 1 1 % 2 = 1) 0
          (extra.toNat % 2 ^ 32) (extra.toNat / 2 ^ 32) cycles)]
      pixels := w * h, concealed := false }

/-! ### A core at work (R354) -/

/-- A codec command that failed (Table 9.10 LAST_FAIL). -/
def codecFail (q : Fin 256) (seq : Word) (stream : Nat) (e : Stop) (s : State) : State :=
  killCmd q seq e { s with codec := { s.codec with
    failStatus := e.status, failParcel := BitVec.ofFin (s.parcelOf q), failStream := BitVec.ofNat 6 stream } }

/-- What a function makes of a command's operands and parameters. -/
def codecOut (f : Nat) (s : State) (cx : Cx) (st : Stream) (c : Cmd) (cycles : Nat) : CodecOut :=
  if f = 1 then hevcEncodeOut s cx st c.operands c.params cycles
  else if f = 4 then jpegEncodeOut s cx c.operands c.params cycles
  else decodeOut f s cx st c.operands c.params cycles

/-- A command that has made its writes leaves its core, and its pixels are counted. -/
def codecDone (f : Nat) (q : Fin 256) (seq : Word) (o : CodecOut) (s : State) : State :=
  let px := BitVec.ofNat 64 o.pixels
  let s1 := { s with codec := { s.codec with
    encPixels := if isEncode f then s.codec.encPixels + px else s.codec.encPixels
    decPixels := if isEncode f then s.codec.decPixels else s.codec.decPixels + px
    concealed := if o.concealed then satInc s.codec.concealed 1 else s.codec.concealed } }
  (dropCodec q seq s1).updCmd q seq fun c => { c with phase := .written 0 0 }

/-- The command on a core of a function runs to its end; one with an access that is held (R383) stays as it is. -/
def runCodec (f : Nat) (q : Fin 256) (seq cycles : Word) (s : State) : State :=
  match s.cmd q seq with
  | none => s
  | some c =>
    if s.safety.safe ∨ c.kind ≠ 5 ∨ c.target ≠ f ∨ !onCore s q seq then s
    else
      let k := fieldNat c.params 0 1
      match lookupKey s.codec.streams k with
      | none => codecFail q seq k (stopCodec 0 k) s
      | some st =>
        let o := codecOut f s (codecCx s q) st c cycles.toNat
        match o.run.2 with
        | some e => if e.held then s else codecFail q seq k e s
        | none => codecDone f q seq o (s.writeLocs o.run.1)

/-- HEVC_ENCODE. -/
def execHevcEncode (q : Fin 256) (seq cycles : Word) (health : ReadHealth) (s : State) : Host.Outcome State Fault Refusal :=
  answerNoting health (runCodec 1 q seq cycles) s
/-- HEVC_DECODE. -/
def execHevcDecode (q : Fin 256) (seq cycles : Word) (health : ReadHealth) (s : State) : Host.Outcome State Fault Refusal :=
  answerNoting health (runCodec 2 q seq cycles) s
/-- H264_DECODE. -/
def execH264Decode (q : Fin 256) (seq cycles : Word) (health : ReadHealth) (s : State) : Host.Outcome State Fault Refusal :=
  answerNoting health (runCodec 3 q seq cycles) s
/-- JPEG_ENCODE. -/
def execJpegEncode (q : Fin 256) (seq cycles : Word) (health : ReadHealth) (s : State) : Host.Outcome State Fault Refusal :=
  answerNoting health (runCodec 4 q seq cycles) s

end Sys2Proof.Machine
end

