-- ==== Sys2Proof/Machine/Intake.lean ====
section
/-! DEFINITION. The Intake, engine 4 (R332 to R350): its checks, the stages of a sample, and the batch. -/

namespace Sys2Proof.Machine

/-! ### Checks (R332, R333) -/

/-- WARP. -/
def intakeWarp (l : List Byte) : Bool := fieldNat l 1 1 / 2 % 2 = 1

/-- Table 9.1. -/
def intakeFields (l : List Byte) : List (Bool × Nat) :=
  let sel (i : Nat) : Nat := fieldNat l (17 + i) 1
  let n := (channelSources [sel 0, sel 1, sel 2]).length
  headerChecks l 0 3 ++
  [(outside l 16 1 1 64, 16), (sel 0 = 0xFF || 2 < sel 0, 17), (2 ≤ n && 2 < sel 1, 18), (3 ≤ n && 2 < sel 2, 19),
   (outside l 24 2 1 8192, 24), (outside l 26 2 1 8192, 26), (fieldSet l 28 4, 28)] ++
  ((List.range 6).map fun i => (!isFinite (paramVal l (32 + 4 * i)), 32 + 4 * i)) ++
  [(2 ^ 38 ≤ fieldNat l 56 8 || fieldNat l 56 8 % 16 ≠ 0, 56), (fieldSet l 64 16, 64)]

/-- Bytes of one position of an output slot, and the positions across and down that lie in the view (R161, R335). -/
def slotShape (o : Operand) (l : List Byte) : Nat × Nat × Nat :=
  if o.size 3 = 0 then (0, 0, 0)
  else (min (o.innerLen.getD 128) (o.size 0) * fmtBytes o.fmt, min (fieldNat l 24 2) (o.size 1), min (fieldNat l 26 2) (o.size 2))

/-- Is some distance `gap` + d × `step` with |d| below `n` shorter than `len`? Only the d next to the quotient can bring one. -/
def comesNear (gap step : Int) (n len : Nat) : Bool :=
  let q := if step = 0 then 0 else -gap / step
  [q, q + 1, q - 1].any fun d =>
    decide ((gap + clampInt (1 - (n : Int)) ((n : Int) - 1) d * step).natAbs < len)

/-- R333: do two output slots of a batch share a byte? -/
def slotsOverlap (o : Operand) (l : List Byte) : Bool :=
  let sh := slotShape o l
  decide (0 < sh.2.1) && decide (0 < sh.2.2) && (List.range (fieldNat l 16 1 - 1)).any fun k =>
    (List.range (2 * sh.2.2 - 1)).any fun y =>
      comesNear (((k + 1) * fieldNat l 56 8 : Nat) + ((y : Int) - ((sh.2.2 : Int) - 1)) * o.stride 2) (o.stride 1) sh.2.1 sh.1

/-- R333: the spaces, views and slots. -/
def intakeViewsBad (s : State) (ops : List Operand) (l : List Byte) : Bool :=
  let w := if intakeWarp l then 1 else 0
  let dv (i : Nat) : Bool := (opAt ops i).space = 2
  let lists (i : Nat) : Bool := dv i || (opAt ops i).space = 3
  !lists 0 || (w = 1 && !lists 1) || !dv (1 + w) || !dv (2 + w) || !dv (3 + w) ||
    !((opAt ops (2 + w)).inner = 1 || (opAt ops (2 + w)).inner = 2) ||
    viewElements (opAt ops (1 + w)) < 3 * s.intake.maxPixels.toNat ||
    slotsOverlap (opAt ops (2 + w)) l ||
    viewElements (opAt ops (3 + w)) < 16 * fieldNat l 16 1

/-- The checks of an Intake command after its operand table. -/
def intakeChecks (s : State) (n : Fin 8) (agent : Nat) (ops : List Operand) (len : Nat) (params : List Byte) : Option Stop :=
  let index := List.range ops.length
  let w := if intakeWarp params then 1 else 0
  firstStop (
    (List.zip index ops).map (fun x => enginePlace s n 4 x.1 x.2) ++
    [stopIf (len ≠ 80) (stopParam 4 0xFFFF)] ++
    (intakeFields params).map (fun c => stopIf c.1 (stopParam 4 c.2)) ++
    [stopIf (ops.length ≠ 4 + w) (stopParam 4 0xFFFF)] ++
    (List.zip index ops).map (fun x =>
      engineOperand agent x.1 x.2 (if x.1 = 2 + w then .tensor [1, 6] else .plain)) ++
    [stopIf (intakeViewsBad s ops params) (stopParam 4 0xFFFF)])

/-! ### One sample (R334 to R345) -/

/-- A sample's outcome: its status and size, the picture, the cycles of its decode term, whether decoding began, and the first and
the last byte offset between which an error was found. -/
structure SampleOut where
  status : Nat
  width : Nat
  height : Nat
  picture : Option Picture
  cycles : Nat
  began : Bool
  first : Nat := 0
  last : Nat := 0
  deriving DecidableEq, Repr

/-- R338: the size checks of a declared picture: against MAX_PIXELS and the working view. -/
def tooLarge (s : State) (working : Operand) (pixels : Nat) : Bool :=
  s.intake.maxPixels.toNat < pixels || viewElements working < 3 * pixels

/-- R353: the decode term of a JPEG sample. -/
def decodeTerm (pixels length : Nat) : Nat := max (ceilDiv (2 * pixels) 3) (ceilDiv length 128)

/-- R346, R353: the outcome of a JPEG sample that does not decode. R338 rejects one of no pixels, which has no decode term. -/
def jpegFailed (length : Nat) (began : Bool) (e : JpegFail) : SampleOut :=
  { status := e.kind.code, width := e.size.1, height := e.size.2, picture := none, began := began
    cycles := if e.kind = .noPixels then 0 else decodeTerm e.pixels length
    first := length - e.first, last := length - e.last }

/-- R338, R346: a JPEG sample. -/
def jpegSample (s : State) (working : Operand) (data : List Byte) : SampleOut :=
  match readJpeg true data with
  | .error e => jpegFailed data.length false e
  | .ok (t, left) =>
    let size := frameSize t
    let px := size.1 * size.2
    if tooLarge s working px ∨ 512 * data.length < px then
      { status := 4, width := size.1, height := size.2, picture := none, cycles := 0, began := false
        first := 0, last := data.length - left }
    else match readJpeg false data with
    | .error e => jpegFailed data.length true e
    | .ok (t1, _) =>
      { status := 0, width := size.1, height := size.2, picture := t1.frame.map (pictureOf t1), began := true
        cycles := decodeTerm px data.length }

/-- R339: a raw sample of `n` bytes a pixel; one that is rejected has no load term (R353). -/
def rawSample (s : State) (working : Operand) (n w h : Nat) (data : List Byte) : SampleOut :=
  let fail (code : Nat) : SampleOut :=
    { status := code, width := w, height := h, picture := none, cycles := 0, began := false, last := data.length }
  if w = 0 ∨ h = 0 ∨ tooLarge s working (w * h) then fail 4
  else if data.length < w * h * n then fail 2
  else
    let px (i : Nat) : Nat × Nat × Nat :=
      if n = 1 then
        let v := (byteAt data i).toNat
        (v, v, v)
      else ((byteAt data (3 * i)).toNat, (byteAt data (3 * i + 1)).toNat, (byteAt data (3 * i + 2)).toNat)
    { status := 0, width := w, height := h, cycles := ceilDiv data.length 128, began := true
      picture := some { width := w, height := h, grey := n = 1, pixels := (List.range (w * h)).map px } }

/-- R334: read and decode the sample of a list entry. The status of an entry with a reserved code or bit is one of the four that
are not OK: the rules name none. -/
def readSample (s : State) (cx : Cx) (working : Operand) (entry : List Byte) : Except Stop SampleOut :=
  let kind := fieldNat entry 5 1 % 4
  let space := fieldNat entry 5 1 / 4 % 4
  if kind = 3 ∨ space < 2 ∨ 16 ≤ fieldNat entry 5 1 ∨ fieldNat entry 6 2 ≠ 0 then
    .ok { status := 1 + Config.reservedSample entry % 4, width := 0, height := 0, picture := none, cycles := 0, began := false
          last := fieldNat entry 8 4 }
  else
    let addr : Nat := fieldNat entry 0 5 % 2 ^ (if space = 2 then 38 else 25)
    (readRange s cx .read space 0 (addr : Int) (fieldNat entry 8 4)).map fun data =>
      if kind = 0 then jpegSample s working data
      else rawSample s working (if kind = 1 then 3 else 1) (fieldNat entry 12 2) (fieldNat entry 14 2) data

/-- Channel k of a source pixel, FILL outside the picture (R343, R344). -/
def sourceAt (l : List Byte) (p : Picture) (k : Nat) (x y : Int) : Int :=
  if within x p.width && within y p.height then
    let c := p.pixels.getD (y.toNat * p.width + x.toNat) (0, 0, 0)
    ((if k = 0 then c.1 else if k = 1 then c.2.1 else c.2.2 : Nat) : Int)
  else (fieldNat l (21 + k) 1 : Int)

/-- Bilinear sum of four values with the weights of R342 and R343, divided by 2^32. -/
def blend (a b : Nat) (v00 v10 v01 v11 : Int) : Int :=
  rndShift (v00 * ((65536 - a) * (65536 - b) : Nat) + v10 * (a * (65536 - b) : Nat) + v01 * ((65536 - a) * b : Nat) +
    v11 * (a * b : Nat)) 32

/-- R342, R343: the value of channel k at an output position through the mesh. -/
def warpAt (l mesh : List Byte) (p : Picture) (k x y : Nat) : Int :=
  let gx := x * 4194304 / fieldNat l 24 2
  let gy := y * 4194304 / fieldNat l 26 2
  let node (off i j : Nat) : Int := fieldInt mesh (8 * (65 * j + i) + off) 4
  let at_ (off : Nat) : Int :=
    let i := gx / 65536
    let j := gy / 65536
    blend (gx % 65536) (gy % 65536) (node off i j) (node off (i + 1) j) (node off i (j + 1)) (node off (i + 1) (j + 1))
  let u := at_ 0
  let v := at_ 4
  let q (dx dy : Int) : Int := sourceAt l p k (u / 65536 + dx) (v / 65536 + dy)
  blend (u % 65536).toNat (v % 65536).toNat (q 0 0) (q 1 0) (q 0 1) (q 1 1)

/-- The codes of the channels at one output position, unused channel positions PAD (R204, R345). -/
def slotCodes (l mesh : List Byte) (out : Operand) (pic : Option Picture) (x y : Nat) : List Nat :=
  let sel := channelSources ((List.range 3).map fun i => fieldNat l (17 + i) 1)
  (List.range (out.innerLen.getD 16)).map fun j =>
    match pic, sel[j]? with
    | some p, some k =>
      let v := if intakeWarp l then warpAt l mesh p k x y else sourceAt l p k x y
      normCode out.fmt (paramVal l (32 + 4 * j)) (paramVal l (44 + 4 * j)) (fieldInt l 20 1) (Val.ofInt v)
    | _, _ => out.padCode

/-- R335: the writes of slot i. -/
def slotWrites (s : State) (cx : Cx) (l mesh : List Byte) (out : Operand) (i : Nat) (pic : Option Picture) : EngineRun :=
  let o := { out with addr := BitVec.ofNat 40 ((out.base + i * fieldNat l 56 8) % 2 ^ 38) }
  collectRun (fun (p : Nat × Nat) =>
    writePiece s cx o (fmtBits o.fmt) { c0 := 0, c1 := (p.1 : Int), c2 := (p.2 : Int), c3 := 0 }
      (slotCodes l mesh o pic p.1 p.2))
    ((List.range (fieldNat l 26 2)).flatMap fun y => (List.range (fieldNat l 24 2)).map fun x => (x, y))

/-- The bytes that a decoded picture leaves in the working object (R336). -/
def pictureBytes (p : Picture) : List Byte :=
  p.pixels.flatMap fun c =>
    if p.grey then [BitVec.ofNat 8 c.1] else [BitVec.ofNat 8 c.1, BitVec.ofNat 8 c.2.1, BitVec.ofNat 8 c.2.2]

/-- ERR_OFFSET: the offset at which the error was found, between the start of the segment or MCU that holds it and the bytes read by
then; which byte of it, the rules do not say. -/
def errOffset (o : SampleOut) : Nat :=
  if o.status = 0 then 0xFFFFFFFF else o.first + Config.errOffset o.status o.first o.last % (o.last - o.first + 1)

/-- Table 9.3. -/
def resultRecord (o : SampleOut) : List Byte :=
  leBytes 4 o.status ++ leBytes 2 o.width ++ leBytes 2 o.height ++ leBytes 4 (errOffset o) ++ [0, 0, 0, 0]

/-- What an Intake command has done so far: statuses of its samples and its cycles. -/
structure IntakeRun where
  statuses : List Nat
  cycles : Nat
  deriving DecidableEq, Repr

/-- R338, R347: leave the working object undefined after a decode that stopped part of the way. -/
def soilWorking (cx : Cx) (working : Operand) (o : SampleOut) (s : State) : State :=
  if o.began && o.picture.isNone then
    wipeRange cx working.space.toNat working.press working.base (3 * o.width * o.height) s
  else s

/-- One sample of a batch: decode, slot and record. -/
def intakeSample (cx : Cx) (ops : List Operand) (l mesh : List Byte) (i : Nat) (acc : State × IntakeRun) :
    State × IntakeRun × Option Stop :=
  let s := acc.1
  let w := if intakeWarp l then 1 else 0
  let working := opAt ops (1 + w)
  let out := opAt ops (2 + w)
  let result := opAt ops (3 + w)
  let lst := opAt ops 0
  match readRange s cx .read lst.space.toNat lst.press ((lst.base + 16 * i : Nat) : Int) 16 with
  | .error e => (s, acc.2, some e)
  | .ok entry =>
    match readSample s cx working entry with
    | .error e => (s, acc.2, some e)
    | .ok o =>
      let bytes := ((o.picture.map pictureBytes).getD [])
      match writeRange s cx working.space.toNat working.press working.base bytes with
      | .error e => (s, acc.2, some e)
      | .ok ws =>
        let s1 := soilWorking cx working o (s.writeLocs ws)
        let r := slotWrites s1 cx l mesh out i o.picture
        let s2 := s1.writeLocs r.1
        let slotBytes := fieldNat l 24 2 * fieldNat l 26 2 * out.innerLen.getD 16 * fmtBytes out.fmt
        let run : IntakeRun :=
          { statuses := acc.2.statuses ++ [o.status]
            cycles := acc.2.cycles + 200 + o.cycles +
              max (ceilDiv (fieldNat l 24 2 * fieldNat l 26 2) 2) (ceilDiv slotBytes 128) }
        match r.2 with
        | some e => (s2, run, some e)
        | none =>
          match writeRange s2 cx result.space.toNat result.press ((result.base + 16 * i : Nat) : Int)
              (resultRecord o) with
          | .error e => (s2, run, some e)
          | .ok ws2 => (s2.writeLocs ws2, run, none)

/-- The samples of a batch in list order. -/
def intakeSamples (cx : Cx) (ops : List Operand) (l mesh : List Byte) :
    List Nat → State × IntakeRun → State × IntakeRun × Option Stop
  | [], acc => (acc.1, acc.2, none)
  | i :: rest, acc =>
    match intakeSample cx ops l mesh i acc with
    | (s, run, some e) => (s, run, some e)
    | (s, run, none) => intakeSamples cx ops l mesh rest (s, run)

/-- The whole of an Intake command. -/
def intakeBatch (cx : Cx) (ops : List Operand) (l : List Byte) (s : State) : State × IntakeRun × Option Stop :=
  let start : State × IntakeRun := (s, { statuses := [], cycles := 0 })
  let samples := List.range (fieldNat l 16 1)
  if intakeWarp l then
    let m := opAt ops 1
    match readRange s cx .read m.space.toNat m.press m.base (8 * 65 * 65) with
    | .error e => (s, { statuses := [], cycles := 0 }, some e)
    | .ok mesh => intakeSamples cx ops l mesh samples start
  else intakeSamples cx ops l [] samples start

/-- R349: the bitmap of samples that are not OK. -/
def corruptBitmap (l : List Nat) : Long :=
  BitVec.ofNat 64 ((List.zip (List.range l.length) l).foldl (fun acc x => if x.2 = 0 then acc else acc + 2 ^ x.1) 0)

/-- A finished Intake command (R349). -/
def intakeDone (j : EngineJob) (statuses : List Nat) (s : State) : State :=
  let bits := corruptBitmap statuses
  match j.press with
  | some _ => engineDone 4 j s
  | none => s.updCmd j.queue j.seq fun c => { c with phase := .written (if bits = 0 then 0 else 1) bits }

/-- INTAKE: the Intake runs its next waiting command to its end. -/
def stepIntake (mismatch : Bool) (s : State) : State :=
  if s.safety.safe then s
  else match nextJob (s.engine 4) with
  | none => s
  | some j =>
    let cx := engineCx 4 j
    let times := if j.twinned then 2 else 1
    let s1 := s.updEngine 4 fun x => { x with
      waiting := dropJob j.parcel x.waiting, lastParcel := j.parcel, asleep := false }
    let r := intakeBatch cx j.operands j.params s1
    let st := r.2.1.statuses
    let s2 := r.1.updEngine 4 fun x => { x with
      busy := x.busy + BitVec.ofNat 64 (times * (100 + r.2.1.cycles)), work := x.work + BitVec.ofNat 64 st.length }
    let s3 := { s2 with intake := { s2.intake with
      corrupt := satInc s2.intake.corrupt (st.countP fun x => decide (x ≠ 0))
      oversize := satInc s2.intake.oversize (st.countP fun x => decide (x = 4)) } }
    match r.2.2 with
    | some e => if e.held then s else engineFail 4 j e s3
    | none => if mismatch && j.twinned then engineMismatch 4 j s3 else intakeDone j st s3

/-- INTAKE. -/
def execIntake (mismatch : Bool) (health : ReadHealth) (s : State) : Host.Outcome State Fault Refusal :=
  answerNoting health (stepIntake mismatch) s

end Sys2Proof.Machine
end

