-- ==== Sys2Proof/Machine/CommandCheck.lean ====
section
/-! DEFINITION. The checks of the command front end (R150 to R183, R459, R505, R732): they answer the checked command, or
the status that rejects it. -/

namespace Sys2Proof.Machine

/-! ### The descriptor (R152, R153) -/

/-- The position of a field that holds a bit of a mask: its first byte, whichever byte the bit is in (R153). -/
def reservedField (l : List Byte) (at_ n mask : Nat) : Option Nat := if fieldNat l at_ n &&& mask ≠ 0 then some at_ else none

/-- Bits of an 8-byte field above a device virtual address. -/
def aboveVa : Nat := 2 ^ 64 - 2 ^ 38

/-- Reserved bits of TARGET for a KIND (Table 4.2). -/
def targetReserved (kind : Nat) : Nat :=
  match kind with
  | 1 | 6 | 7 => 0xFFFF0000
  | 2 | 5 => 0xFFFFFF00
  | 3 => 0xFFFFFFF0
  | 4 => 0xFFFFFFFF
  | _ => 0

/-- Positions of bad fields of a descriptor, in ascending byte order (R153). -/
def descriptorFaults (d : List Byte) : List (Option Nat) :=
  let kind := fieldNat d 0 1
  let target := fieldNat d 12 4
  let operands := if kind = 8 then 0 else fieldNat d 36 2
  let objects := if kind = 8 then 0 else fieldNat d 38 2
  let at_ (b : Bool) (off : Nat) : Option Nat := if b then some off else none
  [at_ (kind = 0 || 8 < kind) 0, reservedField d 1 1 0xFC, reservedField d 12 4 (targetReserved kind),
   at_ (kind = 2 && 4 < target % 256) 12, at_ (kind = 5 && (target % 256 = 0 || 4 < target % 256)) 12,
   if kind = 1 ∨ kind = 2 ∨ kind = 3 ∨ kind = 5 then reservedField d 16 8 aboveVa else none,
   if operands = 0 then none else reservedField d 28 8 aboveVa,
   at_ (256 < operands || (kind = 4 && operands ≠ 2) || (kind = 3 && operands ≠ 5)) 36, at_ (64 < objects) 38,
   if objects = 0 then none else reservedField d 40 8 aboveVa, reservedField d 58 2 0xFFFF]

/-- The least of some positions. -/
def leastPosition (l : List (Option Nat)) : Option Nat :=
  l.foldl (fun acc x => match acc, x with
    | none, x => x
    | some a, some b => some (min a b)
    | a, none => a) none

/-- R152, R153. -/
def checkDescriptor (d : List Byte) : Option Stop :=
  let crc := crc32 (d.take 60)
  if BitVec.ofNat 32 (fieldNat d 60 4) ≠ crc then some { status := 0x10, data := crc.setWidth 64 }
  else (leastPosition (descriptorFaults d)).map stopDescriptor

/-! ### Ownership (R28, R138, R146, R453) -/

/-- The presses that a PRESS_PROGRAM command needs: its mask and, when twinned, their twins. -/
def neededMask (s : State) (n : Fin 8) (c : Cmd) : BitVec 16 :=
  (occupied s n c).foldl (fun m p => m ||| BitVec.ofNat 16 (2 ^ p.val)) 0

/-- PRESS_FAILED for the lowest failed press of a mask. -/
def stopFailed (m : BitVec 16) : Option Stop :=
  ((List.finRange 16).find? fun p => m.getLsbD p.val).map fun p => { status := 0x2B, data := dataI 0 p.val }

/-- Parcel ownership of presses and pipelines. -/
def checkOwner (s : State) (n : Fin 8) (c : Cmd) : Option Stop :=
  let p := s.parcel n
  if c.kind = 1 then
    let outside_ := c.pressMask &&& ~~~ p.presses
    let primaries := (parcelPresses s n).take ((parcelPresses s n).length / 2)
    if c.pressMask = 0 ∨ outside_ ≠ 0 then some { status := 0x12, data := dataI outside_.toNat 0xFFFF }
    else if c.twinned && (maskPresses c.pressMask).any fun x => !primaries.contains x then
      some { status := 0x19, data := 0 }
    else stopFailed (neededMask s n c &&& s.failed)
  else if c.kind = 3 && !p.pipes.getLsbD (c.target % 16) then
    some { status := 0x13, data := dataI (c.target % 16) 0 }
  else none

/-! ### Objects (R155, R156, R388, R404, R505) -/

/-- OBJECT_INVALID for a handle. -/
def stopObject (h : Nat) : Stop := { status := 0x14, data := dataI h 0 }

/-- R155, R404: is a handle a live object of the parcel with no release pending? -/
def objectUsable (s : State) (n : Fin 8) (h : Nat) : Bool :=
  match s.object h with
  | none => false
  | some o => o.parcel = n && !o.releasePending

/-- R153, R155 for entry i of an object list. -/
def checkEntry (s : State) (n : Fin 8) (raw : List Byte) (refs : List ObjRef) (i : Nat) : Option Stop :=
  let r := refs.getD i { handle := 0, isIn := false, isOut := false }
  match reservedField raw (4 * i + 2) 2 0xFFFC with
  | some pos => some (stopDescriptor (0x8000 + pos))
  | none => stopIf (!objectUsable s n r.handle || (refs.take i).any (fun x => decide (x.handle = r.handle)) ||
      !(r.isIn || r.isOut)) (stopObject r.handle)

/-- R156: do two objects overlap? -/
def overlaps (s : State) (a b : Nat) : Bool :=
  match s.object a, s.object b with
  | some x, some y => decide (x.base < y.base + y.length) && decide (y.base < x.base + x.length)
  | _, _ => false

/-- ALIASED_OUTPUT. -/
def stopAliased (a b : Nat) : Stop := { status := 0x15, data := dataI a b }

/-- R156, R388. -/
def checkAlias (s : State) (refs : List ObjRef) : Option Stop :=
  let ins := refs.filter fun r => r.isIn
  let outs := refs.filter fun r => r.isOut
  firstStop (
    refs.map (fun r => stopIf (r.isIn && r.isOut) (stopAliased r.handle r.handle)) ++
    outs.flatMap (fun o => ins.map fun i => stopIf (overlaps s o.handle i.handle) (stopAliased o.handle i.handle)) ++
    ins.map fun r => stopIf ((s.object r.handle).any fun o => o.poisoned) { status := 0x16, data := dataI r.handle 0 })

/-- Step 3 of R459. -/
def checkObjects (s : State) (q : Fin 256) (c : Cmd) : Except Stop (List ObjRef) :=
  let k := c.objectCount
  match (if k = 0 then .ok [] else frontRead s q (fieldNat c.desc 40 8) (4 * k)) with
  | .error e => .error e
  | .ok raw =>
    let refs := parseObjects raw k
    match firstStop ((List.range k).map (checkEntry s (s.parcelOf q) raw refs) ++
        [stopIf (c.kind = 1 && c.rackHandle ≠ 0xFFFF && !refs.any fun r => decide (r.handle = c.rackHandle))
          (stopObject c.rackHandle),
         stopIf (c.kind = 7 && !objectUsable s (s.parcelOf q) (c.target % 65536)) (stopObject (c.target % 65536))]) with
    | some e => .error e
    | none => .ok refs

/-! ### Operands of press programs (R59, R84, R119, R120, R164, R173, R732) -/

/-- The pairs of Table 2.3, E5M2 taken as E4M3, and whether 2:4 sparse weights are eligible. -/
def pressPair (a w : Nat) : Option Bool :=
  match (if a = 5 then 4 else a), (if w = 5 then 4 else w) with
  | 0, 1 | 1, 1 | 2, 2 | 4, 4 => some true
  | 1, 2 | 3, 3 | 6, 6 | 7, 7 | 9, 9 | 4, 9 | 2, 10 | 1, 10 => some false
  | _, _ => none

/-- Element bits of the companions of a MATMUL operand in order (Table 4.8): `weight` says which operand it is. A GQ4 weight has
all three of its companions, as R164 and Table 4.8 require, although R81 says of two of them that they may accompany it (DESIGN
CHOICE, log entry 46). -/
def companionBits (o : Operand) (weight : Bool) : List Nat :=
  if !weight then (if o.fmt = 9 then [8] else [])
  else if o.fmt ≤ 3 then (if o.sparse then [4, 32] else [32])
  else if o.fmt = 4 ∨ o.fmt = 5 then (if o.sparse then [4] else [])
  else if o.fmt = 9 then [8]
  else if o.fmt = 10 then [if o.gqZp then 32 else 16, 64, 16]
  else []

/-- R57, R229, R732: is a companion of elements of some bits refused? Its own COMPANIONS field is not checked (DESIGN CHOICE, log
entry 46). -/
def companionBad (o : Operand) (bits : Nat) : Bool :=
  roleBad o ((bits + 7) / 8) false || (bits = 4 && decide (o.size 0 % 2 = 1)) || o.space ≠ 0

/-- The zero point of an integer operand, as a code; a floating-point operand has none. -/
def zeroPoint (o : Operand) : Nat := if isIntFmt o.fmt then o.zpCode else 0

/-- R120: does a sparse weight carry a zero point? In a floating-point format the whole field counts. -/
def sparseZp (o : Operand) : Bool := o.sparse && if isIntFmt o.fmt then o.zpCode ≠ 0 else o.zp ≠ 0

/-- Checks of the companions of an operand: their number, their place in the table and each in its role. -/
def checkCompanions (ops : List Operand) (i : Nat) (weight optional : Bool) : List (Option Stop) :=
  let o := opAt ops i
  let sizes := companionBits o weight
  let bad := stopFormat i agentFrontEnd
  let count := o.companions = sizes.length || (optional && weight && o.fmt ≤ 3 && o.companions + 1 = sizes.length)
  stopIf (!count || ops.length < i + 1 + o.companions) bad ::
    (List.range o.companions).map fun j =>
      stopIf (companionBad (opAt ops (i + 1 + j)) (sizes.getD j 8)) (stopFormat (i + 1 + j) agentFrontEnd)

/-- A principal operand of a press instruction. -/
def checkPrincipal (ops : List Operand) (i : Nat) (sparse : Bool) : Option Stop :=
  stopIf (principalBad (opAt ops i) sparse false || (opAt ops i).space ≠ 0) (stopFormat i agentFrontEnd)

/-- The quantisation parameter operand of a press instruction. -/
def checkPressQp (ops : List Operand) (i : Nat) : Option Stop :=
  stopIf (roleBad (opAt ops i) 16 true || (opAt ops i).space ≠ 0 || (opAt ops i).companions ≠ 0)
    (stopFormat i agentFrontEnd)

/-- The operands of a MATMUL. -/
def checkMatmul (ops : List Operand) (k : PressInstr) : Option Stop :=
  let ia := k.opa.toNat
  let iw := k.opb.toNat
  let io := k.opout.toNat
  let a := opAt ops ia
  let w := opAt ops iw
  let o := opAt ops io
  let bad (i : Nat) : Stop := stopFormat i agentFrontEnd
  firstStop (
    [checkPrincipal ops ia false, checkPrincipal ops iw true, checkPrincipal ops io false,
     stopIf (o.companions ≠ 0) (bad io), checkPressQp ops k.opqp.toNat,
     stopIf (pressPair a.fmt w.fmt).isNone (bad iw), stopIf (blockFormat o) (bad io),
     stopIf (w.sparse && pressPair a.fmt w.fmt ≠ some true) (bad iw), stopIf (sparseZp w) (bad iw),
     stopIf (w.fmt = 10 && zeroPoint a ≠ 0) (bad ia)] ++
    checkCompanions ops ia false false ++ checkCompanions ops iw true (zeroPoint a = 0))

/-- The operands of an ELTWISE (R129, R733). -/
def checkEltwise (ops : List Operand) (k : PressInstr) : Option Stop :=
  let one (i : Nat) : Option Stop :=
    if i = 0xFF then none
    else firstStop [checkPrincipal ops i false,
      stopIf ((opAt ops i).companions ≠ 0 || blockFormat (opAt ops i)) (stopFormat i agentFrontEnd)]
  firstStop [one k.opa.toNat, one k.opb.toNat, one k.opout.toNat, checkPressQp ops k.opqp.toNat]

/-- The two ends of a DMA or COPY (R173, R179, R182, R288). -/
def checkMove (s : State) (n : Fin 8) (ops : List Operand) (i j : Nat) (nest : Bool) (depth : Nat) : Option Stop :=
  let src := opAt ops i
  let dst := opAt ops j
  let one (k : Nat) : Option Stop :=
    stopIf (principalBad (opAt ops k) false true || (opAt ops k).companions ≠ 0) (stopFormat k agentFrontEnd)
  let place (k : Nat) : Option Stop := stopIf (pressOutside s n (opAt ops k)) (stopOutside (opAt ops k).press.val k)
  firstStop [one i, one j, stopIf (src.fmt ≠ dst.fmt) (stopFormat j agentFrontEnd),
    stopIf (compressBad src dst nest depth) (stopFormat (if dst.compress ≠ 0 then j else i) agentFrontEnd),
    place i, place j]

/-! ### Instruction streams (R166, R169, R172) -/

/-- Parse an instruction of 32 bytes. -/
def parseInstr (l : List Byte) : PressInstr :=
  let nest := fieldNat l 7 1
  { opcode := byteAt l 0, iflags := byteAt l 1, opa := byteAt l 2, opb := byteAt l 3, opout := byteAt l 4
    opqp := byteAt l 5, mrows := byteAt l 6, depth := nest % 8, kdepth := nest / 8 % 8
    counts := (List.range 6).map fun i => fieldNat l (8 + 2 * i) 2
    arg := (l.drop 20).take 8, arg2 := (l.drop 28).take 4 }

/-- Does an opcode run a loop nest? -/
def runsNest (op : Nat) : Bool := op = 1 || op = 2 || op = 3

/-- Is a required operand missing, or an index beyond the table? -/
def indexBad (count : Nat) (required : Bool) (i : Byte) : Bool :=
  (i = 0xFF && required) || (i ≠ 0xFF && decide (count ≤ i.toNat))

/-- R169, R172: is an instruction refused? `raw` gives the reserved bits. -/
def instrBad (count : Nat) (raw : List Byte) (k : PressInstr) : Bool :=
  let op := k.opcode.toNat
  let sub := fieldNat k.arg2 0 4
  !(runsNest op || op = 4 || op = 5 || op = 6 || op = 0x0F) || bitsSet raw 1 0xFE || bitsSet raw 7 0xC0 ||
  (runsNest op && (6 < k.depth || k.depth < k.kdepth || k.mrows = 0 || 64 < k.mrows.toNat ||
    (k.counts.take k.depth).any fun c => decide (c = 0))) ||
  (op = 1 && (indexBad count true k.opa || indexBad count true k.opb || indexBad count true k.opout ||
    indexBad count true k.opqp)) ||
  (op = 2 && (indexBad count true k.opa || indexBad count (sub ≠ 8) k.opb || indexBad count true k.opout ||
    indexBad count true k.opqp || 8 < sub || (sub = 8 && k.opb ≠ 0xFF) || k.kdepth ≠ 0)) ||
  (op = 3 && (indexBad count true k.opa || indexBad count true k.opout)) ||
  ((op = 3 || op = 4) && 63 < fieldNat k.arg 0 1) || (op = 5 && 63 < fieldNat k.arg2 0 1)

/-- INSTRUCTION_INVALID. -/
def stopInstr (i press : Nat) : Stop := { status := 0x17, data := dataI i press }

/-- The operands of one instruction. -/
def checkRoles (s : State) (n : Fin 8) (ops : List Operand) (k : PressInstr) : Option Stop :=
  match k.opcode.toNat with
  | 1 => checkMatmul ops k
  | 2 => checkEltwise ops k
  | 3 => checkMove s n ops k.opa.toNat k.opout.toNat true k.depth
  | _ => none

/-- Read and check a stream from instruction i on, to its END. -/
def readStream (s : State) (q : Fin 256) (ops : List Operand) (press base : Nat) :
    Nat → Nat → Except Stop (List PressInstr)
  | 0, i => .error (stopInstr i press)
  | fuel + 1, i =>
    match frontRead s q (base + 32 * i) 32 with
    | .error e => .error e
    | .ok raw =>
      let k := parseInstr raw
      if instrBad ops.length raw k then .error (stopInstr i press)
      else match checkRoles s (s.parcelOf q) ops k with
      | some e => .error e
      | none =>
        if k.opcode = 0x0F then .ok [k]
        else (readStream s q ops press base fuel (i + 1)).map fun rest => k :: rest

/-- One entry of the press program table and its stream. -/
def readProgram (s : State) (q : Fin 256) (ops : List Operand) (table : Nat) (p : Fin 16) :
    Except Stop (Nat × List PressInstr) :=
  match frontRead s q (table + 16 * p.val) 16 with
  | .error e => .error e
  | .ok raw =>
    if 2 ^ 38 ≤ fieldNat raw 0 8 ∨ fieldNat raw 12 4 ≠ 0 then .error (stopInstr 0xFFFF p.val)
    else (readStream s q ops p.val (fieldNat raw 0 8) (fieldNat raw 8 4) 0).map fun l => (p.val, l)

/-- Operands whose FORMAT is ignored: companions and quantisation parameters of the streams (R164). -/
def ignoredFormats (ops : List Operand) (k : PressInstr) : List Nat :=
  let after (i : Nat) : List Nat := (List.range (opAt ops i).companions).map fun j => i + 1 + j
  match k.opcode.toNat with
  | 1 => k.opqp.toNat :: (after k.opa.toNat ++ after k.opb.toNat)
  | 2 => [k.opqp.toNat]
  | _ => []

/-- Is an operand the weight of a MATMUL, an end of a DMA or a parameter operand of the streams? -/
def usedAs (streams : List (Nat × List PressInstr)) (f : PressInstr → List Byte) (i : Nat) : Bool :=
  streams.any fun st => st.2.any fun k => (f k).any fun x => decide (x.toNat = i)

/-- The checks that every operand of the table meets, named by an instruction or not (R50, R57, R229, R732, R733). -/
def checkRest (ops : List Operand) (streams : List (Nat × List PressInstr)) (i : Nat) : Option Stop :=
  let o := opAt ops i
  let ignored := streams.any fun st => st.2.any fun k => (ignoredFormats ops k).contains i
  let weight := usedAs streams (fun k => if k.opcode = 1 then [k.opb] else []) i
  let factor := usedAs streams (fun k => if k.opcode = 1 then [k.opa, k.opb] else []) i
  let qp := usedAs streams (fun k => if k.opcode = 1 ∨ k.opcode = 2 then [k.opqp] else []) i
  let moved := usedAs streams (fun k => if k.opcode = 3 then [k.opa, k.opout] else []) i
  stopIf ((!ignored && (formatBad o || alignBad o (fmtBytes o.fmt) || (blockFormat o && !factor && !moved))) ||
    flagsBad o weight qp moved) (stopFormat i agentFrontEnd)

/-- Step 5 of R459 for a PRESS_PROGRAM command. -/
def checkPrograms (s : State) (q : Fin 256) (c : Cmd) (ops : List Operand) : Except Stop (List (Nat × List PressInstr)) :=
  match mapStop (readProgram s q ops c.program) (maskPresses c.pressMask) with
  | .error e => .error e
  | .ok streams =>
    match firstStop ((List.range ops.length).map (checkRest ops streams)) with
    | some e => .error e
    | none => .ok streams

/-! ### Rack maps (R505, Table 13.3) -/

/-- Range r of a rack map. -/
def rackRange (m : List Byte) (r : Nat) : Nat × Nat × Nat × Nat :=
  let at_ := 2064 + 16 * r
  (fieldNat m at_ 1 % 4, fieldNat m (at_ + 4) 4, fieldNat m (at_ + 8) 4, fieldNat m (at_ + 12) 4)

/-- Is a range of a rack map refused? -/
def rackRangeBad (s : State) (n : Fin 8) (m : List Byte) (r : Nat) : Bool :=
  let at_ := 2064 + 16 * r
  let g := rackRange m r
  let top := match g.1 with
    | 0 => 0x600000
    | 1 => 0x80000
    | _ => (vget s.cellar.shares.live n).size.toNat * 1048576
  g.1 = 3 || bitsSet m at_ 0xFC || fieldSet m (at_ + 1) 3 || decide (2 ^ 31 ≤ g.2.2.2) || decide (top < g.2.1 + g.2.2.1) ||
    g.2.2.1 = 0 || g.2.2.1 % 128 ≠ 0

/-- R505: is a rack map refused? `size` is the length of its object. -/
def rackMapBad (s : State) (n : Fin 8) (c : Cmd) (size : Nat) (m : List Byte) : Bool :=
  let len := fieldNat m 4 4
  let zeroed := m.take 8 ++ [0, 0, 0, 0] ++ m.drop 12
  len < 2064 || size < len || BitVec.ofNat 32 (fieldNat m 8 4) ≠ crc32 zeroed ||
  fieldNat m 0 2 ≠ c.pressMask.toNat || fieldNat m 2 1 = 0 || 16 < fieldNat m 2 1 || fieldSet m 3 1 || fieldSet m 12 4 ||
  (List.range 256).any (fun e =>
    fieldSet m (16 + 8 * e + 6) 2 ||
      (fieldNat m (16 + 8 * e + 4) 2 ≠ 0 &&
        decide (len < 2064 + 16 * (fieldNat m (16 + 8 * e) 4 + fieldNat m (16 + 8 * e + 4) 2)))) ||
  (List.range ((len - 2064) / 16)).any (rackRangeBad s n m)

/-- Read the rack map of a command: none when it fails its checks. -/
def readRackMap (s : State) (q : Fin 256) (c : Cmd) : Except Stop (Option (List Byte)) :=
  match s.object c.rackHandle with
  | none => .ok none
  | some o =>
    match frontRead s q o.base 16 with
    | .error e => .error e
    | .ok head =>
      let len := fieldNat head 4 4
      if len < 2064 ∨ o.length < len then .ok none
      else (frontRead s q o.base len).map fun m => if rackMapBad s (s.parcelOf q) c o.length m then none else some m

/-! ### The whole check -/

/-- Bytes of the parameter block that a command's kind fixes; 0 for kinds without one. -/
def blockLength (c : Cmd) : Nat :=
  match c.kind with
  | 2 => engineLength (c.target % 256)
  | 3 => 80
  | 5 => 32
  | _ => 0

/-- The parameter block; a block of a wrong length is not read. -/
def readParams (s : State) (q : Fin 256) (c : Cmd) : Except Stop (List Byte) :=
  if blockLength c = 0 ∨ c.paramLen ≠ blockLength c then .ok []
  else frontRead s q c.program (blockLength c)

/-- The operand table (R159, R162, R214). -/
def readOperands (s : State) (q : Fin 256) (c : Cmd) : Except Stop (List Operand) :=
  let k := c.operandCount
  (if k = 0 then .ok [] else frontRead s q (fieldNat c.desc 28 8) (64 * k)).map fun l =>
    (List.range k).map fun i => parseOperand (rtDims c.desc) ((l.drop (64 * i)).take 64)

/-- The checks of an ENGINE command's operands and block: `agent` is the unit that checks. -/
def checkEngine (s : State) (n : Fin 8) (agent e : Nat) (ops : List Operand) (len : Nat) (params : List Byte) :
    Option Stop :=
  if e = 4 then intakeChecks s n agent ops len params else engineChecks s n agent e ops len params

/-- The checks of step 5 that need no further read. -/
def checkKind (s : State) (n : Fin 8) (c : Cmd) (ops : List Operand) (params : List Byte) : Option Stop :=
  match c.kind with
  | 2 => checkEngine s n agentFrontEnd (c.target % 256) ops c.paramLen params
  | 3 => captureChecks ops c.paramLen params
  | 4 => checkMove s n ops 0 1 false 0
  | 5 => codecChecks s (c.target % 256) ops c.paramLen params
  | 6 | 7 => firstStop ((List.range ops.length).map (checkRest ops []))
  | _ => none

/-- Does a command ignore the descriptor of operand i (R319, R358)? -/
def operandIgnored (c : Cmd) (params : List Byte) (i : Nat) : Bool :=
  (c.kind = 3 && !captureUses params i) || (c.kind = 5 && codecIgnores (c.target % 256) params i)

/-- Steps 2 to 5 of R459. The rack map that fails its checks leaves `rackMap` empty. -/
def checkBody (s : State) (q : Fin 256) (c : Cmd) : Except Stop Cmd :=
  match checkOwner s (s.parcelOf q) c with
  | some e => .error e
  | none =>
  match checkObjects s q c with
  | .error e => .error e
  | .ok refs =>
  match checkAlias s refs with
  | some e => .error e
  | none =>
  match readOperands s q c with
  | .error e => .error e
  | .ok ops =>
  let early := firstStop ((List.range ops.length).map fun i =>
    stopIf (c.kind ≠ 3 && c.kind ≠ 5 && operandBad (opAt ops i)) (stopFormat i agentFrontEnd))
  match early with
  | some e => .error e
  | none =>
  match readParams s q c with
  | .error e => .error e
  | .ok params =>
  match firstStop ((List.range ops.length).map (fun i =>
      stopIf ((c.kind = 3 || c.kind = 5) && !operandIgnored c params i && operandBad (opAt ops i)) (stopFormat i agentFrontEnd)) ++
      [checkKind s (s.parcelOf q) c ops params]) with
  | some e => .error e
  | none =>
  let c1 := { c with objs := refs, operands := ops, params := params }
  if c.kind ≠ 1 then .ok c1
  else match checkPrograms s q c ops with
  | .error e => .error e
  | .ok streams =>
  if c.rackHandle = 0xFFFF then .ok { c1 with streams := streams }
  else (readRackMap s q c).map fun m => { c1 with streams := streams, rackMap := m }

/-- R158, R459: every check of a command, in order. -/
def checkCommand (s : State) (q : Fin 256) (c : Cmd) : Except Stop Cmd :=
  match checkDescriptor c.desc with
  | some e => .error e
  | none => checkBody s q c

end Sys2Proof.Machine
end

