-- ==== Sys2Proof/Machine/FrontEnd.lean ====
section
/-! DEFINITION. The queue front end (R452 to R483): submission, checking, starting and ending of commands, corks, and the
kinds of command that need no block of their own (COPY, CAPTURE, OBJECT_FREE, MARKER). -/

namespace Sys2Proof.Machine

/-! ### Submission (R457, R458, R471) -/

/-- Does an observer event belong to a queue's submit word? -/
def isSubmit (q : Fin 256) : ObserverEvent → Bool
  | .submit p _ => p = q
  | _ => false

/-- R483, R703: an error of a queue on its QGRP page; the host wrote the value. -/
def queueError (q : Fin 256) (code : BitVec 16) (s : State) : State :=
  pageError (pgQueue q) code (BitVec.ofNat 32 q.val) 0 0x40 s

/-- Table 12.2: the TAIL half of a submit word. -/
def acceptTail (q : Fin 256) (t : Word) (s : State) : State :=
  let x := s.queue q
  if t = x.tail then s
  else if (t - x.tail).toNat < 2 ^ 31 ∧ (t - x.read).toNat ≤ x.cfg.live.size.toNat then
    s.updQueue q fun x => { x with
      tail := t
      submitTimes := x.submitTimes ++ (List.range (t - x.tail).toNat).map fun i => (x.tail + BitVec.ofNat 32 i, s.time) }
  else queueError q 1 s

/-- R471: the CONSUMED half of a submit word. -/
def acceptConsumed (q : Fin 256) (c : Word) (s : State) : State :=
  let x := s.queue q
  if (c - x.consumed).toNat ≤ (x.nextCork - x.consumed).toNat then s.updQueue q fun x => { x with consumed := c }
  else queueError q 2 s

/-- What the front end does with one submit word (R457, R458). -/
def takeSubmit (q : Fin 256) (word : Long) (s : State) : State :=
  if !(s.queue q).cfg.live.en then queueError q 3 s
  else acceptConsumed q ((word >>> 32).setWidth 32) (acceptTail q (word.setWidth 32) s)

/-- Has a queue a submitted command that the front end is to check (R459, R475)? -/
def unchecked (s : State) (q : Fin 256) : Bool :=
  let x := s.queue q
  x.cfg.live.en && !x.stopped && x.read ≠ x.tail

/-- R735: the next queue in round-robin order, after the one that joined last, whose command is to be checked and is not yet. -/
def nextCheck (s : State) : Option (Fin 256) :=
  ((List.range 256).map fun i => s.checkTurn + Fin.ofNat 256 (i + 1)).find? fun q => unchecked s q && !s.checking.contains q

/-- The next queue joins those being checked, of which there are at most four. -/
def joinCheck (s : State) : State :=
  if 4 ≤ s.checking.length then s
  else match nextCheck s with
  | none => s
  | some q => { s with checking := s.checking ++ [q], checkTurn := q }

/-- R735: up to four commands are under their checks, each of another queue. -/
def fillChecks (s : State) : State :=
  joinCheck (joinCheck (joinCheck (joinCheck { s with checking := s.checking.filter (unchecked s) })))

/-- SUBMIT_WORD_WRITE: the front end takes the oldest observer event of a queue's submit word. -/
def stepSubmitWord (q : Fin 256) (s : State) : State :=
  if s.safety.safe then s
  else match s.port.observer.find? (isSubmit q) with
  | some (.submit _ w) =>
    fillChecks (takeSubmit q w { s with port := { s.port with observer := dropEvent (isSubmit q) s.port.observer } })
  | _ => s

/-- SUBMIT_WORD_WRITE. -/
def execSubmitWordWrite (q : Fin 256) (s : State) : Host.Outcome State Fault Refusal := answer (stepSubmitWord q) s

/-- Take every submit word of a queue that was written so far. -/
def takeSubmits : Nat → Fin 256 → State → State
  | 0, _, s => s
  | fuel + 1, q, s => if s.port.observer.any (isSubmit q) then takeSubmits fuel q (stepSubmitWord q s) else s

/-! ### The forward queue (R436, R437, R447) -/

/-- R436, R437: has the first link of the route to a device room for a forwarded write? -/
def forwardRoom (s : State) (dev : Nat) : Bool :=
  match routeOut s dev with
  | none => false
  | some i => (s.link i).state = 2 && (s.link i).backlog.isEmpty && decide ((s.link i).replay.length < 128)

/-- The first writes for a device, up to `n` of them, and the rest of the queue in its order. -/
def takeWrites (dev : Fin 64) : Nat → List Forward → List Forward × List Forward
  | _, [] => ([], [])
  | n, w :: rest =>
    if w.dev = dev && decide (0 < n) then
      let r := takeWrites dev (n - 1) rest
      (w :: r.1, r.2)
    else
      let r := takeWrites dev n rest
      (r.1, w :: r.2)

/-- R447: the news of the host's sleep that nothing is ahead of any longer leaves. -/
def pumpNotices (s : State) : State :=
  let due := s.port.notices.filter fun x => x.ahead = 0
  foldState (fun x s => s.send (.hostSleep x.dev x.asleep)) due
    { s with port := { s.port with notices := s.port.notices.filter fun x => x.ahead ≠ 0 } }

/-- R437: one flit takes up to three writes of one device. -/
def forwardFlit (dev : Fin 64) (s : State) : State :=
  let r := takeWrites dev 3 s.port.forward
  let owed (x : SleepNotice) : SleepNotice := if x.dev = dev then { x with ahead := x.ahead - r.1.length } else x
  State.send { s with port := { s.port with forward := r.2, notices := s.port.notices.map owed } } (.forwarded r.1)

/-- R436, R437: entries of the forward queue leave in order while the first link of their route has room; those behind a link
that has none wait. -/
def pumpForwards : Nat → State → State
  | 0, s => s
  | fuel + 1, s =>
    match s.port.forward.find? fun w => forwardRoom s w.dev.val with
    | none => s
    | some w => pumpForwards fuel (forwardFlit w.dev s)

/-- Let the forward queue drain, and the news behind it. -/
def pumpForward (s : State) : State := pumpNotices (pumpForwards s.port.forward.length s)

/-! ### Replies that wait for a queue (R557, R567, R569, R736) -/

/-- Has the ring room for one more descriptor (R456)? -/
def ringRoom (q : Queue) : Bool := q.cfg.live.en && decide ((q.tail - q.read).toNat < q.cfg.live.size.toNat)

/-- Ring entry of the command that TAIL numbers (R454). -/
def tailEntry (q : Queue) : Nat := (q.readEntry - 1 + (q.tail - q.read).toNat) % q.cfg.live.size.toNat + 1

/-- R569: a descriptor goes into the ring and the submit word is written, as the host driver would. -/
def placeDescriptor (q : Fin 256) (desc : List Byte) (s : State) : State :=
  let x := s.queue q
  let word := (x.tail + 1).toNat + x.consumed.toNat * 2 ^ 32
  takeSubmit q (BitVec.ofNat 64 word)
    (s.updWindow fun m => (m.writeBytes (ringBase q + 64 * tailEntry x) desc).writeNat (ringBase q) 8 word)

/-- R569: the lead places a descriptor for another device's queue through the forward queue. Where that device's TAIL stands, and
what the host driver has consumed, the spec does not tell the lead: free. -/
def forwardDescriptor (dev : Fin 64) (q : Fin 256) (desc : List Byte) (s : State) : State :=
  let entry := (Config.freeWord s.freeCtr 5).toNat % 511 + 1
  let word := leBytes 4 (Config.freeWord s.freeCtr 6).toNat ++ leBytes 4 (Config.freeWord s.freeCtr 7).toNat
  let put (off : Nat) (l : List Byte) : Forward := { dev := dev, offset := BitVec.ofNat 27 off, data := l.map some }
  { s.bump with port := { s.port with
    forward := s.port.forward ++ [put (ringBase q + 64 * entry) desc, put (ringBase q) word] } }

/-- The MUX_SUBMIT that waits on a pair: its request, stream and descriptor. -/
def muxJob (s : State) (p : Fin 8) : Option (Word × Nat × List Byte) :=
  match (s.pair p).job with
  | some (.muxing seq stream desc) => some (seq, stream, desc)
  | _ => none

/-- The number under which a stream's backing queue is known among those of every device. -/
def Mux.key (m : Mux) : Nat := 256 * m.dev.val + m.queue.val

/-- How far a stream is from its turn at its backing queue. -/
def muxDistance (s : State) (m : Mux) (stream : Nat) : Nat :=
  (stream + 4096 - ((lookupKey s.fw.muxTurn m.key).getD 4095 + 1)) % 4096

/-- Can a descriptor be placed for a stream: room in the ring, or in the forward queue? -/
def muxRoom (s : State) (m : Mux) : Bool :=
  if m.dev.val = self s then ringRoom (s.queue m.queue) else decide (s.port.forward.length + 2 ≤ 4096)

/-- A MUX_SUBMIT whose descriptor can be placed: its pair, its stream's binding, its request, stream and descriptor. -/
structure MuxTurn where
  pair : Fin 8
  mux : Mux
  seq : Word
  stream : Nat
  desc : List Byte

/-- The MUX_SUBMIT of a waiting pair, when its descriptor can be placed. -/
def muxReady (s : State) (p : Fin 8) : Option MuxTurn :=
  match muxJob s p with
  | none => none
  | some (seq, stream, desc) => match lookupKey s.fw.muxes stream with
    | none => none
    | some m => if muxRoom s m then some { pair := p, mux := m, seq := seq, stream := stream, desc := desc } else none

/-- The earlier of two: of one backing queue the one whose stream's turn comes first, else the one that has waited longer. -/
def muxFirst (s : State) (a x : MuxTurn) : MuxTurn :=
  if x.mux.key = a.mux.key && decide (muxDistance s x.mux x.stream < muxDistance s a.mux a.stream) then x else a

/-- Of the waiting pairs whose descriptor can be placed, the one that comes next. -/
def muxNext (s : State) : Option MuxTurn :=
  match s.fw.muxWaiting.filterMap (muxReady s) with
  | [] => none
  | x :: rest => some (rest.foldl (muxFirst s) x)

/-- Place the descriptor of a turn. -/
def placeTurn (t : MuxTurn) (s : State) : State :=
  if t.mux.dev.val = self s then placeDescriptor t.mux.queue t.desc s
  else pumpForward (forwardDescriptor t.mux.dev t.mux.queue t.desc s)

/-- Place waiting descriptors while there is room, and reply to each. -/
def settleMux : Nat → State → State
  | 0, s => s
  | fuel + 1, s => match muxNext s with
    | none => s
    | some t =>
      let s1 := placeTurn t { s with fw := { s.fw with
        muxTurn := putKey s.fw.muxTurn t.mux.key t.stream, muxWaiting := s.fw.muxWaiting.filter fun w => decide (w ≠ t.pair) } }
      settleMux fuel (finishJob t.pair 0x79 t.seq 0 [] s1)

/-- Is an accepted CODEC command of a stream not yet retired (R567)? -/
def streamBusy (s : State) (stream : Nat) : Bool :=
  s.queues.toList.any fun q => q.cmds.any fun c => c.kind = 5 && c.holding && fieldNat c.params 0 1 = stream

/-- R567: the stream goes and its reservation with it. -/
def closeStream (stream : Nat) (s : State) : State :=
  { s with codec := { s.codec with streams := dropKey s.codec.streams stream } }

/-- The reply of a pair whose STREAM_CLOSE or PRESS_FAIL waited, when its condition now holds. -/
def settlePair (p : Fin 8) (s : State) : State :=
  match (s.pair p).job with
  | some (.closing seq stream) => if streamBusy s stream then s else finishJob p 0x51 seq 0 [] (closeStream stream s)
  | some (.failing seq press) => if (s.press press).sequencer.isSome then s else finishJob p 0x60 seq 0 [] s
  | _ => s

/-- Write the replies that are no longer owed a wait. -/
def settleJobs (s : State) : State :=
  if firmwareUp s then settleMux 9 (foldState settlePair (List.finRange 8) s) else s

/-- R476: RESUME.GO of a stopped queue cancels what was submitted before it. -/
def resumeGo (q : Fin 256) (s0 : State) : State :=
  if s0.safety.safe then s0
  else
    let s := takeSubmits s0.port.observer.length q s0
    let x := s.queue q
    if x.stopped && x.resume.isNone then sweepQueue q (s.updQueue q fun x => { x with resume := some x.tail }) else s

/-! ### Checking (R158, R402, R459) -/

/-- The failure that an ended command hands to those that wait on it (R478). -/
def failureRoot (c : Cmd) : Option Word :=
  match c.phase with
  | .ended st data => if st = 0 ∨ st = 1 then none else some (if st = 2 then data.setWidth 32 else c.seq)
  | _ => none

/-- Earlier, unretired commands of a queue that name as an output what a command names as an input (R40). -/
def inputWriters (q : Queue) (refs : List ObjRef) : List Cmd :=
  q.cmds.filter fun e => e.objs.any fun o => o.isOut && refs.any fun r => r.isIn && decide (r.handle = o.handle)

/-- May a queue start commands now (R447, R470, R672)? -/
def mayStart (s : State) (qn : Fin 256) : Bool :=
  let q := s.queue qn
  q.cfg.live.en && !s.safety.safe && !hostAsleep s && decide (corksHeld q < 64)

/-- Mark a command started, its waiting time closed. -/
def markStart (qn : Fin 256) (seq : Word) (f : Phase → Phase) (s : State) : State :=
  traceEvent 0x38 0x0200 (s.updCmd qn seq fun c => { closeInterval s.time c with phase := f c.phase })

/-- R402, R40: a command that passed its checks enters its queue with its holds and its waits. -/
def enterQueue (q : Fin 256) (c : Cmd) (s : State) : State :=
  let writers := if c.kind = 7 then [] else inputWriters (s.queue q) c.objs
  let c1 := { c with
    phase := .checked
    holding := c.kind ≠ 7
    waits := (writers.filter fun e => !e.phase.isEnded).map fun e => e.seq
    doomed := (writers.filterMap failureRoot).head? }
  (if c.kind = 7 then s else takeHolds c.objs s).updQueue q fun x => { x with cmds := x.cmds ++ [c1] }

/-- An OBJECT_FREE command starts at its acceptance whatever stands before it (R462), unless its queue starts no command now
(R447, R470). -/
def acceptCmd (q : Fin 256) (c : Cmd) (s : State) : State :=
  let s1 := enterQueue q c s
  sweepQueue q (if c.kind = 7 && mayStart s1 q then markStart q c.seq (fun _ => .started) s1 else s1)

/-- R158: a rejected command takes its place in the queue and ends. -/
def rejectCmd (q : Fin 256) (c : Cmd) (e : Stop) (s : State) : State :=
  let c1 := { c with objs := namedObjects s q c }
  endCmd q c.seq e.status e.data (noteFault (s.parcelOf q) e (s.updQueue q fun x => { x with cmds := x.cmds ++ [c1] }))

/-- R505: the error of a rack map that failed its checks. -/
def noteRackMap (q : Fin 256) (c : Cmd) (s : State) : State :=
  if c.kind = 1 && c.rackHandle ≠ 0xFFFF && c.rackMap.isNone then
    pageError (pgParcel (s.parcelOf q)) 2 (BitVec.ofNat 32 c.rackHandle)
      (BitVec.ofNat 64 (q.val + c.seq.toNat * 2 ^ 32)) 0x38 s
  else s

/-- What translation has fixed of the folded program at an address (R190, R191). -/
def planOf (s : State) (n : Fin 8) (program : Nat) : Option FoldPlan :=
  s.fw.folds.find? fun f => decide (f.parcel = n) && decide (f.program = program % 2 ^ 38)

/-- The command that the front end reads next. -/
def readCmd (q : Fin 256) (s : State) : Cmd :=
  let c := nextEntryCmd s q
  { c with
    twinned := c.twinFlag || (c.kind = 1 && twinForced s)
    fold := if c.kind = 1 then planOf s (s.parcelOf q) c.program else none }

/-- The checks of a queue's next command come to their end (R459). A read that is held leaves the command under its checks
(R383). -/
def checkNext (q : Fin 256) (s : State) : State :=
  let c := readCmd q s
  let s1 := { (s.updQueue q takeEntry) with checking := s.checking.filter fun x => decide (x ≠ q) }
  match checkCommand s q c with
  | .error e => if e.held then s else rejectCmd q c e s1
  | .ok c1 => acceptCmd q c1 (noteRackMap q c1 s1)

/-- COMMAND_CHECK: the next submitted descriptor of a queue is read and checked, when its turn has come (R459, R735); in a stopped
queue the front end cancels (R475). -/
def stepCommandCheck (q : Fin 256) (s : State) : State :=
  let x := s.queue q
  if s.safety.safe || !x.cfg.live.en then s
  else if x.stopped then settleJobs (sweepQueue q s)
  else
    let s1 := fillChecks s
    if s1.checking.contains q then settleJobs (fillChecks (checkNext q s1)) else s1

/-- COMMAND_CHECK. -/
def execCommandCheck (q : Fin 256) (health : ReadHealth) (s : State) : Host.Outcome State Fault Refusal :=
  answerNoting health (stepCommandCheck q) s

/-! ### Starting (R460, R463, R490 to R492, R531) -/

/-- The commands of a queue before one. -/
def earlierCmds (q : Queue) (seq : Word) : List Cmd := q.cmds.takeWhile fun c => decide (c.seq ≠ seq)

/-- Is a command a fence: a MARKER or a BARRIER? -/
def isFence (c : Cmd) : Bool := c.kind = 6 || c.kind = 8

/-- R463, R531: the fences of a queue. -/
def fencesMet (q : Queue) (c : Cmd) : Bool :=
  let before := earlierCmds q c.seq
  if isFence c then before.all fun e => e.phase.isEnded else before.all fun e => !isFence e || e.phase.isEnded

/-- Is a press free (R490) and permitted to start a command (R145; R148, CTRL.EN)? CTRL.EN = 0 holds back a resumption and a restart
too: DESIGN CHOICE, log 49; R148 names new commands. -/
def pressFree (s : State) (p : Fin 16) : Bool :=
  (s.press p).en && !s.failed.getLsbD p.val && (s.press p).sequencer.isNone && decide ((s.press p).mode ≠ .killing)

/-- Are all the presses that a command occupies free? -/
def pressesFree (s : State) (n : Fin 8) (c : Cmd) : Bool := (occupied s n c).all (pressFree s)

/-- Has a command started before: is it suspended or re-queued? -/
def resumes (c : Cmd) : Bool :=
  match c.phase with
  | .requeued | .suspended _ => true
  | _ => false

/-- The first command of a queue that has not started, when its order allows it (R460, R463, R464). -/
def freshStart (q : Queue) : Option Cmd :=
  if q.cmds.any fun c => c.phase = .requeued then none
  else match q.cmds.find? fun c => c.phase.isChecked && c.kind ≠ 7 with
  | none => none
  | some c => if c.waits.isEmpty && c.doomed.isNone && fencesMet q c then some c else none

/-- The commands that a queue could start or resume now if their blocks accept them: an OBJECT_FREE that has not started (R462),
those that have started before, then the first that has not. -/
def startable (q : Queue) : List Cmd :=
  (q.cmds.filter fun c => c.kind = 7 && c.phase.isChecked) ++ q.cmds.filter resumes ++ (freshStart q).toList

/-- Place of a queue in the round robin of its parcel (R491). -/
def turnOf (s : State) (q : Fin 256) : Nat := (q - (s.parcel (s.parcelOf q)).lastQueue - 1).val

/-- R491: does the arbiter prefer command `a` of queue `qa` to command `b` of queue `qb`? -/
def prefers (s : State) (qa : Fin 256) (a : Cmd) (qb : Fin 256) (b : Cmd) : Bool :=
  let holder := (s.parcel (s.parcelOf qb)).holder
  let ha := decide (holder = some a.context)
  let hb := decide (holder = some b.context)
  if ha ≠ hb then ha
  else if qa = qb then if resumes a == resumes b then earlier a.seq b.seq else resumes a
  else decide (turnOf s qa < turnOf s qb)

/-- R491: is a press that a command needs wanted by a ready command that the arbiter prefers? -/
def outranked (s : State) (qn : Fin 256) (c : Cmd) : Bool :=
  let n := s.parcelOf qn
  let mine := occupied s n c
  (List.finRange 256).any fun q => decide (s.parcelOf q = n) && mayStart s q &&
    (startable (s.queue q)).any fun d => d.kind = 1 && !(q = qn && d.seq = c.seq) &&
      (occupied s n d).any (fun p => mine.contains p) && prefers s q d qn c

/-- Commands on their way to a pipeline or pending at it (R322). -/
def capturesHeld (s : State) (n : Fin 16) : Nat :=
  (s.pipe n).pendingCaptures.length +
    (s.queues.toList.map fun q => q.cmds.countP fun c => c.kind = 3 && c.phase = .started && c.target % 16 = n.val).foldl (· + ·) 0

/-- Does its block accept a command now (R460)? -/
def blockAccepts (s : State) (qn : Fin 256) (c : Cmd) : Bool :=
  let n := s.parcelOf qn
  match c.kind with
  | 1 => pressesFree s n c && !outranked s qn c
  | 3 => decide (capturesHeld s (Fin.ofNat 16 (c.target % 16)) < 4)
  | 6 => (openIdents s.vine).contains (BitVec.ofNat 16 c.target) || decide ((openIdents s.vine).length < 16)
  | _ => true

/-- R492: a command of a context starts or resumes. -/
def takeHolder (n : Fin 8) (context : BitVec 16) (s : State) : State :=
  let p := s.parcel n
  let active := s.queues.toList.any fun q => q.cfg.live.en && q.cfg.live.parcel.toFin = n &&
    q.cmds.any fun c => c.kind = 1 && (c.phase.occupies || c.ready) && decide (p.holder = some c.context)
  if active then s else s.updParcel n fun x => { x with holder := some context, sliceStart := s.time }

/-- A press takes up a command (R112, R131, R234): its counters 0 to 62 are 0 when its Cask is in PRESS_MASK, its
accumulators are undefined, and its sequencer stands at the first instruction. -/
def seatPress (qn : Fin 256) (c : Cmd) (twinOf peer : Option (Fin 16)) (p : Fin 16) (s : State) : State :=
  s.bump.updPress p fun x => { x with
    mode := .idle, shadow := none, topping := 0, context := c.context
    twin := peer.isSome, twinRole := twinOf.isSome, twinPeer := (peer.map fun k => BitVec.ofFin k).getD 0
    accumulators := x.accumulators.wipe 0 0x80000 s.freeCtr
    sideStore := x.sideStore.wipe 0 0x1000 s.freeCtr
    arrive := if twinOf.isSome then x.arrive else vmap x.arrive fun i v => if i.val < 63 then 0 else v
    sequencer := some { queue := qn, seq := c.seq, twinOf := twinOf, index := 0, ended := false, waiting := false
                        stopped := false, point := 0, passedPoint := false, jobs := []
                        children := 0, drains := [] } }

/-- Seat a command on its presses and their twins. -/
def seatAll (qn : Fin 256) (c : Cmd) (s : State) : State :=
  let n := s.parcelOf qn
  foldState (fun p s =>
    let peer := if c.twinned then twinPress s n p else none
    let s1 := seatPress qn c none peer p s
    match peer with
    | none => s1
    | some t => seatPress qn c (some p) (some p) t s1) (maskPresses c.pressMask) s

/-- R190, R234: at the first instruction counters 0 to 62 of each fold image of the program are 0 as well; counter 63 stays (DESIGN
CHOICE, log entry 53). -/
def clearImages (qn : Fin 256) (c : Cmd) (s : State) : State :=
  match c.fold with
  | none => s
  | some f =>
    let cx : Cx := { parcel := s.parcelOf qn, agent := agentFrontEnd, own := none, queue := some qn }
    foldState (fun a s => match writeRange s cx 2 0 (a : Int) (List.replicate 252 0) with
      | .error _ => s
      | .ok ws => s.writeLocs ws) f.images s

/-- A PRESS_PROGRAM command starts or resumes. -/
def startProgram (qn : Fin 256) (c : Cmd) (s : State) : State :=
  let n := s.parcelOf qn
  let s1 := (takeHolder n c.context s).updParcel n fun p => { p with lastQueue := qn }
  match c.phase with
  | .suspended k => markStart qn c.seq (fun _ => .restoring k) (seatAll qn c s1)
  | _ => markStart qn c.seq (fun _ => .started) (seatAll qn c (clearImages qn c s1))

/-- The engine job of a top-level ENGINE command. -/
def topJob (qn : Fin 256) (c : Cmd) (s : State) : EngineJob :=
  { queue := qn, seq := c.seq, press := none, counter := 0, parcel := s.parcelOf qn, twinned := c.twinFlag
    operands := c.operands, params := c.params }

/-- R531, R532: a BARRIER command that starts takes the next generation of its identifier and an entry, in which it waits. -/
def takeGeneration (qn : Fin 256) (c : Cmd) (s : State) : State :=
  let ident := BitVec.ofNat 16 c.target
  let gen := (lookupKey s.vine.generations ident.toNat).getD 0
  { s with vine := { s.vine with
    generations := putKey s.vine.generations ident.toNat (gen + 1)
    barriers := s.vine.barriers ++
      [{ ident := ident, gen := gen, arrivedAt := s.time, tRel := none, queue := qn, seq := c.seq }] } }

/-- Start a command at its block. -/
def startCmd (qn : Fin 256) (c : Cmd) (s : State) : State :=
  match c.kind with
  | 1 => startProgram qn c s
  | 2 =>
    markStart qn c.seq (fun _ => .running) (s.updEngine (Fin.ofNat 6 (c.target % 256)) fun e =>
      { e with waiting := e.waiting ++ [topJob qn c s], asleep := false })
  | 5 =>
    markStart qn c.seq (fun _ => .running)
      (assignCores { s with codec := { s.codec with waiting := s.codec.waiting ++ [(qn, c.seq)] } })
  | 6 => markStart qn c.seq (fun _ => .started) (takeGeneration qn c s)
  | _ => markStart qn c.seq (fun _ => .started) s

/-- R146: the status with which a command that has not started, or that KILL re-queued, ends where a press that it needs has
failed. -/
def failedNeed (s : State) (q : Fin 256) (c : Cmd) : Option Stop :=
  if c.kind = 1 then stopFailed (neededMask s (s.parcelOf q) c &&& s.failed) else none

/-- COMMAND_START: the first command of the queue that can starts or resumes, its waits met and its block accepting it (R460,
R464, R490, R491). A command that needs a failed press ends instead (R146). -/
def stepCommandStart (q : Fin 256) (s : State) : State :=
  if !mayStart s q then s
  else match (startable (s.queue q)).find? fun c => (failedNeed s q c).isSome || blockAccepts s q c with
  | none => s
  | some c =>
    match failedNeed s q c with
    | some e => endCmd q c.seq e.status e.data s
    | none => startCmd q c s

/-- COMMAND_START. -/
def execCommandStart (q : Fin 256) (s : State) : Host.Outcome State Fault Refusal := answer (stepCommandStart q) s

/-! ### Ending (R460, R466, R468 to R473) -/

/-- COMMAND_COMMIT: every write of a command has completed, and it commits. -/
def stepCommandCommit (q : Fin 256) (seq : Word) (s : State) : State :=
  match s.cmd q seq with
  | none => s
  | some c =>
    match c.phase with
    | .written st data => endCmd q seq st data s
    | _ => s

/-- COMMAND_COMMIT. -/
def execCommandCommit (q : Fin 256) (seq : Word) (s : State) : Host.Outcome State Fault Refusal :=
  answer (stepCommandCommit q seq) s

/-- Table 12.3. -/
def corkRecord (s : State) (q : Fin 256) (c : Cmd) (status : Byte) (data : Long) : List Byte :=
  (c.desc.drop 4).take 8 ++ leBytes 4 c.seq.toNat ++ leBytes 1 q.val ++ leBytes 1 (self s) ++ [status] ++
    leBytes 1 (bit c.quiet + 2 * bit c.twinFlag + 4 * bit c.requeued % 8) ++ leBytes 8 data.toNat ++
    leBytes 8 c.tEnd.toNat

/-- R469, R444: an appended cork raises the queue's wire unless it is quiet; a remote device leaves the event for the
record's echo. -/
def corkWire (q : Fin 256) (c : Cmd) (s : State) : State :=
  let w := (s.queue q).cfg.live.wire
  noteEcho (corkLog q + 32 * (c.seq.toNat % 128)) 32 (if c.quiet then none else some w) (if c.quiet then s else raiseWire w s)

/-- R404: an object with a release pending and no holds is released, and the OBJECT_FREE command that freed it ends. -/
def releaseIfFree (h : Nat) (s : State) : State :=
  match s.object h with
  | none => s
  | some o =>
    if o.releasePending && o.holds = 0 then
      let s1 := releaseObject h s
      { s1 with queues := vmap s1.queues fun _ q =>
        if q.cfg.live.parcel.toFin ≠ o.parcel then q
        else { q with cmds := q.cmds.map fun c =>
          if c.kind = 7 && c.phase = .running && c.target % 65536 = h then { c with phase := .written 0 0 } else c } }
    else s

/-- R402: the holds of a retiring command fall. -/
def dropHolds (c : Cmd) (s : State) : State :=
  if !c.holding then s
  else foldState (fun r s => releaseIfFree r.handle
    (s.updObject r.handle fun o => { o with holds := o.holds - 1 })) c.objs s

/-- Add a retired command to an accounting slot (R509). -/
def creditSlot (s : State) (c : Cmd) (a : AcctSlot) : AcctSlot :=
  { a with preempted := a.preempted + BitVec.ofNat 32 c.preempted
           waitCycles := a.waitCycles + BitVec.ofNat 64 (fabricCycles s c.waitNs)
           runCycles := a.runCycles + BitVec.ofNat 64 (fabricCycles s c.runNs)
           retired := a.retired + 1 }

/-- An accounting slot that counts nothing yet. -/
def freshSlot (context : BitVec 16) (parcel : BitVec 3) : AcctSlot :=
  { context := context, parcel := parcel, preempted := 0, waitCycles := 0, runCycles := 0, retired := 0 }

/-- R508, R509: account for a retired command. -/
def account (n : Fin 8) (c : Cmd) (s : State) : State :=
  let a := s.acct
  let mine (x : AcctSlot) : Bool := x.context = c.context && x.parcel = BitVec.ofFin n
  if a.slots.any mine then
    { s with acct := { a with slots := a.slots.map fun x => if mine x then creditSlot s c x else x } }
  else if a.slots.length < 4095 then
    { s with acct := { a with slots := a.slots ++ [creditSlot s c (freshSlot c.context (BitVec.ofFin n))] } }
  else
    let m := a.merged.getD (freshSlot 0xFFFF ((Config.freeWord 0 65537).setWidth 3))
    { s with acct := { a with merged := some (creditSlot s c m) } }

/-- CORK_APPEND: the cork of the queue's next command is appended once log space allows, and its holds fall. -/
def stepCorkAppend (q : Fin 256) (s : State) : State :=
  let x := s.queue q
  if s.safety.safe || 128 ≤ (x.nextCork - x.consumed).toNat then s
  else match x.find x.nextCork with
  | none => s
  | some c =>
    match c.phase with
    | .ended st data =>
      let s1 := s.updWindow fun m =>
        m.writeBytes (corkLog q + 32 * (c.seq.toNat % 128)) (corkRecord s q c st data)
      let s2 := s1.updQueue q fun x => { x with
        nextCork := x.nextCork + 1, cmds := x.cmds.filter fun d => decide (d.seq ≠ c.seq) }
      settleJobs (sweepQueue q (account (s.parcelOf q) c (dropHolds c (corkWire q c s2))))
    | _ => s

/-- CORK_APPEND. -/
def execCorkAppend (q : Fin 256) (s : State) : Host.Outcome State Fault Refusal := answer (stepCorkAppend q) s

/-! ### Kinds that need no block of their own -/

/-- The command of a queue that its start has brought to its block. -/
def startedOf (s : State) (q : Fin 256) (seq : Word) (kind : Nat) : Option Cmd :=
  if s.safety.safe then none
  else match s.cmd q seq with
  | none => none
  | some c => if c.kind = kind && c.phase = .started then some c else none

/-- Set the phase of a command. -/
def setPhase (q : Fin 256) (seq : Word) (ph : Phase) (s : State) : State := s.updCmd q seq fun c => { c with phase := ph }

/-- PRESS_PROGRAM: the presses of a started command begin their streams. -/
def stepPressProgram (q : Fin 256) (seq : Word) (s : State) : State :=
  match startedOf s q seq 1 with
  | none => s
  | some _ => setPhase q seq .running s

/-- PRESS_PROGRAM. -/
def execPressProgram (q : Fin 256) (seq : Word) (s : State) : Host.Outcome State Fault Refusal :=
  answer (stepPressProgram q seq) s

/-- CAPTURE: a capture command reaches its pipeline and waits for the next frame or strip (R36, R322). -/
def stepCapture (q : Fin 256) (seq : Word) (s : State) : State :=
  match startedOf s q seq 3 with
  | none => s
  | some c =>
    let n : Fin 16 := Fin.ofNat 16 (c.target % 16)
    (setPhase q seq .running s).updPipe n fun p => { p with
      pendingCaptures := p.pendingCaptures ++ [{ queue := q, seq := seq, parcel := s.parcelOf q, arrived := s.time }] }

/-- CAPTURE. -/
def execCapture (q : Fin 256) (seq : Word) (s : State) : Host.Outcome State Fault Refusal := answer (stepCapture q seq) s

/-- R182: at its end, a copy into a Cask raises that Cask's counter 63. -/
def signalCopy (dst : Operand) (s : State) : State :=
  if dst.space = 0 then s.updPress dst.press fun x => { x with arrive := vupd x.arrive 63 fun v => v + 1 } else s

/-- COPY (R182, R183): the whole copy, or the kill at its first fault. One through the compressor waits for its lane (R295). -/
def stepCopy (q : Fin 256) (seq : Word) (s : State) : State :=
  match startedOf s q seq 4 with
  | none => s
  | some c =>
    let cx : Cx := { parcel := s.parcelOf q, agent := agentCopy, own := none, queue := some q }
    let src := opAt c.operands 0
    let dst := opAt c.operands 1
    if (compressEnds src dst).isSome && laneHeld s (queueLane q) then s
    else
      let r := copyView cx (queueLane q) src dst s
      match r.2 with
      | some e => if e.held then s else killCmd q seq e r.1
      | none => setPhase q seq (.written 0 0) (signalCopy dst r.1)

/-- COPY. -/
def execCopy (q : Fin 256) (seq : Word) (health : ReadHealth) (s : State) : Host.Outcome State Fault Refusal :=
  answerNoting health (stepCopy q seq) s

/-- R509: a command that is rejected adds waiting time alone. -/
def unstart (q : Fin 256) (seq : Word) (s : State) : State :=
  s.updCmd q seq fun c =>
    let d := closeInterval s.time c
    { d with phase := .checked, waitNs := d.waitNs + d.runNs, runNs := 0 }

/-- OBJECT_FREE (R404): release at once, set RELEASE_PENDING, or reject an object that has gone meanwhile. -/
def stepObjectFree (q : Fin 256) (seq : Word) (s : State) : State :=
  match startedOf s q seq 7 with
  | none => s
  | some c =>
    let h := c.target % 65536
    if !objectUsable s (s.parcelOf q) h then endCmd q seq 0x14 (dataI h 0) (unstart q seq s)
    else releaseIfFree h (setPhase q seq .running (s.updObject h fun o => { o with releasePending := true }))

/-- OBJECT_FREE. -/
def execObjectFree (q : Fin 256) (seq : Word) (s : State) : Host.Outcome State Fault Refusal :=
  answer (stepObjectFree q seq) s

/-- MARKER (R463): it does nothing and commits in the cycle in which it starts. -/
def stepMarker (q : Fin 256) (seq : Word) (s : State) : State :=
  match startedOf s q seq 8 with
  | none => s
  | some _ => endCmd q seq 0 0 s

/-- MARKER. -/
def execMarker (q : Fin 256) (seq : Word) (s : State) : Host.Outcome State Fault Refusal := answer (stepMarker q seq) s

/-- KILL_COMPLETE: the presses of a killed command are idle. The command ends, or is re-queued after a KILL pre-emption
(R464, R496); in the safe state only its presses come to rest (R672). -/
def stepKillComplete (q : Fin 256) (seq : Word) (s : State) : State :=
  match s.cmd q seq with
  | none => s
  | some c =>
    let rest := foldState freePress (pressesOf s q seq) s
    match c.phase with
    | .killing st data => if s.safety.safe then rest else settleJobs (endCmd q seq st data s)
    | .killingRequeue =>
      if s.safety.safe then rest
      else settleJobs <| settleHolder (s.parcelOf q) (rest.updCmd q seq fun c => { c with phase := .requeued, requeued := true })
    | _ => s

/-- KILL_COMPLETE. -/
def execKillComplete (q : Fin 256) (seq : Word) (s : State) : Host.Outcome State Fault Refusal :=
  answer (stepKillComplete q seq) s

end Sys2Proof.Machine
end

