-- ==== Sys2Proof/Machine/Dram.lean ====
section
/-! DEFINITION. LPDDR6: faults of accesses (R406 to R410), errors and page retirement (R377 to R388), the PHY loops, refresh
and the readings of the dies (R371 to R373, R379, R389 to R391). -/

namespace Sys2Proof.Machine

/-! ### Faults of a command's access (R406 to R410) -/

/-- Is a sequence number that of the command which the front end reads next? -/
def readsNext (s : State) (q : Fin 256) (seq : Word) : Bool :=
  let x := s.queue q
  x.cfg.live.en && !x.stopped && !s.safety.safe && x.read = seq && x.read ≠ x.tail

/-- A fault of an access: a command under its checks is rejected (R408), any other killed (R407). A held access waits (R383). -/
def faultCmd (q : Fin 256) (seq : Word) (acc : Access) (agent : Byte) (st : Stop) (s : State) : State :=
  if st.held then s
  else if acc = .frontEnd && readsNext s q seq then rejectCmd q (readCmd q s) st (s.updQueue q takeEntry)
  else killAccess q seq agent.toNat st s

/-- TRANSLATION_FAULT: an access of a command faults with the cause that the table gives (Table 10.7). -/
def stepTranslationFault (q : Fin 256) (seq : Word) (va : BitVec 38) (acc : Access) (agent : Byte) (s : State) : State :=
  match translate s (s.parcelOf q) acc va.toNat with
  | .ok _ => s
  | .error c => faultCmd q seq acc agent (stopTranslate va.toNat c (accessCode acc) agent.toNat) s

/-- TRANSLATION_FAULT. -/
def execTranslationFault (q : Fin 256) (seq : Word) (va : BitVec 38) (acc : Access) (agent : Byte) (s : State) :
    Host.Outcome State Fault Refusal := answer (stepTranslationFault q seq va acc agent) s

/-! ### Page migration (R385, R386) -/

/-- PAGE_MIGRATION: the virtual page of a retired physical page moves to a free page (R385, R551); when the last one has gone
meanwhile, the page is retired without a replacement (R386). -/
def stepPageMigration (vpn : BitVec 24) (s : State) : State :=
  let e := ttEntry s vpn.toNat
  let old := e.ppn.toNat
  if !e.valid || e.retired || !s.mmu.retired.contains old || s.safety.safe then s
  else match freePage s with
  | none => retireInPlace old vpn.toNat e s
  | some new =>
    let bad := s.mmu.badBlocks.any fun b => decide (b / 256 = old)
    let hs := if bad then objectsOn s vpn.toNat else []
    let s1 := { (setTimingBroken s.bump) with
      dram := s.dram.writeBytes (new * 16384) (migratedBytes s old)
      mmu := { s.mmu with
        table := putKey s.mmu.table vpn.toNat { e with ppn := BitVec.ofNat 24 new }, spare := s.mmu.spare - 1 } }
    sendRetired old (some vpn.toNat) (some e.parcel) 0 hs (poisonAll hs s1)

/-- PAGE_MIGRATION. -/
def execPageMigration (vpn : BitVec 24) (health : ReadHealth) (s : State) : Host.Outcome State Fault Refusal :=
  answerNoting health (stepPageMigration vpn) s

/-- R386: pages that have become free go at once to the entries whose page was retired without replacement. -/
def refillRetired : Nat → State → State
  | 0, s => s
  | fuel + 1, s =>
    match s.mmu.table.find? fun e => e.2.valid && e.2.retired with
    | none => s
    | some (vpn, e) =>
      match freePage s with
      | none => s
      | some new => refillRetired fuel { s.bump with
          dram := s.dram.clear (new * 16384) 16384
          mmu := { s.mmu with
            table := putKey s.mmu.table vpn { e with ppn := BitVec.ofNat 24 new, retired := false }
            spare := s.mmu.spare - 1 } }

/-! ### Errors of LPDDR6 (R378 to R384) -/

/-- DRAM_UNCORRECTABLE: an access of a command meets an uncorrectable block. A block of the translation table (R383) gives
no translation and no fault: the access is held until the safe state stops its command. -/
def stepDramError (q : Fin 256) (seq : Word) (va : BitVec 38) (acc : Access) (agent : Byte) (inTable : Bool) (s : State) :
    State :=
  if inTable then noteUncorrectable ((s.mmu.ttBase.toNat * 16384 + 8 * (va.toNat / 16384)) / 64) s
  else match translate s (s.parcelOf q) acc va.toNat with
  | .error _ => s
  | .ok pa =>
    faultCmd q seq acc agent { status := 0x21, data := faultWord va.toNat 4 (accessCode acc) agent.toNat }
      (noteUncorrectable (pa / 64) s)

/-- DRAM_UNCORRECTABLE. -/
def execDramUncorrectable (q : Fin 256) (seq : Word) (va : BitVec 38) (acc : Access) (agent : Byte) (inTable : Bool)
    (s : State) : Host.Outcome State Fault Refusal := answer (stepDramError q seq va acc agent inTable) s

/-- D of R374 in blocks of 64 bytes. -/
def blocksBelowD (s : State) : Nat := addressableBytes s.memctl.capacity s.memctl.inlineEcc / 64

/-- PATROL_SCRUB: the next block below D is read, in ascending order (R382). -/
def stepPatrol (found : EccResult) (s : State) : State :=
  if !s.memctl.trained || !s.memctl.inlineEcc || s.safety.safe then s
  else
    let b := s.memctl.scrubBlock
    let s1 := { s with memctl := { s.memctl with scrubBlock := (b + 1) % blocksBelowD s } }
    match found with
    | .clean => s1
    | .corrected => noteCorrection b s1
    | .uncorrectable => noteUncorrectable b s1

/-- PATROL_SCRUB. -/
def execPatrolScrub (found : EccResult) (s : State) : Host.Outcome State Fault Refusal := answer (stepPatrol found) s

/-- ODECC_POLL (R379): firmware adds the on-die counts of each channel. -/
def stepOdecc (counts : List Nat) (s : State) : State :=
  if hartsRun s then
    { s with memctl := { s.memctl with channels := vmap s.memctl.channels fun i c =>
      { c with odecc := satInc c.odecc (counts.getD i.val 0) } } }
  else s

/-- ODECC_POLL. -/
def execOdeccPoll (counts : List Nat) (s : State) : Host.Outcome State Fault Refusal :=
  answerIf (counts.length = 16) "ODECC_POLL" (stepOdecc counts) s

/-! ### PHY loops, refresh and temperature (R371, R373, R389 to R391) -/

/-- Change an LPDDR6 channel. -/
def State.updChannel (s : State) (i : Fin 16) (f : Channel → Channel) : State :=
  { s with memctl := { s.memctl with channels := vupd s.memctl.channels i f } }

/-- PHY_CALIBRATION_STEP: the loop reports its margin; a margin below the minimum starts a fast retrain (R390, R551). -/
def stepCalibration (ch : Fin 16) (margin : Byte) (s : State) : State :=
  if !s.memctl.trained || s.safety.safe then s
  else
    let c := vget s.memctl.channels ch
    if c.retraining then s
    else if margin.toNat < c.marginMin.toNat then
      setTimingBroken (s.updChannel ch fun c => { c with margin := margin, retraining := true, retrains := satInc c.retrains 1 })
    else s.updChannel ch fun c => { c with margin := margin }

/-- PHY_CALIBRATION_STEP. -/
def execPhyCalibrationStep (ch : Fin 16) (margin : Byte) (s : State) : Host.Outcome State Fault Refusal :=
  answer (stepCalibration ch margin) s

/-- R390: firmware copies the current training values to the stored set. -/
def saveTraining (values : List Byte) (s : State) : State :=
  { s with
    memctl := { s.memctl with training := values }
    flash := if hartsRun s then { s.flash with training := values, trainingRate := s.memctl.rate } else s.flash }

/-- FAST_RETRAIN_DONE: the channel serves requests again and the values are stored. -/
def stepRetrainDone (ch : Fin 16) (values : List Byte) (s : State) : State :=
  if (vget s.memctl.channels ch).retraining then
    saveTraining values (s.updChannel ch fun c => { c with retraining := false })
  else s

/-- FAST_RETRAIN_DONE. -/
def execFastRetrainDone (ch : Fin 16) (values : List Byte) (s : State) : Host.Outcome State Fault Refusal :=
  answer (stepRetrainDone ch values) s

/-- TRAINING_VALUE_SAVE: the copy made once in every 24 hours of operation. -/
def stepTrainingSave (values : List Byte) (s : State) : State :=
  if s.memctl.trained && hartsRun s then saveTraining values s else s

/-- TRAINING_VALUE_SAVE. -/
def execTrainingValueSave (values : List Byte) (s : State) : Host.Outcome State Fault Refusal :=
  answer (stepTrainingSave values) s

/-- LPDDR6_REFRESH (R373, R391): a refresh delays accesses and changes no data. -/
def execLpddr6Refresh (_ch : Fin 16) (_bank : Nat) (s : State) : Host.Outcome State Fault Refusal := answer id s

/-- DRAM_TEMPERATURE_READ (R371): the code that a rank reports. -/
def stepDramTemperature (ch : Fin 16) (rank : Fin 2) (code : Byte) (s : State) : State :=
  if s.memctl.trained then s.updChannel ch fun c => { c with temps := vset c.temps rank code } else s

/-- DRAM_TEMPERATURE_READ. -/
def execDramTemperatureRead (ch : Fin 16) (rank : Fin 2) (code : Byte) (s : State) : Host.Outcome State Fault Refusal :=
  answer (stepDramTemperature ch rank code) s

end Sys2Proof.Machine
end

