-- ==== Sys2Proof/Machine/PressMath.lean ====
section
/-! DEFINITION. The arithmetic of a press: weight tiles and their load checks (R86, R87, R99, R103, R118 to R124), the
accumulation orders of Table 2.4, the output stage of a tile (R69 to R76, R109 to R113) and elementwise operations
(R125 to R130), each with the ARITH cycles in which things happen (R97 to R111) and the first cause of a kill (R133). -/

namespace Sys2Proof.Machine

/-! ### Causes of a kill and counted cycles -/

/-- A cause of a kill and the ARITH cycle of its instruction in which it reaches the press. -/
abbrev Cause := Nat × Stop

/-- R133: the place of a press's own cause among those of one cycle. -/
def causeRank (st : Stop) : Nat :=
  match st.status.toNat with
  | 0x20 => 0
  | 0x21 => 1
  | 0x22 => 2
  | 0x23 => 3
  | _ => 4

/-- R133: the cause that a press reports of two. -/
def firstCause : Option Cause → Option Cause → Option Cause
  | none, b => b
  | some a, none => some a
  | some a, some b => if b.1 < a.1 ∨ (b.1 = a.1 ∧ causeRank b.2 < causeRank a.2) then some b else some a

/-- What a cycle of the array counts as (Table 3.6). -/
inductive CycleKind where
  | busy
  | weight
  | drain
  | outlier
  deriving DecidableEq, Repr

/-- Cycles of one kind from `lo` up to `hi`. -/
structure CycleSpan where
  kind : CycleKind
  lo : Nat
  hi : Nat
  deriving DecidableEq, Repr

/-- Cycles of a kind before the one in which a kill reaches the press. -/
def countSpans (l : List CycleSpan) (kind : CycleKind) (cause : Option Cause) : Nat :=
  l.foldl (fun acc x => if x.kind = kind then acc + ((match cause with
    | none => x.hi
    | some c => min x.hi c.1) - x.lo) else acc) 0

/-- The value of an answer, or another in its place. -/
def valueOr {ε α : Type} (d : α) : Except ε α → α
  | .ok x => x
  | .error _ => d

/-- The cause that an answer gives in a cycle. -/
def causeAt {α : Type} (cycle : Nat) : Except Stop α → Option Cause
  | .ok _ => none
  | .error e => some (cycle, e)

/-- The cause that an answer by rows gives; row r is met in cycle `cycle r`. -/
def causeOfRows {α : Type} (cycle : Nat → Nat) : Except (Nat × Stop) α → Option Cause
  | .ok _ => none
  | .error e => some (cycle e.1, e.2)

/-! ### Weight tiles -/

/-- How the products of a format pair are accumulated (Table 2.4). -/
inductive PairKind where
  | integer
  | float
  | mx
  | gq
  deriving DecidableEq, Repr

/-- The kind of a pair of formats (Tables 2.3, 2.4). -/
def pairKind (a w : Nat) : PairKind :=
  if w = 10 then .gq else if w = 9 then .mx else if isIntFmt a then .integer else .float

/-- Group size of a GQ4 operand (R81). -/
def gqSize (o : Operand) : Nat := 32 * 2 ^ o.gqGroup

/-- Read `n` rows of 128 elements along dimension 0, at rising dimension 1. -/
def readRows (s : State) (cx : Cx) (o : Operand) (bits fill n : Nat) (c : Coords) : Except Stop (List (List Nat)) :=
  mapStop (fun (r : Nat) => readPiece s cx o bits fill (c.bump 1 (r : Int)) 128) (List.range n)

/-- Entry of a table held as rows. -/
def cellIn (t : List (List Nat)) (row col : Nat) : Nat := (t.getD row []).getD col 0

/-- The zero point of a GQ4 scale entry (R82, R83). -/
def gqZero (o : Operand) (entry : Nat) : Int := if o.gqZp then (bitsOf entry 16 4 : Int) - 8 else 0

/-- FP16 with an all-ones exponent field? -/
def fp16Special (code : Nat) : Bool := bitsOf code 10 5 = 31

/-- R85: entries FIRST to FIRST + COUNT − 1 of the outlier value list, counted from its origin; the list length is its
SIZE0. -/
def readOutliers (s : State) (cx : Cx) (list : Operand) (first count : Nat) : Except Stop (List Nat) :=
  readPiece s cx { list with sizes := [list.size 0, 1, 1, 1] } 16 0 { c0 := (first : Int), c1 := 0, c2 := 0, c3 := 0 } count

/-- R86 for one column of a GQ4 tile: its escaped rows with their outlier values, or the kill. -/
def columnOutliers (s : State) (cx : Cx) (list : Operand) (stop : Stop) (codes : List (List Nat)) (entries : List Nat)
    (n : Nat) : Except Stop (List (Nat × Nat)) :=
  let escapes := (List.range 128).filter fun k => cellIn codes k n = 8
  let entry := entries.getD n 0
  let first := entry % 2 ^ 32
  let count := bitsOf entry 32 8
  if 16 < count ∨ count ≠ escapes.length ∨ list.size 0 < first + count then .error stop
  else match readOutliers s cx list first count with
  | .error e => .error e
  | .ok vs => if vs.any fp16Special then .error stop else .ok (List.zip escapes vs)

/-- R87, R80: the code the array holds at a position: the zero point of the group at an escape and outside the view. -/
def gqPlaced (w : Operand) (scales : List (List Nat)) (k n code : Nat) : Nat :=
  if code = 8 ∨ code = 16 then codeOfInt 2 (gqZero w (cellIn scales (k / gqSize w) n)) else code

/-- Load a GQ4 tile (R81 to R87). -/
def loadGq (s : State) (cx : Cx) (ops : List Operand) (iw : Nat) (idx : List Nat) : Except Stop Tile :=
  let w := opAt ops iw
  let stop : Stop := stopFormat iw cx.agent
  let side (j : Nat) : Operand := opAt ops (iw + j)
  let scaleBits := if w.gqZp then 32 else 16
  match readRows s cx w 4 16 128 (w.coordsAt idx) with
  | .error e => .error e
  | .ok codes =>
  match readRows s cx (side 1) scaleBits 0 (128 / gqSize w) ((side 1).coordsAt idx) with
  | .error e => .error e
  | .ok scales =>
  match readPiece s cx (side 2) 64 0 ((side 2).coordsAt idx) 128 with
  | .error e => .error e
  | .ok entries =>
  match mapStop (columnOutliers s cx (side 3) stop codes entries) (List.range 128) with
  | .error e => .error e
  | .ok outliers =>
    if scales.any fun r => r.any fun x => fp16Special (x % 65536) then .error stop
    else .ok {
      codes := (List.range 128).map fun k => (List.range 128).map fun n => gqPlaced w scales k n (cellIn codes k n)
      index := [], scales := scales, outliers := outliers }

/-- R121, R122: the metadata of a sparse tile, checked; an entry outside the view selects position 0 twice. -/
def loadIndex (s : State) (cx : Cx) (ops : List Operand) (iw : Nat) (idx : List Nat) :
    Except Stop (List (List (Nat × Nat))) :=
  let m := opAt ops (iw + 1)
  match readRows s cx m 4 16 64 (m.coordsAt idx) with
  | .error e => .error e
  | .ok rows =>
    if rows.any fun r => r.any fun x => x ≠ 16 && decide (x / 4 ≤ x % 4) then .error (stopFormat iw cx.agent)
    else .ok (rows.map fun r => r.map fun x => if x = 16 then (0, 0) else (x % 4, x / 4))

/-- R171, R99, R103: the weight tile at an index of the nest, with the side data its operand names. An MXFP4 position outside the
view holds 16, no code of the format: it contributes nothing (R80). -/
def loadTile (s : State) (cx : Cx) (ops : List Operand) (k : PressInstr) (idx : List Nat) : Except Stop Tile :=
  let iw := k.opb.toNat
  let w := opAt ops iw
  if w.fmt = 10 then loadGq s cx ops iw idx
  else
    match readRows s cx w (fmtBits w.fmt) (if w.fmt = 9 then 16 else w.padCode) 128 (w.coordsAt idx) with
    | .error e => .error e
    | .ok codes =>
      let side := opAt ops (iw + 1)
      let blocks : Except Stop (List (List Nat)) := if w.fmt = 9 then readRows s cx side 8 0 4 (side.coordsAt idx) else .ok []
      match blocks with
      | .error e => .error e
      | .ok scales =>
        let side4 : Except Stop (List (List (Nat × Nat))) := if w.sparse then loadIndex s cx ops iw idx else .ok []
        side4.map fun index => { codes := codes, index := index, scales := scales, outliers := [] }

/-- c_max of R117. -/
def tileOutliers (t : Tile) : Nat := t.outliers.foldl (fun m l => max m l.length) 0

/-! ### One activation row against one column (Table 2.4) -/

/-- The accumulator of one output element: an integer, or an FP32 value. -/
inductive Acc where
  | int (v : Int)
  | flt (v : Val)
  deriving DecidableEq, Repr

/-- R62: where an accumulator starts. -/
def Acc.start : PairKind → Acc
  | .integer => .int 0
  | _ => .flt Val.zero

/-- The FP32 value of an accumulator. -/
def Acc.val : Acc → Val
  | .int v => Val.ofInt v
  | .flt v => v

/-- sat32 (R63). -/
def sat32 (v : Int) : Int := clampInt (-(2 ^ 31 : Int)) (2 ^ 31 - 1) v

/-- The activation elements that the 128 rows of a column meet: a sparse tile selects by its indices (R123). -/
def metBy (t : Tile) (n : Nat) (acts : List Nat) : List Nat :=
  if t.index.isEmpty then acts
  else (List.zip (List.range 64) t.index).flatMap fun g =>
    let x := g.2.getD n (0, 0)
    [acts.getD (4 * g.1 + x.1) 0, acts.getD (4 * g.1 + x.2) 0]

/-- Column n of a tile. -/
def tileColumn (t : Tile) (n : Nat) : List Nat := t.codes.map fun r => r.getD n 0

/-- Exact sum of products of integer codes. -/
def intDot (fa fw : Nat) (l : List (Nat × Nat)) : Int :=
  l.foldl (fun acc p => acc + intCode fa p.1 * intCode fw p.2) 0

/-- R94: the sum down a column, each product (R61) and each addition rounded. -/
def floatDot (ieee : Bool) (fa fw : Nat) (l : List (Nat × Nat)) : Val :=
  l.foldl (fun p x => rnd32 ieee (p.add (rnd32 ieee ((decodeValue fa x.1).mul (decodeValue fw x.2))))) Val.zero

/-- Exact sum of the products of a block (R78); a sum of −0 products alone is −0 (R55). -/
def exactDot (fa fw : Nat) (l : List (Nat × Nat)) : Val :=
  l.foldl (fun p x => p.add ((decodeValue fa x.1).mul (decodeValue fw x.2))) (.fin true 0 0)

/-- Elements lo to lo + n − 1 of a list. -/
def slice {α : Type} (l : List α) (lo n : Nat) : List α := (l.drop lo).take n

/-- One block term of R78 to R80. `actScales` are the row's block scales, none for FP8 activations. A position beyond the weight
view is left out, whatever the activation there is. -/
def mxTerm (ieee : Bool) (fa : Nat) (t : Tile) (n : Nat) (actScales : List Nat) (l : List (Nat × Nat)) (b : Nat) : Val :=
  let ew := e8m0 (cellIn t.scales b n)
  let ea := if fa = 9 then e8m0 (actScales.getD b 0) else Val.ofInt 1
  if ew.isNan || ea.isNan then .nan
  else
    let part := (slice l (32 * b) 32).filter fun x => x.2 ≠ 16
    if part.isEmpty then Val.zero else rnd32 ieee (((exactDot fa 9 part).mul ea).mul ew)

/-- One group term of R88. -/
def gqTerm (ieee : Bool) (fa : Nat) (w : Operand) (t : Tile) (n : Nat) (l : List (Nat × Nat)) (g : Nat) : Val :=
  let entry := cellIn t.scales g n
  let part := slice l (gqSize w * g) (gqSize w)
  let p := intDot fa 2 part
  let a := part.foldl (fun acc x => acc + intCode fa x.1) 0
  rnd32 ieee ((fp16.decode (entry % 65536)).mul (Val.ofInt (p - gqZero w entry * a)))

/-- Add terms in order, each addition rounded. -/
def addTerms (ieee : Bool) (acc : Val) (ts : List Val) : Val := ts.foldl (fun x t => rnd32 ieee (x.add t)) acc

/-- Table 2.4: one activation row of a K tile added into column n. -/
def accumulate (ieee : Bool) (fa : Nat) (w : Operand) (t : Tile) (acts actScales : List Nat) (n : Nat) (acc : Acc) : Acc :=
  let l := List.zip (metBy t n acts) (tileColumn t n)
  match pairKind fa w.fmt, acc with
  | .integer, .int v => .int (sat32 (v + intDot fa w.fmt l))
  | .float, a => .flt (rnd32 ieee (a.val.add (floatDot ieee fa w.fmt l)))
  | .mx, a => .flt (addTerms ieee a.val ((List.range 4).map (mxTerm ieee fa t n actScales l)))
  | .gq, a =>
    let sum := addTerms ieee a.val ((List.range (128 / gqSize w)).map (gqTerm ieee fa w t n l))
    .flt (addTerms ieee sum ((t.outliers.getD n []).map fun o =>
      (Val.ofInt (intCode fa (acts.getD o.1 0))).mul (fp16.decode o.2)))
  | .integer, a => a

/-! ### A pass (R171) -/

/-- The open output tile of a nest: accumulators by row and column, and the row sums R (R75, R95). -/
structure OpenTile where
  rows : List (List Acc)
  sums : List Int
  deriving DecidableEq, Repr

/-- The tile at the start of its first K tile. -/
def OpenTile.start (kind : PairKind) (rows : Nat) : OpenTile :=
  { rows := List.replicate rows (List.replicate 128 (Acc.start kind)), sums := List.replicate rows 0 }

/-- Activation row r of a pass: its codes and its block scales (R171, R77). -/
def readActs (s : State) (cx : Cx) (ops : List Operand) (k : PressInstr) (idx : List Nat) (r : Nat) :
    Except Stop (List Nat × List Nat) :=
  let ia := k.opa.toNat
  let a := opAt ops ia
  let wide := if (opAt ops k.opb.toNat).sparse then 256 else 128
  match readRun s cx a ((a.coordsAt idx).bump 1 (r : Int)) wide with
  | .error e => .error e
  | .ok codes =>
    if a.fmt = 9 then
      let sc := opAt ops (ia + 1)
      (readSide s cx sc 8 ((sc.coordsAt idx).bump 1 (r : Int)) 4).map fun b => (codes, b)
    else .ok (codes, [])

/-- One row of a pass. -/
def passRow (ieee : Bool) (fa : Nat) (w : Operand) (t : Tile) (x : (List Nat × List Nat) × (List Acc × Int)) :
    List Acc × Int :=
  ((List.zip (List.range 128) x.2.1).map fun p => accumulate ieee fa w t x.1.1 x.1.2 p.1 p.2,
   if isIntFmt fa then x.2.2 + x.1.1.foldl (fun acc c => acc + intCode fa c) 0 else x.2.2)

/-- One pass: every activation row against one tile; a failure names its row. -/
def runPass (s : State) (cx : Cx) (ops : List Operand) (k : PressInstr) (idx : List Nat) (t : Tile) (open_ : OpenTile) :
    Except (Nat × Stop) OpenTile :=
  let a := opAt ops k.opa.toNat
  let w := opAt ops k.opb.toNat
  let ieee := k.iflags.getLsbD 0
  (mapStopAt (readActs s cx ops k idx) 0 (List.range open_.rows.length)).map fun acts =>
    let out := (List.zip acts (List.zip open_.rows open_.sums)).map (passRow ieee a.fmt w t)
    { rows := out.map fun x => x.1, sums := out.map fun x => x.2 }

/-! ### The output stage of a press -/

/-- The 128 quantisation parameter entries of an iteration (R71, R129). With QP_TENSOR the single entry is read at the iteration's
coordinates, 0 outside the view: DESIGN CHOICE, log 19; the rules name no coordinate for it. -/
def readQp (s : State) (cx : Cx) (qp : Operand) (idx : List Nat) : Except Stop (List QpEntry) :=
  let c := qp.coordsAt idx
  let entries := if qp.qpTensor then (readSide s cx qp 128 c 1).map fun l => List.replicate 128 (l.getD 0 0)
    else readSide s cx qp 128 c 128
  entries.map fun l => l.map fun v => qpEntry (leBytes 16 v)

/-- R72: the entries of an iteration, checked. All 128 are, those of columns outside the OPOUT view too: DESIGN CHOICE, log 19; R209
says of such columns only that they cause no status of their own. -/
def checkedQp (s : State) (cx : Cx) (ops : List Operand) (k : PressInstr) (idx : List Nat) : Except Stop (List QpEntry) :=
  let io := opAt ops k.opout.toNat
  match readQp s cx (opAt ops k.opqp.toNat) idx with
  | .error e => .error e
  | .ok q => if q.any (qpBad io.fmt) then .error (stopFormat k.opqp.toNat cx.agent) else .ok q

/-- The column sums of R75; zero where the companion is absent (its term is 0 then). -/
def readColumnSums (s : State) (cx : Cx) (ops : List Operand) (k : PressInstr) (idx : List Nat) : Except Stop (List Int) :=
  let iw := k.opb.toNat
  let w := opAt ops iw
  let at_ := if w.sparse then 2 else 1
  if zeroPoint (opAt ops k.opa.toNat) = 0 ∨ w.companions < at_ then .ok (List.replicate 128 0)
  else
    let c := opAt ops (iw + at_)
    (readSide s cx c 32 (c.coordsAt idx) 128).map fun l => l.map fun v => signedOf 32 v

/-- R95, R108: a row sum as its INT32 side store holds it; the spec states none beyond that range. -/
def storedSum (r : Int) : Int := if r = sat32 r then r else Config.wideSum r

/-- R74: the corrected sum of an integer accumulator; `len` is K′. The spec states no result beyond 48 bits. -/
def corrected (a w : Operand) (len : Nat) (sum r colSum : Int) : Int :=
  let za := intCode a.fmt (zeroPoint a)
  let zw := intCode w.fmt (zeroPoint w)
  let c := sum - zw * storedSum r - za * colSum + (len : Int) * za * zw
  if clampInt (-(2 ^ 47 : Int)) (2 ^ 47 - 1) c = c then c else Config.wideCorrection c

/-- Step 1 of R69: the value that enters the scaling. -/
def stageInput (ieee : Bool) (a w : Operand) (len : Nat) (r colSum : Int) : Acc → Val
  | .int v => rnd32 ieee (Val.ofInt (corrected a w len v r colSum))
  | .flt v => v

/-- Bytes of a row of codes as they are formed (R139). -/
def rowBytes (fmt : Nat) (codes : List Nat) : List Byte := packCodes (fmtBits fmt) 0 codes []

/-- The Cask writes of rows of codes at rising dimension 1, with the CRC of the bytes as formed (R111, R139, R171); a failure names
its row. -/
def formTile (s : State) (cx : Cx) (o : Operand) (idx : List Nat) (rows : List (List Nat)) : Except (Nat × Stop) OutTile :=
  (mapStopAt (fun (x : Nat × List Nat) => writeRun s cx o ((o.coordsAt idx).bump 1 (x.1 : Int)) x.2) 0
      (List.zip (List.range rows.length) rows)).map fun ws =>
    { writes := ws.flatten.map fun w => (match w.1 with
        | .cask _ a => a
        | _ => 0, w.2)
      crc := crc32 (rows.flatMap (rowBytes o.fmt)) }

/-- R69, R74: the output tile of a finished run of K tiles whose output stage starts in cycle `start`; `len` is K′. It reads the
quantisation entries and column sums in its first cycle and writes row r in cycle r (R72, R111). -/
def drainTile (s : State) (cx : Cx) (ops : List Operand) (k : PressInstr) (idx : List Nat) (len start : Nat) (t : OpenTile) :
    Option Cause × OutTile :=
  let a := opAt ops k.opa.toNat
  let w := opAt ops k.opb.toNat
  let o := opAt ops k.opout.toNat
  let ieee := k.iflags.getLsbD 0
  let qp := checkedQp s cx ops k idx
  let sums := readColumnSums s cx ops k idx
  let tile := formTile s cx o idx ((List.zip t.rows t.sums).map fun row =>
    (List.zip (List.zip (valueOr (List.replicate 128 (qpEntry [])) qp) (valueOr (List.replicate 128 0) sums)) row.1).map fun x =>
      outputStage o.fmt ieee x.1.1 (stageInput ieee a w len row.2 x.1.2 x.2))
  (firstCause (firstCause (causeAt start sums) (causeAt start qp)) (causeOfRows (start + ·) tile),
   valueOr { writes := [], crc := 0 } tile)

/-! ### The nest of a MATMUL (R170, R171, R199 to R202) -/

/-- first_k of R170. -/
def firstK (kdepth : Nat) (idx : List Nat) : Bool := (idx.take kdepth).all fun i => i = 0

/-- last_k of R170. -/
def lastK (kdepth : Nat) (counts idx : List Nat) : Bool :=
  (List.zip (idx.take kdepth) counts).all fun x => x.1 + 1 = x.2

/-- Cells of an accumulator row: INT32 or FP32 words. -/
def accBytes : Acc → List Byte
  | .int v => leBytes 4 (v % (2 ^ 32 : Int)).toNat
  | .flt v => leBytes 4 (fp32.encode v)

/-- A nest in progress: the open tile, the tiles formed, the accumulator store and the side stores (R108, R109); the tile in the
shadow buffer; the cycles from which the array, that tile, the two banks and the output stage are free; the cycles counted; and
the first cause of a kill. -/
structure NestRun where
  open_ : OpenTile
  tiles : List OutTile
  accumulators : Mem
  sideStore : Mem
  shadow : Option Tile
  array : Nat
  loaded : Nat
  banks : Nat × Nat
  output : Nat
  spans : List CycleSpan
  cause : Option Cause
  deriving DecidableEq, Repr

/-- R98: ARITH cycles that the rows of a pass take to enter the array. -/
def streamCycles (fa rows : Nat) : Nat :=
  match fmtBits fa with
  | 4 => rows / 2
  | 8 => rows
  | _ => 4 * rows

/-- The first row of the accumulator store that tile `n` of an instruction uses: the banks alternate (Table 3.3); a tile
of more than 512 rows takes both (R109). -/
def bankRow (rows n : Nat) : Nat := if 512 < rows then 0 else n % 2 * 512

/-- Store an output tile's accumulators and row sums (R108). -/
def storeTile (first : Nat) (t : OpenTile) (n : NestRun) : NestRun :=
  { n with
    accumulators := n.accumulators.writeBytes (512 * first) (t.rows.flatMap fun r => r.flatMap accBytes)
    sideStore := n.sideStore.writeBytes (4 * first) (t.sums.flatMap fun r => leBytes 4 (storedSum r % (2 ^ 32 : Int)).toNat) }

/-- R110: the cycle in which the bank or banks are free that the next output tile needs. -/
def bankFree (rows : Nat) (n : NestRun) : Nat :=
  if 512 < rows then max n.banks.1 n.banks.2 else if n.tiles.length % 2 = 0 then n.banks.1 else n.banks.2

/-- R109: the banks after the output stage has had the tile formed next until a cycle. -/
def takeBank (rows until_ : Nat) (n : NestRun) : Nat × Nat :=
  if 512 < rows then (until_, until_) else if n.tiles.length % 2 = 0 then (until_, n.banks.2) else (n.banks.1, until_)

/-- R101: while a pass that starts in a cycle runs, the next tile of the nest is loaded; its check ends with the load. -/
def loadNext (s : State) (cx : Cx) (ops : List Operand) (k : PressInstr) (start i : Nat) : Option Tile × Option Cause :=
  if nestTotal k.depth k.counts ≤ i + 1 then (none, none)
  else
    let t := loadTile s cx ops k (nestIndex (k.counts.take k.depth) (i + 1))
    (t.toOption, causeAt (start + 127) t)

/-- R110, R199: an output tile whose last K tile ends in a cycle goes to the output stage when its last result has arrived. -/
def drainNext (s : State) (cx : Cx) (ops : List Operand) (k : PressInstr) (idx : List Nat) (ends : Nat) (done : OpenTile)
    (n : NestRun) : NestRun :=
  let rows := 16 * k.mrows.toNat
  let len := (if (opAt ops k.opb.toNat).sparse then 256 else 128) * nestTotal k.kdepth k.counts
  let start := max (ends + 256) n.output
  let r := drainTile s cx ops k idx len start done
  { n with tiles := n.tiles ++ [r.2], banks := takeBank rows (start + rows) n, output := start + rows,
           cause := firstCause n.cause r.1 }

/-- One iteration of a MATMUL nest: the tile in the shadow buffer becomes active, its pass runs while the next tile loads, and
the output tile drains at last_k. After the cycle of a cause nothing more starts. -/
def matmulStep (s : State) (cx : Cx) (ops : List Operand) (k : PressInstr) (n : NestRun) (i : Nat) : NestRun :=
  let idx := nestIndex (k.counts.take k.depth) i
  let rows := 16 * k.mrows.toNat
  let fa := (opAt ops k.opa.toNat).fmt
  let first := firstK k.kdepth idx
  let ready := max n.array n.loaded
  let start := if first then max ready (bankFree rows n) else ready
  match n.shadow, n.cause.all fun c => decide (start ≤ c.1) with
  | some t, true =>
    let stream := streamCycles fa rows
    let ends := start + max stream (rows * tileOutliers t / 2)
    let next := loadNext s cx ops k start i
    let pass := runPass s cx ops k idx t
      (if first then OpenTile.start (pairKind fa (opAt ops k.opb.toNat).fmt) rows else n.open_)
    let done := valueOr n.open_ pass
    let n1 := { (storeTile (bankRow rows n.tiles.length) done n) with
      open_ := done, shadow := next.1, array := ends, loaded := start + 128
      spans := n.spans ++ [⟨.weight, n.array, ready⟩, ⟨.drain, ready, start⟩, ⟨.busy, start, start + stream⟩,
        ⟨.outlier, start + stream, ends⟩]
      cause := firstCause n.cause (firstCause (causeOfRows (fun r => start + streamCycles fa r) pass) next.2) }
    match pass with
    | .error _ => n1
    | .ok _ => if lastK k.kdepth k.counts idx then drainNext s cx ops k idx ends done n1 else n1
  | _, _ => n

/-- The whole nest of a MATMUL on a press, whose cycles count from the first row of its first pass. A first tile that is not in the
shadow buffer is loaded before. -/
def runMatmul (s : State) (cx : Cx) (ops : List Operand) (k : PressInstr) (p : Press) : NestRun :=
  let t : Except Stop Tile := match p.shadow with
    | some t => .ok t
    | none => loadTile s cx ops k (nestIndex (k.counts.take k.depth) 0)
  (List.range (nestTotal k.depth k.counts)).foldl (matmulStep s cx ops k)
    { open_ := { rows := [], sums := [] }, tiles := [], accumulators := p.accumulators, sideStore := p.sideStore
      shadow := t.toOption, array := 0, loaded := 0, banks := (0, 0), output := 0, spans := [], cause := causeAt 0 t }

/-! ### Elementwise instructions (R125 to R130, R172) -/

/-- A comparison's result. -/
def boolVal (b : Bool) : Val := Val.ofInt (if b then 1 else 0)

/-- Table 3.5. -/
def eltwiseOp (ieee : Bool) (op : Nat) (x y : Val) : Val :=
  match op with
  | 0 => rnd32 ieee (x.add y)
  | 1 => rnd32 ieee (x.add y.neg)
  | 2 => rnd32 ieee (x.mul y)
  | 3 => x.max y
  | 4 => x.min y
  | 5 => boolVal (x.gt y)
  | 6 => boolVal (x.ge y)
  | 7 => boolVal (x.eqv y)
  | _ => x

/-- R126: is y a scalar? SIZE0 is the extent in force, a run-time one too (R162): DESIGN CHOICE, log 19; the rule does not say which. -/
def scalarView (o : Operand) : Bool := o.size 0 = 1 && o.strides.all fun t => decide (t = 0)

/-- R126: a run of y; a scalar is read at its view origin whatever the coordinates, without the view test. -/
def readSecond (s : State) (cx : Cx) (o : Operand) (c : Coords) : Except Stop (List Nat) :=
  if scalarView o then
    (readPiece s cx { o with sizes := [1, 1, 1, 1] } (fmtBits o.fmt) 0 { c0 := 0, c1 := 0, c2 := 0, c3 := 0 } 1).map
      fun l => List.replicate 128 (l.getD 0 0)
  else readRun s cx o c 128

/-- One row of an elementwise block: the codes written. -/
def eltwiseRow (s : State) (cx : Cx) (ops : List Operand) (k : PressInstr) (qp : List QpEntry) (idx : List Nat) (r : Nat) :
    Except Stop (List Nat) :=
  let x := opAt ops k.opa.toNat
  let y := opAt ops k.opb.toNat
  let o := opAt ops k.opout.toNat
  let ieee := k.iflags.getLsbD 0
  let op := fieldNat k.arg2 0 4
  let wide (v : Operand) (scale : Nat) (l : List Nat) : List Val :=
    l.map (widen ieee v.fmt (fp32.decode (fieldNat k.arg scale 4)) v.zpCode)
  let second : Except Stop (List Nat) :=
    if op = 8 then .ok (List.replicate 128 0) else readSecond s cx y ((y.coordsAt idx).bump 1 (r : Int))
  match readRun s cx x ((x.coordsAt idx).bump 1 (r : Int)) 128 with
  | .error e => .error e
  | .ok xs =>
  match second with
  | .error e => .error e
  | .ok ys =>
    let vy := if op = 8 then List.replicate 128 Val.zero else wide y 4 ys
    .ok ((List.zip qp (List.zip (wide x 0 xs) vy)).map fun p =>
      outputStage o.fmt ieee p.1 (eltwiseOp ieee op p.2.1 p.2.2))

/-- One elementwise block: 16 rows a cycle (R125), the quantisation entries in its first. -/
def eltwiseStep (s : State) (cx : Cx) (ops : List Operand) (k : PressInstr) (i : Nat) : Except Stop OutTile :=
  let idx := nestIndex (k.counts.take k.depth) i
  let qp := checkedQp s cx ops k idx
  let rows := mapStopAt (eltwiseRow s cx ops k (valueOr (List.replicate 128 (qpEntry [])) qp) idx) 0
    (List.range (16 * k.mrows.toNat))
  let tile := formTile s cx (opAt ops k.opout.toNat) idx (valueOr [] rows)
  match firstCause (firstCause (causeOfRows (· / 16) rows) (causeAt 0 qp)) (causeOfRows (· / 16) tile), tile with
  | some c, _ => .error c.2
  | none, .error e => .error e.2
  | none, .ok t => .ok t

/-- The whole nest of an ELTWISE. -/
def runEltwise (s : State) (cx : Cx) (ops : List Operand) (k : PressInstr) : Except Stop (List OutTile) :=
  mapStop (eltwiseStep s cx ops k) (List.range (nestTotal k.depth k.counts))

end Sys2Proof.Machine
end

