-- ==== Sys2Proof/Machine/Stage.lean ====
section
/-! DEFINITION. Staged fields and COMMIT (R694 to R702, Table 20.7): GO, CANCEL, and for every page with RWS fields its
safe boundary, its checks and what an applied unit does. -/

namespace Sys2Proof.Machine

/-! ### Shares of the Cellar and of staging SRAM (R242, R434, R440, R687) -/

/-- Do two ranges, each a base and a size, share a unit? -/
def rangesMeet (b1 n1 b2 n2 : Nat) : Bool :=
  n1 ≠ 0 && n2 ≠ 0 && decide (b1 < b2 + n2) && decide (b2 < b1 + n1)

/-- Does share n of a list of shares break the rule of a store of `top` units: beyond its end, or meeting another? -/
def shareBad (l : List Share) (top n : Nat) : Bool :=
  let x := l.getD n {}
  decide (top < x.base.toNat + x.size.toNat) ||
    (List.range l.length).any fun m =>
      m ≠ n && rangesMeet x.base.toNat x.size.toNat (l.getD m {}).base.toNat (l.getD m {}).size.toNat

/-- R242: the parcel of the first conflicting Cellar share. -/
def cellarConflict (l : List Share) : Option Nat := (List.range 8).find? fun n => shareBad l 48 n

/-- R440: bytes that the echo of one remote device takes. -/
def echoSize (e : EchoCfg) : Nat := e.queues.toNat * 4096 + e.mbox.toNat * 65536 + 16 * 4096

/-- R440: first byte and length of the echo store in staging SRAM; empty in a system of one device. -/
def echoRange (s : State) (e : EchoCfg) : Nat × Nat := (e.base.toNat * 65536, (s.port.devices.toNat - 1) * echoSize e)

/-- Does a range of staging units meet the echo store? -/
def meetsEcho (s : State) (e : EchoCfg) (base size : Nat) : Bool :=
  rangesMeet (base * 65536) (size * 65536) (echoRange s e).1 (echoRange s e).2

/-- The staging shares in force. -/
def liveStages (s : State) : List Share := s.port.stages.toList.map fun r => r.live

/-- R440: an echo configuration that does not fit. -/
def echoBad (s : State) (e : EchoCfg) : Bool :=
  let r := echoRange s e
  decide (stagingSize < r.1 + r.2) || (liveStages s).any fun x => meetsEcho s e x.base.toNat x.size.toNat

/-- R434: a staging share of parcel n that does not fit beside the others and the echo store. -/
def stageBad (s : State) (n : Nat) (x : Share) : Bool :=
  shareBad ((liveStages s).set n x) 384 n || meetsEcho s s.port.echo.live x.base.toNat x.size.toNat

/-- R687: a ring that does not fit beside the staging shares, the echo store and the other ring. -/
def ringBad (s : State) (r other : RingCfg) : Bool :=
  decide (384 < r.base.toNat + r.size.toNat) ||
    ((liveStages s).any fun x => rangesMeet r.base.toNat r.size.toNat x.base.toNat x.size.toNat) ||
    meetsEcho s s.port.echo.live r.base.toNat r.size.toNat ||
    rangesMeet r.base.toNat r.size.toNat other.base.toNat other.size.toNat

/-! ### Boundaries -/

/-- Does a parcel have a running command of a kind? -/
def runsCmd (s : State) (n : Fin 8) (f : Cmd → Bool) : Bool :=
  s.queues.toList.any fun q => q.cfg.live.en && q.cfg.live.parcel.toFin = n && q.cmds.any fun c => c.phase.occupies && f c

/-- R242: does a parcel whose share changes run a command? -/
def changedShareBusy (s : State) (new : Vector Share 8) : Bool :=
  (List.finRange 8).any fun n => vget new n ≠ vget s.cellar.shares.live n && runsCmd s n fun _ => true

/-- R481: is a queue without a command that is submitted and not retired? -/
def queueEmpty (q : Queue) : Bool := q.cmds.isEmpty && decide (q.read = q.tail)

/-- R553: is a BARRIER command open on the device? -/
def anyBarrier (s : State) : Bool := (List.finRange 8).any (barrierOpen s)

/-! ### Applying a unit -/

/-- R242: the CELLAR page. -/
def applyCellar (s : State) : State :=
  match s.cellar.shares.pending with
  | none => s
  | some l =>
    if changedShareBusy s l then s
    else match cellarConflict l.toList with
    | some n => settleCommit pgCellar (rejectCommit pgCellar 1 (BitVec.ofNat 32 n)
        { s with cellar := { s.cellar with shares := s.cellar.shares.reject } })
    | none => settleCommit pgCellar { s with cellar := { s.cellar with shares := s.cellar.shares.apply } }

/-- R397: CARVEn. -/
def applyCarve (n : Fin 8) (s : State) : State :=
  if runsCmd s n (fun _ => true) || (vget s.mmu.carves n).pending.isNone then s
  else settleCommit pgMmu { s with mmu := { s.mmu with carves := vupd s.mmu.carves n Rws.apply } }

/-- R450, R698: a host port commit is rejected; the address is that of COMMIT in the window, which GO was written to. -/
def rejectPort (code : BitVec 16) (s : State) : State :=
  let w := BitVec.ofNat 64 (ownAddress s 0x301C)
  let src := writerCode (vget s.pages pgHostPort).goBy
  let s1 := pageError pgHostPort code 0 w src (s.updPage pgHostPort fun r => { r with rejected := true })
  settleCommit pgHostPort (errorWire { s1 with port := { s1.port with errCount := satInc s1.port.errCount 1 } })

/-- R737: the reply of an ECHO_SET once its commit has applied or failed. -/
def finishEcho (code : Nat) (s : State) : State :=
  foldState (fun p s => match (s.pair p).job with
    | some (.echoing seq) => finishJob p 0x48 seq code [] s
    | _ => s) (List.finRange 8) s

/-- R442: a remote device owes the lead a full copy of its echoed ranges. -/
def oweCopy (s : State) : State :=
  let e := s.port.echo.live
  let pages := (List.finRange 16).filterMap fun i =>
    if i = 0 then some 0 else if vget e.pageValid i then some ((vget e.pageNo i).toNat * 4096) else none
  foldState (fun off s => noteEcho off 4096 none s)
    (((List.range e.queues.toNat).map fun q => 0x500000 + q * 4096) ++
      ((List.range (16 * e.mbox.toNat)).map fun k => 0x410000 + k / 16 * 0x20000 + k % 16 * 4096) ++ pages) s

/-- R440, R451: ECHO and ECHO_PAGEi. -/
def applyEcho (s : State) : State :=
  match s.port.echo.pending with
  | none => s
  | some e =>
    if (List.finRange 8).any fun n => runsCmd s n fun _ => true then s
    else if echoBad s e then finishEcho 0x90 (rejectPort 10 { s with port := { s.port with echo := s.port.echo.reject } })
    else finishEcho 0 <| settleCommit pgHostPort <| oweCopy { s with port := { s.port with
      echo := s.port.echo.apply, synced := decide (s.port.devices = 1), copies := [] } }

/-- Does any share of a list break R434 beside the others? -/
def stagesClash (l : List Share) : Bool := (List.range 8).any fun n => shareBad l 384 n

/-- R434: the shares as they stand once every pending one has come into force. -/
def nextStages (s : State) : List Share := s.port.stages.toList.map fun r => r.pending.getD r.live

/-- The shares as they stand once every pending one has come into force whose parcel runs no command. -/
def readyStages (s : State) : List Share :=
  (List.finRange 8).map fun n =>
    let r := vget s.port.stages n
    if runsCmd s n fun _ => true then r.live else r.pending.getD r.live

/-- R434: STAGEn. Where shares conflict, none that is pending is applied. -/
def applyStage (n : Fin 8) (s : State) : State :=
  match (vget s.port.stages n).pending with
  | none => s
  | some x =>
    if runsCmd s n fun _ => true then s
    else if stagesClash (readyStages s) || stagesClash (nextStages s) ||
        meetsEcho s s.port.echo.live x.base.toNat x.size.toNat then
      rejectPort 9 { s with port := { s.port with stages := vmap s.port.stages fun _ r => if r.pending.isSome then r.reject else r } }
    else settleCommit pgHostPort { s with port := { s.port with stages := vupd s.port.stages n Rws.apply } }

/-- R481, R482: CFG of a queue. -/
def applyQueueCfg (q : Fin 256) (s : State) : State :=
  match (s.queue q).cfg.pending with
  | none => s
  | some c =>
    if !queueEmpty (s.queue q) then s
    else if (c.en && c.size = 0) || (s.parcel c.parcel.toFin).state = 0 then
      settleCommit (pgQueue q) (rejectCommit (pgQueue q) 4 (BitVec.ofNat 32 q.val)
        (s.updQueue q fun x => { x with cfg := x.cfg.reject }))
    else settleCommit (pgQueue q) (s.updQueue q fun x => { x with cfg := x.cfg.apply })

/-- R625, R679: a VINE set that is refused, and the ranges of Table 14.5. -/
def vineBad (s : State) (c : VineCfg) : Bool :=
  decide (c.leadNs.toNat < 400) || decide (c.timeoutMs = 0) ||
    (c.det && decide ((vget s.clocks.plls 0).cfg.live.depth ≠ 0)) ||
    (s.safety.mode && c.det && !s.vine.cfg.live.det && s.parcels.toList.any fun p => p.state ≠ 0)

/-- R553: the VINE page. DET holds the ARITH frequency of the commit (R549), and its end commits a deferred FMAX (R659). -/
def applyVine (s : State) : State :=
  match s.vine.cfg.pending with
  | none => s
  | some c =>
    if anyBarrier s then s
    else if vineBad s c then settleCommit pgVine (rejectCommit pgVine 5 0xFF
      { s with vine := { s.vine with cfg := s.vine.cfg.reject } })
    else
      let starts := c.det && !s.vine.cfg.live.det
      let ends := s.vine.cfg.live.det && !c.det
      let s1 := { s with vine := { s.vine with
        cfg := s.vine.cfg.apply, detMhz := if starts then s.power.arithMhz else s.vine.detMhz } }
      settleCommit pgVine (if ends && s1.ageing.deferred then commitFmax s1.ageing.fmaxSustain s1 else s1)

/-- R618, R619, R624: one PLL. -/
def applyPllUnit (p : Fin 9) (s : State) : State :=
  match (s.pll p).cfg.pending with
  | none => s
  | some c =>
    match pllBad s p c with
    | some off => settleCommit pgClocks (rejectCommit pgClocks 1 (BitVec.ofNat 32 off)
        (s.updPll p fun x => { x with cfg := x.cfg.reject }))
    | none => settleCommit pgClocks (applyPll p s)

/-- R687: the DIAG page. -/
def applyDiag (s : State) : State :=
  match s.diag.rings.pending with
  | none => s
  | some g =>
    let off := if ringBad s g.1 g.2 then some 0x40 else if ringBad s g.2 g.1 then some 0x44 else none
    match off with
    | some o => settleCommit pgDiag (rejectCommit pgDiag 1 o
        { s with diag := { s.diag with rings := s.diag.rings.reject } })
    | none => settleCommit pgDiag { s with diag := { s.diag with rings := s.diag.rings.apply } }

/-- R514: a parcel's fields apply while it runs no PRESS_PROGRAM command. -/
def applyParcelIdle (n : Fin 8) (s : State) : State :=
  if runsCmd s n fun c => c.kind = 1 then s else applyParcel n s

/-- R330: a pipeline's set applies at once in area mode with no frame in progress. -/
def applyPipeIdle (n : Fin 16) (s : State) : State := if pipeIdle (s.pipe n) then pipeApply n s else s

/-- Apply one unit of a page, when it is pending and its boundary holds. Units of HOSTPORT: 0 is ECHO with ECHO_PAGEi, 1 + n
is STAGEn. In the safe state no set is applied (R701). -/
def applyUnit (p : Fin 121) (u : Fin 16) (s : State) : State :=
  let n := p.val
  if s.safety.safe then s
  else if n = 3 then (if u = 0 then applyEcho s else if u.val ≤ 8 then applyStage (Fin.ofNat 8 (u.val - 1)) s else s)
  else if n = 4 then (if u.val < 9 then applyPllUnit (Fin.ofNat 9 u.val) s else s)
  else if n = 5 then applyFlimit s
  else if n = 9 then applyDiag s
  else if n = 11 then applyVine s
  else if n = 16 then (if u.val < 8 then applyCarve (Fin.ofNat 8 u.val) s else s)
  else if n = 18 then applyCellar s
  else if 36 ≤ n ∧ n ≤ 51 then applyPipeIdle (Fin.ofNat 16 (n - 36)) s
  else if 64 ≤ n ∧ n ≤ 79 then applyQueueCfg (Fin.ofNat 256 ((n - 64) * 16 + u.val)) s
  else if 80 ≤ n ∧ n ≤ 87 then applyParcelIdle (Fin.ofNat 8 (n - 80)) s
  else s

/-! ### GO and CANCEL -/

/-- Change every staged unit of a page in one way. -/
def mapUnits (p : Nat) (onEcho : Rws EchoCfg → Rws EchoCfg) (onShare : Rws Share → Rws Share)
    (onPll : Rws PllCfg → Rws PllCfg) (onFlimit : Rws Flimit → Rws Flimit)
    (onRings : Rws (RingCfg × RingCfg) → Rws (RingCfg × RingCfg)) (onVine : Rws VineCfg → Rws VineCfg)
    (onCellar : Rws (Vector Share 8) → Rws (Vector Share 8)) (onPipe : Rws PipeCfg → Rws PipeCfg)
    (onQueue : Rws QueueCfg → Rws QueueCfg) (onParcel : Rws ParcelCfg → Rws ParcelCfg) (s : State) : State :=
  if p = 3 then { s with port := { s.port with
    echo := onEcho s.port.echo, stages := vmap s.port.stages fun _ => onShare } }
  else if p = 4 then { s with clocks := { s.clocks with plls := vmap s.clocks.plls fun _ x => { x with cfg := onPll x.cfg } } }
  else if p = 5 then { s with power := { s.power with flimit := onFlimit s.power.flimit } }
  else if p = 9 then { s with diag := { s.diag with rings := onRings s.diag.rings } }
  else if p = 11 then { s with vine := { s.vine with cfg := onVine s.vine.cfg } }
  else if p = 16 then { s with mmu := { s.mmu with carves := vmap s.mmu.carves fun _ => onShare } }
  else if p = 18 then { s with cellar := { s.cellar with shares := onCellar s.cellar.shares } }
  else if 36 ≤ p ∧ p ≤ 51 then s.updPipe (Fin.ofNat 16 (p - 36)) fun x => { x with cfg := onPipe x.cfg }
  else if 64 ≤ p ∧ p ≤ 79 then
    { s with queues := vmap s.queues fun q x => if q.val / 16 = p - 64 then { x with cfg := onQueue x.cfg } else x }
  else if 80 ≤ p ∧ p ≤ 87 then s.updParcel (Fin.ofNat 8 (p - 80)) fun x => { x with cfg := onParcel x.cfg }
  else s

/-- R695: every unit of a page becomes pending. -/
def goUnits (p : Nat) (s : State) : State :=
  mapUnits p Rws.go Rws.go Rws.go Rws.go Rws.go Rws.go Rws.go Rws.go Rws.go Rws.go s

/-- R699: every unit of a page that is not yet applied is discarded. -/
def cancelUnits (p : Nat) (s : State) : State :=
  mapUnits p Rws.cancel Rws.cancel Rws.cancel Rws.cancel Rws.cancel Rws.cancel Rws.cancel Rws.cancel Rws.cancel
    Rws.cancel s

/-- Which units of a page apply with GO itself, their boundary being a condition that may already hold: all but FLIMIT, whose
boundary is a controller step, and a PLL whose spread changes (R624). -/
def appliesNow (s : State) (p : Fin 121) (u : Fin 16) : Bool :=
  if p.val = 5 then false
  else if p.val = 4 then
    let x := (vget s.clocks.plls (Fin.ofNat 9 u.val)).cfg
    match x.pending with
    | none => false
    | some c => decide (c.depth = x.live.depth) && decide (c.rate = x.live.rate)
  else true

/-- Apply the units of a page whose boundary already holds. -/
def applyReady (p : Fin 121) (s : State) : State :=
  foldState (fun u s => if appliesNow s p u then applyUnit p u s else s) (List.finRange 16) s

/-- COMMIT.GO (R695, R697, R700) by a writer that Table 20.7 names. -/
def writeGo (who : Writer) (p : Fin 121) (s : State) : State :=
  if !staged p.val then s
  else
    let was := pagePending s p.val
    let s1 := (goUnits p.val s).updPage p fun r => { r with goBy := who, superseded := r.superseded || was }
    applyReady p (settleCommit p s1)

/-- COMMIT.CANCEL (R699). -/
def writeCancel (p : Fin 121) (s : State) : State :=
  if !pagePending s p.val then s
  else
    let s1 := settleCommit p (cancelUnits p.val s)
    if p = pgHostPort && s.port.echo.pending.isSome then finishEcho 0x90 s1 else s1

/-- R702: may a writer write GO and CANCEL on a page? -/
def mayCommit (who : Writer) (p : Fin 121) : Bool :=
  match who with
  | .host => hostCommit p.val
  | _ => true

end Sys2Proof.Machine
end

