-- ==== Sys2Proof/Machine/ParcelMgr.lean ====
section
/-! DEFINITION. Creating and destroying parcels (R242, R250, R396 to R398, R434, R484 to R488): PARCEL_CREATE,
PARCEL_DESTROY and the end of their clearing. -/

namespace Sys2Proof.Machine

/-! ### The create request (Tables 13.1 and 15.10) -/

/-- Pages of a granule of 64 MiB. -/
def granulePages : Nat := 4096

/-- Parcel number of a request. -/
def reqParcel (b : List Byte) : Fin 8 := Fin.ofNat 8 (fieldNat b 16 1)
/-- PRESS_MASK. -/
def reqPresses (b : List Byte) : BitVec 16 := BitVec.ofNat 16 (fieldNat b 20 2)
/-- PIPE_MASK. -/
def reqPipes (b : List Byte) : BitVec 16 := BitVec.ofNat 16 (fieldNat b 22 2)
/-- CARVE_BASE, in granules. -/
def reqCarveBase (b : List Byte) : Nat := fieldNat b 30 2 % 4096
/-- CARVE_SIZE, in granules. -/
def reqCarveSize (b : List Byte) : Nat := fieldNat b 32 2 % 8192
/-- Pages of the carve-out. -/
def reqPages (b : List Byte) : Nat := reqCarveSize b * granulePages
/-- R487: pages of the save area, SLOTS × P × 6,672 KiB in whole pages of 16 KiB. -/
def reqSavePages (b : List Byte) : Nat := ceilDiv (fieldNat b 17 1 * popCount (reqPresses b) * 0x684000) 16384

/-- The page ranges of Table 15.11: FIRST, COUNT, KIND. -/
def reqRanges (b : List Byte) : List (Nat × Nat × Nat) :=
  (List.range (fieldNat b 19 1)).map fun i =>
    (fieldNat b (48 + 16 * i) 4, fieldNat b (52 + 16 * i) 4, fieldNat b (56 + 16 * i) 1)

/-- R731: a value or a code outside its table. -/
def createFieldBad (b : List Byte) : Bool :=
  decide (13 < fieldNat b 19 1) || (reqRanges b).any fun r => decide (r.2.1 = 0) || decide (1 < r.2.2)

/-- PARCEL_PRESSES: a press is not enabled or is held by another parcel. -/
def pressesBad (s : State) (b : List Byte) : Bool :=
  (maskPresses (reqPresses b)).any fun p => !enabled s p || (s.press p).assigned.isSome

/-- PARCEL_PIPES: a pipeline is owned by another parcel. -/
def pipesBad (s : State) (b : List Byte) : Bool := (maskPresses (reqPipes b)).any fun p => (s.pipe p).owner.isSome

/-- PARCEL_SHARES: a Cellar or staging share breaks R242 or R434. -/
def sharesBad (s : State) (b : List Byte) : Bool :=
  let n := reqParcel b
  let cellar : Share := { base := BitVec.ofNat 13 (fieldNat b 24 1), size := BitVec.ofNat 13 (fieldNat b 25 1) }
  let stage : Share := { base := BitVec.ofNat 13 (fieldNat b 26 2), size := BitVec.ofNat 13 (fieldNat b 28 2) }
  decide (384 < fieldNat b 26 2 + fieldNat b 28 2) ||
    shareBad (s.cellar.shares.live.toList.set n.val cellar) 48 n.val || stageBad s n.val stage

/-- Do two page ranges share a page? -/
def rangesClash : List (Nat × Nat × Nat) → Bool
  | [] => false
  | r :: rest => (rest.any fun x => rangesMeet r.1 r.2.1 x.1 x.2.1) || rangesClash rest

/-- PARCEL_MEMORY: the carve-out, the pool, the save area or a page range. -/
def memoryBad (s : State) (b : List Byte) : Bool :=
  let base := reqCarveBase b
  let size := reqCarveSize b
  let usable := reqPages b - reqSavePages b
  decide (4096 < base + size) ||
    (s.mmu.carves.toList.any fun c => rangesMeet base size c.live.base.toNat c.live.size.toNat) ||
    decide (((List.range s.mmu.poolPages).countP (pageFree s)) < reqPages b) ||
    decide (16 < fieldNat b 17 1) || decide (reqPages b < reqSavePages b) ||
    ((reqRanges b).any fun r => decide (usable < r.1 + r.2.1)) || rangesClash (reqRanges b)

/-- PARCEL_POLICY: a switch policy field lies outside its range in Table 13.7. -/
def policyBad (b : List Byte) : Bool :=
  let slice := fieldNat b 34 4
  let wait := fieldNat b 38 4
  decide (slice < 500) || decide (100000 < slice) || decide (wait < 100) || decide (100000 < wait)

/-- R486: the checks of a create request in the order of Table 13.2; 0 when all pass. -/
def createCheck (s : State) (b : List Byte) : Nat :=
  if createFieldBad b then 5
  else if 7 < fieldNat b 16 1 then 0x10
  else if (s.parcel (reqParcel b)).state ≠ 0 then 0x11
  else if pressesBad s b then 0x13
  else if pipesBad s b then 0x14
  else if sharesBad s b then 0x15
  else if memoryBad s b then 0x16
  else if policyBad b then 0x17
  else 0

/-! ### Pages (R396 to R398, R487) -/

/-- The first `k` free pages of the pool in the order in which firmware takes them (R396): the start is open. -/
def freePages (s : State) (k : Nat) : List Nat :=
  let n := s.mmu.poolPages
  ((List.range n).map fun i => (Config.choosePage s.freeCtr + i) % n).filter (pageFree s) |>.take k

/-- R397, R487: the entry of page `i` of a carve-out. -/
def carveEntry (b : List Byte) (i ppn : Nat) : TtEntry :=
  let save := decide (reqPages b - reqSavePages b ≤ i)
  let kind := ((reqRanges b).find? fun r => decide (r.1 ≤ i) && decide (i < r.1 + r.2.1)).map fun r => r.2.2
  { valid := true, retired := false, owner := BitVec.ofNat 4 (fieldNat b 16 1), ppn := BitVec.ofNat 24 ppn
    read := !save && kind ≠ some 1
    write := !save && kind.isNone
    exec := !save }

/-- R398: clear a physical page and map it. -/
def mapPage (b : List Byte) (x : Nat × Nat) (s : State) : State :=
  { s with
    dram := s.dram.clear (x.2 * 16384) 16384
    mmu := { s.mmu with
      table := putKey s.mmu.table (reqCarveBase b * granulePages + x.1) (carveEntry b x.1 x.2), spare := s.mmu.spare - 1 } }

/-- Clear and map every page of a new carve-out. -/
def mapCarve (b : List Byte) (s : State) : State :=
  foldState (mapPage b) (List.zip (List.range (reqPages b)) (freePages s (reqPages b))) s.bump

/-! ### PARCEL_CREATE (R486, steps 1 to 4) -/

/-- Step 2: assign the presses and pipelines. -/
def assignUnits (n : Fin 8) (presses pipes : BitVec 16) (s : State) : State :=
  { s with
    presses := vmap s.presses fun i p => if presses.getLsbD i.val then { p with assigned := some n } else p
    pipes := vmap s.pipes fun i p => if pipes.getLsbD i.val then { p with owner := some n } else p }

/-- Step 3: stage a parcel's shares and carve-out and commit the three pages. -/
def commitShares (n : Fin 8) (cellar stage carve : Share) (s : State) : State :=
  let s1 := { s with
    cellar := { s.cellar with shares := { s.cellar.shares with staged := vset s.cellar.shares.staged n cellar } }
    port := { s.port with stages := vupd s.port.stages n fun r => { r with staged := stage } }
    mmu := { s.mmu with carves := vupd s.mmu.carves n fun r => { r with staged := carve } } }
  writeGo (.hart 0) pgMmu (writeGo (.hart 0) pgHostPort (writeGo (.hart 0) pgCellar s1))

/-- PARCELn's registers of a parcel that is being created. -/
def beginParcel (b : List Byte) (p : Parcel) : Parcel :=
  let slots := fieldNat b 17 1
  { p with
    state := 1, presses := reqPresses b, pipes := reqPipes b, holder := none
    saveVpn := BitVec.ofNat 24 ((reqCarveBase b + reqCarveSize b) * granulePages - reqSavePages b)
    saveSlots := BitVec.ofNat 5 slots, saveFree := BitVec.ofNat 16 (2 ^ slots - 1) }

/-- The switch policy of a request. -/
def reqPolicy (b : List Byte) : ParcelCfg :=
  { rack := (fieldNat b 18 1).testBit 0, live := (fieldNat b 18 1).testBit 1
    sliceUs := BitVec.ofNat 17 (fieldNat b 34 4), rackWaitUs := BitVec.ofNat 17 (fieldNat b 38 4) }

/-- The request is performed up to the clearing of R250; the reply is owed. -/
def createParcel (pair : Fin 8) (b : List Byte) (s : State) : State × Option (Nat × List Byte) :=
  match createCheck s b with
  | 0 =>
    let n := reqParcel b
    let cellar : Share := { base := BitVec.ofNat 13 (fieldNat b 24 1), size := BitVec.ofNat 13 (fieldNat b 25 1) }
    let stage : Share := { base := BitVec.ofNat 13 (fieldNat b 26 2), size := BitVec.ofNat 13 (fieldNat b 28 2) }
    let carve : Share := { base := BitVec.ofNat 13 (reqCarveBase b), size := BitVec.ofNat 13 (reqCarveSize b) }
    let s1 := assignUnits n (reqPresses b) (reqPipes b) (s.updParcel n (beginParcel b))
    let s2 := mapCarve b (commitShares n cellar stage carve s1)
    (s2.updPair pair fun x => { x with job := some (.creating (reqSeq b) n (reqPolicy b)) }, none)
  | code => (s, some (code, []))

/-- R630: a new parcel gives work to ARITH with its presses and to PIPE with its pipelines. -/
def createWork (b : List Byte) (s : State) : List (Fin 9) :=
  if createCheck s b ≠ 0 then [] else (if reqPresses b = 0 then [] else [0]) ++ if reqPipes b = 0 then [] else [3]

/-- PARCEL_CREATE. -/
def execParcelCreate (pair : Fin 8) (s : State) : Host.Outcome State Fault Refusal :=
  answer (serveAwake 0x0010 pair createWork (createParcel pair)) s

/-! ### PARCEL_DESTROY (R488, steps 1 and 2) -/

/-- Does a queue of the parcel exist? -/
def hasQueue (s : State) (n : Fin 8) : Bool :=
  s.queues.toList.any fun q => q.cfg.live.en && decide (q.cfg.live.parcel.toFin = n)

/-- The checks of a destroy request. -/
def destroyCheck (s : State) (b : List Byte) : Nat :=
  if 7 < fieldNat b 16 1 then 0x10
  else if (s.parcel (reqParcel b)).state = 0 then 0x12
  else if (s.parcel (reqParcel b)).state ≠ 2 then 6
  else if hasQueue s (reqParcel b) then 0x18
  else 0

/-- The parcel goes to DESTROYING and its objects are released; the reply is owed. -/
def destroyParcel (pair : Fin 8) (b : List Byte) (s : State) : State × Option (Nat × List Byte) :=
  match destroyCheck s b with
  | 0 =>
    let n := reqParcel b
    let s1 := s.updParcel n fun p => { p with state := 3 }
    let s2 := { s1 with objects := s1.objects.filter fun o => decide (o.2.parcel ≠ n) }
    (s2.updPair pair fun x => { x with job := some (.destroying (reqSeq b) n) }, none)
  | code => (s, some (code, []))

/-- PARCEL_DESTROY. -/
def execParcelDestroy (pair : Fin 8) (s : State) : Host.Outcome State Fault Refusal :=
  answer (serve 0x0011 pair (destroyParcel pair)) s

/-! ### CLEARING_COMPLETE (R250, R486, R488) -/

/-- R250: every Cask of the parcel is 0, with all 64 counters, and so is its Cellar share. -/
def clearParcel (n : Fin 8) (s : State) : State :=
  let sh := vget s.cellar.shares.live n
  { s with
    presses := vmap s.presses fun _ p =>
      if p.assigned = some n then { p with cask := p.cask.clear 0 0x600000, arrive := Vector.replicate 64 0 } else p
    cellar := { s.cellar with mem := s.cellar.mem.clear (sh.base.toNat * 1048576) (sh.size.toNat * 1048576) } }

/-- R486, step 6: CTRL and RACK_WAIT are written and committed, and the parcel is ACTIVE. -/
def activate (n : Fin 8) (policy : ParcelCfg) (s : State) : State :=
  (writeGo (.hart 0) (pgParcel n) (s.updParcel n fun p => { p with cfg := { p.cfg with staged := policy } })).updParcel n
    fun p => { p with state := 2 }

/-- R398, R488, step 4: the entries become invalid and the pages that are not retired return to the pool. A retired page whose
migration is still due is one that no entry maps any more, and its retirement is reported as such (R384). -/
def returnPages (n : Fin 8) (s0 : State) : State :=
  let mine (e : Nat × TtEntry) : Bool := e.2.valid && decide (e.2.owner.toNat = n.val)
  let due := s0.mmu.table.filter fun e => mine e && !e.2.retired && s0.mmu.retired.contains e.2.ppn.toNat
  let s := due.foldl (fun s e => sendRetired e.2.ppn.toNat none none 2 [] s) s0
  let back := s.mmu.table.countP fun e => mine e && !e.2.retired && !s.mmu.retired.contains e.2.ppn.toNat
  let s1 := { s with mmu := { s.mmu with
    table := s.mmu.table.filter fun e => !mine e, spare := s.mmu.spare + BitVec.ofNat 24 back } }
  refillRetired (s1.mmu.table.length) s1

/-- R488, steps 4 and 5: pages, presses, pipelines and shares are free and the parcel is ABSENT; what translation fixed of its
folded programs goes with it. -/
def removeParcel (n : Fin 8) (s : State) : State :=
  let s1 := returnPages n (commitShares n {} {} {} s)
  { s1 with
    fw := { s1.fw with folds := s1.fw.folds.filter fun f => decide (f.parcel ≠ n) }
    presses := vmap s1.presses fun _ p => if p.assigned = some n then { p with assigned := none } else p
    pipes := vmap s1.pipes fun _ p => if p.owner = some n then { p with owner := none } else p }.updParcel n fun p => { p with
      state := 0, holder := none, presses := 0, pipes := 0, saveVpn := 0, saveSlots := 0, saveFree := 0 }

/-- The pair and request that a parcel's clearing belongs to. -/
def clearingJob (s : State) (n : Fin 8) : Option (Fin 8 × Word × Option ParcelCfg) :=
  (List.finRange 8).findSome? fun p => match (s.pair p).job with
    | some (.creating seq m policy) => if m = n then some (p, seq, some policy) else none
    | some (.destroying seq m) => if m = n then some (p, seq, none) else none
    | _ => none

/-- CLEARING_COMPLETE. -/
def stepClearing (n : Fin 8) (s : State) : State :=
  if !firmwareUp s then s
  else match clearingJob s n with
  | none => s
  | some (p, seq, some policy) => finishJob p 0x10 seq 0 [] (activate n policy (clearParcel n s))
  | some (p, seq, none) => finishJob p 0x11 seq 0 [] (removeParcel n (clearParcel n s))

/-- CLEARING_COMPLETE. -/
def execClearingComplete (parcel : Fin 8) (s : State) : Host.Outcome State Fault Refusal := answer (stepClearing parcel) s

end Sys2Proof.Machine
end

