-- ==== Sys2Proof/Machine/Requests.lean ====
section
/-! DEFINITION. Firmware's requests of Table 15.4 but for parcels, translation and collectives: HELLO, queues, objects, echo,
streams, pipelines, failed presses, links, multiplexed streams, live update and attestation (R564 to R572, R606, R737). -/

namespace Sys2Proof.Machine

/-- The result of a request that is answered at once without fields of its own. -/
def done (s : State) : State × Option (Nat × List Byte) := (s, some (0, []))

/-- A request that is refused: the device stays as it was. -/
def refuse (code : Nat) (s : State) : State × Option (Nat × List Byte) := (s, some (code, []))

/-- A request whose reply is owed. -/
def owe (pair : Fin 8) (job : FwJob) (s : State) : State × Option (Nat × List Byte) :=
  (s.updPair pair fun x => { x with job := some job }, none)

/-! ### HELLO -/

/-- The reply's fields (Table 15.12). -/
def helloFields (s : State) : List Byte :=
  leBytes 4 s.fw.version.toNat ++ leBytes 4 s.fw.translator.toNat ++ leBytes 1 (self s) ++ leBytes 1 s.fuses.grade.toNat ++
    leBytes 2 (enabledMask s).toNat ++ leBytes 4 0

/-- HELLO. -/
def execHello (pair : Fin 8) (s : State) : Host.Outcome State Fault Refusal :=
  answer (serve 0x0001 pair fun _ s => (s, some (0, helloFields s))) s

/-! ### Queues (R452, R455, R473, R567) -/

/-- Queue number of a request. -/
def reqQueue (b : List Byte) : Fin 256 := Fin.ofNat 256 (fieldNat b 16 1)

/-- SEQ that a record of a new queue's cork log holds (R473): 128 below the first number of the record. -/
def firstLogSeq (f : Word) (r : Nat) : Word := f + BitVec.ofNat 32 ((r + 128 - f.toNat % 128) % 128) - 128

/-- R473: the cork log of a new queue; the other bytes of its records are not stated. -/
def initLog (q : Fin 256) (f : Word) (s : State) : State :=
  s.bump.updWindow fun m =>
    (List.range 128).foldl (fun m (r : Nat) =>
      (m.writeNat (corkLog q + 32 * r + 8) 4 (firstLogSeq f r).toNat).write (corkLog q + 32 * r + 14) 0xFF)
      (m.wipe (corkLog q) 4096 s.freeCtr)

/-- The checks of QUEUE_CREATE. -/
def queueCheck (s : State) (b : List Byte) : Nat :=
  if 7 < fieldNat b 17 1 ∨ fieldNat b 18 2 = 0 ∨ 511 < fieldNat b 18 2 then 5
  else if s.queues.toList.all fun q => q.cfg.live.en then 0x20
  else if (s.queue (reqQueue b)).cfg.live.en || (s.parcel (Fin.ofNat 8 (fieldNat b 17 1))).state ≠ 2 then 6
  else 0

/-- QUEUE_CREATE's effect; TAIL and CONSUMED lie in the ring control block of Table 12.1. -/
def createQueue (b : List Byte) (s : State) : State × Option (Nat × List Byte) :=
  match queueCheck s b with
  | 0 =>
    let q := reqQueue b
    let f : Word := BitVec.ofNat 32 (fieldNat b 24 4)
    let fl := fieldNat b 20 1
    let cfg : QueueCfg := { en := true, continuePolicy := fl.testBit 0, wire := BitVec.ofNat 2 (fl / 2)
                            parcel := BitVec.ofNat 3 (fieldNat b 17 1), size := BitVec.ofNat 9 (fieldNat b 18 2) }
    let s1 := s.updQueue q fun x => { x with
      tail := f, consumed := f, read := f, nextCork := f, stopped := false, resume := none, cmds := []
      submitTimes := [], readEntry := 1, cfg := { x.cfg with staged := cfg } }
    let s2 := s1.updWindow fun m => m.writeNat (ringBase q) 8 (f.toNat + f.toNat * 2 ^ 32)
    done (writeGo (.hart 0) (pgQueue q) (noteEcho (corkLog q) 4096 none (initLog q f s2)))
  | code => refuse code s

/-- QUEUE_CREATE. -/
def execQueueCreate (pair : Fin 8) (s : State) : Host.Outcome State Fault Refusal := answer (serve 0x0020 pair createQueue) s

/-- QUEUE_DESTROY's effect: CFG.EN is cleared once nothing of the queue is submitted and not retired. -/
def destroyQueue (b : List Byte) (s : State) : State × Option (Nat × List Byte) :=
  let q := reqQueue b
  if !(s.queue q).cfg.live.en then refuse 0x22 s
  else if !queueEmpty (s.queue q) then refuse 0x21 s
  else done (writeGo (.hart 0) (pgQueue q)
    (s.updQueue q fun x => { x with cfg := { x.cfg with staged := { x.cfg.live with en := false } } }))

/-- QUEUE_DESTROY. -/
def execQueueDestroy (pair : Fin 8) (s : State) : Host.Outcome State Fault Refusal := answer (serve 0x0021 pair destroyQueue) s

/-! ### Objects (R388, R399 to R401) -/

/-- First byte and end of a parcel's carve-out without its save area (R487). -/
def objectSpace (s : State) (n : Fin 8) : Nat × Nat :=
  let c := (vget s.mmu.carves n).live
  let p := s.parcel n
  let save := ceilDiv (p.saveSlots.toNat * popCount p.presses * 0x684000) 16384
  (c.base.toNat * granulePages * 16384, ((c.base.toNat + c.size.toNat) * granulePages - save) * 16384)

/-- R401: is a range empty, unaligned or outside the parcel's carve-out? -/
def objectRangeBad (s : State) (n : Fin 8) (base len : Nat) : Bool :=
  let r := objectSpace s n
  len = 0 || base % 64 ≠ 0 || len % 64 ≠ 0 || decide (base < r.1) || decide (r.2 < base + len)

/-- The checks of OBJECT_CREATE. -/
def objectCheck (s : State) (b : List Byte) : Nat :=
  let n : Fin 8 := Fin.ofNat 8 (fieldNat b 16 1)
  if 7 < fieldNat b 16 1 then 5
  else if 65536 ≤ s.objects.length then 0x30
  else if (s.parcel n).state ≠ 2 then 6
  else if objectRangeBad s n (fieldNat b 24 8) (fieldNat b 32 8) then 0x31
  else 0

/-- OBJECT_CREATE's effect: the lowest free handle (R400). -/
def createObject (b : List Byte) (s : State) : State × Option (Nat × List Byte) :=
  match objectCheck s b with
  | 0 =>
    let h := lowestFree s.objects 0
    let o : Obj := { base := fieldNat b 24 8, length := fieldNat b 32 8, parcel := Fin.ofNat 8 (fieldNat b 16 1)
                     holds := 0, releasePending := false, poisoned := false }
    ({ s with objects := putKey s.objects h o }, some (0, leBytes 2 h ++ leBytes 6 0))
  | code => refuse code s

/-- OBJECT_CREATE. -/
def execObjectCreate (pair : Fin 8) (s : State) : Host.Outcome State Fault Refusal := answer (serve 0x0030 pair createObject) s

/-- R731: the live object of a parcel that a handle names. -/
def objectOf (s : State) (parcel handle : Nat) : Option Obj :=
  (s.object handle).filter fun o => decide (o.parcel.val = parcel)

/-- OBJECT_CLEAR_POISON's effect. -/
def clearPoison (b : List Byte) (s : State) : State × Option (Nat × List Byte) :=
  if 7 < fieldNat b 18 1 then refuse 5 s
  else if (objectOf s (fieldNat b 18 1) (fieldNat b 16 2)).isNone then refuse 0x32 s
  else done (s.updObject (fieldNat b 16 2) fun o => { o with poisoned := false })

/-- OBJECT_CLEAR_POISON. -/
def execObjectClearPoison (pair : Fin 8) (s : State) : Host.Outcome State Fault Refusal :=
  answer (serve 0x0031 pair clearPoison) s

/-! ### ECHO_SET (R737) -/

/-- PAGEi of the request: its number and VALID. -/
def reqEchoPage (b : List Byte) (i : Nat) : Nat := fieldNat b (24 + 2 * (i - 1)) 2

/-- The configuration that an ECHO_SET request names. -/
def reqEcho (b : List Byte) : EchoCfg :=
  { queues := BitVec.ofNat 9 (fieldNat b 16 2), mbox := BitVec.ofNat 4 (fieldNat b 18 1), base := BitVec.ofNat 9 (fieldNat b 20 2)
    pageNo := Vector.ofFn fun i => if i.val = 0 then 0 else BitVec.ofNat 10 (reqEchoPage b i.val)
    pageValid := Vector.ofFn fun i => decide (i.val ≠ 0) && (reqEchoPage b i.val).testBit 15 }

/-- ECHO_SET's effect: the configuration goes to every other device and is committed here; the reply comes with the
commit. -/
def setEcho (pair : Fin 8) (b : List Byte) (s : State) : State × Option (Nat × List Byte) :=
  if 256 < fieldNat b 16 2 ∨ 8 < fieldNat b 18 1 ∨ 383 < fieldNat b 20 2 then refuse 5 s
  else if !isLead s then refuse 6 s
  else if echoBad s (reqEcho b) then refuse 0x90 s
  else
    let s1 := if s.port.devices = 1 then s else s.send (.echoConfig (reqEcho b))
    let s2 := { s1 with port := { s1.port with echo := { s1.port.echo with staged := reqEcho b } } }
    let s3 := writeGo (.hart 0) pgHostPort (s2.updPair pair fun x => { x with job := some (.echoing (reqSeq b)) })
    (if s3.port.echo.pending.isNone then finishEcho 0 s3 else s3, none)

/-- ECHO_SET. -/
def execEchoSet (pair : Fin 8) (s : State) : Host.Outcome State Fault Refusal := answer (serve 0x0048 pair (setEcho pair)) s

/-! ### Reservations: streams and pipelines (R22, R23, R329, R355, R567, R568) -/

/-- R23: half of the trained LPDDR6 bandwidth, in bytes per second (Table 10.2). -/
def isoLimit (s : State) : Nat :=
  if !s.memctl.trained then 0
  else match s.memctl.rate.toNat with
  | 0 => 307200000000
  | 1 => 249600000000
  | _ => 204000000000

/-- The sum of the ISO reservations in force. -/
def isoSum (s : State) : Nat :=
  (s.pipes.toList.map fun p => p.reservation).sum + (s.codec.streams.map fun x => x.2.reservation).sum

/-- R355: reservation of a stream: 3 × picture bytes × frame rate. -/
def streamReservation (width height depth fpsCenti : Nat) : Nat :=
  let bytes := if depth = 8 then width * height * 3 / 2 else width * height * 3
  divOpen (3 * bytes * fpsCenti) 100

/-- The checks of STREAM_OPEN. -/
def streamCheck (s : State) (b : List Byte) : Nat :=
  let f := fieldNat b 16 1
  let depth := fieldNat b 17 1
  let fps := fieldNat b 22 2
  let r := streamReservation (fieldNat b 18 2) (fieldNat b 20 2) depth fps
  if f = 0 ∨ 4 < f ∨ (depth ≠ 8 ∧ depth ≠ 10) ∨ fps = 0 then 5
  else if 64 ≤ s.codec.streams.length then 0x51
  else if isoLimit s < isoSum s + r then 0x50
  else 0

/-- STREAM_OPEN's effect. -/
def openStream (b : List Byte) (s : State) : State × Option (Nat × List Byte) :=
  match streamCheck s b with
  | 0 =>
    let depth := fieldNat b 17 1
    let w := fieldNat b 18 2
    let h := fieldNat b 20 2
    let fps := fieldNat b 22 2
    let r := streamReservation w h depth fps
    let n := lowestFree s.codec.streams 0
    let st : Stream := { function := BitVec.ofNat 8 (fieldNat b 16 1), width := w, height := h, depth := depth
                         fpsCenti := fps, reservation := r, closing := false }
    ({ s with codec := { s.codec with streams := putKey s.codec.streams n st } },
      some (0, leBytes 1 n ++ leBytes 7 0 ++ leBytes 8 r))
  | code => refuse code s

/-- R630: a stream gives work to the CODEC domain. -/
def streamWork (b : List Byte) (s : State) : List (Fin 9) := if streamCheck s b ≠ 0 then [] else [4]

/-- STREAM_OPEN. -/
def execStreamOpen (pair : Fin 8) (s : State) : Host.Outcome State Fault Refusal :=
  answer (serveAwake 0x0050 pair streamWork openStream) s

/-- STREAM_CLOSE's effect: at once, or after the stream's last accepted command has retired. -/
def closeRequest (pair : Fin 8) (b : List Byte) (s : State) : State × Option (Nat × List Byte) :=
  let n := fieldNat b 16 1
  match lookupKey s.codec.streams n with
  | none => refuse 0x52 s
  | some st =>
    if st.closing then refuse 6 s
    else if streamBusy s n then
      owe pair (.closing (reqSeq b) n)
        { s with codec := { s.codec with streams := putKey s.codec.streams n { st with closing := true } } }
    else done (closeStream n s)

/-- STREAM_CLOSE. -/
def execStreamClose (pair : Fin 8) (s : State) : Host.Outcome State Fault Refusal :=
  answer (serve 0x0051 pair (closeRequest pair)) s

/-- R311, R313, R314, R203: bytes of the enabled outputs of a frame or strip of a size, the outputs given as in
Config.enabledOutputs. -/
def outputBytes (w h : Nat) (en : BitVec 7) : Nat :=
  let on (i n : Nat) : Nat := if en.getLsbD i then n else 0
  let pick (i a b : Nat) : Nat := if en.getLsbD i then b else a
  on 0 (w * h * pick 3 3 2) + on 1 ((w * h + 2 * (ceilDiv w 2 * ceilDiv h 2)) * pick 4 1 2) +
    on 2 (w * h * pick 6 16 32 * pick 5 1 2)

/-- R329: reservation of a pipeline's staged configuration: the bytes per frame or strip over the time of its lines. -/
def pipeReservation (s : State) (c : PipeCfg) : Nat :=
  let bytes := outputBytes c.width.toNat (frameHeight c) (Config.enabledOutputs s.freeCtr)
  let lines := if c.strip then c.stripHeight.toNat - c.overlap.toNat else c.height.toNat
  if lines * c.lineTime.toNat = 0 then Config.reservationAtZero s.freeCtr
  else divOpen (bytes * 1000000000) (lines * c.lineTime.toNat)

/-- PIPE_COMMIT's effect (R568). -/
def commitPipe (b : List Byte) (s0 : State) : State × Option (Nat × List Byte) :=
  let n : Fin 16 := Fin.ofNat 16 (fieldNat b 16 1)
  if 15 < fieldNat b 16 1 then refuse 5 s0
  else
    let s := s0.bump
    let r := pipeReservation s0 (s0.pipe n).cfg.staged
    if isoLimit s < isoSum s - (s.pipe n).reservation + r then
      refuse 0x50 (s.updPipe n fun p => { p with cfg := { p.cfg with staged := p.cfg.live } })
    else (writeGo (.hart 0) (pgPipe n) (s.updPipe n fun p => { p with reservation := r }), some (0, leBytes 8 r))

/-- PIPE_COMMIT. -/
def execPipeCommit (pair : Fin 8) (s : State) : Host.Outcome State Fault Refusal := answer (serve 0x0058 pair commitPipe) s

/-! ### PRESS_FAIL (R145, R146) -/

/-- PRESS_FAIL's effect: the reply waits until the commands that ran on the press have ended. -/
def failPress (pair : Fin 8) (b : List Byte) (s : State) : State × Option (Nat × List Byte) :=
  let p : Fin 16 := Fin.ofNat 16 (fieldNat b 16 1)
  if 15 < fieldNat b 16 1 then refuse 5 s
  else
    let s1 := setFailed p s
    if (s1.press p).sequencer.isSome then owe pair (.failing (reqSeq b) p) s1 else done s1

/-- PRESS_FAIL. -/
def execPressFail (pair : Fin 8) (s : State) : Host.Outcome State Fault Refusal := answer (serve 0x0060 pair (failPress pair)) s

/-! ### LINK_RETRAIN (R520, R551, R552) -/

/-- LINK_STATE: firmware reports a link's new state (Table 15.14). -/
def linkEvent (i : Fin 4) (s : State) : State :=
  if firmwareUp s then fwEvent 0x8003 (leBytes 1 i.val ++ leBytes 1 (s.link i).state.toNat ++ [0, 0]) s else s

/-- A link begins a retrain: it carries nothing until it is done. -/
def startRetrain (i : Fin 4) (s : State) : State :=
  let s1 := s.updLink i fun l => { l with state := 1, retrains := satInc l.retrains 1, consecutive := 0 }
  let s2 := pageError pgVine 1 (BitVec.ofNat 32 i.val) 0 (BitVec.ofNat 8 (0x18 + i.val)) (setTimingBroken s1)
  if (s.link i).state = 1 then s2 else linkEvent i s2

/-- R34, R629: the bring-up of a DOWN link is requested: it is in use from now on and trains. -/
def startBringUp (i : Fin 4) (s : State) : State :=
  linkEvent i (s.updLink i fun l => { l with state := 1, wanted := true, joining := true })

/-- LINK_RETRAIN's effect: a link that has a partner retrains, a DOWN link is brought up; the reply comes when it is done. A link
that trains already gives MSG_STATE. -/
def retrainRequest (pair : Fin 8) (b : List Byte) (s : State) : State × Option (Nat × List Byte) :=
  let i : Fin 4 := Fin.ofNat 4 (fieldNat b 16 1)
  let s1 := s.updLink i fun l => { l with failedRetrains := 0 }
  if 3 < fieldNat b 16 1 then refuse 5 s
  else if (s.link i).state = 1 then refuse 6 s
  else owe pair (.retraining (reqSeq b) i) (if (s.link i).state = 0 then startBringUp i s1 else startRetrain i s1)

/-- R630: the bring-up of a link gives work to the domain of its Vine PLL. -/
def retrainWork (b : List Byte) (s : State) : List (Fin 9) :=
  let i := fieldNat b 16 1
  if 3 < i ∨ (s.link (Fin.ofNat 4 i)).state ≠ 0 then [] else if i < 2 then [7] else [8]

/-- LINK_RETRAIN. -/
def execLinkRetrain (pair : Fin 8) (s : State) : Host.Outcome State Fault Refusal :=
  answer (serveAwake 0x0068 pair retrainWork (retrainRequest pair)) s

/-! ### Multiplexed streams (R569) -/

/-- Table 15.1: in a system of 17 devices or more the lead alone has multiplexed submission, for every device. -/
def muxElsewhere (s : State) : Bool := decide (17 ≤ s.port.devices.toNat) && !isLead s

/-- Is a device's queue one that this device's firmware places descriptors for through the forward queue? -/
def muxRemote (s : State) (dev : Nat) : Bool := isLead s && decide (17 ≤ s.port.devices.toNat) && decide (dev ≠ self s)

/-- The checks of MUX_OPEN. -/
def muxCheck (s : State) (b : List Byte) : Nat :=
  let dev := fieldNat b 16 1
  let q := s.queue (Fin.ofNat 256 (fieldNat b 18 1))
  if s.port.devices.toNat ≤ dev ∨ 7 < fieldNat b 17 1 then 5
  else if muxElsewhere s || (decide (dev ≠ self s) && !muxRemote s dev) then 6
  else if dev = self s ∧ !q.cfg.live.en then 0x22
  else if dev = self s ∧ q.cfg.live.parcel.toNat ≠ fieldNat b 17 1 then 5
  else if 4096 ≤ s.fw.muxes.length then 0x70
  else 0

/-- MUX_OPEN's effect. -/
def openMux (b : List Byte) (s : State) : State × Option (Nat × List Byte) :=
  match muxCheck s b with
  | 0 =>
    let id := lowestFree s.fw.muxes 0
    let m : Mux := { dev := Fin.ofNat 64 (fieldNat b 16 1), parcel := Fin.ofNat 8 (fieldNat b 17 1)
                     queue := Fin.ofNat 256 (fieldNat b 18 1) }
    ({ s with fw := { s.fw with muxes := putKey s.fw.muxes id m } }, some (0, leBytes 2 id ++ [0, 0]))
  | code => refuse code s

/-- MUX_OPEN. -/
def execMuxOpen (pair : Fin 8) (s : State) : Host.Outcome State Fault Refusal := answer (serve 0x0078 pair openMux) s

/-- What MUX_SUBMIT and MUX_CLOSE check of their stream; 0 when it is open. -/
def muxStreamCheck (s : State) (id : Nat) : Nat :=
  if 4095 < id then 5 else if muxElsewhere s then 6 else if (lookupKey s.fw.muxes id).isNone then 0x52 else 0

/-- MUX_SUBMIT's effect: the descriptor joins those that wait for its stream's turn. -/
def submitMux (pair : Fin 8) (b : List Byte) (s : State) : State × Option (Nat × List Byte) :=
  let id := fieldNat b 16 2
  match muxStreamCheck s id with
  | 0 =>
    let s1 := { s with fw := { s.fw with muxWaiting := s.fw.muxWaiting ++ [pair] } }
    (settleMux 9 (s1.updPair pair fun x => { x with job := some (.muxing (reqSeq b) id ((b.drop 24).take 64)) }), none)
  | code => refuse code s

/-- MUX_SUBMIT. -/
def execMuxSubmit (pair : Fin 8) (s : State) : Host.Outcome State Fault Refusal := answer (serve 0x0079 pair (submitMux pair)) s

/-- MUX_CLOSE's effect; a stream with a descriptor that waits is not closed. -/
def closeMux (b : List Byte) (s : State) : State × Option (Nat × List Byte) :=
  let id := fieldNat b 16 2
  let waits := s.fw.muxWaiting.any fun p => match muxJob s p with
    | some (_, stream, _) => decide (stream = id)
    | none => false
  match muxStreamCheck s id with
  | 0 => if waits then refuse 6 s else done { s with fw := { s.fw with muxes := dropKey s.fw.muxes id } }
  | code => refuse code s

/-- MUX_CLOSE. -/
def execMuxClose (pair : Fin 8) (s : State) : Host.Outcome State Fault Refusal := answer (serve 0x007A pair closeMux) s

/-! ### Live update (R570 to R573, R594) -/

/-- VERSION of an image (Table 16.5). -/
def imageVersion (img : List Byte) : Nat := fieldNat img 4 4

/-- FW_LOAD's effect: the copy in the inactive half is checked as a boot image is; a failed load leaves none. -/
def loadImage (b : List Byte) (s : State) : State × Option (Nat × List Byte) :=
  let off := fieldNat b 16 4
  let len := fieldNat b 20 4
  let fail (code : Nat) := refuse code { s with fw := { s.fw with loaded := none } }
  if 1048576 < len ∨ stagingSize < off + len then fail 0x81
  else
    let img := s.port.window.readBytes (stagingBase + off) len
    match imageFault s.fuses img with
    | some _ => fail 0x80
    | none => ({ s with fw := { s.fw with loaded := some img } }, some (0, leBytes 4 (imageVersion img)))

/-- FW_LOAD. -/
def execFwLoad (pair : Fin 8) (s : State) : Host.Outcome State Fault Refusal := answer (serve 0x0080 pair loadImage) s

/-- FW_SWAP's effect: with a checked image, requests are read no more until the swap is done. -/
def swapRequest (pair : Fin 8) (b : List Byte) (s : State) : State × Option (Nat × List Byte) :=
  if s.fw.loaded.isNone then refuse 6 s else owe pair (.swapping (reqSeq b)) s

/-- FW_SWAP. -/
def execFwSwap (pair : Fin 8) (s : State) : Host.Outcome State Fault Refusal := answer (serve 0x0081 pair (swapRequest pair)) s

/-- The pair and request of a pending swap. -/
def swapJob (s : State) : Option (Fin 8 × Word) :=
  (List.finRange 8).findSome? fun p => match (s.pair p).job with
    | some (.swapping seq) => some (p, seq)
    | _ => none

/-- R571, step 1: every other request has its reply and no collective is in progress. -/
def swapReady (s : State) (pair : Fin 8) : Bool :=
  s.fw.colls.isEmpty && (List.finRange 8).all fun p =>
    p = pair || ((s.pair p).job.isNone && !((s.pair p).held.any fun m => !m.1))

/-- Reading resumes on every pair: requests that fail their checks are answered. -/
def resumeReading (s : State) : State := foldState (fun p s => refuseBad 256 p s) (List.finRange 8) s

/-- R571: the harts run the new image, which is measured (R605). -/
def enterImage (img : List Byte) (stallUs : BitVec 12) (s : State) : State :=
  measureDigest (sha256 (img.take (imageLength img))) { s with
    boot := { s.boot with keyInUse := BitVec.ofNat 2 (fieldNat img 13 1) }
    fw := { s.fw with
      version := BitVec.ofNat 32 (imageVersion img), half := !s.fw.half, loaded := none
      swaps := satInc s.fw.swaps 1, lastStall := stallUs
      minor := Config.imageMinor img, translator := Config.imageTranslator img } }

/-- FW_SWAP_STALL: the stall window, from its opening to its end (R571, R572). -/
def stepSwapStall (handoffOk : Bool) (stallUs : BitVec 12) (s : State) : State :=
  match swapJob s, s.fw.loaded with
  | some (p, seq), some img =>
    if !firmwareUp s || !swapReady s p then s
    else if handoffOk then
      resumeReading (finishJob p 0x81 seq 0 (leBytes 4 (imageVersion img)) (enterImage img stallUs s))
    else
      resumeReading (finishJob p 0x81 seq 0x82 []
        { s with fw := { s.fw with loaded := none, refused := satInc s.fw.refused 1, lastStall := stallUs } })
  | _, _ => s

/-- FW_SWAP_STALL. -/
def execFwSwapStall (handoffOk : Bool) (stallUs : BitVec 12) (s : State) : Host.Outcome State Fault Refusal :=
  answer (stepSwapStall handoffOk stallUs) s

/-! ### Attestation (R604 to R606, Table 16.10) -/

/-- The device's public key: PK.seed and PK.root. -/
def devicePublicKey (s : State) : List Byte :=
  imageBytes s.boot.pkSeed 16 ++ imageBytes (Config.slhPublicRoot s.boot.skSeed s.boot.pkSeed) 16

/-- Length of the report. -/
def reportLength (s : State) : Nat := 124 + 32 * s.boot.measLog.length + 7856

/-- Every byte of the report before its signature. -/
def reportBody (s : State) (nonce : List Byte) : List Byte :=
  let r := s.bootRec
  leBytes 4 0x54415450 ++ leBytes 4 (reportLength s) ++ imageBytes nonce 32 ++ leBytes 8 s.fuses.deviceId.toNat ++
    devicePublicKey s ++ leBytes 1 s.fuses.grade.toNat ++ leBytes 1 s.fuses.svn ++
    leBytes 1 (s.fuses.revoked.toNat + 16 * s.boot.keyInUse.toNat) ++
    leBytes 1 (r.source.toNat + 4 * bit r.slot + 8 * bit r.trial + 16 * bit s.safety.mode) ++
    leBytes 4 s.fw.version.toNat ++ leBytes 2 (enabledMask s).toNat ++ leBytes 1 s.boot.measLog.length ++ [0] ++
    imageBytes s.boot.pcr 32 ++ s.boot.measLog.flatMap fun d => imageBytes d 32

/-- Firmware's own writes to an object: through the entries of its pages, whose permission bits do not govern them (R397). -/
def writeVirtual : Nat → Nat → List Byte → State → State
  | 0, _, _, s => s
  | fuel + 1, va, l, s =>
    if l.isEmpty then s
    else
      let k := min l.length (16384 - va % 16384)
      let t := ttEntry s (va / 16384)
      let s1 := if t.valid && !t.retired then
          { s with dram := s.dram.writeBytes (t.ppn.toNat * 16384 + va % 16384) (l.take k) } else s
      writeVirtual fuel (va + k) (l.drop k) s1

/-- Write bytes at a device virtual address. -/
def fwWrite (va : Nat) (l : List Byte) (s : State) : State := writeVirtual (l.length / 16384 + 2) va l s

/-- Firmware's own reads of an object; a page without a readable entry gives free bytes. -/
def fwRead (s : State) (va n : Nat) : List Byte :=
  (List.range n).map fun i =>
    let t := ttEntry s ((va + i) / 16384)
    if t.valid && !t.retired then s.dram.read (t.ppn.toNat * 16384 + (va + i) % 16384) else Config.freeByte s.freeCtr i

/-- ATTEST's effect: the report's bytes are fixed and the signing unit begins. -/
def attestRequest (pair : Fin 8) (b : List Byte) (s : State) : State × Option (Nat × List Byte) :=
  let h := fieldNat b 48 2
  let n := fieldNat b 50 1
  if 7 < n then refuse 5 s
  else match objectOf s n h with
  | none => refuse 0x32 s
  | some o =>
    if o.length < reportLength s then refuse 5 s
    else owe pair (.signing (reqSeq b) h (Fin.ofNat 8 n) (reportBody s ((b.drop 16).take 32)))
      { s with fw := { s.fw with signing := s.fw.signing ++ [pair] } }

/-- ATTEST. -/
def execAttest (pair : Fin 8) (s : State) : Host.Outcome State Fault Refusal := answer (serve 0x0090 pair (attestRequest pair)) s

/-- The request whose report the signing unit signs: the one that arrived first (R554). -/
def signingJob (s : State) : Option (Fin 8 × Word × Nat × Fin 8 × List Byte) :=
  s.fw.signing.findSome? fun p => match (s.pair p).job with
    | some (.signing seq h n l) => some (p, seq, h, n, l)
    | _ => none

/-- SIGNING_COMPLETE: the report and its signature go to the output object, and the reply gives their length. -/
def stepSigning (s : State) : State :=
  if !firmwareUp s then s
  else match signingJob s with
  | none => s
  | some (p, seq, h, n, l) =>
    let s := { s with fw := { s.fw with signing := s.fw.signing.filter fun x => decide (x ≠ p) } }
    match objectOf s n.val h with
    | none => finishJob p 0x90 seq 0x32 [] s
    | some o =>
      let sig := imageBytes (Config.slhSign s.boot.skSeed s.boot.skPrf s.boot.pkSeed l) 7856
      finishJob p 0x90 seq 0 (leBytes 4 (l.length + 7856)) (fwWrite o.base (l ++ sig) s)

/-- SIGNING_COMPLETE. -/
def execSigningComplete (s : State) : Host.Outcome State Fault Refusal := answer stepSigning s

end Sys2Proof.Machine
end

