-- ==== Sys2Proof/Machine/Vine.lean ====
section
/-! DEFINITION. The Vine links, topology, global time, barriers and collectives (R516 to R552, R585). -/

namespace Sys2Proof.Machine

/-! ### Flits (R517 to R520) -/

/-- R519: the receiver asks for everything from the expected flit on. -/
def requestReplay (i : Fin 4) (s : State) : State :=
  (s.updLink i fun l => { l with rejecting := true }).sendOn i (.replayRequest i (s.link i).rxNext)

/-- R519: flits up to an acknowledged sequence number leave the replay buffer; progress ends a run of failed retries. -/
def acceptAck (ack : Word) (l : Link) : Link :=
  let kept := l.replay.filter fun f => earlier ack f.1
  { l with replay := kept, consecutive := if kept.length < l.replay.length then 0 else l.consecutive }

/-- R519, R525: a good flit in order is accepted; one for another device goes on along its route, on the second virtual
channel once it has crossed a dateline (R518). A calibration flit (R521) and an IDLE flit carry nothing. -/
def acceptFlit (i : Fin 4) (f : List Byte) (s : State) : State :=
  let s1 := s.updLink i fun l => { acceptAck (BitVec.ofNat 32 (fieldNat f 8 4)) l with rxNext := l.rxNext + 1, rejecting := false }
  let s2 := pumpForward (pumpLink 256 i s1)
  let dest := fieldNat f 2 1 % 64
  if calibrates (s.link i).rxNext ∨ fieldNat f 0 1 = 3 then s2
  else
    let s3 := if dest = self s then s2 else match routeOut s2 dest with
      | none => s2
      | some j => queueFlit j (f.take 4 ++ (f.drop 12).take 240) s2
    sendIdle i s3

/-- FLIT_RECEIVE: CRC first, then the sequence number (R519). A link that carries nothing takes none (R520). -/
def stepFlitReceive (i : Fin 4) (f : List Byte) (s : State) : State :=
  let l := s.link i
  if !linkCarries s i then s
  else if BitVec.ofNat 32 (fieldNat f 252 4) ≠ crc32 (f.take 252) then
    requestReplay i (s.updLink i fun l => { l with crcErr := satInc l.crcErr 1 })
  else if BitVec.ofNat 32 (fieldNat f 4 4) ≠ l.rxNext then if l.rejecting then s else requestReplay i s
  else acceptFlit i f s

/-- FLIT_RECEIVE. -/
def execFlitReceive (link : Fin 4) (flit : List Byte) (s : State) : Host.Outcome State Fault Refusal :=
  answerIf (decide (flit.length = 256)) "FLIT_RECEIVE" (stepFlitReceive link flit) s

/-- Send again what the replay buffer holds, oldest first. -/
def resend (i : Fin 4) (s : State) : State := foldState (fun f s => s.emit (.flit i f.1 f.2)) (s.link i).replay s

/-- REPLAY_REQUEST: what is before the discarded flit has arrived; the rest is sent again. After 16 retries in succession
that brought nothing forward the link retrains (R519, R520). -/
def stepReplayRequest (i : Fin 4) (lseq : Word) (s : State) : State :=
  if !linkCarries s i then s
  else
    let s1 := s.updLink i (acceptAck (lseq - 1))
    if 16 ≤ (s1.link i).consecutive then startRetrain i s1
    else pumpForward (pumpLink 256 i (resend i (s1.updLink i fun l =>
      { l with consecutive := l.consecutive + 1, retries := satInc l.retries 1 })))

/-- REPLAY_REQUEST. -/
def execReplayRequest (link : Fin 4) (lseq : Word) (s : State) : Host.Outcome State Fault Refusal :=
  answer (stepReplayRequest link lseq) s

/-- LINK_SILENCE_TIMEOUT (R520). -/
def stepLinkSilence (i : Fin 4) (s : State) : State := if (s.link i).state = 2 then startRetrain i s else s

/-- LINK_SILENCE_TIMEOUT. -/
def execLinkSilenceTimeout (link : Fin 4) (s : State) : Host.Outcome State Fault Refusal := answer (stepLinkSilence link) s

/-- The reply of a LINK_RETRAIN that is owed for a link. -/
def finishRetrain (i : Fin 4) (s : State) : State :=
  foldState (fun p s => match (s.pair p).job with
    | some (.retraining seq j) =>
      if j = i then finishJob p 0x68 seq 0 (leBytes 1 (s.link i).state.toNat ++ [0, 0, 0]) s else s
    | _ => s) (List.finRange 8) s

/-- R442, R522, R530: what a FAILED link cuts off. The lead loses every device whose fixed route crosses the link, wherever it
is; another device whose route to the lead crosses it keeps its own time. -/
def loseRoutes (dev : Nat) (i : Fin 4) (s : State) : State :=
  if isLead s then loseDevices ((List.range s.port.devices.toNat).filter fun d => crosses s d dev i) s
  else if crosses s 0 dev i && s.vine.synced then
    pageError pgVine 4 (BitVec.ofNat 32 i.val) 0 (BitVec.ofNat 8 (0x18 + i.val)) { s with vine := { s.vine with synced := false } }
  else s

/-- A link that a requested bring-up has trained has a far end, of which the row says nothing: PEER_DEV and PEER_LINK are free. -/
def joinPeer (i : Fin 4) (s : State) : State :=
  if (s.link i).joining then
    s.bump.updLink i fun l => { l with
      joining := false, peerDev := (Config.freeWord s.freeCtr 8).setWidth 6, peerLink := (Config.freeWord s.freeCtr 9).setWidth 2 }
  else s

/-- A retrain or the bring-up of one of this device's links ends: the link resumes from the first unacknowledged flit, tries
again, or is FAILED after three failures. -/
def ownLinkDone (i : Fin 4) (ok : Bool) (s : State) : State :=
  if (s.link i).state ≠ 1 then s
  else if ok then
    let s1 := (joinPeer i s).updLink i fun l => { l with state := 2, failedRetrains := 0, consecutive := 0, rejecting := false }
    finishRetrain i (linkEvent i (pumpForward (pumpLink 256 i (resend i s1))))
  else
    let s1 := s.updLink i fun l => { l with failedRetrains := l.failedRetrains + 1 }
    if (s1.link i).failedRetrains < 3 then startRetrain i s1
    else
      let s2 := pageError pgVine 2 (BitVec.ofNat 32 i.val) 0 (BitVec.ofNat 8 (0x18 + i.val))
        (s1.updLink i fun l => { l with state := 3 })
      loseRoutes (self s) i (finishRetrain i (linkEvent i s2))

/-- LINK_RETRAIN_DONE: of one of this device's links, or of another device's, whose failure cuts routes here too. -/
def stepLinkRetrained (dev : Fin 64) (i : Fin 4) (ok : Bool) (s : State) : State :=
  if dev.val = self s then ownLinkDone i ok s
  else if ok || decide (s.port.devices.toNat ≤ dev.val) then s
  else loseRoutes dev.val i s

/-- LINK_RETRAIN_DONE. -/
def execLinkRetrainDone (dev : Fin 64) (link : Fin 4) (ok : Bool) (s : State) : Host.Outcome State Fault Refusal :=
  answer (stepLinkRetrained dev link ok) s

/-! ### Topology (R523, R524, R585) -/

/-- May the lead's discovery run: the step VINE has trained links, no size is known yet and the wait has not ended in a
fault? -/
def discovering (s : State) : Bool :=
  isLead s && decide (s.port.devices = 1) && decide (11 ≤ s.boot.nextStep) && decide (levelOf s.bootRec 10 ≠ 1) && !s.vine.gaveUp &&
    (List.finRange 4).any fun i => (s.link i).state = 2

/-- Has the wait of VINE_WAIT_S seconds ended? -/
def waitOver (s : State) : Bool := decide ((bootCfg s.boot.config).waitS * 1000000000 ≤ elapsed s s.vine.startedAt)

/-- R585: once the wait has ended, a discovery that failed is recorded and reported. -/
def recordTopology (s : State) : State :=
  match s.vine.probeFault with
  | none => s
  | some (i, result) =>
    if !waitOver s then s
    else
      let s1 := pageError pgVine 3 (BitVec.ofNat 32 i.val) 0 (BitVec.ofNat 8 (0x18 + i.val))
        { s with vine := { s.vine with gaveUp := true } }
      if hartsRun s1 then
        fwEvent 0x8002 (leBytes 1 i.val ++ leBytes 1 result ++ leBytes 1 s.vine.foundRows ++ leBytes 1 s.vine.foundCols) s1
      else s1

/-- A discovery fails, with the link and the result of Table 15.14. -/
def probeFailed (i : Fin 4) (result : Nat) (s : State) : State :=
  recordTopology { s with vine := { s.vine with probing := false, probeFault := some (i, result) } }

/-- Has a link found a partner? -/
def hasPartner (s : State) (i : Fin 4) : Bool := (s.link i).state = 2

/-- TOPOLOGY_DISCOVERY: a new probe leaves on link 0, unless exactly one of links 2 and 3 has a partner. -/
def stepDiscovery (s0 : State) : State :=
  if !discovering s0 then s0
  else if s0.vine.probeFault.isSome && waitOver s0 then recordTopology s0
  else
    let s := { s0 with vine := { s0.vine with foundRows := 0, foundCols := 0 } }
    if hasPartner s 2 ≠ hasPartner s 3 then probeFailed (if hasPartner s 2 then 3 else 2) 3 s
    else { s with vine := { s.vine with probing := true } }.sendOn 0 (.probe 0)

/-- TOPOLOGY_DISCOVERY. -/
def execTopologyDiscovery (s : State) : Host.Outcome State Fault Refusal := answer stepDiscovery s

/-- Discovery succeeds: the lead holds the size and numbers the other devices (R524). -/
def numberDevices (rows cols : Nat) (s : State) : State :=
  { s with
    port := { s.port with devices := BitVec.ofNat 7 (rows * cols) }
    vine := { s.vine with
      rows := BitVec.ofNat 4 rows, cols := BitVec.ofNat 4 cols, foundRows := rows, foundCols := cols
      probing := false, probeFault := none, synced := true } }.send (.number rows cols)

/-- PROBE_RETURN: the probe of link 0 gives C, that of link 2 gives R; a ring sends none on link 2. -/
def stepProbeReturn (sentOn returnedOn : Fin 4) (hops : Nat) (s : State) : State :=
  let v := s.vine
  if !discovering s || !v.probing || (sentOn ≠ 0 && sentOn ≠ 2) || decide (sentOn = 0) ≠ decide (v.foundCols = 0) then s
  else if returnedOn ≠ sentOn + 1 then probeFailed sentOn 0 s
  else if sentOn = 0 then
    if hops < 2 ∨ 8 < hops then probeFailed 0 2 { s with vine := { v with foundCols := hops } }
    else if hasPartner s 2 then { s with vine := { v with foundCols := hops } }.sendOn 2 (.probe 2)
    else numberDevices 1 hops s
  else if hops = 0 ∨ v.foundCols < hops ∨ 64 < hops * v.foundCols then probeFailed 2 2 { s with vine := { v with foundRows := hops } }
  else numberDevices hops v.foundCols s

/-- PROBE_RETURN. -/
def execProbeReturn (sentOn returnedOn : Fin 4) (hops : Nat) (s : State) : Host.Outcome State Fault Refusal :=
  answer (stepProbeReturn sentOn returnedOn hops) s

/-- PROBE_TIMEOUT: the probe of a link has not returned within 1 ms. -/
def stepProbeTimeout (i : Fin 4) (s : State) : State :=
  if discovering s && s.vine.probing && decide (i = if s.vine.foundCols = 0 then 0 else 2) then probeFailed i 1 s else s

/-- PROBE_TIMEOUT. -/
def execProbeTimeout (link : Fin 4) (s : State) : Host.Outcome State Fault Refusal := answer (stepProbeTimeout link) s

/-! ### Global time (R527 to R530) -/

/-- The period of REFCLK in ns, by which each of its edges advances the global time (R527, R608). -/
def refclkNs (s : State) : Nat := if s.straps.refclk50 then 20 else 40

/-- TIME_SYNC_SEND: the lead of several devices sends its time. -/
def stepTimeSend (s : State) : State := if isLead s && decide (1 < s.port.devices.toNat) then s.send (.time s.time) else s

/-- TIME_SYNC_SEND. -/
def execTimeSyncSend (s : State) : Host.Outcome State Fault Refusal := answer stepTimeSend s

/-- R528: a route's delay as a whole number of REFCLK periods. -/
def wholeDelay (s : State) (ns : Nat) : Nat :=
  let p := refclkNs s
  let r := ns % p
  ns / p * p + if p < 2 * r || (2 * r = p && Config.roundsUp ns p) then p else 0

/-- TIME_SYNC_RECEIVE: a device that has a common REFCLK, or is not in step, steps forward or holds; otherwise it corrects by
single increments. -/
def stepTimeReceive (leadTime : Long) (delayNs : Nat) (s : State) : State :=
  if isLead s then s
  else
    let target := leadTime + BitVec.ofNat 64 (wholeDelay s delayNs)
    let d : Int := (target - s.time).toInt
    let p : Int := refclkNs s
    let v := { s.vine with offset := BitVec.ofInt 16 d }
    if v.synced && !v.cfg.live.commonRefclk then
      { s with vine := { v with correction := if d < 0 then -((-d) / p * p) else d / p * p } }
    else if 0 ≤ d then { s with time := target, vine := { v with hold := 0, correction := 0, synced := true } }
    else { s with vine := { v with hold := d.natAbs, correction := 0 } }

/-- TIME_SYNC_RECEIVE. -/
def execTimeSyncReceive (leadTime : Long) (routeDelayNs : Nat) (s : State) : Host.Outcome State Fault Refusal :=
  answer (stepTimeReceive leadTime routeDelayNs) s

/-! ### Barriers (R531 to R538) -/

/-- The entry of a generation of an identifier. -/
def Vine.entry (v : Vine) (ident : BitVec 16) (gen : Word) : Option Barrier :=
  v.barriers.find? fun b => b.ident = ident && b.gen = gen

/-- Drop the entry of a generation, and device 0's record of who arrived at it. -/
def Vine.dropEntry (v : Vine) (ident : BitVec 16) (gen : Word) : Vine :=
  { v with
    barriers := v.barriers.filter fun b => !(b.ident = ident && b.gen = gen)
    arrivals := v.arrivals.filter fun a => !(a.1 = ident.toNat && a.2.1 = gen) }

/-- R534: a generation is released here and its BARRIER command commits. -/
def releaseBarrier (b : Barrier) (s : State) : State :=
  let v := s.vine.dropEntry b.ident b.gen
  traceEvent 0x38 0x0203 (endCmd b.queue b.seq 0 0 { s with vine := { v with done := satInc v.done 1 } })

/-- The counter at a rising edge of REFCLK: it advances, stands while it is held (R530), or makes one correction of R529, at most
one in every 64 edges. -/
def advanceTime (s : State) : State :=
  let p := refclkNs s
  let v := s.vine
  if 0 < v.hold then
    { s with vine := { v with hold := v.hold - p, synced := v.synced || decide (v.hold ≤ p) } }
  else if v.correction ≠ 0 && decide (63 ≤ v.edges) then
    { s with
      time := if 0 < v.correction then s.time + BitVec.ofNat 64 (2 * p) else s.time
      vine := { v with edges := 0, correction := if 0 < v.correction then v.correction - p else v.correction + p } }
  else { s with time := s.time + BitVec.ofNat 64 p, vine := { v with edges := min 63 (v.edges + 1) } }

/-- R534: the entries whose release time the counter has reached. -/
def dueBarriers (s : State) : List Barrier :=
  if s.safety.safe then []
  else s.vine.barriers.filter fun b => match b.tRel with
    | some t => decide (t ≤ s.time)
    | none => false

/-- One rising edge of REFCLK: the counter advances, and every barrier whose release time it reaches is released (R527, R534). -/
def tick (s : State) : State := foldState releaseBarrier (dueBarriers (advanceTime s)) (advanceTime s)

/-- R537: the BARRIER command that arrived at an aborted generation ends. -/
def abortBarrier (b : Barrier) (s : State) : State :=
  let v := s.vine.dropEntry b.ident b.gen
  endCmd b.queue b.seq 0x2A (dataI b.ident.toNat 0) { s with vine := { v with timeouts := satInc v.timeouts 1 } }

/-- R533, R536: the release time of a generation is known; a counter that has passed it releases at once. -/
def setRelease (ident : BitVec 16) (gen : Word) (tRel : Long) (s : State) : State :=
  match s.vine.entry ident gen with
  | none => s
  | some b =>
    if tRel < s.time then
      releaseBarrier b { s with vine := { s.vine with late := satInc s.vine.late 1, timingBroken := true } }
    else { s with vine := { s.vine with
      barriers := s.vine.barriers.map fun x => if x.ident = ident && x.gen = gen then { x with tRel := some tRel } else x } }

/-- R533: T_rel, the global time plus LEAD_NS rounded up to a whole REFCLK period. -/
def releaseTime (s : State) : Long :=
  BitVec.ofNat 64 (roundUp (s.time.toNat + s.vine.cfg.live.leadNs.toNat) (refclkNs s))

/-- Devices that have arrived at a generation, as device 0 holds it. -/
def Vine.arrivedAt (v : Vine) (ident : BitVec 16) (gen : Word) : List Nat :=
  ((v.arrivals.find? fun a => a.1 = ident.toNat && a.2.1 = gen).map fun a => a.2.2).getD []

/-- R533: an arrival reaches device 0; with one from every device it fixes T_rel and sends it. -/
def noteArrival (dev : Nat) (ident : BitVec 16) (gen : Word) (s : State) : State :=
  let devs := ((s.vine.arrivedAt ident gen) ++ [dev]).eraseDups
  let rest := s.vine.arrivals.filter fun a => !(a.1 = ident.toNat && a.2.1 = gen)
  if (List.range s.port.devices.toNat).all fun d => devs.contains d then
    let t := releaseTime s
    let s1 := { s with vine := { s.vine with arrivals := rest } }
    setRelease ident gen t (if s.port.devices.toNat ≤ 1 then s1 else s1.send (.release ident gen t))
  else { s with vine := { s.vine with arrivals := rest ++ [(ident.toNat, gen, devs)] } }

/-- BARRIER: the arrival of a command that has started goes to device 0; an aborted generation ends the command at once. -/
def stepBarrier (q : Fin 256) (seq : Word) (s : State) : State :=
  match startedOf s q seq 6, s.vine.barriers.find? fun b => b.queue = q && b.seq = seq with
  | some _, some b =>
    if s.vine.aborted.contains (b.ident.toNat, b.gen) then
      let v := s.vine.dropEntry b.ident b.gen
      endCmd q seq 0x2A (dataI b.ident.toNat 0)
        { s with vine := { v with aborted := v.aborted.filter fun a => decide (a ≠ (b.ident.toNat, b.gen)) } }
    else
      let s1 := setPhase q seq .running s
      if isLead s then noteArrival (self s) b.ident b.gen s1 else s1.send (.arrival b.ident b.gen)
  | _, _ => s

/-- BARRIER. -/
def execBarrier (q : Fin 256) (seq : Word) (s : State) : Host.Outcome State Fault Refusal := answer (stepBarrier q seq) s

/-- BARRIER_ARRIVAL: another device's arrival reaches device 0. -/
def stepArrival (dev : Fin 64) (ident : BitVec 16) (gen : Word) (s : State) : State :=
  if !isLead s || s.safety.safe || decide (dev.val = self s) || decide (s.port.devices.toNat ≤ dev.val) then s
  else noteArrival dev.val ident gen s

/-- BARRIER_ARRIVAL. -/
def execBarrierArrival (dev : Fin 64) (ident : BitVec 16) (gen : Word) (s : State) : Host.Outcome State Fault Refusal :=
  answer (stepArrival dev ident gen) s

/-- RELEASE_TIME_RECEIVE. -/
def stepReleaseTime (ident : BitVec 16) (gen : Word) (tRel : Long) (s : State) : State :=
  if s.safety.safe then s else setRelease ident gen tRel s

/-- RELEASE_TIME_RECEIVE. -/
def execReleaseTimeReceive (ident : BitVec 16) (gen : Word) (tRel : Long) (s : State) : Host.Outcome State Fault Refusal :=
  answer (stepReleaseTime ident gen tRel) s

/-- BARRIER_RELEASE: the counter has reached T_rel of the identifier's oldest generation that has one. -/
def stepBarrierRelease (ident : BitVec 16) (s : State) : State :=
  match (dueBarriers s).find? fun b => b.ident = ident with
  | none => s
  | some b => releaseBarrier b s

/-- BARRIER_RELEASE. -/
def execBarrierRelease (ident : BitVec 16) (s : State) : Host.Outcome State Fault Refusal :=
  answer (stepBarrierRelease ident) s

/-- R537: has an arrival waited TIMEOUT_MS without a release? -/
def overdue (s : State) (b : Barrier) : Bool :=
  decide (s.vine.cfg.live.timeoutMs.toNat * 1000000 ≤ elapsed s b.arrivedAt)

/-- BARRIER_TIMEOUT: the identifier's oldest arrival that has waited too long is not released; the device sends an abort. -/
def stepBarrierTimeout (ident : BitVec 16) (s : State) : State :=
  if s.safety.safe then s
  else match s.vine.barriers.find? fun b => b.ident = ident && overdue s b with
  | none => s
  | some b => abortBarrier b (s.send (.abort ident b.gen))

/-- BARRIER_TIMEOUT. -/
def execBarrierTimeout (ident : BitVec 16) (s : State) : Host.Outcome State Fault Refusal :=
  answer (stepBarrierTimeout ident) s

/-- BARRIER_ABORT: an abort is received: the command that has arrived ends, or the generation waits for its arrival. -/
def stepBarrierAbort (ident : BitVec 16) (gen : Word) (s : State) : State :=
  if s.safety.safe then s
  else match s.vine.entry ident gen with
  | some b => abortBarrier b s
  | none =>
    let next := (lookupKey s.vine.generations ident.toNat).getD 0
    let v := s.vine.dropEntry ident gen
    if gen ≠ next && !earlier next gen || v.aborted.contains (ident.toNat, gen) then s
    else { s with vine := { v with aborted := v.aborted ++ [(ident.toNat, gen)], timeouts := satInc v.timeouts 1 } }

/-- BARRIER_ABORT. -/
def execBarrierAbort (ident : BitVec 16) (gen : Word) (s : State) : Host.Outcome State Fault Refusal :=
  answer (stepBarrierAbort ident gen) s

/-! ### Collectives (R539 to R544) -/

/-- Bytes of one device's input. -/
def collBytes (format count : Nat) : Nat := if format = 2 then count else 4 * count

/-- Bytes of a collective's output. -/
def collOut (devices op bytes : Nat) : Nat := if op = 3 then devices * bytes else bytes

/-- Do the IN and OUT objects of a request hold what it names, apart from each other? -/
def collObjectsBad (s : State) (op bytes : Nat) (i o : Obj) : Bool :=
  decide (i.length < bytes) || decide (o.length < collOut s.port.devices.toNat op bytes) ||
    rangesMeet i.base i.length o.base o.length

/-- The checks of COLLECTIVE (R539, R540). -/
def collCheck (s : State) (b : List Byte) : Nat :=
  let op := fieldNat b 16 1
  let fmt := fieldNat b 17 1
  let n := fieldNat b 18 1
  if 4 < op ∨ 7 < n ∨ (if op < 3 then 1 < fmt else fmt ≠ 2) then 5
  else if 16 < s.port.devices.toNat ∧ (op = 1 ∨ op = 2 ∨ op = 4) then 0x60
  else match objectOf s n (fieldNat b 32 2), objectOf s n (fieldNat b 34 2) with
    | some i, some o => if collObjectsBad s op (collBytes fmt (fieldNat b 24 8)) i o then 5 else 0
    | _, _ => 0x32

/-- Raise or lower the holds of a collective's objects. -/
def holdBoth (c : Coll) (s : State) : State :=
  foldState (fun h s => s.updObject h fun o => { o with holds := o.holds + 1 }) [c.inHandle, c.outHandle] s

/-- The holds of both objects fall; one whose release was pending is released. -/
def dropBoth (c : Coll) (s : State) : State :=
  foldState (fun h s => releaseIfFree h (s.updObject h fun o => { o with holds := o.holds - 1 })) [c.inHandle, c.outHandle] s

/-- This device's input. -/
def collInput (s : State) (c : Coll) : List Byte :=
  match s.object c.inHandle with
  | none => []
  | some o => fwRead s o.base (collBytes c.format.toNat c.count)

/-- COLLECTIVE's effect: both objects are held and this device's input leaves for the others. -/
def beginCollective (pair : Fin 8) (b : List Byte) (s : State) : State × Option (Nat × List Byte) :=
  match collCheck s b with
  | 0 =>
    let c : Coll := { pair := pair, op := BitVec.ofNat 8 (fieldNat b 16 1), format := BitVec.ofNat 8 (fieldNat b 17 1)
                      parcel := Fin.ofNat 8 (fieldNat b 18 1), seq := BitVec.ofNat 32 (fieldNat b 20 4)
                      count := fieldNat b 24 8, inHandle := fieldNat b 32 2, outHandle := fieldNat b 34 2, started := s.time }
    let s1 := holdBoth c { s with fw := { s.fw with colls := s.fw.colls ++ [c] } }
    let s2 := if s.port.devices.toNat ≤ 1 then s1 else s1.send (.collective c.seq (collInput s c))
    owe pair (.collective (reqSeq b)) s2
  | code => refuse code s

/-- COLLECTIVE. -/
def execCollective (pair : Fin 8) (s : State) : Host.Outcome State Fault Refusal :=
  answer (serve 0x0070 pair (beginCollective pair)) s

/-- One step of a reduction on two element codes: the sum of R541, rounded in saturate mode (R65), or MAX and MIN of
Table 3.5. An infinity stays one (DEDUCED, log entry 54). -/
def reduce2 (op format : Nat) (a x : Nat) : Nat :=
  if format = 0 then
    let i := signedOf 32 a
    let j := signedOf 32 x
    (BitVec.ofInt 32 (if op = 0 then sat32 (i + j) else if op = 1 then max i j else min i j)).toNat
  else
    let u := fp32.decode a
    let v := fp32.decode x
    fp32.encode (if op = 0 then rnd32 false (u.add v) else if op = 1 then u.max v else u.min v)

/-- The output of a collective from every device's input, in ascending device number (R541, R542). -/
def collResult (op format count : Nat) (inputs : List (List Byte)) : List Byte :=
  if op = 3 then inputs.flatten
  else if op = 4 then inputs.getD 0 []
  else (List.range count).flatMap fun k =>
    let xs := inputs.map fun l => fieldNat l (4 * k) 4
    leBytes 4 ((xs.drop 1).foldl (reduce2 op format) (xs.getD 0 0))

/-- The oldest collective ends: its holds fall and its reply is written. -/
def endCollective (c : Coll) (code : Nat) (s : State) : State :=
  let s1 := dropBoth c { s with fw := { s.fw with colls := s.fw.colls.drop 1 } }
  match (s1.pair c.pair).job with
  | some (.collective seq) => finishJob c.pair 0x70 seq code [] s1
  | _ => s1

/-- COLLECTIVE_COMPLETE: the inputs of the other devices, in ascending number, have arrived. -/
def stepCollComplete (inputs : List (List Byte)) (s : State) : State :=
  match s.fw.colls with
  | [] => s
  | c :: _ =>
    let bytes := collBytes c.format.toNat c.count
    if !firmwareUp s || s.safety.safe || decide (inputs.length + 1 ≠ s.port.devices.toNat) ||
        inputs.any (fun l => decide (l.length ≠ bytes)) then s
    else match s.object c.outHandle with
      | none => endCollective c 0 s
      | some o =>
        let all := inputs.take (self s) ++ [collInput s c] ++ inputs.drop (self s)
        endCollective c 0 (fwWrite o.base (collResult c.op.toNat c.format.toNat c.count all) s)

/-- COLLECTIVE_COMPLETE. -/
def execCollectiveComplete (inputs : List (List Byte)) (s : State) : Host.Outcome State Fault Refusal :=
  answer (stepCollComplete inputs) s

/-- COLLECTIVE_TIMEOUT: the oldest collective fails and its output object is undefined (R544). -/
def stepCollTimeout (s : State) : State :=
  match s.fw.colls with
  | [] => s
  | c :: _ =>
    if !firmwareUp s then s
    else match s.object c.outHandle with
      | none => endCollective c 0x61 s
      | some o => endCollective c 0x61 (wipeVirtual (o.length / 16384 + 2) o.base o.length s)

/-- COLLECTIVE_TIMEOUT. -/
def execCollectiveTimeout (s : State) : Host.Outcome State Fault Refusal := answer stepCollTimeout s

end Sys2Proof.Machine
end

