-- ==== Sys2Proof/Machine/RegWrite.lean ====
section
/-! DEFINITION. What a write of every register word of every control page does (R12, R425 to R428, R694 to R703): the fields
reserved to firmware, one function per page in the order of Table 20.6, and the commands that write registers. -/

namespace Sys2Proof.Machine

/-! ### Fields reserved to firmware (R427) -/

/-- Does a word lie in lo to hi? -/
def inWords (lo hi w : Nat) : Bool := decide (lo ≤ w) && decide (w ≤ hi)

/-- The firmware-only RW and RWS fields of a word, as a mask (R148, R242, R412, R451, R481, R553, R631, R660, R694). -/
def firmwareRw (p w : Nat) : Word :=
  if w = 5 then 3
  else if p = 3 then
    if w = 0x11 then 0x3F7F else if w = 0x18 then 0x3FFFFF else if inWords 0x21 0x2F w then 0x7FF
    else if inWords 0x30 0x37 w then 0x3FFFF else 0
  else if p = 4 then
    if inWords 0x10 0x23 w then (match w % 4 with
      | 0 => 0xFFFFFF
      | 1 => 0x3F1F
      | 3 => if w = 0x17 then 0xF else 0
      | _ => 0)
    else if inWords 0x40 0x48 w then 7 else 0
  else if p = 5 then (if w = 0x13 then 0x1FFFF else if w = 0x21 ∨ w = 0x23 ∨ w = 0x25 then 0x3F else 0)
  else if p = 6 then (if w = 0x10 then 0xFF else 0)
  else if p = 11 then (if w = 0x10 then 0x300 else if w = 0x14 then 0xFFFFFFFF else 0)
  else if p = 16 then (if inWords 0x20 0x27 w then 0x1FFFFFF else 0)
  else if p = 18 then (if inWords 0x10 0x17 w then 0x3F3F else 0)
  else if 20 ≤ p ∧ p ≤ 35 then (if w = 2 then 1 else if inWords 0x40 0x7F w then 0xFFFFFFFF else 0)
  else if 64 ≤ p ∧ p ≤ 79 then (if inWords 0x40 0x13F w && w % 16 = 0 then 0x1FF7F else 0)
  else 0

/-- The firmware-only W1S, W1C and WO fields of a word, as a mask (R145, R412, R694, R702). -/
def firmwareAct (p w : Nat) : Word :=
  if w = 4 then 3
  else if w = 7 then if hostCommit p then 0 else 5
  else if p = 16 ∧ w = 0x14 then 0x80FFFFFF
  else if p = 19 ∧ w = 0x11 then 0xFFFF
  else 0

/-- R427: would a host write change or act on a field reserved to firmware? -/
def hostDenied (s : State) (p w : Nat) (v : Word) : Bool :=
  (v ^^^ regRead s p w) &&& firmwareRw p w ≠ 0 || v &&& firmwareAct p w ≠ 0

/-- What is left of a host write once such fields are left out: their present value, or 0 where a 1 acts. -/
def hostValue (s : State) (p w : Nat) (v : Word) : Word :=
  (v &&& ~~~(firmwareRw p w ||| firmwareAct p w)) ||| (regRead s p w &&& firmwareRw p w)

/-! ### Fields of a written word -/

/-- Field of n bits from bit lo. -/
def fld (v : Word) (lo n : Nat) : Nat := bitsOf v.toNat lo n

/-- Change the staged copy of a set. -/
def Rws.stage {α : Type} (r : Rws α) (f : α → α) : Rws α := { r with staged := f r.staged }

/-- A W1C counter: each 1 clears its bit. -/
def w1c {n : Nat} (x : BitVec n) (v : Word) : BitVec n := x &&& ~~~(v.setWidth n)

/-- The half of a pair of 16-bit fields, low half first. -/
def halfOf (v : Word) (k : Nat) : BitVec 16 := BitVec.ofNat 16 (fld v (16 * (k % 2)) 16)

/-- Set elements 2i and 2i + 1 of a vector of 16-bit fields from one word. -/
def putHalves {n : Nat} [NeZero n] (x : Vector (BitVec 16) n) (i : Nat) (v : Word) : Vector (BitVec 16) n :=
  vmap x fun k old => if k.val / 2 = i then halfOf v k.val else old

/-! ### Common registers -/

/-- Words 4, 5, 7 and 15 of a page. GO takes effect before CANCEL (R700). -/
def writeCommon (who : Writer) (p : Fin 121) (w : Nat) (v : Word) (s : State) : State :=
  match w with
  | 4 => s.updPage p fun r => { r with
      irqError := r.irqError && !v.getLsbD 0, irqCommitDone := r.irqCommitDone && !v.getLsbD 1 }
  | 5 => s.updPage p fun r => { r with irqMask := v &&& 3 }
  | 7 =>
    let s1 := s.updPage p fun r => { r with
      superseded := r.superseded && !v.getLsbD 3, rejected := r.rejected && !v.getLsbD 4 }
    let s2 := if v.getLsbD 0 && mayCommit who p then writeGo who p s1 else s1
    if v.getLsbD 2 && mayCommit who p then writeCancel p s2 else s2
  | 15 => if v.getLsbD 0 then s.updPage p fun r => { r with errValid := false, errLost := 0 } else s
  | _ => s

/-! ### Block-specific registers, one function per page -/

/-- FW. -/
def writeFw (w : Nat) (v : Word) (s : State) : State :=
  if w = 0x14 then { s with fw := { s.fw with msgErrors := w1c s.fw.msgErrors v } } else s

/-- BOOT (R607); a reset samples straps that the board holds. -/
def writeBoot (who : Writer) (w : Nat) (v : Word) (s : State) : State :=
  match w with
  | 0x14 => writeReset who (v.getLsbD 0) (BitVec.ofNat 8 (fld v 8 8)) s.straps s
  | 0x15 => writeHostImage (BitVec.ofNat 21 (fld v 0 21)) s
  | 0x16 => match norCommand s (fld v 0 4) (Fin.ofNat 2 (fld v 4 1)) with
    | none => s
    | some job => startNor job s
  | 0x17 => s.updBoot fun b => { b with norSrc := BitVec.ofNat 25 (fld v 0 25) }
  | 0x18 => s.updBoot fun b => { b with norLen := BitVec.ofNat 21 (fld v 0 21) }
  | _ => s

/-- IRQw.ACKED (R446). -/
def writeAcked (w : Fin 4) (v : Word) (s : State) : State :=
  { s with port := { s.port with wires := vupd s.port.wires w fun x => { x with acked := v } } }

/-- R523: the sizes R × C that a system of so many devices can have. -/
def torusSizes (n : Nat) : List (Nat × Nat) :=
  ((List.range 8).flatMap fun r => (List.range 8).map fun c => (r + 1, c + 1)).filter fun x =>
    decide (2 ≤ x.2) && decide (x.1 ≤ x.2) && decide (x.1 * x.2 = n)

/-- R524: on a device other than the lead the write of DEVICES and SELF is the lead's numbering, with which bring-up sets ROWS and
COLS there. No register write says which of the sizes it is: free among them (log entry 33). -/
def takeNumber (s : State) : State :=
  let sizes := torusSizes s.port.devices.toNat
  if isLead s then s
  else match sizes[(Config.freeWord s.freeCtr 10).toNat % max 1 sizes.length]? with
  | none => s
  | some x => { s.bump with vine := { s.vine with rows := BitVec.ofNat 4 x.1, cols := BitVec.ofNat 4 x.2 } }

/-- HOSTPORT (R451). -/
def writeHostPort (w : Nat) (v : Word) (s : State) : State :=
  let h := s.port
  match w with
  | 0x11 => takeNumber { s with port := { h with devices := BitVec.ofNat 7 (fld v 0 7), self := BitVec.ofNat 6 (fld v 8 6) } }
  | 0x13 => { s with port := { h with fwdDropped := w1c h.fwdDropped v } }
  | 0x14 => { s with port := { h with linkCorr := w1c h.linkCorr v } }
  | 0x15 => { s with port := { h with linkUncorr := w1c h.linkUncorr v } }
  | 0x16 => { s with port := { h with errCount := w1c h.errCount v } }
  | 0x18 => { s with port := { h with echo := h.echo.stage fun e =>
      { e with queues := BitVec.ofNat 9 (fld v 0 9), mbox := BitVec.ofNat 4 (fld v 9 4), base := BitVec.ofNat 9 (fld v 13 9) } } }
  | 0x40 => { s with port := { h with mboxWire := BitVec.ofNat 16 (fld v 0 16), mboxEn := BitVec.ofNat 8 (fld v 16 8) } }
  | 0x41 => { s with port := { h with errWire := BitVec.ofNat 2 (fld v 0 2), errEn := v.getLsbD 2 } }
  | _ =>
    if inWords 0x21 0x2F w then
      let i : Fin 16 := Fin.ofNat 16 (w - 0x20)
      { s with port := { h with echo := h.echo.stage fun e =>
        { e with pageNo := vset e.pageNo i (BitVec.ofNat 10 (fld v 0 10)), pageValid := vset e.pageValid i (v.getLsbD 10) } } }
    else if inWords 0x30 0x37 w then
      let t : Share := { base := BitVec.ofNat 13 (fld v 0 9), size := BitVec.ofNat 13 (fld v 9 9) }
      { s with port := { h with stages := vupd h.stages (Fin.ofNat 8 (w - 0x30)) fun r => r.stage fun _ => t } }
    else if inWords 0x38 0x3F w && w % 2 = 1 then writeAcked (Fin.ofNat 4 ((w - 0x38) / 2)) v s
    else s

/-- CLOCKS (R631): the fields of PLLs 5 to 8 are read-only. -/
def writeClocks (who : Writer) (w : Nat) (v : Word) (s : State) : State :=
  if inWords 0x10 0x23 w then
    s.updPll (Fin.ofNat 9 ((w - 0x10) / 4)) fun p => { p with cfg := p.cfg.stage fun c => match w % 4 with
      | 0 => { c with khz := BitVec.ofNat 24 (fld v 0 24) }
      | 1 => { c with depth := BitVec.ofNat 5 (fld v 0 5), rate := BitVec.ofNat 6 (fld v 8 6) }
      | 3 => if w = 0x17 then { c with fallbackDiv := BitVec.ofNat 4 (fld v 0 4) } else c
      | _ => c }
  else if inWords 0x40 0x48 w then
    let d : Fin 9 := Fin.ofNat 9 (w - 0x40)
    let x := s.dom d
    let s1 := if x.runEn ≠ v.getLsbD 0 then setRunEn d (v.getLsbD 0) s else s
    let s2 := if x.sleepEn ≠ v.getLsbD 1 then setSleepEn d (v.getLsbD 1) s1 else s1
    if x.deepEn ≠ v.getLsbD 2 then setDeepEn who d (v.getLsbD 2) s2 else s2
  else if w = 0x51 then programOtp (BitVec.ofNat 12 (fld v 0 12)) (BitVec.ofNat 12 (fld v 12 12)) (BitVec.ofNat 8 (fld v 24 8)) s
  else s

/-- A change of TOPPING.EN shows in the state of every parcel's presses (R651). -/
def settleAllTopping (s : State) : State := foldState settleTopping (List.finRange 8) s

/-- POWER (R660): a value outside its range stores the nearest end. AVSr.GUARD, which R660 does not list, does the same at both
ends of the 3 to 53 that Table 18.4 gives (DESIGN CHOICE, log entry 38). -/
def writePower (w : Nat) (v : Word) (s : State) : State :=
  let p := s.power
  match w with
  | 0x10 => { s with power := { p with cap := BitVec.ofNat 10 (clampNat 200 750 (fld v 0 10)) } }
  | 0x11 => { s with power := { p with flimit := p.flimit.stage fun _ =>
      { fmin := BitVec.ofNat 9 (fld v 0 9), fmax := BitVec.ofNat 9 (fld v 16 9) } } }
  | 0x12 => { s with power := { p with
      dvfsEn := v.getLsbD 0, raiseMhz := BitVec.ofNat 8 (clampNat 1 20 (fld v 8 8))
      lowerMhz := BitVec.ofNat 8 (clampNat 1 50 (fld v 16 8)) } }
  | 0x13 => { s with power := { p with fixedMw := BitVec.ofNat 17 (fld v 0 17) } }
  | 0x16 => { s with power := { p with alertHold := BitVec.ofNat 16 (clampNat 100 65535 (fld v 0 16)) } }
  | 0x17 => { s with power := { p with alerts := w1c p.alerts v } }
  | 0x18 =>
    let s1 := { s with power := { p with
      toppingEn := v.getLsbD 0, toppingLevel := BitVec.ofNat 5 (clampNat 0 16 (fld v 8 5))
      toppingUp := BitVec.ofNat 6 (clampNat 2 50 (fld v 16 6)), toppingDown := BitVec.ofNat 6 (clampNat 2 50 (fld v 24 6)) } }
    settleAllTopping (if v.getLsbD 0 then s1 else stopTopping s1)
  | _ =>
    if w = 0x21 ∨ w = 0x23 ∨ w = 0x25 then
      s.updRail (Fin.ofNat 3 ((w - 0x20) / 2)) fun a => { a with guard := BitVec.ofNat 6 (clampNat 3 53 (fld v 0 6)) }
    else s

/-- THERMAL (R660): THROTTLE_C reaches up to the grade's maximum, which its reset value lies 5 below. -/
def writeThermal (w : Nat) (v : Word) (s : State) : State :=
  match w with
  | 0x10 => { s with thermal := { s.thermal with
      throttleC := BitVec.ofNat 8 (min (fld v 0 8) ((throttleReset s.fuses).toNat + 5)), hystC := BitVec.ofNat 4 (fld v 8 4) } }
  | 0x13 => { s with thermal := { s.thermal with throttles := w1c s.thermal.throttles v } }
  | _ => s

/-- SAFETY (Table 19.6). -/
def writeSafety (who : Writer) (w : Nat) (v : Word) (s : State) : State :=
  match w with
  | 0x11 => writeSafetyConfig who false v s
  | 0x12 => writeSafetyConfig who true v s
  | 0x14 => { s with safety := { s.safety with autoReset := BitVec.ofNat 16 (fld v 0 16) } }
  | 0x15 => writeForce (v.getLsbD 0) (BitVec.ofNat 8 (fld v 8 8)) s
  | _ => s

/-- DIAG (Table 19.8). -/
def writeDiag (w : Nat) (v : Word) (s : State) : State :=
  let d := s.diag
  match w with
  | 0x10 => { s with diag := { d with rings := d.rings.stage fun g =>
      ({ g.1 with base := BitVec.ofNat 9 (fld v 0 9), size := BitVec.ofNat 9 (fld v 9 9) }, g.2) } }
  | 0x11 => { s with diag := { d with rings := d.rings.stage fun g =>
      (g.1, { base := BitVec.ofNat 9 (fld v 0 9), size := BitVec.ofNat 9 (fld v 9 9), shift := BitVec.ofNat 5 (fld v 18 5) }) } }
  | 0x13 => { s with diag := { d with logRead := v } }
  | _ =>
    if inWords 0x40 0x5F w then
      { s with diag := { d with loss := vmap d.loss fun k x => if k.val / 2 = w - 0x40 then x &&& ~~~(halfOf v k.val) else x } }
    else s

/-- CBOOK (Table 19.9): THAW acts after FREEZE when one write names both. -/
def writeBook (who : Writer) (w : Nat) (v : Word) (s : State) : State :=
  match w with
  | 0x11 =>
    let key : Byte := BitVec.ofNat 8 (fld v 8 8)
    let s1 := if v.getLsbD 0 then writeFreeze who key s else s
    if v.getLsbD 1 then writeThaw key s1 else s1
  | 0x13 => { s with diag := { s.diag with bookIndex := BitVec.ofNat 11 (fld v 0 11) } }
  | _ => s

/-- VINE (R553). -/
def writeVine (w : Nat) (v : Word) (s : State) : State :=
  let x := s.vine
  match w with
  | 0x10 => { s with vine := { x with
      cfg := x.cfg.stage fun c => { c with commonRefclk := v.getLsbD 8, det := v.getLsbD 9 }
      timingBroken := x.timingBroken && !v.getLsbD 10 } }
  | 0x14 => { s with vine := { x with cfg := x.cfg.stage fun c =>
      { c with leadNs := BitVec.ofNat 16 (fld v 0 16), timeoutMs := BitVec.ofNat 16 (fld v 16 16) } } }
  | 0x16 => { s with vine := { x with done := w1c x.done v } }
  | 0x17 => { s with vine := { x with timeouts := w1c x.timeouts v } }
  | 0x18 => { s with vine := { x with late := w1c x.late v } }
  | _ =>
    if inWords 0x20 0x2F w then
      s.updLink (Fin.ofNat 4 ((w - 0x20) / 4)) fun l => match w % 4 with
        | 1 => { l with retries := w1c l.retries v }
        | 2 => { l with crcErr := w1c l.crcErr v }
        | _ => l
    else s

/-- ALARM0 to ALARM3: writing 1 to PENDING acknowledges the slot (R670). -/
def writeAlarm (p w : Nat) (v : Word) (s : State) : State :=
  let e := (p - 12) * 64 + (w - 0x40) / 8
  if inWords 0x40 0x23F w && w % 8 = 0 && v.getLsbD 0 && decide (e < 134) then ackSlot (Fin.ofNat 134 e) s else s

/-- MMU (R412). INVAL drops entries of translation caches, which hold no value that the table does not. -/
def writeMmu (w : Nat) (v : Word) (s : State) : State :=
  if w = 0x13 then { s with mmu := { s.mmu with faults := w1c s.mmu.faults v } }
  else if inWords 0x20 0x27 w then
    let t : Share := { base := BitVec.ofNat 13 (fld v 0 12), size := BitVec.ofNat 13 (fld v 12 13) }
    { s with mmu := { s.mmu with carves := vupd s.mmu.carves (Fin.ofNat 8 (w - 0x20)) fun r => r.stage fun _ => t } }
  else s

/-- MEMCTL (Table 10.10). -/
def writeMemctl (w : Nat) (v : Word) (s : State) : State :=
  let m := s.memctl
  match w with
  | 0x11 => { s with memctl := { m with eccCorr := w1c m.eccCorr v } }
  | 0x12 => { s with memctl := { m with eccUncorr := w1c m.eccUncorr v } }
  | 0x13 => { s with memctl := { m with linkCorr := w1c m.linkCorr v } }
  | 0x15 => { s with memctl := { m with threshold := BitVec.ofNat 8 (fld v 0 8), windowH := BitVec.ofNat 16 (fld v 8 16) } }
  | 0x16 => { s with memctl := { m with scrubHours := if fld v 0 8 = 0 then 1 else BitVec.ofNat 8 (fld v 0 8) } }
  | _ =>
    if inWords 0x40 0x4F w then
      { s with memctl := { m with channels := vupd m.channels (Fin.ofNat 16 (w - 0x40)) fun c =>
        { c with marginMin := BitVec.ofNat 8 (fld v 8 8) } } }
    else if inWords 0x50 0x5F w then
      { s with memctl := { m with channels := vupd m.channels (Fin.ofNat 16 (w - 0x50)) fun c => { c with odecc := w1c c.odecc v } } }
    else s

/-- CELLAR (Table 6.6). -/
def writeCellar (w : Nat) (v : Word) (s : State) : State :=
  let c := s.cellar
  if inWords 0x10 0x17 w then
    let t : Share := { base := BitVec.ofNat 13 (fld v 0 6), size := BitVec.ofNat 13 (fld v 8 6) }
    { s with cellar := { c with shares := c.shares.stage fun l => vset l (Fin.ofNat 8 (w - 0x10)) t } }
  else if w = 0x18 then { s with cellar := { c with eccCorr := w1c c.eccCorr v } }
  else if w = 0x19 then { s with cellar := { c with eccUncorr := w1c c.eccUncorr v } }
  else s

/-- PRESSES.FAILED.MASK (R145, R146): each bit that is newly set takes its press out of service. -/
def writeFailed (mask : BitVec 16) (s : State) : State :=
  settleJobs (foldState (fun p s => if s.failed.getLsbD p.val then s else setFailed p s) (maskPresses mask) s)

/-- R149: the five 64-bit counters of a press are cleared. -/
def clearPressCounters (p : Press) : Press :=
  { p with busy := 0, stallWeight := 0, stallDrain := 0, stallOutlier := 0, stallOperand := 0 }

/-- PRESSn (R148). -/
def writePress (n : Fin 16) (w : Nat) (v : Word) (s : State) : State :=
  s.updPress n fun p => match w with
    | 2 => { p with en := v.getLsbD 0 }
    | 0x1E => if v.getLsbD 0 then clearPressCounters p else p
    | 0x80 => { p with eccCorr := w1c p.eccCorr v }
    | 0x81 => { p with eccUncorr := w1c p.eccUncorr v }
    | _ => if inWords 0x40 0x7F w then { p with arrive := vset p.arrive (Fin.ofNat 64 (w - 0x40)) v } else p

/-- The staged configuration of a pipeline after a write (Table 8.7). -/
def stagePipe (w : Nat) (v : Word) (c : PipeCfg) : PipeCfg :=
  match w with
  | 0x10 => { c with
      lanes := BitVec.ofNat 2 (fld v 0 2), vc := BitVec.ofNat 4 (fld v 2 4), dt := BitVec.ofNat 6 (fld v 6 6)
      laneMap := BitVec.ofNat 8 (fld v 16 8), pol := BitVec.ofNat 5 (fld v 24 5) }
  | 0x11 => { c with width := BitVec.ofNat 15 (fld v 0 15), strip := v.getLsbD 15, height := BitVec.ofNat 14 (fld v 16 14) }
  | 0x12 => { c with stripHeight := halfOf v 0, overlap := halfOf v 1 }
  | 0x13 => { c with lineTime := BitVec.ofNat 20 (fld v 0 20) }
  | 0x14 => { c with timeout := BitVec.ofNat 24 (fld v 0 24) }
  | 0x15 => { c with
      mosaic := BitVec.ofNat 3 (fld v 0 3), phaseX := BitVec.ofNat 2 (fld v 4 2), phaseY := BitVec.ofNat 2 (fld v 6 2)
      table := BitVec.ofNat 24 (fld v 8 24) }
  | 0x16 => { c with tableHi := BitVec.ofNat 24 (fld v 0 24) }
  | 0x28 => { c with offset := putHalves c.offset 0 v }
  | 0x29 => { c with offset := putHalves c.offset 1 v }
  | _ =>
    if inWords 0x18 0x1A w then { c with black := putHalves c.black (w - 0x18) v }
    else if inWords 0x1C 0x1E w then { c with gain := putHalves c.gain (w - 0x1C) v }
    else if inWords 0x20 0x27 w then { c with matrix := putHalves c.matrix (w - 0x20) v }
    else if inWords 0x100 0x180 w then { c with gamma := putHalves c.gamma (w - 0x100) v }
    else c

/-- PIPEn (Table 8.7). -/
def writePipe (n : Fin 16) (w : Nat) (v : Word) (s : State) : State :=
  s.updPipe n fun p => match w with
    | 0x2D => { p with discarded := w1c p.discarded v }
    | 0x2E => { p with otherPkt := w1c p.otherPkt v }
    | 0x2F => { p with crcLines := w1c p.crcLines v }
    | 0x30 => { p with eccCorr := w1c p.eccCorr v }
    | _ => { p with cfg := p.cfg.stage (stagePipe w v) }

/-- Engine pages (Table 7.10) and INTAKE (R369). -/
def writeEngine (e : Fin 6) (w : Nat) (v : Word) (s : State) : State :=
  if w = 0x1E then (if v.getLsbD 0 then s.updEngine e fun x => { x with busy := 0, work := 0 } else s)
  else if e.val ≠ 4 then s
  else match w with
  | 0x20 => { s with intake := { s.intake with maxPixels := BitVec.ofNat 27 (clampNat 1 67108864 (fld v 0 27)) } }
  | 0x23 => { s with intake := { s.intake with corrupt := w1c s.intake.corrupt v } }
  | 0x24 => { s with intake := { s.intake with oversize := w1c s.intake.oversize v } }
  | _ => s

/-- CODEC (Table 9.10). -/
def writeCodec (w : Nat) (v : Word) (s : State) : State :=
  if w = 0x16 then { s with codec := { s.codec with concealed := w1c s.codec.concealed v } } else s

/-- QGRPk (R481). -/
def writeQgrp (k w : Nat) (v : Word) (s : State) : State :=
  let q : Fin 256 := Fin.ofNat 256 (16 * k + (w - 0x40) / 16)
  if !inWords 0x40 0x13F w then s
  else match w % 16 with
  | 0 => s.updQueue q fun x => { x with cfg := x.cfg.stage fun _ =>
      { en := v.getLsbD 0, continuePolicy := v.getLsbD 1, wire := BitVec.ofNat 2 (fld v 2 2)
        parcel := BitVec.ofNat 3 (fld v 4 3), size := BitVec.ofNat 9 (fld v 8 9) } }
  | 2 => if v.getLsbD 0 then resumeGo q s else s
  | 7 => s.updQueue q fun x => { x with errors := w1c x.errors v }
  | 8 => s.updQueue q fun x => { x with cancelled := w1c x.cancelled v }
  | _ => s

/-- PARCELn (R514). -/
def writeParcel (n : Fin 8) (w : Nat) (v : Word) (s : State) : State :=
  s.updParcel n fun p => match w with
    | 2 => { p with cfg := p.cfg.stage fun c =>
        { c with rack := v.getLsbD 0, live := v.getLsbD 1, sliceUs := BitVec.ofNat 17 (fld v 4 17) } }
    | 0x10 => { p with cfg := p.cfg.stage fun c => { c with rackWaitUs := BitVec.ofNat 17 (fld v 0 17) } }
    | 0x15 => { p with kills := w1c p.kills v }
    | 0x16 => { p with racks := w1c p.racks v }
    | 0x17 => { p with fallbacks := w1c p.fallbacks v }
    | _ => p

/-- ACCT0 (R510): ACCT.CLEAR. -/
def writeAcct (p w : Nat) (v : Word) (s : State) : State :=
  if p = 88 ∧ w = 0x11 ∧ v.getLsbD 0 then { s with acct := {} } else s

/-- A block-specific word of a page. -/
def writeBlock (who : Writer) (p w : Nat) (v : Word) (s : State) : State :=
  if p = 1 then writeFw w v s else if p = 2 then writeBoot who w v s else if p = 3 then writeHostPort w v s
  else if p = 4 then writeClocks who w v s else if p = 5 then writePower w v s else if p = 6 then writeThermal w v s
  else if p = 8 then writeSafety who w v s else if p = 9 then writeDiag w v s else if p = 10 then writeBook who w v s
  else if p = 11 then writeVine w v s else if 12 ≤ p ∧ p ≤ 15 then writeAlarm p w v s
  else if p = 16 then writeMmu w v s else if p = 17 then writeMemctl w v s else if p = 18 then writeCellar w v s
  else if p = 19 then (if w = 0x11 then writeFailed (BitVec.ofNat 16 (fld v 0 16)) s else s)
  else if 20 ≤ p ∧ p ≤ 35 then writePress (Fin.ofNat 16 (p - 20)) w v s
  else if 36 ≤ p ∧ p ≤ 51 then writePipe (Fin.ofNat 16 (p - 36)) w v s
  else if 52 ≤ p ∧ p ≤ 57 then writeEngine (Fin.ofNat 6 (p - 52)) w v s
  else if p = 58 then writeCodec w v s
  else if 64 ≤ p ∧ p ≤ 79 then writeQgrp (p - 64) w v s
  else if 80 ≤ p ∧ p ≤ 87 then writeParcel (Fin.ofNat 8 (p - 80)) w v s
  else writeAcct p w v s

/-! ### A register word -/

/-- R673: the pages whose host writes are applied in the safe state: SAFETY, ALARMk, CBOOK and BOOT. -/
def safePage (p : Nat) : Bool := p = 2 || p = 8 || p = 10 || (12 ≤ p && p ≤ 15)

/-- The effect of a write at its block. The page of a press that is not enabled takes none (R147). -/
def regApply (who : Writer) (p w : Nat) (v : Word) (s : State) : State :=
  if offPress s p then s
  else if w < 16 ∧ w ≠ 2 then writeCommon who (page p) w v s
  else writeBlock who p w v s

/-- A write of one register word of an allocated page: the state after it, and whether a host write met a field reserved to
firmware (R427) or a page closed in the safe state (R673). -/
def regWrite (who : Writer) (p w : Nat) (v : Word) (s : State) : State × Bool :=
  if !writerActs who s then (s, false)
  else if who ≠ .host then (regApply who p w v s, false)
  else if s.safety.safe && !safePage p then (s, true)
  else if offPress s p then (s, false)
  else (regApply who p w (hostValue s p w v) s, hostDenied s p w v)

/-- A write of one register word as a command of its own, with the error that R427 or R428 gives. -/
def writeWord (who : Writer) (p w : Nat) (v : Word) (s : State) : State :=
  let at_ := ownAddress s (4096 * p + 4 * w)
  if !allocated p then (if who = .host then hostError 2 at_ s else s)
  else
    let r := regWrite who p w v s
    if r.2 then hostError 5 at_ r.1 else r.1

/-! ### Commands that write registers -/

/-- COMMIT_GO. -/
def execCommitGo (who : Writer) (page : Fin 121) (s : State) : Host.Outcome State Fault Refusal :=
  answer (writeWord who page.val 7 1) s

/-- COMMIT_CANCEL. -/
def execCommitCancel (who : Writer) (page : Fin 121) (s : State) : Host.Outcome State Fault Refusal :=
  answer (writeWord who page.val 7 4) s

/-- COMMIT_APPLY. -/
def execCommitApply (page : Fin 121) (unit : Fin 16) (s : State) : Host.Outcome State Fault Refusal :=
  answer (applyUnit page unit) s

/-- ERR_CLEAR. -/
def execErrClear (who : Writer) (page : Fin 121) (s : State) : Host.Outcome State Fault Refusal :=
  answer (writeWord who page.val 15 1) s

/-- REGISTER_WRITE. -/
def execRegisterWrite (who : Writer) (page word : BitVec 10) (value : Word) (s : State) : Host.Outcome State Fault Refusal :=
  answer (writeWord who page.toNat word.toNat value) s

/-- CNT_CLEAR: the pages of presses and engines have it. -/
def stepCntClear (who : Writer) (p : Nat) (s : State) : State :=
  if (20 ≤ p ∧ p ≤ 35) ∨ (52 ≤ p ∧ p ≤ 57) then writeWord who p 0x1E 1 s else s

/-- CNT_CLEAR. -/
def execCntClear (who : Writer) (page : BitVec 10) (s : State) : Host.Outcome State Fault Refusal :=
  answer (stepCntClear who page.toNat) s

/-- ACCT_CLEAR. -/
def execAcctClear (who : Writer) (s : State) : Host.Outcome State Fault Refusal := answer (writeWord who 88 0x11 1) s

/-- INVAL_VPN. -/
def execInvalVpn (who : Writer) (vpn : BitVec 24) (s : State) : Host.Outcome State Fault Refusal :=
  answer (writeWord who 16 0x14 (vpn.setWidth 32)) s

/-- INVAL_ALL. -/
def execInvalAll (who : Writer) (s : State) : Host.Outcome State Fault Refusal := answer (writeWord who 16 0x14 0x80000000) s

/-- MAX_PIXELS_WRITE. -/
def execMaxPixelsWrite (who : Writer) (value : BitVec 27) (s : State) : Host.Outcome State Fault Refusal :=
  answer (writeWord who 56 0x20 (value.setWidth 32)) s

/-- PRESS_FAILED_SET: firmware hart 0 writes the bit. -/
def execPressFailedSet (p : Fin 16) (s : State) : Host.Outcome State Fault Refusal :=
  answer (writeWord (.hart 0) 19 0x11 (BitVec.ofNat 32 (2 ^ p.val))) s

/-- IRQ_ACK. -/
def execIrqAck (w : Fin 4) (value : Word) (s : State) : Host.Outcome State Fault Refusal :=
  answer (writeWord .host 3 (0x39 + 2 * w.val) value) s

/-- RESUME_GO (R476). -/
def execResumeGo (q : Fin 256) (s : State) : Host.Outcome State Fault Refusal :=
  answer (writeWord .host (64 + q.val / 16) (0x42 + 16 * (q.val % 16)) 1) s

/-- A write of one bit of DOMd, its other bits as they stand. -/
def writeDomBit (who : Writer) (d : Fin 9) (b : Nat) (on : Bool) (s : State) : State :=
  let now := regRead s 4 (0x40 + d.val)
  writeWord who 4 (0x40 + d.val) ((now &&& ~~~(BitVec.ofNat 32 (2 ^ b))) ||| (if on then BitVec.ofNat 32 (2 ^ b) else 0)) s

/-- DOM_RUN_EN (R628, R631). -/
def execDomRunEn (who : Writer) (d : Fin 9) (on : Bool) (s : State) : Host.Outcome State Fault Refusal :=
  answer (writeDomBit who d 0 on) s

/-- DOM_SLEEP_EN (R628, R629). -/
def execDomSleepEn (who : Writer) (d : Fin 9) (on : Bool) (s : State) : Host.Outcome State Fault Refusal :=
  answer (writeDomBit who d 1 on) s

/-- DOM_DEEP_EN (R628 to R630). -/
def execDomDeepEn (who : Writer) (d : Fin 9) (on : Bool) (s : State) : Host.Outcome State Fault Refusal :=
  answer (writeDomBit who d 2 on) s

/-- OTP_PROG (R613). -/
def execOtpProg (who : Writer) (mem vine : BitVec 12) (key : Byte) (s : State) : Host.Outcome State Fault Refusal :=
  answer (writeWord who 4 0x51 (pack [(0, mem.toNat), (12, vine.toNat), (24, key.toNat)])) s

/-- COUNTER_LO_READ. -/
def execCounterLoRead (page word : BitVec 10) (s : State) : Host.Outcome State Fault Refusal :=
  answer (latchHi page.toNat word.toNat) s

end Sys2Proof.Machine
end

