-- ==== Sys2Proof/Machine/HostPort.lean ====
section
/-! DEFINITION. The host port: LPDDR5X commands, the window and its slots, forwarding, echo pages and host sleep (R413 to R451). -/

namespace Sys2Proof.Machine

/-! ### Window addresses (R419, R420, R422) -/

/-- R419: channel offset of a byte. -/
def channelOffset (row : BitVec 17) (bank : BitVec 4) (col : Nat) : Nat := row.toNat * 32768 + bank.toNat * 2048 + col

/-- g of Table 11.3. -/
def granuleBit (ilv : BitVec 2) : Nat := match ilv.toNat with
  | 0 => 32
  | 1 => 8
  | 2 => 12
  | _ => 16

/-- R420: window address of a channel offset. -/
def windowAddress (ilv : BitVec 2) (ch : Fin 2) (offset : Nat) : Nat :=
  let g := granuleBit ilv
  offset / 2 ^ g * 2 ^ (g + 1) + ch.val * 2 ^ g + offset % 2 ^ g

/-- R422: slot of a window address. -/
def slotOf (w : Nat) : Nat := w / 2 ^ 27
/-- R422: offset within the slot. -/
def offsetOf (w : Nat) : Nat := w % 2 ^ 27

/-- Is a slot offset in a reserved range of Table 11.4, or on an unallocated page? -/
def reservedOffset (off : Nat) : Bool :=
  if off < 0x400000 then !allocated (off / 4096) else (decide (0xE00000 ≤ off) && decide (off < 0x1000000)) || decide (0x2800000 ≤ off)

/-- R435, R442: is a slot that of no device, or of a lost one? -/
def slotAbsent (s : State) (slot : Nat) : Bool := decide (s.port.devices.toNat ≤ slot) || s.port.lost.contains slot

/-- Does a burst lie in one aligned block of 64 bytes (R437)? -/
def burstOk (first n : Nat) : Bool := decide (0 < n) && decide (first % 64 + n ≤ 64)

/-- Does the host port answer the channel's commands: up since step HOST_PORT (R418) and out of self-refresh (R449)? -/
def portAnswers (s : State) (ch : Fin 2) : Bool := isLead s && s.boot.hostPortUp && !(vget s.port.channels ch).asleep

/-! ### Echo pages (R439 to R442) -/

/-- R440: slot offset of the lead's staging SRAM that echoes an offset of a device. -/
def echoAddress (s : State) (dev off : Nat) : Option Nat :=
  let e := s.port.echo.live
  (echoPos e off).map fun k => stagingBase + (echoRange s e).1 + (dev - 1) * echoSize e + k

/-- Units of 32 bytes in a full copy of one device: the entries that are not valid hold none. -/
def copyUnits (e : EchoCfg) : Nat :=
  e.queues.toNat * 128 + e.mbox.toNat * 2048 + 128 * (1 + (List.finRange 16).countP fun i => i ≠ 0 && vget e.pageValid i)

/-- The eight bytes of echo content at an offset of this device: a register word as its mirror holds it, or the window SRAM. -/
def localByte (s : State) (off : Nat) : Byte :=
  if off < 0x400000 then
    if allocated (off / 4096) then BitVec.ofNat 8 ((regRead s (off / 4096) (off % 4096 / 4)).toNat / 2 ^ (8 * (off % 4))) else 0xFF
  else s.port.window.read off

/-- The content of an echoed unit as it now stands. -/
def unitData (s : State) (unit : Nat) : List Byte := (List.range 32).map fun i => localByte s (unit * 32 + i)

/-- R441: has a unit of control space changed since it was last pushed? -/
def unitChanged (s : State) (unit : Nat) : Bool :=
  decide (unit * 32 < 0x400000) && (echoPos s.port.echo.live (unit * 32)).isSome &&
    decide (lookupKey s.port.pushed unit ≠ some (unitData s unit))

/-- Push a unit with the event that it carries, and note what control space held. -/
def pushUnit (unit : Nat) (event : Option (BitVec 2)) (s : State) : State :=
  let data := unitData s unit
  let s1 := s.send (.echo (BitVec.ofNat 22 unit) data event)
  if unit * 32 < 0x400000 then { s1 with port := { s1.port with pushed := putKey s1.port.pushed unit data } } else s1

/-- ECHO_PUSH: a remote device pushes its changes in the order in which they occurred: the oldest unit that waits, or, when none
waits, a unit of control space whose register mirror has just changed. -/
def stepEchoPush (unit : BitVec 22) (s : State) : State :=
  if isLead s then s
  else match s.port.pushes with
  | [] => if unitChanged s unit.toNat then pushUnit unit.toNat none s else s
  | (u, event) :: rest =>
    if u = unit.toNat then pushUnit u event { s with port := { s.port with pushes := rest } } else s

/-- ECHO_PUSH. -/
def execEchoPush (unit : BitVec 22) (s : State) : Host.Outcome State Fault Refusal := answer (stepEchoPush unit) s

/-- R442: note a unit of a device's copy; a device whose copy is full is no longer lost, and with every copy full the lead is
in step. -/
def noteCopy (dev unit : Nat) (s : State) : State :=
  let h := s.port
  let copies := if h.copies.contains (dev, unit) then h.copies else h.copies ++ [(dev, unit)]
  let full (d : Nat) : Bool := decide (copyUnits h.echo.live ≤ copies.countP fun c => c.1 = d)
  let lost := if full dev then h.lost.filter fun d => decide (d ≠ dev) else h.lost
  let all := (List.range h.devices.toNat).all fun d => d = 0 || full d
  { s with port := { h with copies := copies, lost := lost, synced := h.synced || (all && lost.isEmpty) } }

/-- ECHO_APPLY: the lead writes a pushed unit into its echo store; an event that came with it counts on its wire. -/
def stepEchoApply (dev : Nat) (unit : BitVec 22) (data : List Byte) (event : Option (Fin 4)) (s : State) : State :=
  if !isLead s || decide (dev = 0) || decide (s.port.devices.toNat ≤ dev) then s
  else match echoAddress s dev (unit.toNat * 32) with
  | none => s
  | some a =>
    let s1 := s.updWindow fun m => m.writeBytes a data
    let s2 := if s.port.synced && s.port.lost.isEmpty then s1 else noteCopy dev unit.toNat s1
    match event with
    | none => s2
    | some w => raiseWire (BitVec.ofFin w) s2

/-- ECHO_APPLY. -/
def execEchoApply (dev : Fin 64) (unit : BitVec 22) (data : List Byte) (event : Option (Fin 4)) (s : State) :
    Host.Outcome State Fault Refusal :=
  answerIf (decide (data.length = 32)) "ECHO_APPLY" (stepEchoApply dev.val unit data event) s

/-! ### Writes (R422 to R430, R436, R673) -/

/-- The bytes of a burst that the data mask leaves, each with its offset. -/
def writtenBytes (off : Nat) (data : List (Option Byte)) : List (Nat × Byte) :=
  data.zipIdx.filterMap fun x => x.1.map fun b => (off + x.2, b)

/-- What control-space words of one burst have come to: the state, and the first words that R427 and R426 refuse. -/
structure ControlWrite where
  s : State
  denied : Option Nat := none
  partial_ : Option Nat := none

/-- One word of a burst: written whole, in part or not at all. A device reset ends the burst. -/
def controlWord (bytes : List (Nat × Byte)) (a : Nat) (c : ControlWrite) : ControlWrite :=
  let bs := bytes.filter fun b => decide (b.1 / 4 = a / 4)
  if bs.isEmpty || !c.s.boot.hostPortUp && isLead c.s then c
  else if bs.length < 4 then
    if c.s.safety.safe && !safePage (a / 4096) then { c with denied := c.denied.or (some a) }
    else { c with partial_ := c.partial_.or (some a) }
  else
    let r := regWrite .host (a / 4096) (a % 4096 / 4) (BitVec.ofNat 32 (leNat (bs.map fun b => b.2))) c.s
    { c with s := r.1, denied := if r.2 then c.denied.or (some a) else c.denied }

/-- Record an error at the offset of this device that it concerns, if there is one. -/
def errorAt (code : BitVec 16) (off : Option Nat) (s : State) : State :=
  match off with
  | none => s
  | some a => hostError code (ownAddress s a) s

/-- R425 to R428: a burst to control space: its words in rising order, and one error of each kind. -/
def controlWrite (off : Nat) (bytes : List (Nat × Byte)) (s : State) : State :=
  if !allocated (off / 4096) then errorAt 2 (some off) s
  else
    let words := (List.range 17).map fun k => off / 4 * 4 + 4 * k
    let c := words.foldl (fun c a => controlWord bytes a c) { s := s }
    errorAt 6 c.partial_ (errorAt 5 c.denied c.s)

/-- R430: the observer event of a watched word of eight bytes, when the burst touched one of them. -/
def observe (at_ : Nat) (bytes : List (Nat × Byte)) (watched : Bool) (ev : Long → ObserverEvent) (s : State) : State :=
  if watched && bytes.any fun b => decide (at_ ≤ b.1) && decide (b.1 < at_ + 8) then
    { s with port := { s.port with observer :=
      s.port.observer ++ [ev (BitVec.ofNat 64 (s.port.window.readNat at_ 8))] } }
  else s

/-- A burst to this device's own slot (Table 11.4). Every submit word is watched (R457, R458);
the mailbox words are from step READY on (DEDUCED). -/
def localWrite (off : Nat) (data : List (Option Byte)) (s : State) : State :=
  let bytes := writtenBytes off data
  if bytes.isEmpty then s
  else if off < 0x400000 then controlWrite off bytes s
  else if reservedOffset off then errorAt 2 (some off) s
  else if s.safety.safe then errorAt 5 (some off) s
  else if off < 0x500000 then
    let p : Fin 8 := Fin.ofNat 8 ((off - 0x400000) / 0x20000)
    if (off - 0x400000) / 0x10000 % 2 = 1 then errorAt 5 (some off) s
    else observe (inArea p) bytes s.boot.ready (.mailbox p) (s.updWindow fun m => m.writeAll bytes)
  else if off < 0x600000 then errorAt 5 (some off) s
  else if off < 0xE00000 then
    let q : Fin 256 := Fin.ofNat 256 ((off - 0x600000) / 0x8000)
    observe (ringBase q) bytes true (.submit q) (s.updWindow fun m => m.writeAll bytes)
  else s.updWindow fun m => m.writeAll bytes

/-- R436, R437: a write to a remote slot joins the forward queue, or is dropped. -/
def forwardWrite (slot w : Nat) (data : List (Option Byte)) (s : State) : State :=
  if 4096 ≤ s.port.forward.length then
    hostError 7 w { s with port := { s.port with fwdDropped := satInc s.port.fwdDropped 1 } }
  else pumpForward { s with port := { s.port with forward :=
    s.port.forward ++ [{ dev := Fin.ofNat 64 slot, offset := BitVec.ofNat 27 (offsetOf w), data := data }] } }

/-- A write burst at a window address. -/
def windowWrite (w : Nat) (data : List (Option Byte)) (s : State) : State :=
  if slotAbsent s (slotOf w) then hostError 4 w s
  else if slotOf w = self s then localWrite (offsetOf w) data s
  else forwardWrite (slotOf w) w data s

/-- HOST_WRITE: link ECC is checked while it is enabled for writes on the channel (R417). -/
def stepHostWrite (ch : Fin 2) (row : BitVec 17) (bank : BitVec 4) (col : BitVec 11) (data : List (Option Byte)) (ecc : LinkEcc)
    (s : State) : State :=
  let w := windowAddress s.straps.hostIlv ch (channelOffset row bank col.toNat)
  if !portAnswers s ch then s
  else match if writeEcc s ch then ecc else .clean with
  | .clean => windowWrite w data s
  | .corrected => windowWrite w data { s with port := { s.port with linkCorr := satInc s.port.linkCorr 1 } }
  | .uncorrectable => hostError 8 w { s with port := { s.port with linkUncorr := satInc s.port.linkUncorr 1 } }

/-- HOST_WRITE. -/
def execHostWrite (ch : Fin 2) (row : BitVec 17) (bank : BitVec 4) (col : BitVec 11) (data : List (Option Byte)) (ecc : LinkEcc)
    (s : State) : Host.Outcome State Fault Refusal :=
  answerIf (burstOk col.toNat data.length) "HOST_WRITE" (stepHostWrite ch row bank col data ecc) s

/-- FORWARDED_WRITE_APPLY: a device other than the lead applies a forwarded write under the rules of host writes (R438). -/
def stepForwarded (off : Nat) (data : List (Option Byte)) (s : State) : State :=
  if isLead s then s else localWrite off data s

/-- FORWARDED_WRITE_APPLY. -/
def execForwardedWriteApply (offset : BitVec 27) (data : List (Option Byte)) (s : State) : Host.Outcome State Fault Refusal :=
  answerIf (burstOk offset.toNat data.length) "FORWARDED_WRITE_APPLY" (stepForwarded offset.toNat data) s

/-! ### Reads (R422, R424, R428, R439) -/

/-- The state with what the data balls carried last. -/
def driveData (l : List Byte) (s : State) : State := { s with port := { s.port with dq := l } }

/-- Words of control space are read in rising order, each as the mirror holds it then (R424). -/
def readControl : Nat → Nat → List Byte → State → List Byte × State
  | 0, _, acc, s => (acc, s)
  | fuel + 1, a, acc, s =>
    let r := regReadLatch (a / 4096) (a % 4096 / 4) s
    readControl fuel (a + 4) (acc ++ leBytes 4 r.1.toNat) r.2

/-- A read burst of this device's own slot. Staging bytes that a command writes are undefined until its cork (R433). -/
def localRead (off n : Nat) (s : State) : State :=
  if reservedOffset off then driveData (List.replicate n 0xFF) (errorAt 1 (some off) s)
  else if off < 0x400000 then
    let r := readControl ((off % 4 + n + 3) / 4) (off / 4 * 4) [] s
    driveData ((r.1.drop (off % 4)).take n) r.2
  else
    let bytes := s.port.window.readBytes off n
    let open_ := unsettledStaging s
    if open_.isEmpty then driveData bytes s else driveData (maskBytes s open_ off bytes) s.bump

/-- A read burst at a window address. -/
def windowRead (w n : Nat) (s : State) : State :=
  let ff := List.replicate n (0xFF : Byte)
  if slotAbsent s (slotOf w) then driveData ff (hostError 4 w s)
  else if slotOf w = self s then localRead (offsetOf w) n s
  else match echoAddress s (slotOf w) (offsetOf w) with
  | none => driveData ff (hostError 3 w s)
  | some a => driveData (s.port.window.readBytes a n) s

/-- HOST_READ. -/
def stepHostRead (ch : Fin 2) (row : BitVec 17) (bank : BitVec 4) (col : BitVec 11) (n : Nat) (s : State) : State :=
  if portAnswers s ch then windowRead (windowAddress s.straps.hostIlv ch (channelOffset row bank col.toNat)) n s else s

/-- HOST_READ. -/
def execHostRead (ch : Fin 2) (row : BitVec 17) (bank : BitVec 4) (col : BitVec 11) (len : Nat) (s : State) :
    Host.Outcome State Fault Refusal :=
  answerIf (burstOk col.toNat len) "HOST_READ" (stepHostRead ch row bank col len) s

/-- RESERVED_READ: the host reads a reserved offset of this device in one burst of 32 bytes. -/
def stepReservedRead (off : Nat) (s : State) : State := if reservedOffset off then localRead off 32 s else s

/-- RESERVED_READ. -/
def execReservedRead (offset : BitVec 27) (s : State) : Host.Outcome State Fault Refusal := answer (stepReservedRead offset.toNat) s

/-! ### Mode registers, training, sleep (R414, R415, R447 to R449) -/

/-- Change one channel. -/
def State.updHostChannel (s : State) (ch : Fin 2) (f : HostChannel → HostChannel) : State :=
  { s with port := { s.port with channels := vupd s.port.channels ch f } }

/-- R415: value of a mode register. -/
def modeValue (s : State) (ch : Fin 2) (mr : Byte) : Byte :=
  if mr = 4 then 0x09 else if mr = 5 then 0 else if mr = 6 then 1 else if mr = 8 then 0x21
  else (modeStored s ch mr.toNat).getD (Config.modeRegisterReset mr)

/-- Is a mode register read-only (Table 11.2)? -/
def modeReadOnly (mr : Byte) : Bool := mr = 4 || mr = 5 || mr = 6 || mr = 8

/-- MODE_REGISTER_WRITE: the writable fields of a register that is not read-only take the value. -/
def stepModeWrite (ch : Fin 2) (mr value : Byte) (s : State) : State :=
  if !portAnswers s ch || modeReadOnly mr then s
  else
    let mask := Config.modeRegisterWritable mr
    let v := (value &&& mask) ||| (modeValue s ch mr &&& ~~~mask)
    s.updHostChannel ch fun c => { c with modeRegs := putKey c.modeRegs mr.toNat v }

/-- MODE_REGISTER_WRITE. -/
def execModeRegisterWrite (ch : Fin 2) (mr value : Byte) (s : State) : Host.Outcome State Fault Refusal :=
  answer (stepModeWrite ch mr value) s

/-- MODE_REGISTER_READ. -/
def stepModeRead (ch : Fin 2) (mr : Byte) (s : State) : State :=
  if portAnswers s ch then driveData [modeValue s ch mr] s else s

/-- MODE_REGISTER_READ. -/
def execModeRegisterRead (ch : Fin 2) (mr : Byte) (s : State) : Host.Outcome State Fault Refusal := answer (stepModeRead ch mr) s

/-- WRITE_FIFO. -/
def stepWriteFifo (ch : Fin 2) (data : List Byte) (s : State) : State :=
  if portAnswers s ch then s.updHostChannel ch fun c => { c with fifo := data } else s

/-- WRITE_FIFO. -/
def execWriteFifo (ch : Fin 2) (data : List Byte) (s : State) : Host.Outcome State Fault Refusal := answer (stepWriteFifo ch data) s

/-- READ_FIFO. -/
def stepReadFifo (ch : Fin 2) (s : State) : State :=
  if portAnswers s ch then driveData (vget s.port.channels ch).fifo s else s

/-- READ_FIFO. -/
def execReadFifo (ch : Fin 2) (s : State) : Host.Outcome State Fault Refusal := answer (stepReadFifo ch) s

/-- HOST_TRAINING: read DQ calibration returns the patterns of mode registers 33 and 34 (PRESUMED, log entry 34); the end of a
channel's training fixes the rate that CONFIG reports (R413). -/
def stepTraining (ch : Fin 2) (kind : TrainingKind) (s : State) : State :=
  if !portAnswers s ch then s
  else match kind with
  | .commandAddress | .wckToCk | .wck => s
  | .readDq => driveData [modeValue s ch 33, modeValue s ch 34] s
  | .complete rate =>
    if rate.toNat < 3200 ∨ 8533 < rate.toNat then s
    else
      let s1 := s.updHostChannel ch fun c => { c with trained := true }
      { s1 with port := { s1.port with rateMts := rate } }

/-- HOST_TRAINING. -/
def execHostTraining (ch : Fin 2) (kind : TrainingKind) (s : State) : Host.Outcome State Fault Refusal :=
  answer (stepTraining ch kind) s

/-- HOST_REFRESH: accepted and ignored. -/
def execHostRefresh (_ch : Fin 2) (_allBanks : Bool) (s : State) : Host.Outcome State Fault Refusal := answer id s

/-- POWER_DOWN_ENTRY: no effect on the device. -/
def execPowerDownEntry (_ch : Fin 2) (s : State) : Host.Outcome State Fault Refusal := answer id s

/-- POWER_DOWN_EXIT: no effect on the device. -/
def execPowerDownExit (_ch : Fin 2) (s : State) : Host.Outcome State Fault Refusal := answer id s

/-- R447: the lead owes every other device the news, behind the writes that already wait for that device. -/
def tellSleep (asleep : Bool) (s : State) : State :=
  let others := (List.range s.port.devices.toNat).filter fun d => decide (d ≠ self s)
  pumpForward { s with port := { s.port with notices := s.port.notices ++ others.map fun d =>
    { dev := Fin.ofNat 64 d, asleep := asleep, ahead := s.port.forward.countP fun w => decide (w.dev.val = d) } } }

/-- R492: the time during which the queues are paused does not count in a slice. -/
def pauseSlices (asleep : Bool) (s : State) : State :=
  if asleep then { s with port := { s.port with sleptAt := s.time } }
  else { s with parcels := vmap s.parcels fun _ p => { p with sliceStart := p.sliceStart + (s.time - s.port.sleptAt) } }

/-- R447, R449: a channel enters or leaves self-refresh or deep sleep mode; the lead tells every device when the host falls
asleep or wakes. -/
def setSleep (ch : Fin 2) (asleep : Bool) (s : State) : State :=
  if !s.boot.hostPortUp && isLead s then s
  else
    let s1 := s.updHostChannel ch fun c => { c with asleep := asleep }
    if hostAsleep s1 = hostAsleep s then s1
    else
      let s2 := pauseSlices asleep s1
      if isLead s then tellSleep asleep s2 else s2

/-- SELF_REFRESH_ENTRY. -/
def execSelfRefreshEntry (ch : Fin 2) (s : State) : Host.Outcome State Fault Refusal := answer (setSleep ch true) s

/-- DEEP_SLEEP_MODE_ENTRY. -/
def execDeepSleepModeEntry (ch : Fin 2) (s : State) : Host.Outcome State Fault Refusal := answer (setSleep ch true) s

/-- SELF_REFRESH_EXIT. -/
def execSelfRefreshExit (ch : Fin 2) (s : State) : Host.Outcome State Fault Refusal := answer (setSleep ch false) s

/-- DEEP_SLEEP_MODE_EXIT. -/
def execDeepSleepModeExit (ch : Fin 2) (s : State) : Host.Outcome State Fault Refusal := answer (setSleep ch false) s

end Sys2Proof.Machine
end

