-- ==== Sys2Proof/Machine/Press.lean ====
section
/-! DEFINITION. What a press does: the instructions of a stream (R93, R166 to R178), its drains, waits, transfers and
children (R139 to R141, R231 to R236), sleep (R33), and the scrub and errors of Casks and the Cellar (R251 to R253). -/

namespace Sys2Proof.Machine

/-! ### The instruction that a sequencer issues next -/

/-- The instruction at a sequencer's index in its press's stream. -/
def instrAt (c : Cmd) (p : Fin 16) (k : Sequencer) : Option PressInstr :=
  match c.streams.find? fun t => decide (t.1 = p.val) with
  | none => none
  | some t => t.2[k.index]?

/-- The running command of a primary press and its sequencer. -/
def runningOn (s : State) (p : Fin 16) : Option (Cmd × Sequencer) :=
  match (s.press p).sequencer with
  | none => none
  | some k =>
    if k.twinOf.isSome || s.safety.safe then none
    else match s.cmd k.queue k.seq with
    | none => none
    | some c => if c.phase = .running then some (c, k) else none

/-- The next instruction of a sequencer that neither waits nor stands at a rack point, when it has an opcode. -/
def issueOf (s : State) (p : Fin 16) (opcode : Nat) : Option (Cmd × Sequencer × PressInstr) :=
  match runningOn s p with
  | none => none
  | some (c, k) =>
    if k.ended || k.waiting || k.stopped then none
    else match instrAt c p k with
    | none => none
    | some i => if i.opcode.toNat = opcode then some (c, k, i) else none

/-- The twin of a primary press while a twinned command runs (R137). -/
def twinOfPress (s : State) (p : Fin 16) : Option (Fin 16) :=
  if (s.press p).twin then some (s.press p).twinPeer.toFin else none

/-- Change a primary press and its twin alike. -/
def updBoth (p : Fin 16) (f : Press → Press) (s : State) : State :=
  match twinOfPress s p with
  | none => s.updPress p f
  | some t => (s.updPress p f).updPress t f

/-- Change the sequencers of a primary and its twin alike. -/
def updSequencers (p : Fin 16) (f : Sequencer → Sequencer) (s : State) : State :=
  updBoth p (fun x => { x with sequencer := x.sequencer.map f }) s

/-- Change the sequencer of one press. -/
def updSequencer (p : Fin 16) (f : Sequencer → Sequencer) (s : State) : State :=
  s.updPress p fun x => { x with sequencer := x.sequencer.map f }

/-- Go on to the next instruction. -/
def advance (p : Fin 16) (s : State) : State := updSequencers p (fun k => { k with index := k.index + 1 }) s

/-- Add to an arrival counter of a Cask (R231, R233). -/
def signal (p : Fin 16) (counter : Nat) (s : State) : State :=
  s.updPress p fun x => { x with arrive := vupd x.arrive (Fin.ofNat 64 counter) fun v => v + 1 }

/-- R168: is a press's part of its command complete? -/
def partDone (s : State) (p : Fin 16) : Bool :=
  match (s.press p).sequencer with
  | none => true
  | some k => k.twinOf.isSome || (k.ended && k.jobs.isEmpty && k.children = 0 && k.drains.isEmpty)

/-- R168: a command whose parts are all complete has made every write and waits for its commit. -/
def settleParts (q : Fin 256) (seq : Word) (s : State) : State :=
  match s.cmd q seq with
  | none => s
  | some c =>
    if c.phase = .running && (pressesOf s q seq).all (partDone s) then
      s.updCmd q seq fun x => { x with phase := .written 0 0 }
    else s

/-- The context of a press's own accesses (R179). -/
def pressCx (s : State) (q : Fin 256) (p : Fin 16) : Cx := 
  { parcel := s.parcelOf q, agent := p.val, own := some p, queue := some q }

/-- Count the cycles of an instruction (Table 3.6): those that its nest takes, and the waits for reasons of contention. -/
def countCycles (spans : List CycleSpan) (cause : Option Cause) (st : Stalls) (x : Press) : Press :=
  let n (k : CycleKind) : Long := BitVec.ofNat 64 (countSpans spans k cause)
  { x with
    busy := x.busy + n .busy
    stallWeight := x.stallWeight + n .weight + BitVec.ofNat 64 st.weight
    stallDrain := x.stallDrain + n .drain + BitVec.ofNat 64 st.drain
    stallOutlier := x.stallOutlier + n .outlier
    stallOperand := x.stallOperand + BitVec.ofNat 64 st.operand }

/-! ### Swaps of a folded program (R190, R191) -/

/-- The swaps that a press makes before it issues its next instruction. -/
def swapsDue (c : Cmd) (p : Fin 16) (k : Sequencer) : List FoldSwap :=
  ((c.swapsOf p).drop k.swapped).takeWhile fun w => decide (w.index ≤ k.index)

/-- The 64 arrival counters of a press as bytes. -/
def counterBytes (x : Press) : List Byte := x.arrive.toList.flatMap fun v => leBytes 4 v.toNat

/-- R190: the live Cask ranges and counters of the outgoing slot are saved to its fold image. -/
def saveImage (cx : Cx) (p : Fin 16) (f : FoldImage) (s : State) : Except Stop State :=
  match writeRange s cx 2 0 (f.counters : Int) (counterBytes (s.press p)) with
  | .error e => .error e
  | .ok ws => foldExcept (fun (s : State) r =>
      (writeRange s cx 2 0 ((f.base + r.2.2 : Nat) : Int) ((s.press p).cask.readBytes r.1 r.2.1)).map fun ws => s.writeLocs ws)
      (packRanges f.ranges 0) (s.writeLocs ws)

/-- R190: those of the incoming slot are restored, with the writes that its image has taken since (R191). -/
def restoreImage (cx : Cx) (p : Fin 16) (f : FoldImage) (s : State) : Except Stop State :=
  match readRange s cx .read 2 0 (f.counters : Int) 256 with
  | .error e => .error e
  | .ok l => foldExcept (fun (s : State) r =>
      (readRange s cx .read 2 0 ((f.base + r.2.2 : Nat) : Int) r.2.1).map fun b =>
        s.updPress p fun x => { x with cask := x.cask.writeBytes r.1 b })
      (packRanges f.ranges 0)
      (s.updPress p fun x => { x with arrive := Vector.ofFn fun i => BitVec.ofNat 32 (fieldNat l (4 * i.val) 4) })

/-- One swap. -/
def swapSlots (cx : Cx) (p : Fin 16) (s : State) (w : FoldSwap) : Except Stop State :=
  match saveImage cx p w.out s with
  | .error e => .error e
  | .ok s1 => (restoreImage cx p w.into s1).map fun s2 => updSequencers p (fun k => { k with swapped := k.swapped + 1 }) s2

/-- Issue the next instruction of a press when it has an opcode: the swaps that come before it are made first, once the part that
ends has no transfer, child or drain left (R190). -/
def issue (p : Fin 16) (opcode : Nat) (f : Cmd × Sequencer × PressInstr → State → State) (s : State) : State :=
  match issueOf s p opcode with
  | none => s
  | some (c, k, i) =>
    match swapsDue c p k with
    | [] => f (c, k, i) s
    | w :: rest =>
      if !k.jobs.isEmpty || !k.drains.isEmpty || k.children ≠ 0 then s
      else match foldExcept (swapSlots (pressCx s k.queue p) p) (w :: rest) s with
      | .error e => if e.held then s else killCmd k.queue k.seq e s
      | .ok s1 => match issueOf s1 p opcode with
        | none => s1
        | some x => f x s1

/-! ### MATMUL and ELTWISE (R93, R171, R172) -/

/-- MATMUL: the whole nest of passes once the output stage is idle, or the kill at its first cause. The twin computes the same
tiles in its own accumulator store and writes no output. -/
def stepMatmul (p : Fin 16) (st : Stalls) : State → State :=
  issue p 1 fun (c, k, i) s =>
    if !k.drains.isEmpty then s
    else
      let n := runMatmul s (pressCx s k.queue p) c.operands i (s.press p)
      let s1 := updBoth p (countCycles n.spans n.cause st) s
      match n.cause with
      | some e => if e.2.held then s else killCmd k.queue k.seq e.2 s1
      | none =>
        let s2 := updBoth p (fun x => { x with
          mode := .matrix, shadow := none, accumulators := n.accumulators, sideStore := n.sideStore }) s1
        advance p (updSequencer p (fun x => { x with drains := n.tiles }) s2)

/-- MATMUL. -/
def execMatmul (p : Fin 16) (stalls : Stalls) (health : ReadHealth) (s : State) : Host.Outcome State Fault Refusal :=
  answerNoting health (stepMatmul p stalls) s

/-- ELTWISE: the whole nest of blocks once the output stage is idle, or the kill at its first cause. -/
def stepEltwise (p : Fin 16) (st : Stalls) : State → State :=
  issue p 2 fun (c, k, i) s =>
    if !k.drains.isEmpty then s
    else
      let s1 := updBoth p (countCycles [] none st) s
      match runEltwise s (pressCx s k.queue p) c.operands i with
      | .error e => if e.held then s else killCmd k.queue k.seq e s1
      | .ok tiles =>
        advance p (updSequencer p (fun x => { x with drains := tiles })
          (updBoth p (fun x => { x with mode := .elementwise }) s1))

/-- ELTWISE. -/
def execEltwise (p : Fin 16) (stalls : Stalls) (health : ReadHealth) (s : State) : Host.Outcome State Fault Refusal :=
  answerNoting health (stepEltwise p stalls) s

/-! ### The shadow load of the next tile (R99 to R103, R247) -/

/-- Byte span of a view: its lowest byte and the first above it. -/
def viewSpan (o : Operand) : Int × Int :=
  if (List.range 4).any fun d => o.size d = 0 then (0, 0)
  else
    let reach (d : Nat) : Int := ((o.size d : Int) - 1) * o.stride d
    let low := (List.range 3).foldl (fun acc d => acc + min 0 (reach (d + 1))) (o.base : Int)
    let high := (List.range 3).foldl (fun acc d => acc + max 0 (reach (d + 1))) (o.base : Int)
    (low, high + (ceilDiv (o.size 0 * fmtBits o.fmt) 8 : Nat))

/-- Lines of 128 bytes that `n` elements of some bits from a coordinate on touch, as byte addresses; none outside the view. -/
def pieceLines (o : Operand) (bits : Nat) (c : Coords) (n : Nat) : List (Int × Int) :=
  let lo := max 0 c.c0
  let hi := min (o.size 0 : Int) (c.c0 + n)
  if !o.insideOuter c ∨ hi ≤ lo then []
  else [(o.address bits { c with c0 := lo } / 128 * 128, o.address bits { c with c0 := hi - 1 } / 128 * 128 + 128)]

/-- Lines that rows at rising dimension 1 touch. -/
def rowLines (o : Operand) (bits n rows : Nat) (c : Coords) : List (Int × Int) :=
  (List.range rows).flatMap fun r => pieceLines o bits (c.bump 1 (r : Int)) n

/-- Lines that the load of a weight tile reads, its companions' among them; of an outlier list, all it holds. -/
def tileLines (ops : List Operand) (iw : Nat) (idx : List Nat) : List (Int × Int) :=
  let w := opAt ops iw
  let side (j bits n rows : Nat) : List (Int × Int) := rowLines (opAt ops (iw + j)) bits n rows ((opAt ops (iw + j)).coordsAt idx)
  rowLines w (fmtBits w.fmt) 128 128 (w.coordsAt idx) ++
    (if w.fmt = 10 then
      side 1 (if w.gqZp then 32 else 16) 128 (128 / gqSize w) ++ side 2 64 128 1 ++
        rowLines (opAt ops (iw + 3)) 16 ((opAt ops (iw + 3)).size 0) 1 { c0 := 0, c1 := 0, c2 := 0, c3 := 0 }
    else if w.fmt = 9 then side 1 8 128 4
    else if w.sparse then side 1 4 128 64
    else [])

/-- The OPOUT view of the last press instruction before the next one. -/
def lastOutput (c : Cmd) (p : Fin 16) (k : Sequencer) : Option Operand :=
  match c.streams.find? fun t => decide (t.1 = p.val) with
  | none => none
  | some t => ((t.2.take k.index).reverse.find? fun i => i.opcode = 1 || i.opcode = 2).map fun i =>
      opAt c.operands i.opout.toNat

/-- R247: does the shadow load wait for the last drain of the preceding instruction? -/
def loadWaits (c : Cmd) (p : Fin 16) (k : Sequencer) (i : PressInstr) : Bool :=
  match lastOutput c p k with
  | none => false
  | some o =>
    let span := viewSpan o
    !k.drains.isEmpty && (tileLines c.operands i.opb.toNat (List.replicate i.depth 0)).any fun l =>
      decide (l.1 < span.2) && decide (span.1 < l.2)

/-- WEIGHT_TILE_LOADED: the first tile of the matrix instruction handed to the array is whole in the shadow buffer, or
its load check kills the command. -/
def stepWeightTile (p : Fin 16) : State → State :=
  issue p 1 fun (c, k, i) s =>
    if (s.press p).shadow.isSome || loadWaits c p k i then s
    else match loadTile s (pressCx s k.queue p) c.operands i (List.replicate i.depth 0) with
    | .error e => killCmd k.queue k.seq e s
    | .ok t => updBoth p (fun x => { x with shadow := some t }) s

/-- WEIGHT_TILE_LOADED. -/
def execWeightTileLoaded (p : Fin 16) (health : ReadHealth) (s : State) : Host.Outcome State Fault Refusal :=
  answerNoting health (stepWeightTile p) s

/-! ### The end of a drain (R111, R139 to R141, R231) -/

/-- R140: the CRCs of a tile differ. -/
def twinMismatch (p t : Fin 16) (q : Fin 256) (seq : Word) (s : State) : State :=
  let fail (x : Press) : Press := { x with twinFail := satInc x.twinFail 1 }
  killCmd q seq { status := 0x25, data := dataI p.val t.val }
    (raiseKey (0x4C + p.val) (BitVec.ofNat 32 t.val) ((s.updPress p fail).updPress t fail))

/-- The bytes of a drained tile are written to the press's Cask; after the instruction's last tile counter 62 rises. -/
def finishDrain (p : Fin 16) (k : Sequencer) (t : OutTile) (rest : List OutTile) (s : State) : State :=
  let s1 := s.updPress p fun x => { x with cask := x.cask.writeRuns t.writes }
  let s2 := updSequencer p (fun x => { x with drains := rest }) s1
  if rest.isEmpty then settleParts k.queue k.seq (signal p 62 (updBoth p (fun x => { x with mode := .idle }) s2)) else s2

/-- OUTPUT_TILE_DRAIN_END: the oldest drain ends. `twinCrc` is the CRC the twin formed, when it is not the primary's. -/
def stepDrainEnd (p : Fin 16) (twinCrc : Option Word) (s : State) : State :=
  match runningOn s p with
  | none => s
  | some (_, k) =>
    match k.drains with
    | [] => s
    | t :: rest =>
      match twinOfPress s p with
      | none => finishDrain p k t rest s
      | some w =>
        if twinCrc.getD t.crc = t.crc then finishDrain p k t rest s else twinMismatch p w k.queue k.seq s

/-- OUTPUT_TILE_DRAIN_END. -/
def execOutputTileDrainEnd (p : Fin 16) (twinCrc : Option Word) (s : State) : Host.Outcome State Fault Refusal :=
  answer (stepDrainEnd p twinCrc) s

/-! ### Sequencer instructions (R167, R173 to R176) -/

/-- R191: the counters of the fold image that the DMA at a sequencer's index writes to. -/
def imageCounters (c : Cmd) (p : Fin 16) (k : Sequencer) : Option Nat :=
  match c.fold with
  | none => none
  | some f => (f.writes.find? fun w => decide (w.press = p) && decide (w.index = k.index)).map FoldWrite.counters

/-- DMA: the sequencer starts a transfer and goes on. -/
def stepDma (p : Fin 16) : State → State :=
  issue p 3 fun (c, k, i) s =>
    let j : DmaJob :=
      { src := opAt c.operands i.opa.toNat, dst := opAt c.operands i.opout.toNat, rows := 16 * i.mrows.toNat
        depth := i.depth, counts := i.counts, counter := fieldNat i.arg 0 1, next := 0
        total := nestTotal i.depth i.counts, image := imageCounters c p k }
    advance p (updSequencer p (fun k => { k with jobs := k.jobs ++ [j] }) s)

/-- DMA. -/
def execDma (p : Fin 16) (s : State) : Host.Outcome State Fault Refusal := answer (stepDma p) s

/-- R235: does a counter satisfy a target? -/
def reached (s : State) (p : Fin 16) (i : PressInstr) : Bool :=
  let v := vget (s.press p).arrive (Fin.ofNat 64 (fieldNat i.arg 0 1))
  decide ((v - BitVec.ofNat 32 (fieldNat i.arg 4 4)).toNat < 2 ^ 31)

/-- WAIT: go on at once when the condition holds, else hold the sequencer. -/
def stepWait (p : Fin 16) : State → State :=
  issue p 4 fun (_, _, i) s =>
    if reached s p i then advance p s else updSequencers p (fun k => { k with waiting := true }) s

/-- WAIT. -/
def execWait (p : Fin 16) (s : State) : Host.Outcome State Fault Refusal := answer (stepWait p) s

/-- The WAIT that holds a sequencer. -/
def heldWait (s : State) (p : Fin 16) : Option (Sequencer × PressInstr) :=
  match runningOn s p with
  | none => none
  | some (c, k) => if k.waiting then (instrAt c p k).map fun i => (k, i) else none

/-- WAIT_SATISFIED: the counter has reached the target; the sequencer goes on. -/
def stepWaitSatisfied (p : Fin 16) (held : Nat) (s : State) : State :=
  match heldWait s p with
  | none => s
  | some (_, i) =>
    if reached s p i then
      let s1 := updBoth p (fun x => { x with stallOperand := x.stallOperand + BitVec.ofNat 64 held }) s
      advance p (updSequencers p (fun k => { k with waiting := false }) s1)
    else s

/-- WAIT_SATISFIED. -/
def execWaitSatisfied (p : Fin 16) (heldCycles : Nat) (s : State) : Host.Outcome State Fault Refusal :=
  answer (stepWaitSatisfied p heldCycles) s

/-- WAIT_TIMEOUT (R236): a WAIT has held for 100 ms of run time, in ARITH cycles `held`. -/
def stepWaitTimeout (p : Fin 16) (held : Nat) (s : State) : State :=
  match heldWait s p with
  | none => s
  | some (k, i) => killCmd k.queue k.seq { status := 0x24, data := dataI (fieldNat i.arg 0 1) p.val }
      (updBoth p (fun x => { x with stallOperand := x.stallOperand + BitVec.ofNat 64 held }) s)

/-- WAIT_TIMEOUT. -/
def execWaitTimeout (p : Fin 16) (heldCycles : Nat) (s : State) : Host.Outcome State Fault Refusal :=
  answer (stepWaitTimeout p heldCycles) s

/-- A child's descriptor (R181): of KIND ENGINE, its object fields ignored. -/
def checkChild (d : List Byte) : Option Stop :=
  let crc := crc32 (d.take 60)
  let kept := d.take 38 ++ List.replicate 10 0 ++ d.drop 48
  if BitVec.ofNat 32 (fieldNat d 60 4) ≠ crc then some { status := 0x10, data := crc.setWidth 64 }
  else if fieldNat d 0 1 ≠ 2 then some (stopDescriptor 0)
  else (leastPosition (descriptorFaults kept)).map stopDescriptor

/-- Operands and block of a child, checked by its engine (R179, R257). -/
def readChild (s : State) (q : Fin 256) (e : Nat) (c : Cmd) : Except Stop (List Operand × List Byte) :=
  match readOperands s q c with
  | .error x => .error x
  | .ok ops =>
  match readParams s q c with
  | .error x => .error x
  | .ok params =>
    match firstStop ((List.range ops.length).map (fun i =>
        stopIf (operandBad (opAt ops i)) (stopFormat i (agentEngine e))) ++
        [checkEngine s (s.parcelOf q) (agentEngine e) e ops c.paramLen params]) with
    | some x => .error x
    | none => .ok (ops, params)

/-- Is the waiting list of a parcel at an engine full (R256)? -/
def listFull (s : State) (e : Fin 6) (n : Fin 8) : Bool := decide (32 ≤ waitingChildren (s.engine e) n.val)

/-- Issue a child whose descriptor passed its checks, or kill the parent (R175, R181, R256, R257). -/
def issueChild (p : Fin 16) (held : Nat) (parent : Cmd) (k : Sequencer) (i : PressInstr) (d : List Byte) (s : State) : State :=
  let n := s.parcelOf k.queue
  let child : Cmd := { seq := k.seq, desc := d, phase := .checked }
  let e : Fin 6 := Fin.ofNat 6 (child.target % 256)
  if listFull s e n then s
  else match readChild s k.queue e.val child with
  | .error x => if x.held then s else
    killCmd k.queue k.seq x (s.updEngine e fun y => { y with failStatus := x.status, failParcel := BitVec.ofFin n })
  | .ok r =>
    let j : EngineJob :=
      { queue := k.queue, seq := k.seq, press := some p, counter := fieldNat i.arg2 0 1, parcel := n
        twinned := child.twinFlag || parent.twinned, operands := r.1, params := r.2 }
    let s1 := s.updEngine e fun y => { y with waiting := y.waiting ++ [j], asleep := false }
    let s2 := updBoth p (fun x => { x with stallOperand := x.stallOperand + BitVec.ofNat 64 held }) s1
    advance p (updSequencer p (fun x => { x with children := x.children + 1 }) s2)

/-- ENGINE. -/
def stepEngine (p : Fin 16) (held : Nat) : State → State :=
  issue p 5 fun (c, k, i) s =>
    match frontRead s k.queue (fieldNat i.arg 0 5 % 2 ^ 38) 64 with
    | .error x => killCmd k.queue k.seq x s
    | .ok d =>
      match checkChild d with
      | some x => killCmd k.queue k.seq x s
      | none => issueChild p held c k i d s

/-- ENGINE. -/
def execEngine (p : Fin 16) (heldCycles : Nat) (s : State) : Host.Outcome State Fault Refusal :=
  answer (stepEngine p heldCycles) s

/-- RACK (R176): stop while a RACK pre-emption is pending, else pass the point. -/
def stepRack (p : Fin 16) : State → State :=
  issue p 6 fun (c, _, i) s =>
    let number := fieldNat i.arg 0 4
    if c.rackRequested then updSequencers p (fun k => { k with stopped := true, point := number }) s
    else advance p (updSequencers p (fun k => { k with point := number, passedPoint := true }) s)

/-- RACK. -/
def execRack (p : Fin 16) (s : State) : Host.Outcome State Fault Refusal := answer (stepRack p) s

/-- END (R167, R168): the stream is finished. -/
def stepEnd (p : Fin 16) : State → State :=
  issue p 0x0F fun (_, k, _) s => settleParts k.queue k.seq (updSequencers p (fun x => { x with ended := true }) s)

/-- END. -/
def execEndStream (p : Fin 16) (s : State) : Host.Outcome State Fault Refusal := answer (stepEnd p) s

/-! ### Transfers and children (R173, R175, R232) -/

/-- The press whose counter a DMA raises: the destination's Cask, else the issuing press's own (R232). -/
def counterPress (p : Fin 16) (j : DmaJob) : Fin 16 := if j.dst.space = 0 then j.dst.press else p

/-- The counter of an iteration rises: of the destination's Cask or the issuing press (R231, R232), or in the fold image that stands
for the Cask (R191). -/
def countArrival (cx : Cx) (p : Fin 16) (j : DmaJob) (s : State) : Except Stop State :=
  match j.image with
  | none => .ok (signal (counterPress p j) j.counter s)
  | some a =>
    let at_ : Int := ((a + 4 * (j.counter % 64) : Nat) : Int)
    match readRange s cx .read 2 0 at_ 4 with
    | .error e => .error e
    | .ok l => (writeRange s cx 2 0 at_ (leBytes 4 ((fieldNat l 0 4 + 1) % 2 ^ 32))).map fun ws => s.writeLocs ws

/-- A list with the entry at a position changed, or removed. -/
def editAt {α : Type} (i : Nat) (x : Option α) (l : List α) : List α := l.take i ++ x.toList ++ l.drop (i + 1)

/-- R295: a transfer through the compressor that begins takes its lane. -/
def beginTransfer (p : Fin 16) (j : DmaJob) (s : State) : State :=
  if j.compresses && j.next = 0 then takeLane (pressLane p) s else s

/-- DMA_ITERATION_COMPLETE: every byte of the next iteration of a transfer is in place, and its counter rises. A transfer that would
begin on a busy lane of the compressor waits (R295). -/
def stepDmaIteration (p : Fin 16) (job : Nat) (s : State) : State :=
  match runningOn s p with
  | none => s
  | some (_, k) =>
    match k.jobs[job]? with
    | none => s
    | some j =>
      if j.compresses && j.next = 0 && laneHeld s (pressLane p) then s
      else
        let idx := nestIndex (j.counts.take j.depth) j.next
        let cx : Cx := { parcel := s.parcelOf k.queue, agent := p.val, own := none, queue := some k.queue }
        let r := dmaIteration cx (pressLane p) j.src j.dst j.rows (j.src.coordsAt idx) (j.dst.coordsAt idx) (beginTransfer p j s)
        match r.2 with
        | some e => if e.held then s else killCmd k.queue k.seq e r.1
        | none => match countArrival cx p j r.1 with
        | .error e => if e.held then s else killCmd k.queue k.seq e r.1
        | .ok s1 =>
          let left : Option DmaJob := if j.next + 1 < j.total then some { j with next := j.next + 1 } else none
          settleParts k.queue k.seq (updSequencer p (fun x => { x with jobs := editAt job left x.jobs })
            s1)

/-- DMA_ITERATION_COMPLETE. -/
def execDmaIterationComplete (p : Fin 16) (job : Nat) (health : ReadHealth) (s : State) :
    Host.Outcome State Fault Refusal := answerNoting health (stepDmaIteration p job) s

/-- CHILD_COMPLETE (R175): the oldest finished child of an engine raises its press's counter. -/
def stepChildComplete (e : Fin 5) (s : State) : State :=
  let n : Fin 6 := Fin.ofNat 6 e.val
  match (s.engine n).done with
  | [] => s
  | j :: rest =>
    let s1 := s.updEngine n fun x => { x with done := rest }
    match j.press with
    | none => s1
    | some p => settleParts j.queue j.seq
        (updSequencer p (fun k => { k with children := k.children - 1 }) (signal p j.counter s1))

/-- CHILD_COMPLETE. -/
def execChildComplete (e : Fin 5) (s : State) : Host.Outcome State Fault Refusal := answer (stepChildComplete e) s

/-! ### Sleep (R33, R134, R628, R651) -/

/-- Has the compressor work: a transfer through it that is not complete? -/
def compressorWorks (s : State) : Bool :=
  (s.presses.toList.any fun x => match x.sequencer with
    | none => false
    | some k => k.jobs.any DmaJob.compresses) ||
  s.queues.toList.any fun q => q.cmds.any fun c => c.kind = 4 && c.phase = .started &&
    (compressEnds (opAt c.operands 0) (opAt c.operands 1)).isSome

/-- PRESS_SLEEP: a press or engine without work for 2 µs. -/
def stepSleep (u : SleepUnit) (s : State) : State :=
  match u with
  | .press p =>
    let x := s.press p
    if enabled s p && x.sequencer.isNone && x.mode = .idle && (vget s.clocks.doms 0).sleepEn then
      s.updPress p fun x => { x with mode := .sleep }
    else s
  | .engine e =>
    if (s.engine e).waiting.isEmpty && (s.engine e).done.isEmpty && !(e = 5 && compressorWorks s) then
      s.updEngine e fun x => { x with asleep := true }
    else s

/-- PRESS_SLEEP. -/
def execPressSleep (u : SleepUnit) (s : State) : Host.Outcome State Fault Refusal := answer (stepSleep u) s

/-! ### Scrub and uncorrectable errors of SRAM (R219, R238, R251 to R253, R734) -/

/-- Cask address of a line of a bank (R218, R219). -/
def caskLine (bank line : Nat) : Nat :=
  if bank < 8 then 128 * (line * 8 + bank)
  else if bank < 24 then 0x180000 + 128 * (line * 16 + (bank - 8))
  else 0x480000 + 128 * (line * 8 + (bank - 24))

/-- An uncorrectable line of a Cask: counted, recorded and alarmed. -/
def caskError (p : Fin 16) (a : Nat) (s : State) : State :=
  raiseKey (0x24 + p.val) (BitVec.ofNat 32 a) (s.updPress p fun x => { x with
    eccUncorr := satInc x.eccUncorr 1, ueAddr := BitVec.ofNat 23 a })

/-- CASK_SCRUB: one line of a bank is read in its reserved cycle. -/
def stepCaskScrub (p : Fin 16) (bank : Fin 32) (found : EccResult) (s : State) : State :=
  if s.safety.safe then s
  else
  let line := vget (s.press p).scrubLine bank
  let s1 := s.updPress p fun x => { x with scrubLine := vset x.scrubLine bank ((line + 1) % 1536) }
  match found with
  | .clean => s1
  | .corrected => s1.updPress p fun x => { x with eccCorr := satInc x.eccCorr 1 }
  | .uncorrectable => caskError p (caskLine bank.val line) s1

/-- CASK_SCRUB. -/
def execCaskScrub (p : Fin 16) (bank : Fin 32) (found : EccResult) (s : State) : Host.Outcome State Fault Refusal :=
  answer (stepCaskScrub p bank found) s

/-- Physical Cellar address of a line of a bank: banks are numbered 8 to a stop (R238). -/
def cellarLine (bank line : Nat) : Nat := 128 * (64 * line + 8 * (bank % 8) + bank / 8)

/-- An uncorrectable line of the Cellar. -/
def cellarError (a : Nat) (s : State) : State :=
  raiseKey 0x34 (BitVec.ofNat 32 a) { s with cellar := { s.cellar with
    eccUncorr := satInc s.cellar.eccUncorr 1, ueAddr := BitVec.ofNat 26 a } }

/-- CELLAR_SCRUB: one line of a bank is read. -/
def stepCellarScrub (bank : Fin 64) (found : EccResult) (s : State) : State :=
  if s.safety.safe then s
  else
  let line := vget s.cellar.scrubLine bank
  let s1 := { s with cellar := { s.cellar with scrubLine := vset s.cellar.scrubLine bank ((line + 1) % 6144) } }
  match found with
  | .clean => s1
  | .corrected => { s1 with cellar := { s1.cellar with eccCorr := satInc s1.cellar.eccCorr 1 } }
  | .uncorrectable => cellarError (cellarLine bank.val line) s1

/-- CELLAR_SCRUB. -/
def execCellarScrub (bank : Fin 64) (found : EccResult) (s : State) : Host.Outcome State Fault Refusal :=
  answer (stepCellarScrub bank found) s

/-- The alarm, the counters and the record of an uncorrectable SRAM word (Tables 19.1 and 19.10). -/
def sramError (place : SramPlace) (s : State) : State :=
  match place with
  | .cask p a => caskError p (a.toNat / 128 * 128) s
  | .accumulator p o =>
    raiseKey (0x24 + p.val) (BitVec.ofNat 32 (o.toNat + 2 ^ 31))
      (s.updPress p fun x => { x with eccUncorr := satInc x.eccUncorr 1 })
  | .cellar a => cellarError (a.toNat / 128 * 128) s
  | .windowSram o => raiseKey 0x46 (BitVec.ofNat 32 o.toNat) s
  | .mirror o => raiseKey 0x46 (BitVec.ofNat 32 (o.toNat + 2 ^ 31)) s
  | .firmware o => raiseKey 0x47 (BitVec.ofNat 32 o.toNat) s
  | .retained => raiseKey 0x48 0 s
  | .buffer src => raiseKey 0x49 (BitVec.ofNat 32 src.toNat) s

/-- The address of the DATA word, in the space of the place (R480): of staging its offset there; a buffer has none that the spec
states. -/
def sramAddress (place : SramPlace) (s : State) : Int :=
  match place with
  | .cask _ a => a.toNat
  | .accumulator _ o => o.toNat
  | .cellar a => a.toNat
  | .windowSram o => if stagingBase ≤ o.toNat then ((o.toNat - stagingBase : Nat) : Int) else o.toNat
  | .mirror o => o.toNat
  | .firmware o => o.toNat
  | _ => (Config.freeWord s.freeCtr 0).toNat

/-- SRAM_UNCORRECTABLE (R252): the alarm, and the kill of the running command that read the word. -/
def stepSramError (q : Fin 256) (seq : Word) (place : SramPlace) (agent : Byte) (s : State) : State :=
  killAccess q seq agent.toNat { status := 0x22, data := faultWord (sramAddress place s) 0 0 agent.toNat } (sramError place s.bump)

/-- SRAM_UNCORRECTABLE. -/
def execSramUncorrectable (q : Fin 256) (seq : Word) (place : SramPlace) (agent : Byte) (s : State) :
    Host.Outcome State Fault Refusal := answer (stepSramError q seq place agent) s

end Sys2Proof.Machine
end

