-- ==== Sys2Proof/Machine/Parcels.lean ====
section
/-! DEFINITION. Time slices and pre-emption (R489 to R507): the end of a slice, the rack stop, the save and the restore of
a command's presses. -/

namespace Sys2Proof.Machine

/-! ### The end of a slice (R492, R493, R495 to R499) -/

/-- Is a press occupied by a command of a context of the parcel? -/
def heldBy (s : State) (n : Fin 8) (context : BitVec 16) (p : Fin 16) : Bool :=
  match (s.press p).sequencer with
  | none => false
  | some k => decide (s.parcelOf k.queue = n) && match s.cmd k.queue k.seq with
    | none => false
    | some c => c.context = context

/-- The ready commands of a queue, in the arbiter's order, that a holder's commands block. -/
def blockedIn (s : State) (n : Fin 8) (holder : BitVec 16) (q : Fin 256) : List Cmd :=
  if (s.queue q).cfg.live.en && decide (s.parcelOf q = n) then
    (startable (s.queue q)).filter fun c => c.kind = 1 && c.context ≠ holder && (occupied s n c).any (heldBy s n holder)
  else []

/-- Every queue with its blocked commands, beginning after the queue served last. -/
def blockedCmds (s : State) (n : Fin 8) (holder : BitVec 16) : List (Fin 256 × Cmd) :=
  ((List.range 256).map fun i => (s.parcel n).lastQueue + Fin.ofNat 256 (i + 1)).flatMap fun q =>
    (blockedIn s n holder q).map fun c => (q, c)

/-- The presses that the blocked commands of a context would occupy. -/
def wantedBy (s : State) (n : Fin 8) (context : BitVec 16) (l : List (Fin 256 × Cmd)) : List (Fin 16) :=
  (l.filter fun x => x.2.context = context).flatMap fun x => occupied s n x.2

/-- Is a command running for a pre-emption? -/
def Phase.runs : Phase → Bool
  | .started | .running | .restoring _ => true
  | _ => false

/-- Does a pre-emption act on a command now: running, not protected (R497) and not already pre-empted? -/
def preemptable (c : Cmd) : Bool := c.kind = 1 && !c.requeued && !c.rackRequested && c.phase.runs

/-- R497: does a command that KILL has re-queued, and that runs again, occupy one of the presses? -/
def protectedOn (s : State) (n : Fin 8) (presses : List (Fin 16)) : Bool :=
  presses.any fun p => match (s.press p).sequencer with
    | none => false
    | some k => decide (s.parcelOf k.queue = n) && match s.cmd k.queue k.seq with
      | none => false
      | some c => c.requeued

/-- The lowest free save slot of a parcel. -/
def lowestSlot (p : Parcel) : Option Nat := (List.range p.saveSlots.toNat).find? fun i => p.saveFree.getLsbD i

/-- R499: a KILL in place of a RACK pre-emption. -/
def fallBack (n : Fin 8) (q : Fin 256) (seq : Word) (s : State) : State :=
  preemptKill q seq (s.updParcel n fun p => { p with fallbacks := satInc p.fallbacks 1 })

/-- R495, R496, R498, R499: request the pre-emption of one command. -/
def preempt (n : Fin 8) (w : Fin 256 × Word) (s : State) : State :=
  match s.cmd w.1 w.2 with
  | none => s
  | some c =>
    if !(s.parcel n).cfg.live.rack then preemptKill w.1 w.2 s
    else match c.rackMap, lowestSlot (s.parcel n) with
    | some _, some k =>
      let s1 := s.updParcel n fun p => { p with saveFree := p.saveFree &&& ~~~ BitVec.ofNat 16 (2 ^ k) }
      s1.updCmd w.1 w.2 fun x => { x with
        rackRequested := true, rackSlot := some k, saveLive := (s.parcel n).cfg.live.live
        rackBy := s.time + BitVec.ofNat 64 ((s.parcel n).cfg.live.rackWaitUs.toNat * 1000) }
    | _, _ => fallBack n w.1 w.2 s

/-- The commands of the old holder that stand on wanted presses. -/
def victims (s : State) (n : Fin 8) (old : BitVec 16) (wanted : List (Fin 16)) : List (Fin 256 × Word) :=
  (List.finRange 256).flatMap fun q =>
    if (s.queue q).cfg.live.en && decide (s.parcelOf q = n) then
      ((s.queue q).cmds.filter fun c => c.context = old && preemptable c &&
        (occupied s n c).any fun p => wanted.contains p).map fun c => (q, c.seq)
    else []

/-- Has the holder's slice of SLICE_US µs ended (R492)? While the host is asleep it does not run. -/
def sliceOver (s : State) (n : Fin 8) : Bool :=
  let p := s.parcel n
  !hostAsleep s && decide (p.cfg.live.sliceUs.toNat * 1000 ≤ elapsed s p.sliceStart)

/-- R493: a context becomes the holder, a slice starts, and the old holder's commands leave the presses that it wants. -/
def changeHolder (n : Fin 8) (old context : BitVec 16) (wanted : List (Fin 16)) (s : State) : State :=
  foldState (preempt n) (victims s n old wanted)
    (traceEvent 0x38 0x0202 (s.updParcel n fun p => { p with holder := some context, sliceStart := s.time }))

/-- SLICE_END (R493, R514). A change of holder that needs the presses of a protected command waits for its end (R497): the slice
stays over, and the change comes with a later end of it. -/
def stepSliceEnd (n : Fin 8) (s : State) : State :=
  match (s.parcel n).holder with
  | none => s
  | some old =>
    if s.safety.safe || !sliceOver s n then s
    else
      let l := blockedCmds s n old
      match l with
      | [] => applyParcel n (s.updParcel n fun p => { p with sliceStart := s.time })
      | (_, c) :: _ =>
        let wanted := wantedBy s n c.context l
        if protectedOn s n wanted then s else applyParcel n (changeHolder n old c.context wanted s)

/-- SLICE_END. -/
def execSliceEnd (parcel : Fin 8) (s : State) : Host.Outcome State Fault Refusal := answer (stepSliceEnd parcel) s

/-- R498: has a primary press stopped for a save? -/
def stoppedForSave (s : State) (p : Fin 16) : Bool :=
  match (s.press p).sequencer with
  | none => true
  | some k => k.twinOf.isSome ||
      ((k.stopped || k.ended) && k.jobs.isEmpty && k.children = 0 && k.drains.isEmpty)

/-- Has every press of a running command stopped for its save (R498)? -/
def allStopped (s : State) (q : Fin 256) (c : Cmd) : Bool :=
  c.phase = .running && (pressesOf s q c.seq).all (stoppedForSave s)

/-- RACK_STOP: every press has stopped, and the save begins. -/
def stepRackStop (q : Fin 256) (seq : Word) (s : State) : State :=
  match s.cmd q seq with
  | none => s
  | some c =>
    match c.rackSlot with
    | none => s
    | some k =>
      if c.rackRequested && allStopped s q c && !s.safety.safe then
        s.updCmd q seq fun x => { x with phase := .saving k, rackSlot := none, rackRequested := false }
      else s

/-- RACK_STOP. -/
def execRackStop (q : Fin 256) (seq : Word) (s : State) : Host.Outcome State Fault Refusal := answer (stepRackStop q seq) s

/-- RACK_WAIT_EXPIRY (R499): not every press has stopped within RACK_WAIT.US of the request, so KILL acts and the command's save
slots are released. -/
def stepRackExpiry (q : Fin 256) (seq : Word) (s : State) : State :=
  match s.cmd q seq with
  | none => s
  | some c =>
    if c.rackRequested && c.phase.runs && !allStopped s q c && !s.safety.safe && decide (c.rackBy.toNat ≤ s.time.toNat) then
      fallBack (s.parcelOf q) q seq s
    else s

/-- RACK_WAIT_EXPIRY. -/
def execRackWaitExpiry (q : Fin 256) (seq : Word) (s : State) : Host.Outcome State Fault Refusal :=
  answer (stepRackExpiry q seq) s

/-! ### The save area (R487, R503, R504) -/

/-- Bytes of a press's record. -/
def recordBytes : Nat := 0x684000

/-- Virtual address of the record of a press in a save slot. -/
def recordAt (s : State) (n : Fin 8) (slot : Nat) (p : Fin 16) : Nat :=
  let x := s.parcel n
  let ps := parcelPresses s n
  x.saveVpn.toNat * 16384 + slot * (ps.length * recordBytes) + ps.idxOf p * recordBytes

/-- Agent code of the save engine, which Table 10.8 does not give: free. -/
def saveAgent (s : State) : Nat := (Config.freeWord s.freeCtr 3).toNat % 256

/-- The physical parts of a range of the save area: its permission bits are ignored; a page without a physical page faults
with cause RETIRED, and an access that needs a bad block of the translation table is held (R383). -/
def saveParts (s : State) (access : Access) : Nat → Nat → Nat → Except Stop (List (Nat × Nat))
  | 0, _, _ => .ok []
  | fuel + 1, va, n =>
    if n = 0 then .ok []
    else
      let k := min n (16384 - va % 16384)
      let t := ttEntry s (va / 16384)
      if ttBlocked s (va / 16384) then .error (stopTranslate va causeHeld (accessCode access) (saveAgent s))
      else if t.retired then .error (stopTranslate va 3 (accessCode access) (saveAgent s))
      else (saveParts s access fuel (va + k) (n - k)).map fun rest => (t.ppn.toNat * 16384 + va % 16384, k) :: rest

/-- Write bytes into the save area. -/
def saveWrite (va : Nat) (l : List Byte) (s : State) : Except Stop State :=
  (saveParts s .write (l.length / 16384 + 2) va l.length).map fun parts =>
    s.writeLocs (spread (parts.map fun p => (.dram p.1, p.2)) l)

/-- Read bytes of the save area. -/
def saveRead (s : State) (va n : Nat) : Except Stop (List Byte) :=
  (saveParts s .read (n / 16384 + 2) va n).map fun parts => parts.flatMap fun p => s.dram.readBytes p.1 p.2

/-- The ranges of a kind that a rack map lists for a press at a point: start and length, with the source. -/
def mapRanges (m : List Byte) (kind point press : Nat) : List (Nat × Nat × Nat) :=
  let e := 16 + 8 * (16 * point + press)
  ((List.range (fieldNat m (e + 4) 2)).map fun i => rackRange m (fieldNat m e 4 + i)).filterMap fun g =>
    if g.1 = kind then some g.2 else none

/-- The press whose entries of the rack map a press uses: a twin uses its primary's (R503). -/
def mapPress (s : State) (p : Fin 16) : Nat :=
  match (s.press p).sequencer with
  | some k => (k.twinOf.getD p).val
  | none => p.val

/-- The ranges of a store that a save covers (R503): the whole store, or those of the press's rack point. -/
def savedRanges (c : Cmd) (kind size : Nat) (point : Option Nat) (press : Nat) : List (Nat × Nat) :=
  if !c.saveLive then [(0, size)]
  else match point, c.rackMap with
  | some j, some m => (mapRanges m kind j press).map fun g => (g.1, g.2.1)
  | _, _ => []

/-- The rack point at which a sequencer stands, or the last it passed before its END. -/
def pointOf (k : Sequencer) : Option Nat := if k.stopped || k.passedPoint then some k.point else none

/-- The control block of a record (R503). -/
def controlBlock (s : State) (x : Press) (k : Sequencer) : List Byte :=
  x.arrive.toList.flatMap (fun v => leBytes 4 v.toNat) ++ leBytes 4 k.index ++
    leBytes 4 ((pointOf k).getD (Config.freeWord s.freeCtr 2).toNat) ++ leBytes 4 (bit k.ended)

/-- Copy ranges of a store into the save area. -/
def saveRanges (m : Mem) (base : Nat) (l : List (Nat × Nat)) (s : State) : Except Stop State :=
  l.foldl (fun acc r => match acc with
    | .error e => .error e
    | .ok s => saveWrite (base + r.1) (m.readBytes r.1 r.2) s) (.ok s)

/-- Save one press of a command (R503, R504). -/
def savePress (c : Cmd) (n : Fin 8) (slot : Nat) (s : State) (p : Fin 16) : Except Stop State :=
  let x := s.press p
  match x.sequencer with
  | none => .ok s
  | some k =>
    let at_ := recordAt s n slot p
    let m := mapPress s p
    match saveRanges x.cask at_ (savedRanges c 0 0x600000 (pointOf k) m) s with
    | .error e => .error e
    | .ok s1 =>
    match saveRanges x.accumulators (at_ + 0x600000) (savedRanges c 1 0x80000 (pointOf k) m) s1 with
    | .error e => .error e
    | .ok s2 =>
    match saveWrite (at_ + 0x680000) (x.sideStore.readBytes 0 0x1000) s2 with
    | .error e => .error e
    | .ok s3 => saveWrite (at_ + 0x681000) (controlBlock s x k) s3

/-- Run an operation over presses until one faults. -/
def overPresses (f : State → Fin 16 → Except Stop State) : List (Fin 16) → State → Except Stop State
  | [], s => .ok s
  | p :: rest, s =>
    match f s p with
    | .error e => .error e
    | .ok s1 => overPresses f rest s1

/-- The rack point of each press of a command. -/
def pointsOf (s : State) (ps : List (Fin 16)) : List (Nat × Nat) :=
  ps.filterMap fun p => match (s.press p).sequencer with
    | none => none
    | some k => (pointOf k).map fun j => (p.val, j)

/-- The save is complete: the command is suspended and its presses are free (R498, R500). -/
def finishSave (q : Fin 256) (c : Cmd) (slot : Nat) (s : State) : State :=
  let n := s.parcelOf q
  let ps := pressesOf s q c.seq
  match overPresses (savePress c n slot) ps s.bump with
  | .error e => if e.held then s else killCmd q c.seq e s.bump
  | .ok s1 =>
    let s2 := s1.updCmd q c.seq fun x => { closeInterval s.time x with
      phase := .suspended slot, preempted := x.preempted + 1, savedPoints := pointsOf s ps }
    settleHolder n (foldState freePress ps (s2.updParcel n fun p => { p with racks := satInc p.racks 1 }))

/-! ### Restore (R501) -/

/-- Copy ranges of the save area back into a store. -/
def restoreRanges (s : State) (base : Nat) (l : List (Nat × Nat)) (m : Mem) : Except Stop Mem :=
  l.foldl (fun acc r => match acc with
    | .error e => .error e
    | .ok m => (saveRead s (base + r.1) r.2).map fun b => m.writeBytes r.1 b) (.ok m)

/-- A sequencer as a control block sets it: after its RACK, or at its END. The fold swaps before the saved index are made. -/
def restoredSequencer (swaps : List FoldSwap) (ctrl : List Byte) (point : Option Nat) (k : Sequencer) : Sequencer :=
  let ended := fieldNat ctrl 0x108 4 % 2 = 1
  { k with
    index := if ended then fieldNat ctrl 0x100 4 else fieldNat ctrl 0x100 4 + 1
    ended := ended, stopped := false, waiting := false
    point := point.getD 0, passedPoint := point.isSome
    swapped := swaps.countP fun w => decide (w.index ≤ fieldNat ctrl 0x100 4) }

/-- Restore one press of a command. Under LIVE every byte outside the listed ranges is undefined (R503). -/
def restorePress (c : Cmd) (n : Fin 8) (slot : Nat) (s0 : State) (p : Fin 16) : Except Stop State :=
  let s := s0.bump
  let x := s.press p
  let at_ := recordAt s n slot p
  let m := mapPress s p
  let point := (c.savedPoints.find? fun g => g.1 = p.val).map fun g => g.2
  match restoreRanges s at_ (savedRanges c 0 0x600000 point m) (x.cask.wipe 0 0x600000 s0.freeCtr) with
  | .error e => .error e
  | .ok cask =>
  match restoreRanges s (at_ + 0x600000) (savedRanges c 1 0x80000 point m) (x.accumulators.wipe 0 0x80000 s0.freeCtr) with
  | .error e => .error e
  | .ok acc =>
  match saveRead s (at_ + 0x680000) 0x1000 with
  | .error e => .error e
  | .ok side =>
  match saveRead s (at_ + 0x681000) 0x10C with
  | .error e => .error e
  | .ok ctrl => .ok (s.updPress p fun x => { x with
      cask := cask, accumulators := acc, sideStore := x.sideStore.writeBytes 0 side
      arrive := Vector.ofFn (fun i => BitVec.ofNat 32 (fieldNat ctrl (4 * i.val) 4))
      sequencer := x.sequencer.map (restoredSequencer (c.swapsOf p) ctrl point) })

/-- One REFILL range: device virtual memory into the parcel's Cellar share. -/
def refillRange (n : Fin 8) (q : Fin 256) (p : Nat) (s : State) (g : Nat × Nat × Nat) : Except Stop State :=
  let cx : Cx := { parcel := n, agent := p, own := none, queue := some q }
  match readRange s cx .read 2 0 ((g.2.2 * 128 : Nat) : Int) g.2.1 with
  | .error e => .error e
  | .ok l => (writeRange s cx 1 0 (g.1 : Int) l).map fun ws => s.writeLocs ws

/-- The REFILL ranges of every press of PRESS_MASK at its rack point. -/
def refillList (c : Cmd) : List (Nat × (Nat × Nat × Nat)) :=
  match c.rackMap with
  | none => []
  | some m => (c.savedPoints.filter fun g => c.pressMask.getLsbD g.1).flatMap fun g =>
      (mapRanges m 2 g.2 g.1).map fun r => (g.1, r)

/-- R381, R507: the byte of a save slot at an offset lies in an uncorrectable block: the error is recorded, and the command
killed. -/
def slotFails (q : Fin 256) (c : Cmd) (slot offset : Nat) (s : State) : State :=
  let n := s.parcelOf q
  let size := (parcelPresses s n).length * recordBytes
  let va := (s.parcel n).saveVpn.toNat * 16384 + slot * size + offset % max size 1
  match saveParts s .read 1 va 1 with
  | .error e => if e.held then s else killCmd q c.seq e s.bump
  | .ok parts =>
    killCmd q c.seq { status := 0x21, data := faultWord va 4 0 (saveAgent s) }
      (noteUncorrectable ((parts.map fun p => p.1).foldl max 0 / 64) s.bump)

/-- The restore and refill are complete: the command runs again and its slot is free. -/
def finishRestore (q : Fin 256) (c : Cmd) (slot : Nat) (s : State) : State :=
  let n := s.parcelOf q
  match overPresses (restorePress c n slot) (pressesOf s q c.seq) s with
  | .error e => if e.held then s else killCmd q c.seq e s.bump
  | .ok s1 =>
    match foldStop (fun s g => refillRange n q g.1 s g.2) (refillList c) s1 with
    | .error e => if e.held then s else killCmd q c.seq e s1
    | .ok s2 => settleParts q c.seq ((freeSlot n slot s2).updCmd q c.seq fun x => { x with phase := .running, savedPoints := [] })

/-- SWITCH_COMPLETE: the save or the restore of a command is complete, or the restore meets an uncorrectable error at an offset
of its slot. -/
def stepSwitch (q : Fin 256) (seq : Word) (slotError : Option Nat) (s : State) : State :=
  match s.cmd q seq with
  | none => s
  | some c =>
    if s.safety.safe then s
    else match c.phase with
    | .saving k => finishSave q c k s
    | .restoring k => match slotError with
      | some offset => slotFails q c k offset s
      | none => finishRestore q c k s
    | _ => s

/-- SWITCH_COMPLETE. -/
def execSwitchComplete (q : Fin 256) (seq : Word) (slotError : Option Nat) (health : ReadHealth) (s : State) :
    Host.Outcome State Fault Refusal := answerNoting health (stepSwitch q seq slotError) s

end Sys2Proof.Machine
end

