-- ==== Sys2Proof/Machine/Blutu.lean ====
section
/-! DEFINITION. What translation makes of a Blutu module (R186 to R194, Tables 4.12, 4.13, 13.3 and 15.13): where slots run, how a
folded program takes turns on a press, and the native tables, streams and maps that firmware writes. What the sections of a
module say is read through Config, because the spec gives no encoding of them. -/

namespace Sys2Proof.Machine

open Sys2Proof.Config (VirtualPlace VirtualOperand VirtualProgram VirtualRange EngineTemplate)

/-! ### Slots and turns (R188 to R190) -/

/-- R188: the slots that the press at a position hosts. -/
def hostedSlots (slots presses position : Nat) : List Nat :=
  (List.range slots).filter fun i => decide (i % presses = position)

/-- R190: the order in which a press runs its slots' parts of a phase. -/
def phaseOrder (slots presses position phase : Nat) : List Nat :=
  let l := hostedSlots slots presses position
  if phase % 2 = 0 then l else l.reverse

/-- A press's turns over all phases: phase and slot. -/
def foldTurns (slots presses phases position : Nat) : List (Nat × Nat) :=
  (List.range phases).flatMap fun k => (phaseOrder slots presses position k).map fun i => (k, i)

/-- The place of a slot's turn in its phase. -/
def turnPlace (slots presses phase slot : Nat) : Nat := (phaseOrder slots presses (slot % presses) phase).idxOf slot

/-- Is a slot resident on its press while the turns of a place in a phase run (R191)? A press with fewer turns keeps its last
slot. -/
def residentAt (slots presses phase place slot : Nat) : Bool :=
  let l := phaseOrder slots presses (slot % presses) phase
  l[min place (l.length - 1)]? = some slot

/-- The phase in which a slot that is not resident was resident last; phase 0 stands for none. -/
def lastResident (slots presses phase place slot : Nat) : Nat :=
  if turnPlace slots presses phase slot < place then phase else phase - 1

/-! ### What is known of a translation -/

/-- A section entry: TYPE, SFLAGS, LENGTH, OFFSET. -/
structure SectionEntry where
  type : Nat
  flags : Nat
  length : Nat
  offset : Nat
  deriving DecidableEq, Repr

/-- Entry i of the section table (R184). -/
def sectionEntry (m : List Byte) (i : Nat) : SectionEntry :=
  let at_ := fieldNat m 0x18 4 + 16 * i
  { type := fieldNat m at_ 2, flags := fieldNat m (at_ + 2) 2, length := fieldNat m (at_ + 4) 4, offset := fieldNat m (at_ + 8) 8 }

/-- Section entries of a module. -/
def moduleSections (m : List Byte) : List SectionEntry := (List.range (fieldNat m 0x0A 2)).map (sectionEntry m)

/-- The contents of a section. -/
def sectionBytes (m : List Byte) (e : SectionEntry) : List Byte := (m.drop e.offset).take e.length

/-- The contents of a module's sections of a type, in table order. -/
def sectionsOf (m : List Byte) (type : Nat) : List (List Byte) :=
  ((moduleSections m).filter fun e => decide (e.type = type)).map (sectionBytes m)

/-- SLOTS. -/
def moduleSlots (m : List Byte) : Nat := fieldNat m 8 1
/-- VARIANTS. -/
def moduleVariants (m : List Byte) : Nat := fieldNat m 9 1

/-- The virtual program of a slot in a variant; a slot without one has no operands and no phases. -/
def slotProgram (m : List Byte) (variant slot : Nat) : VirtualProgram :=
  (((sectionsOf m 1).map Config.virtualProgram).find? fun p => decide (p.slot = slot) && decide (p.variant = variant)).getD
    { slot := slot, variant := variant, operands := [], phases := [] }

/-- The ranges of a module's rack maps. -/
def moduleRanges (m : List Byte) : List VirtualRange := (sectionsOf m 3).flatMap Config.virtualMaps

/-- R193: the bucket sizes of a variant. -/
def variantBuckets (m : List Byte) (variant : Nat) : List Nat := ((sectionsOf m 4).flatMap Config.bucketTable).getD variant []

/-- Table 4.12, R193: does a module keep to its limits: 1 to 16 slots, 1 to 64 variants, at most 8 bucket sizes of a dimension? -/
def withinLimits (m : List Byte) : Bool :=
  let table := (sectionsOf m 4).flatMap Config.bucketTable
  decide (1 ≤ moduleSlots m) && decide (moduleSlots m ≤ 16) && decide (1 ≤ moduleVariants m) && decide (moduleVariants m ≤ 64) &&
    (List.range 4).all fun d => decide ((table.map fun v => v.getD d 0).eraseDups.length ≤ 8)

/-- Phases of a variant. -/
def variantPhases (m : List Byte) (variant : Nat) : Nat :=
  ((List.range (moduleSlots m)).map fun i => (slotProgram m variant i).phases.length).foldl max 0

/-- R190: the live Cask ranges of a slot in a phase of a variant. -/
def liveRanges (m : List Byte) (variant slot phase : Nat) : List (Nat × Nat) :=
  ((moduleRanges m).filter fun r =>
    decide (r.variant = variant) && decide (r.slot = slot) && decide (r.phase = phase) && decide (r.kind = 0)).map fun r =>
      (r.start, r.length)

/-- Bytes of ranges. -/
def rangesBytes (l : List (Nat × Nat)) : Nat := (l.map fun r => r.2).foldl (· + ·) 0

/-- R192: bytes of a slot's fold image, its largest live range and 256 bytes for its counters. -/
def imageSize (m : List Byte) (slot : Nat) : Nat :=
  ((List.range (moduleVariants m)).flatMap fun v => (List.range (variantPhases m v)).map fun k =>
    rangesBytes (liveRanges m v slot k)).foldl max 0 + 256

/-- R192: the slots that share their press with another. -/
def foldedSlots (slots presses : Nat) : List Nat :=
  (List.range slots).filter fun i => decide (1 < (hostedSlots slots presses (i % presses)).length)

/-- What a translation knows: the module with the objects that hold its sections, the presses of its positions, where each fold image
begins and where the module's LPDDR6 buffer lies. -/
structure Translation where
  module : List Byte
  sources : List Obj
  presses : List (Fin 16)
  images : List (Nat × Nat)
  buffer : Nat

/-- The press that runs a slot (R188). -/
def Translation.host (t : Translation) (slot : Nat) : Fin 16 := t.presses.getD (slot % t.presses.length) 0

/-- The fold image of a slot with what it holds of the slot's last residence. -/
def Translation.image (t : Translation) (variant slot phase : Nat) : FoldImage :=
  let base := (lookupKey t.images slot).getD 0
  { base := base, counters := base + imageSize t.module slot - 256, ranges := liveRanges t.module variant slot phase }

/-- The device virtual address of a byte of the module: its sections lie in the source objects one after another. -/
def moduleAddress : List Obj → Nat → Nat
  | [], _ => 0
  | o :: rest, off => if off < o.length then o.base + off else moduleAddress rest (off - o.length)

/-! ### Native operands and instructions (Tables 4.5, 4.9) -/

/-- Replace the bytes of a record at an offset. -/
def putBytes (l : List Byte) (at_ : Nat) (b : List Byte) : List Byte := l.take at_ ++ b ++ l.drop (at_ + b.length)

/-- SPACE and ADDR of a place, every slot being resident. -/
def Translation.address (t : Translation) : VirtualPlace → Nat × Nat
  | .cask slot off => (0, off + 2 ^ 24 * (t.host slot).val)
  | .share off => (1, off)
  | .constant sect off => (2, moduleAddress t.sources ((sectionEntry t.module sect).offset + off))
  | .buffer off => (2, t.buffer + off)

/-- The descriptor of an operand at a space and an address, with its run-time extents (R162, R193). -/
def nativeOperand (o : VirtualOperand) (space addr : Nat) : List Byte :=
  let d := imageBytes o.desc 64
  let flags := (List.range 4).foldl (fun f i => if (o.runTime.getD i none).isSome then f ||| 2 ^ (9 + i) else f) (fieldNat d 6 2)
  let sizes := (List.range 4).flatMap fun i => match o.runTime.getD i none with
    | none => leBytes 2 (fieldNat d (8 + 2 * i) 2)
    | some j => leBytes 2 j.val
  putBytes d 0 (leBytes 5 addr ++ leBytes 1 (fieldNat d 5 1 % 16 + 16 * space + 64 * (fieldNat d 5 1 / 64)) ++ leBytes 2 flags ++ sizes)

/-- The native descriptor of an operand whose slots are resident. -/
def Translation.operand (t : Translation) (o : VirtualOperand) : List Byte :=
  let a := t.address o.place
  nativeOperand o a.1 a.2

/-- R194: iterations of level `level` of an instruction that keep each of its operands' run-time dimensions within the bucket. -/
def cappedCount (ops : List VirtualOperand) (buckets : List Nat) (instr : List Byte) (level : Nat) : Nat :=
  let caps := (List.range 4).filterMap fun f =>
    match ops[(byteAt instr (2 + f)).toNat]? with
    | none => none
    | some o =>
      let inc := fieldNat o.desc (40 + 4 * level) 4
      let step := signedOf 30 (inc % 2 ^ 30)
      let dim := inc / 2 ^ 30
      match o.runTime.getD dim none with
      | none => none
      | some j => if step ≤ 0 then none else
          let room := (buckets.getD j.val 65535 : Int) - signedOf 16 (fieldNat o.desc (32 + 2 * dim) 2)
          some (max 1 ((room + step - 1) / step)).toNat
  caps.foldl min (fieldNat instr (8 + 2 * level) 2)

/-- R194: the loops of a variant's instruction stop at its buckets. -/
def cappedInstr (ops : List VirtualOperand) (buckets : List Nat) (instr : List Byte) : List Byte :=
  putBytes instr 8 ((List.range 6).flatMap fun l => leBytes 2 (cappedCount ops buckets instr l))

/-- An operand index moved to where a slot's operands lie in the variant's table; 0xFF stays. -/
def movedIndex (first : Nat) (b : Byte) : Byte := if b = 0xFF then b else BitVec.ofNat 8 (first + b.toNat)

/-- END (Table 4.10). -/
def endInstr : List Byte := leBytes 32 0x0F

/-! ### Output objects (R186) -/

/-- Where firmware writes next: the output objects from the present one on, with the bytes of it that are used, and what is written
so far, as addresses and bytes. It packs parts one after another in 64-byte units (DESIGN CHOICE, log entry 53). -/
structure Layout where
  rest : List Obj
  used : Nat
  writes : List (Nat × List Byte)

/-- Reserve bytes in the present object or in the first later one that holds them. -/
def reserveIn : List Obj → Nat → Nat → Option (Nat × List Obj × Nat)
  | [], _, _ => none
  | o :: rest, used, n => if used + n ≤ o.length then some (o.base + used, o :: rest, roundUp (used + n) 64) else reserveIn rest 0 n

/-- Reserve bytes. -/
def Layout.reserve (l : Layout) (n : Nat) : Option (Nat × Layout) :=
  (reserveIn l.rest l.used n).map fun r => (r.1, { l with rest := r.2.1, used := r.2.2 })

/-- Write bytes at an address that was reserved. -/
def Layout.write (l : Layout) (at_ : Nat) (b : List Byte) : Layout := { l with writes := l.writes ++ [(at_, b)] }

/-- Reserve room for bytes and write them. -/
def Layout.put (l : Layout) (b : List Byte) : Option (Nat × Layout) :=
  (l.reserve b.length).map fun r => (r.1, r.2.write r.1 b)

/-- Go on in the next object. -/
def Layout.next (l : Layout) : Layout := { l with rest := l.rest.drop 1, used := 0 }

/-! ### One variant (R186, R190, R191) -/

/-- A variant that is being put together: its operand table, the present press's stream, its swaps and writes to images. -/
structure Assembly where
  operands : List (List Byte)
  stream : List (List Byte)
  swaps : List FoldSwap
  writes : List FoldWrite
  layout : Layout

/-- The image that a write goes to at a turn because its slot is not resident (R191), with the address in it. A Cask offset that no
live range holds, which R189 and R190 leave no use for, goes to the image's first byte (DESIGN CHOICE, log entry 53). -/
def Translation.redirect (t : Translation) (variant phase place : Nat) (p : VirtualPlace) : Option (FoldImage × Nat) :=
  match p with
  | .cask slot off =>
    let n := moduleSlots t.module
    if residentAt n t.presses.length phase place slot then none
    else
      let image := t.image variant slot (lastResident n t.presses.length phase place slot)
      some (image, (image.address off).getD image.base)
  | _ => none

/-- The descriptor of an operand at a turn: in the image of a slot that is not resident. -/
def Translation.operandAt (t : Translation) (variant phase place : Nat) (o : VirtualOperand) : List Byte :=
  match t.redirect variant phase place o.place with
  | some r => nativeOperand o 2 r.2
  | none => t.operand o

/-- An engine command of a template (R181): its operand table, parameter block and descriptor are written, and its address is what
ENGINE names. -/
def Translation.template (t : Translation) (variant phase place number : Nat) (l : Layout) : Option (Nat × Layout) :=
  let e := Config.engineTemplate (sectionsOf t.module 5).flatten number
  match l.put (e.operands.flatMap (t.operandAt variant phase place)) with
  | none => none
  | some (ops, l1) =>
  match l1.put e.params with
  | none => none
  | some (params, l2) =>
    let d := putBytes (imageBytes e.desc 64) 16
      (leBytes 8 params ++ leBytes 4 e.params.length ++ leBytes 8 ops ++ leBytes 2 e.operands.length)
    l2.put (d.take 60 ++ leBytes 4 (crc32 (d.take 60)).toNat)

/-- One instruction of a slot's part of a phase, at its turn on a press. `first` is where the slot's operands begin. -/
def Translation.emit (t : Translation) (variant : Nat) (press : Fin 16) (phase place first : Nat) (p : VirtualProgram)
    (a : Assembly) (raw : List Byte) : Option Assembly :=
  let i := cappedInstr p.operands (variantBuckets t.module variant) (imageBytes raw 32)
  let moved := putBytes i 2 ((List.range 4).map fun f => movedIndex first (byteAt i (2 + f)))
  match (byteAt i 0).toNat with
  | 3 =>
    match p.operands[(byteAt i 4).toNat]? with
    | none => some { a with stream := a.stream ++ [moved] }
    | some o => match t.redirect variant phase place o.place with
      | none => some { a with stream := a.stream ++ [moved] }
      | some r => some { a with
          operands := a.operands ++ [nativeOperand o 2 r.2]
          stream := a.stream ++ [putBytes moved 4 [BitVec.ofNat 8 a.operands.length]]
          writes := a.writes ++ [{ press := press, index := a.stream.length, counters := r.1.counters }] }
  | 5 => (t.template variant phase place (fieldNat i 20 5) a.layout).map fun r =>
      { a with stream := a.stream ++ [putBytes moved 20 (leBytes 5 r.1)], layout := r.2 }
  | _ => some { a with stream := a.stream ++ [moved] }

/-- Where a slot's operands begin in the operand table of a variant. -/
def firstOperand (m : List Byte) (variant slot : Nat) : Nat :=
  ((List.range slot).map fun i => (slotProgram m variant i).operands.length).foldl (· + ·) 0

/-- Fold over a list while each step succeeds. -/
def foldSome {α β : Type} (f : β → α → Option β) : List α → β → Option β
  | [], b => some b
  | x :: rest, b => match f b x with
    | none => none
    | some b' => foldSome f rest b'

/-- R190: the swap with which a turn begins, when the turn before it was another slot's. -/
def Translation.swap (t : Translation) (variant : Nat) (press : Fin 16) (before now : Nat × Nat) (index : Nat) : List FoldSwap :=
  if before.2 = now.2 then []
  else
    let n := moduleSlots t.module
    let phase := lastResident n t.presses.length now.1 (turnPlace n t.presses.length now.1 now.2 - 1) now.2
    [{ press := press, index := index, out := t.image variant before.2 before.1, into := t.image variant now.2 phase }]

/-- One turn of a press: the swap, and the slot's part of the phase. -/
def Translation.turn (t : Translation) (variant : Nat) (press : Fin 16) (before : Option (Nat × Nat)) (now : Nat × Nat) (a : Assembly) :
    Option Assembly :=
  let p := slotProgram t.module variant now.2
  let swaps := match before with
    | none => []
    | some b => t.swap variant press b now a.stream.length
  foldSome (t.emit variant press now.1 (turnPlace (moduleSlots t.module) t.presses.length now.1 now.2)
    (firstOperand t.module variant now.2) p) (p.phases.getD now.1 []) { a with swaps := a.swaps ++ swaps }

/-- The turns of a press, each with the one before it. -/
def withBefore {α : Type} : Option α → List α → List (Option α × α)
  | _, [] => []
  | b, x :: rest => (b, x) :: withBefore (some x) rest

/-- The stream of the press at a position is put together and written: its entry of the press program table (R166). -/
def Translation.stream (t : Translation) (variant position : Nat) (a : Assembly) : Option (Assembly × List Byte) :=
  let press := t.presses.getD position 0
  let turns := foldTurns (moduleSlots t.module) t.presses.length (variantPhases t.module variant) position
  match foldSome (fun a x => t.turn variant press x.1 x.2 a) (withBefore none turns) { a with stream := [] } with
  | none => none
  | some b =>
    let code := b.stream ++ [endInstr]
    (b.layout.put code.flatten).map fun r =>
      ({ b with layout := r.2 }, leBytes 8 r.1 ++ leBytes 4 code.length ++ leBytes 4 0)

/-- The positions whose presses run at least one slot. -/
def Translation.positions (t : Translation) : List Nat :=
  (List.range t.presses.length).filter fun j => !(hostedSlots (moduleSlots t.module) t.presses.length j).isEmpty

/-- The presses that a translated program uses, as a PRESS_MASK. -/
def Translation.mask (t : Translation) : Nat := (t.positions.map fun j => 2 ^ (t.presses.getD j 0).val).foldl (· + ·) 0

/-- The native rack map of a variant (Table 13.3). -/
def Translation.rackMap (t : Translation) (variant : Nat) : List Byte :=
  let n := moduleSlots t.module
  let mine := (moduleRanges t.module).filter fun r => decide (r.variant = variant)
  let points := (mine.map fun r => r.point + 1).foldl max 1
  let at_ (point : Nat) (press : Fin 16) : List VirtualRange :=
    mine.filter fun r => decide (r.point = point) && decide (r.slot < n) && decide (t.host r.slot = press)
  let cells := (List.range 256).map fun i => at_ (i / 16) (Fin.ofNat 16 i)
  let directory := cells.foldl (fun (acc : List Byte × Nat) l =>
    (acc.1 ++ leBytes 4 acc.2 ++ leBytes 2 l.length ++ [0, 0], acc.2 + l.length)) ([], 0)
  let ranges := cells.flatten.flatMap fun r =>
    leBytes 1 r.kind ++ leBytes 3 0 ++ leBytes 4 r.start ++ leBytes 4 r.length ++
      leBytes 4 (if r.kind = 2 then (t.address r.source).2 / 128 else 0)
  let body (check : Nat) : List Byte :=
    leBytes 2 t.mask ++ leBytes 1 points ++ [0] ++ leBytes 4 (2064 + ranges.length) ++ leBytes 4 check ++ leBytes 4 0 ++
      directory.1 ++ ranges
  body (crc32 (body 0)).toNat

/-- The four parts of a variant that its directory entry names: PROGRAM, OPERANDS, the operand count, and the fold plan. -/
structure VariantParts where
  program : Nat
  operands : Nat
  operandCount : Nat
  plan : FoldPlan
  layout : Layout

/-- R186: one variant's press program table, instruction streams and operand table. -/
def Translation.variant (t : Translation) (parcel : Fin 8) (v : Nat) (l : Layout) : Option VariantParts :=
  let ops := (List.range (moduleSlots t.module)).flatMap fun i => (slotProgram t.module v i).operands.map t.operand
  let start : Assembly × List (Nat × List Byte) := ({ operands := ops, stream := [], swaps := [], writes := [], layout := l }, [])
  let done := foldSome (fun (x : Assembly × List (Nat × List Byte)) (j : Nat) =>
    (t.stream v j x.1).map fun r => (r.1, x.2 ++ [((t.presses.getD j 0).val, r.2)])) t.positions start
  match done with
  | none => none
  | some (a, entries) =>
    match a.layout.put ((List.range 16).flatMap fun p => (lookupKey entries p).getD (leBytes 16 0)) with
    | none => none
    | some (program, l1) =>
    match l1.put a.operands.flatten with
    | none => none
    | some (operands, l2) => some {
        program := program, operands := operands, operandCount := a.operands.length, layout := l2
        plan := {
          parcel := parcel, program := program, swaps := a.swaps, writes := a.writes
          images := (foldedSlots (moduleSlots t.module) t.presses.length).map fun i => (t.image v i 0).counters } }

end Sys2Proof.Machine
end

