-- ==== Sys2Proof/Machine/Translate.lean ====
section
/-! DEFINITION. MODULE_TRANSLATE (R184 to R194, R679, Tables 4.12 to 4.14 and 15.13): the checks of a Blutu module, the layout of the
output objects and the translation directory. -/

namespace Sys2Proof.Machine

/-- Handles of a translate request: sections, then outputs. -/
def moduleHandles (b : List Byte) (first n : Nat) : List Nat := (List.range n).map fun i => fieldNat b (24 + 2 * (first + i)) 2

/-- The live objects that handles name, or none when one is absent. -/
def objectsOf (s : State) (parcel : Nat) : List Nat → Option (List Obj)
  | [] => some []
  | h :: rest =>
    match objectOf s parcel h, objectsOf s parcel rest with
    | some o, some l => some (o :: l)
    | _, _ => none

/-- MODULE_CORRUPT: MODULE_CRC mismatches, or the section table or a section lies outside SIZE. -/
def moduleCorrupt (m : List Byte) : Bool :=
  let size := fieldNat m 0x10 8
  decide (m.length < size) ||
    decide (BitVec.ofNat 32 (fieldNat m 0x1C 4) ≠ crc32 ((m.take size).take 0x1C ++ [0, 0, 0, 0] ++ (m.take size).drop 0x20)) ||
    decide (size < fieldNat m 0x18 4 + 16 * fieldNat m 0x0A 2) ||
    (moduleSections m).any fun e => decide (size < e.offset + e.length)

/-- MODULE_FEATURE: a FEATURES bit that the device lacks, or an unknown section that is REQUIRED. -/
def moduleFeature (m : List Byte) : Bool :=
  ((List.range 32).any fun i => (fieldNat m 0x0C 4).testBit i && !(decide (i ≤ 10) || i = 16 || i = 17)) ||
    (moduleSections m).any fun e => (decide (e.type = 0) || decide (5 < e.type)) && e.flags.testBit 0

/-- Does the translated command run twinned (R188, R679)? -/
def translateTwin (s : State) (b : List Byte) : Bool := (fieldNat b 17 1).testBit 0 || twinForced s

/-! ### The output objects (R186, R192, R731) -/

/-- R188: the presses of a parcel that slots run on, in ascending number: all, or the primaries of twinned commands. -/
def slotPresses (s : State) (n : Fin 8) (twin : Bool) : List (Fin 16) :=
  let l := parcelPresses s n
  if twin then l.take (l.length / 2) else l

/-- A handle with its object. -/
abbrev Named := Nat × Obj

/-- Reserve the fold images of slots, one after another. -/
def reserveImages (m : List Byte) : List Nat → Layout → Option (List (Nat × Nat) × Layout)
  | [], l => some ([], l)
  | i :: rest, l =>
    match l.reserve (imageSize m i) with
    | none => none
    | some (at_, l1) => (reserveImages m rest l1).map fun r => ((i, at_) :: r.1, r.2)

/-- What a program writes takes the last output objects, for an object of a command is read or written, not both (R156): the fold
images and the LPDDR6 buffer, with the number of objects that they take. -/
def reserveWritten (m : List Byte) (presses : Nat) (dst : List Obj) : Option (List (Nat × Nat) × Nat × Nat) :=
  let slots := foldedSlots (moduleSlots m) presses
  if slots.isEmpty && decide (Config.bufferBytes m = 0) then some ([], 0, 0)
  else match reserveImages m slots { rest := dst.reverse, used := 0, writes := [] } with
  | none => none
  | some (images, l) => (l.reserve (Config.bufferBytes m)).map fun r => (images, r.1, dst.length + 1 - r.2.rest.length)

/-- The parts of every variant from number `v` on, each with the place of its object list. -/
def putVariants (t : Translation) (n : Fin 8) (objects : Nat) : Nat → Nat → Layout → Option (List (VariantParts × Nat) × Layout)
  | 0, _, l => some ([], l)
  | k + 1, v, l =>
    match t.variant n v l with
    | none => none
    | some p =>
    match p.layout.reserve (4 * objects) with
    | none => none
    | some (at_, l1) => (putVariants t n objects k (v + 1) l1).map fun r => ((p, at_) :: r.1, r.2)

/-- The rack maps of variants, each at the base of an object of its own: their addresses. -/
def putMaps (t : Translation) : List Nat → Layout → Option (List Nat × Layout)
  | [], l => some ([], l)
  | v :: rest, l =>
    match l.next.put (t.rackMap v) with
    | none => none
    | some (at_, l1) => (putMaps t rest l1).map fun r => (at_ :: r.1, r.2)

/-- The source objects that hold constants, which the programs read. -/
def constantSources (m : List Byte) : Nat → List Named → List Named
  | _, [] => []
  | off, x :: rest =>
    let used := (moduleSections m).any fun e =>
      decide (e.type = 2) && decide (e.offset < off + x.2.length) && decide (off < e.offset + e.length)
    (if used then [x] else []) ++ constantSources m (off + x.2.length) rest

/-- An object list (Table 4.3). -/
def objectList (reads writes : List Named) : List Byte :=
  (reads.flatMap fun x => leBytes 2 x.1 ++ [1, 0]) ++ writes.flatMap fun x => leBytes 2 x.1 ++ [2, 0]

/-- What a translation writes, as addresses and bytes, and the plans of its folded programs. -/
structure Translated where
  writes : List (Nat × List Byte)
  plans : List FoldPlan

/-- A directory entry (Table 15.13). -/
def directoryEntry (p : VariantParts) (objects count rackMap : Nat) : List Byte :=
  leBytes 8 p.program ++ leBytes 8 (if p.operandCount = 0 then 0 else p.operands) ++ leBytes 8 objects ++
    leBytes 2 p.operandCount ++ leBytes 2 count ++ leBytes 2 rackMap ++ [0, 0]

/-- R186: the whole translation into the output objects; none when they are too small. -/
def translation (n : Fin 8) (presses : List (Fin 16)) (m : List Byte) (src dst : List Named) : Option Translated :=
  match reserveWritten m presses.length (dst.map fun x => x.2) with
  | none => none
  | some (images, buffer, taken) =>
    let t : Translation := { module := m, sources := src.map fun x => x.2, presses := presses, images := images, buffer := buffer }
    let v := moduleVariants m
    let front := dst.take (dst.length - taken)
    let constants := constantSources m 0 src
    match front with
    | [] => none
    | first :: _ =>
      if first.2.length < 32 * v then none
      else match putVariants t n (constants.length + dst.length) v 0
          { rest := front.map fun x => x.2, used := roundUp (32 * v) 64, writes := [] } with
      | none => none
      | some (parts, l1) =>
      match if (sectionsOf m 3).isEmpty then some ([], l1) else putMaps t (List.range v) l1 with
      | none => none
      | some (maps, l2) =>
        let used := front.take (front.length + 1 - l2.rest.length)
        let list := objectList (constants ++ used) (dst.drop (dst.length - taken))
        let handleAt (at_ : Nat) : Nat := ((front.find? fun x => decide (x.2.base = at_)).map fun x => x.1).getD 0xFFFF
        let entries := parts.zipIdx.flatMap fun x =>
          directoryEntry x.1.1 x.1.2 (list.length / 4) ((maps[x.2]?.map handleAt).getD 0xFFFF)
        some {
          writes := l2.writes ++ (parts.map fun p => (p.2, list)) ++ [(first.2.base, entries)]
          plans := if images.isEmpty then [] else parts.map fun p => p.1.plan }

/-- The result of the checks of a module, in the order of Table 4.14 but that TWIN comes before SPACE (DESIGN CHOICE, log entry 28):
its code, or 0. A module beyond its limits, which Table 4.14 does not name, is refused as corrupt or translated as it stands: which
of the two is free (DESIGN CHOICE, log entry 53). -/
def moduleCheck (s : State) (n : Fin 8) (twin : Bool) (m : List Byte) (src dst : List Named) : Nat :=
  if fieldNat m 0 4 ≠ 0x55544C42 then 0x40
  else if fieldNat m 4 2 ≠ 1 then 0x41
  else if moduleCorrupt m || (!withinLimits m && Config.beyondLimits m) then 0x42
  else if moduleFeature m then 0x43
  else if twin && decide (popCount (s.parcel n).presses < 2) then 0x45
  else if (translation n (slotPresses s n twin) m src dst).isNone then 0x44
  else 0

/-- Firmware writes what a translation made, and keeps the plans of folded programs. -/
def writeTranslation (t : Translated) (s : State) : State :=
  let s1 := foldState (fun w s => fwWrite w.1 w.2 s) t.writes s
  { s1 with fw := { s1.fw with
    folds := (s1.fw.folds.filter fun f => !t.plans.any fun p => p.parcel = f.parcel && p.program = f.program) ++ t.plans } }

/-- MODULE_TRANSLATE's effect. -/
def translateModule (b : List Byte) (s : State) : State × Option (Nat × List Byte) :=
  let p := fieldNat b 16 1
  let n : Fin 8 := Fin.ofNat 8 p
  let sections := fieldNat b 18 1
  let outputs := fieldNat b 19 1
  let from_ := moduleHandles b 0 sections
  let to_ := moduleHandles b sections outputs
  if 7 < p ∨ sections = 0 ∨ outputs = 0 ∨ 116 < sections + outputs then refuse 5 s
  else match objectsOf s p from_, objectsOf s p to_ with
  | some src, some dst =>
    let m := src.flatMap fun o => fwRead s o.base o.length
    let twin := translateTwin s b
    match moduleCheck s n twin m (from_.zip src) (to_.zip dst) with
    | 0 =>
      let v := moduleVariants m
      let s1 := match translation n (slotPresses s n twin) m (from_.zip src) (to_.zip dst) with
        | none => s
        | some t => writeTranslation t s
      (s1, some (0, leBytes 2 v ++ [0, 0] ++ leBytes 4 (32 * v)))
    | code => refuse code s
  | _, _ => refuse 0x32 s

/-- MODULE_TRANSLATE. -/
def execModuleTranslate (pair : Fin 8) (health : ReadHealth) (s : State) : Host.Outcome State Fault Refusal :=
  answerNoting health (serve 0x0040 pair translateModule) s

end Sys2Proof.Machine
end

