-- ==== Sys2Proof/Machine/Dispatch.lean ====
section
/-! DEFINITION. One arm for each command of the table. -/

namespace Sys2Proof.Machine

/-- The effect of a command on everything but the queue. -/
def exec (i : Instr) (s : State) : Host.Outcome State Fault Refusal :=
  match i with
  | .powerOnReset straps => Sys2Proof.Machine.execPowerOnReset straps s
  | .vddAonDrop mv straps => Sys2Proof.Machine.execVddAonDrop mv straps s
  | .deviceReset lowNs straps => Sys2Proof.Machine.execDeviceReset lowNs straps s
  | .bootWatchdog straps => Sys2Proof.Machine.execBootWatchdog straps s
  | .resetDevice who dev key straps => Sys2Proof.Machine.execResetDevice who dev key straps s
  | .autoReset straps => Sys2Proof.Machine.execAutoReset straps s
  | .romStart checksumOk => Sys2Proof.Machine.execRomStart checksumOk s
  | .clocks => Sys2Proof.Machine.execClocks s
  | .hostPort => Sys2Proof.Machine.execHostPort s
  | .source relay => Sys2Proof.Machine.execSource relay s
  | .check => Sys2Proof.Machine.execCheck s
  | .entry => Sys2Proof.Machine.execEntry s
  | .lpddr6 pass channelGiB twoRanks values => Sys2Proof.Machine.execLpddr6 pass channelGiB twoRanks values s
  | .memory => Sys2Proof.Machine.execMemory s
  | .safety pass => Sys2Proof.Machine.execSafety pass s
  | .vine peers => Sys2Proof.Machine.execVine peers s
  | .ready => Sys2Proof.Machine.execReady s
  | .slotConfirm => Sys2Proof.Machine.execSlotConfirm s
  | .hostImageWrite len => Sys2Proof.Machine.execHostImageWrite len s
  | .vineImageRequest => Sys2Proof.Machine.execVineImageRequest s
  | .vineBootService link => Sys2Proof.Machine.execVineBootService link s
  | .eraseSlot who slot => Sys2Proof.Machine.execEraseSlot who slot s
  | .writeSlot who slot => Sys2Proof.Machine.execWriteSlot who slot s
  | .verifySlot who slot => Sys2Proof.Machine.execVerifySlot who slot s
  | .activateSlot who slot => Sys2Proof.Machine.execActivateSlot who slot s
  | .norCommandComplete deviceOk => Sys2Proof.Machine.execNorCommandComplete deviceOk s
  | .pllLockJudged p => Sys2Proof.Machine.execPllLockJudged p s
  | .pllLoss p => Sys2Proof.Machine.execPllLoss p s
  | .pwrAlertAssert => Sys2Proof.Machine.execPwrAlertAssert s
  | .pwrAlertDeassert => Sys2Proof.Machine.execPwrAlertDeassert s
  | .alertHoldExpiry => Sys2Proof.Machine.execAlertHoldExpiry s
  | .arithReturnSwitch => Sys2Proof.Machine.execArithReturnSwitch s
  | .domRunEn who d on => Sys2Proof.Machine.execDomRunEn who d on s
  | .domSleepEn who d on => Sys2Proof.Machine.execDomSleepEn who d on s
  | .domDeepEn who d on => Sys2Proof.Machine.execDomDeepEn who d on s
  | .otpProg who mem vine key => Sys2Proof.Machine.execOtpProg who mem vine key s
  | .clockMonitorWindow tenKhz => Sys2Proof.Machine.execClockMonitorWindow tenKhz s
  | .clkDomain d => Sys2Proof.Machine.execClkDomain d s
  | .refclkLoss silentNs => Sys2Proof.Machine.execRefclkLoss silentNs s
  | .supplySample mv => Sys2Proof.Machine.execSupplySample mv s
  | .supply rail => Sys2Proof.Machine.execSupply rail s
  | .avsStep rail slacks => Sys2Proof.Machine.execAvsStep rail slacks s
  | .avsSettled rail => Sys2Proof.Machine.execAvsSettled rail s
  | .avsTimeout rail => Sys2Proof.Machine.execAvsTimeout rail s
  | .dvfsStep => Sys2Proof.Machine.execDvfsStep s
  | .powerMeasure mv ma => Sys2Proof.Machine.execPowerMeasure mv ma s
  | .capUnreachable => Sys2Proof.Machine.execCapUnreachable s
  | .alertLong => Sys2Proof.Machine.execAlertLong s
  | .thermalSample readings => Sys2Proof.Machine.execThermalSample readings s
  | .vintageReading counts => Sys2Proof.Machine.execVintageReading counts s
  | .guardUpdate => Sys2Proof.Machine.execGuardUpdate s
  | .toppingRampUp parcel => Sys2Proof.Machine.execToppingRampUp parcel s
  | .alarmDelivery => Sys2Proof.Machine.execAlarmDelivery s
  | .forceSafe who safe key => Sys2Proof.Machine.execForceSafe who safe key s
  | .remoteSafe dev => Sys2Proof.Machine.execRemoteSafe dev s
  | .lockstep => Sys2Proof.Machine.execLockstep s
  | .busTimeout stop => Sys2Proof.Machine.execBusTimeout stop s
  | .hartHeartbeat h => Sys2Proof.Machine.execHartHeartbeat h s
  | .hartWdog h => Sys2Proof.Machine.execHartWdog h s
  | .heartbeat => Sys2Proof.Machine.execHeartbeat s
  | .katDue p => Sys2Proof.Machine.execKatDue p s
  | .katTestEnd p crc => Sys2Proof.Machine.execKatTestEnd p crc s
  | .katCompare p => Sys2Proof.Machine.execKatCompare p s
  | .katLate p => Sys2Proof.Machine.execKatLate p s
  | .katFollowUp primary twin crcPrimary crcTwin => Sys2Proof.Machine.execKatFollowUp primary twin crcPrimary crcTwin s
  | .alarmAck who key => Sys2Proof.Machine.execAlarmAck who key s
  | .safetyConfigWrite who kat value => Sys2Proof.Machine.execSafetyConfigWrite who kat value s
  | .freeze who key => Sys2Proof.Machine.execFreeze who key s
  | .thaw who key => Sys2Proof.Machine.execThaw who key s
  | .logTake => Sys2Proof.Machine.execLogTake s
  | .commitGo who page => Sys2Proof.Machine.execCommitGo who page s
  | .commitCancel who page => Sys2Proof.Machine.execCommitCancel who page s
  | .commitApply page unit => Sys2Proof.Machine.execCommitApply page unit s
  | .errClear who page => Sys2Proof.Machine.execErrClear who page s
  | .registerWrite who page word value => Sys2Proof.Machine.execRegisterWrite who page word value s
  | .counterLoRead page word => Sys2Proof.Machine.execCounterLoRead page word s
  | .reservedRead offset => Sys2Proof.Machine.execReservedRead offset s
  | .cntClear who page => Sys2Proof.Machine.execCntClear who page s
  | .acctClear who => Sys2Proof.Machine.execAcctClear who s
  | .invalVpn who vpn => Sys2Proof.Machine.execInvalVpn who vpn s
  | .invalAll who => Sys2Proof.Machine.execInvalAll who s
  | .maxPixelsWrite who value => Sys2Proof.Machine.execMaxPixelsWrite who value s
  | .pressFailedSet p => Sys2Proof.Machine.execPressFailedSet p s
  | .resumeGo q => Sys2Proof.Machine.execResumeGo q s
  | .irqAck w value => Sys2Proof.Machine.execIrqAck w value s
  | .hostRead ch row bank col len => Sys2Proof.Machine.execHostRead ch row bank col len s
  | .hostWrite ch row bank col data ecc => Sys2Proof.Machine.execHostWrite ch row bank col data ecc s
  | .forwardedWriteApply offset data => Sys2Proof.Machine.execForwardedWriteApply offset data s
  | .modeRegisterWrite ch mr value => Sys2Proof.Machine.execModeRegisterWrite ch mr value s
  | .modeRegisterRead ch mr => Sys2Proof.Machine.execModeRegisterRead ch mr s
  | .writeFifo ch data => Sys2Proof.Machine.execWriteFifo ch data s
  | .readFifo ch => Sys2Proof.Machine.execReadFifo ch s
  | .hostTraining ch kind => Sys2Proof.Machine.execHostTraining ch kind s
  | .hostRefresh ch allBanks => Sys2Proof.Machine.execHostRefresh ch allBanks s
  | .powerDownEntry ch => Sys2Proof.Machine.execPowerDownEntry ch s
  | .powerDownExit ch => Sys2Proof.Machine.execPowerDownExit ch s
  | .selfRefreshEntry ch => Sys2Proof.Machine.execSelfRefreshEntry ch s
  | .deepSleepModeEntry ch => Sys2Proof.Machine.execDeepSleepModeEntry ch s
  | .selfRefreshExit ch => Sys2Proof.Machine.execSelfRefreshExit ch s
  | .deepSleepModeExit ch => Sys2Proof.Machine.execDeepSleepModeExit ch s
  | .echoPush unit => Sys2Proof.Machine.execEchoPush unit s
  | .echoApply dev unit data event => Sys2Proof.Machine.execEchoApply dev unit data event s
  | .submitWordWrite q => Sys2Proof.Machine.execSubmitWordWrite q s
  | .commandCheck q health => Sys2Proof.Machine.execCommandCheck q health s
  | .commandStart q => Sys2Proof.Machine.execCommandStart q s
  | .commandCommit q seq => Sys2Proof.Machine.execCommandCommit q seq s
  | .corkAppend q => Sys2Proof.Machine.execCorkAppend q s
  | .pressProgram q seq => Sys2Proof.Machine.execPressProgram q seq s
  | .window mismatch health => Sys2Proof.Machine.execWindow mismatch health s
  | .detect mismatch health => Sys2Proof.Machine.execDetect mismatch health s
  | .fold mismatch health => Sys2Proof.Machine.execFold mismatch health s
  | .lookup mismatch health => Sys2Proof.Machine.execLookup mismatch health s
  | .intake mismatch health => Sys2Proof.Machine.execIntake mismatch health s
  | .capture q seq => Sys2Proof.Machine.execCapture q seq s
  | .copy q seq health => Sys2Proof.Machine.execCopy q seq health s
  | .hevcEncode q seq cycles health => Sys2Proof.Machine.execHevcEncode q seq cycles health s
  | .hevcDecode q seq cycles health => Sys2Proof.Machine.execHevcDecode q seq cycles health s
  | .h264Decode q seq cycles health => Sys2Proof.Machine.execH264Decode q seq cycles health s
  | .jpegEncode q seq cycles health => Sys2Proof.Machine.execJpegEncode q seq cycles health s
  | .barrier q seq => Sys2Proof.Machine.execBarrier q seq s
  | .objectFree q seq => Sys2Proof.Machine.execObjectFree q seq s
  | .marker q seq => Sys2Proof.Machine.execMarker q seq s
  | .matmul p stalls health => Sys2Proof.Machine.execMatmul p stalls health s
  | .eltwise p stalls health => Sys2Proof.Machine.execEltwise p stalls health s
  | .dma p => Sys2Proof.Machine.execDma p s
  | .wait p => Sys2Proof.Machine.execWait p s
  | .engine p heldCycles => Sys2Proof.Machine.execEngine p heldCycles s
  | .rack p => Sys2Proof.Machine.execRack p s
  | .endStream p => Sys2Proof.Machine.execEndStream p s
  | .weightTileLoaded p health => Sys2Proof.Machine.execWeightTileLoaded p health s
  | .outputTileDrainEnd p twinCrc => Sys2Proof.Machine.execOutputTileDrainEnd p twinCrc s
  | .waitSatisfied p heldCycles => Sys2Proof.Machine.execWaitSatisfied p heldCycles s
  | .waitTimeout p heldCycles => Sys2Proof.Machine.execWaitTimeout p heldCycles s
  | .dmaIterationComplete p job health => Sys2Proof.Machine.execDmaIterationComplete p job health s
  | .childComplete e => Sys2Proof.Machine.execChildComplete e s
  | .killComplete q seq => Sys2Proof.Machine.execKillComplete q seq s
  | .pressSleep u => Sys2Proof.Machine.execPressSleep u s
  | .caskScrub p bank found => Sys2Proof.Machine.execCaskScrub p bank found s
  | .cellarScrub bank found => Sys2Proof.Machine.execCellarScrub bank found s
  | .sramUncorrectable q seq place agent => Sys2Proof.Machine.execSramUncorrectable q seq place agent s
  | .dramUncorrectable q seq va acc agent inTable => Sys2Proof.Machine.execDramUncorrectable q seq va acc agent inTable s
  | .translationFault q seq va acc agent => Sys2Proof.Machine.execTranslationFault q seq va acc agent s
  | .patrolScrub found => Sys2Proof.Machine.execPatrolScrub found s
  | .pageMigration vpn health => Sys2Proof.Machine.execPageMigration vpn health s
  | .odeccPoll counts => Sys2Proof.Machine.execOdeccPoll counts s
  | .phyCalibrationStep ch margin => Sys2Proof.Machine.execPhyCalibrationStep ch margin s
  | .trainingValueSave values => Sys2Proof.Machine.execTrainingValueSave values s
  | .lpddr6Refresh ch bank => Sys2Proof.Machine.execLpddr6Refresh ch bank s
  | .dramTemperatureRead ch rank code => Sys2Proof.Machine.execDramTemperatureRead ch rank code s
  | .sliceEnd parcel => Sys2Proof.Machine.execSliceEnd parcel s
  | .rackStop q seq => Sys2Proof.Machine.execRackStop q seq s
  | .rackWaitExpiry q seq => Sys2Proof.Machine.execRackWaitExpiry q seq s
  | .switchComplete q seq slotError health => Sys2Proof.Machine.execSwitchComplete q seq slotError health s
  | .mailboxWordWrite pair => Sys2Proof.Machine.execMailboxWordWrite pair s
  | .hello pair => Sys2Proof.Machine.execHello pair s
  | .parcelCreate pair => Sys2Proof.Machine.execParcelCreate pair s
  | .parcelDestroy pair => Sys2Proof.Machine.execParcelDestroy pair s
  | .queueCreate pair => Sys2Proof.Machine.execQueueCreate pair s
  | .queueDestroy pair => Sys2Proof.Machine.execQueueDestroy pair s
  | .objectCreate pair => Sys2Proof.Machine.execObjectCreate pair s
  | .objectClearPoison pair => Sys2Proof.Machine.execObjectClearPoison pair s
  | .moduleTranslate pair health => Sys2Proof.Machine.execModuleTranslate pair health s
  | .echoSet pair => Sys2Proof.Machine.execEchoSet pair s
  | .streamOpen pair => Sys2Proof.Machine.execStreamOpen pair s
  | .streamClose pair => Sys2Proof.Machine.execStreamClose pair s
  | .pipeCommit pair => Sys2Proof.Machine.execPipeCommit pair s
  | .pressFail pair => Sys2Proof.Machine.execPressFail pair s
  | .linkRetrain pair => Sys2Proof.Machine.execLinkRetrain pair s
  | .collective pair => Sys2Proof.Machine.execCollective pair s
  | .muxOpen pair => Sys2Proof.Machine.execMuxOpen pair s
  | .muxSubmit pair => Sys2Proof.Machine.execMuxSubmit pair s
  | .muxClose pair => Sys2Proof.Machine.execMuxClose pair s
  | .fwLoad pair => Sys2Proof.Machine.execFwLoad pair s
  | .fwSwap pair => Sys2Proof.Machine.execFwSwap pair s
  | .fwSwapStall handoffOk stallUs => Sys2Proof.Machine.execFwSwapStall handoffOk stallUs s
  | .attest pair => Sys2Proof.Machine.execAttest pair s
  | .flitReceive link flit => Sys2Proof.Machine.execFlitReceive link flit s
  | .replayRequest link lseq => Sys2Proof.Machine.execReplayRequest link lseq s
  | .linkSilenceTimeout link => Sys2Proof.Machine.execLinkSilenceTimeout link s
  | .linkRetrainDone dev link ok => Sys2Proof.Machine.execLinkRetrainDone dev link ok s
  | .topologyDiscovery => Sys2Proof.Machine.execTopologyDiscovery s
  | .probeReturn sentOn returnedOn hops => Sys2Proof.Machine.execProbeReturn sentOn returnedOn hops s
  | .probeTimeout link => Sys2Proof.Machine.execProbeTimeout link s
  | .timeSyncSend => Sys2Proof.Machine.execTimeSyncSend s
  | .timeSyncReceive leadTime routeDelayNs => Sys2Proof.Machine.execTimeSyncReceive leadTime routeDelayNs s
  | .barrierArrival dev ident gen => Sys2Proof.Machine.execBarrierArrival dev ident gen s
  | .releaseTimeReceive ident gen tRel => Sys2Proof.Machine.execReleaseTimeReceive ident gen tRel s
  | .barrierRelease ident => Sys2Proof.Machine.execBarrierRelease ident s
  | .barrierTimeout ident => Sys2Proof.Machine.execBarrierTimeout ident s
  | .barrierAbort ident gen => Sys2Proof.Machine.execBarrierAbort ident gen s
  | .collectiveComplete inputs => Sys2Proof.Machine.execCollectiveComplete inputs s
  | .collectiveTimeout => Sys2Proof.Machine.execCollectiveTimeout s
  | .frameStart n vc frame headerCorrected => Sys2Proof.Machine.execFrameStart n vc frame headerCorrected s
  | .frameEnd n vc headerCorrected => Sys2Proof.Machine.execFrameEnd n vc headerCorrected s
  | .linePacket n pkt => Sys2Proof.Machine.execLinePacket n pkt s
  | .otherPacket n kind => Sys2Proof.Machine.execOtherPacket n kind s
  | .frameTimeout n => Sys2Proof.Machine.execFrameTimeout n s
  | .captureTimeout n => Sys2Proof.Machine.execCaptureTimeout n s
  | .ulpsEntry n => Sys2Proof.Machine.execUlpsEntry n s
  | .ulpsExit n => Sys2Proof.Machine.execUlpsExit n s
  | .deskewSequence n => Sys2Proof.Machine.execDeskewSequence n s
  | .fastRetrainDone ch values => Sys2Proof.Machine.execFastRetrainDone ch values s
  | .arithSlewComplete => Sys2Proof.Machine.execArithSlewComplete s
  | .clearingComplete parcel => Sys2Proof.Machine.execClearingComplete parcel s
  | .signingComplete => Sys2Proof.Machine.execSigningComplete s

end Sys2Proof.Machine
end

