-- ==== Sys2Proof/WellFormed.lean ====
section
/-! DEFINITION. Which commands are well formed: the lists that a command carries have the lengths that the device's events
have. Every other command is well formed as it stands. -/

namespace Sys2Proof

/-- Critical-path monitors of a core rail (R634). -/
def slackMonitors (rail : Fin 3) : Nat := match rail.val with
  | 0 => 16
  | 1 => 6
  | _ => 2

/-- A burst of 1 to 64 bytes stays in one aligned block of 64 bytes (R437: forward queue entries hold up to 64 bytes). -/
def inBlock (first n : Nat) : Bool := decide (0 < n) && decide (first % 64 + n ≤ 64)

/-- Well-formedness of a command. -/
def Instr.wf (i : Instr) : Bool :=
  match i with
  | .lpddr6 _ channelGiB _ _ => decide (channelGiB.length = 16)
  | .vine peers => decide (peers.length = 4)
  | .clockMonitorWindow tenKhz => decide (tenKhz.length = 9)
  | .supplySample mv => decide (mv.length = 8)
  | .avsStep rail slacks => decide (slacks.length = slackMonitors rail)
  | .powerMeasure mv ma => decide (mv.length = 3) && decide (ma.length = 3)
  | .thermalSample readings => decide (readings.length = 32)
  | .vintageReading counts => decide (counts.length = 48)
  | .hostRead _ _ _ col len => inBlock col.toNat len
  | .hostWrite _ _ _ col data _ => inBlock col.toNat data.length
  | .forwardedWriteApply offset data => inBlock offset.toNat data.length
  | .echoApply _ _ data _ => decide (data.length = 32)
  | .odeccPoll counts => decide (counts.length = 16)
  | .flitReceive _ flit => decide (flit.length = 256)
  | .powerOnReset _ | .vddAonDrop _ _ | .deviceReset _ _ | .bootWatchdog _ | .resetDevice _ _ _ _ | .autoReset _
  | .romStart _ | .clocks | .hostPort | .source _ | .check | .entry | .memory | .safety _ | .ready | .slotConfirm
  | .hostImageWrite _ | .vineImageRequest | .vineBootService _ | .eraseSlot _ _ | .writeSlot _ _ | .verifySlot _ _
  | .activateSlot _ _ | .norCommandComplete _ | .pllLockJudged _ | .pllLoss _ | .pwrAlertAssert | .pwrAlertDeassert
  | .alertHoldExpiry | .arithReturnSwitch | .domRunEn _ _ _ | .domSleepEn _ _ _ | .domDeepEn _ _ _ | .otpProg _ _ _ _
  | .clkDomain _ | .refclkLoss _ | .supply _ | .avsSettled _ | .avsTimeout _ | .dvfsStep | .capUnreachable | .alertLong
  | .guardUpdate | .toppingRampUp _ | .alarmDelivery | .forceSafe _ _ _ | .remoteSafe _ | .lockstep | .busTimeout _
  | .hartHeartbeat _ | .hartWdog _ | .heartbeat | .katDue _ | .katTestEnd _ _ | .katCompare _ | .katLate _
  | .katFollowUp _ _ _ _ | .alarmAck _ _ | .safetyConfigWrite _ _ _ | .freeze _ _ | .thaw _ _ | .logTake
  | .commitGo _ _ | .commitCancel _ _ | .commitApply _ _ | .errClear _ _ | .registerWrite _ _ _ _ | .counterLoRead _ _
  | .reservedRead _ | .cntClear _ _ | .acctClear _ | .invalVpn _ _ | .invalAll _ | .maxPixelsWrite _ _
  | .pressFailedSet _ | .resumeGo _ | .irqAck _ _ | .modeRegisterWrite _ _ _ | .modeRegisterRead _ _ | .writeFifo _ _
  | .readFifo _ | .hostTraining _ _ | .hostRefresh _ _ | .powerDownEntry _ | .powerDownExit _ | .selfRefreshEntry _
  | .deepSleepModeEntry _ | .selfRefreshExit _ | .deepSleepModeExit _ | .echoPush _ | .submitWordWrite _
  | .commandCheck _ _ | .commandStart _ | .commandCommit _ _ | .corkAppend _ | .pressProgram _ _ | .window _ _ | .detect _ _
  | .fold _ _ | .lookup _ _ | .intake _ _ | .capture _ _ | .copy _ _ _ | .hevcEncode _ _ _ _ | .hevcDecode _ _ _ _
  | .h264Decode _ _ _ _ | .jpegEncode _ _ _ _ | .barrier _ _ | .objectFree _ _ | .marker _ _ | .matmul _ _ _ | .eltwise _ _ _
  | .dma _ | .wait _ | .engine _ _ | .rack _ | .endStream _ | .weightTileLoaded _ _ | .outputTileDrainEnd _ _
  | .waitSatisfied _ _ | .waitTimeout _ _ | .dmaIterationComplete _ _ _ | .childComplete _ | .killComplete _ _
  | .pressSleep _ | .caskScrub _ _ _ | .cellarScrub _ _ | .sramUncorrectable _ _ _ _ | .dramUncorrectable _ _ _ _ _ _
  | .translationFault _ _ _ _ _ | .patrolScrub _ | .pageMigration _ _ | .phyCalibrationStep _ _ | .trainingValueSave _
  | .lpddr6Refresh _ _ | .dramTemperatureRead _ _ _ | .sliceEnd _ | .rackStop _ _ | .rackWaitExpiry _ _
  | .switchComplete _ _ _ _ | .mailboxWordWrite _ | .hello _ | .parcelCreate _ | .parcelDestroy _ | .queueCreate _
  | .queueDestroy _ | .objectCreate _ | .objectClearPoison _ | .moduleTranslate _ _ | .echoSet _ | .streamOpen _
  | .streamClose _ | .pipeCommit _ | .pressFail _ | .linkRetrain _ | .collective _ | .muxOpen _ | .muxSubmit _
  | .muxClose _ | .fwLoad _ | .fwSwap _ | .fwSwapStall _ _ | .attest _ | .replayRequest _ _ | .linkSilenceTimeout _
  | .linkRetrainDone _ _ _ | .topologyDiscovery | .probeReturn _ _ _ | .probeTimeout _ | .timeSyncSend
  | .timeSyncReceive _ _ | .barrierArrival _ _ _ | .releaseTimeReceive _ _ _ | .barrierRelease _ | .barrierTimeout _
  | .barrierAbort _ _ | .collectiveComplete _ | .collectiveTimeout | .frameStart _ _ _ _ | .frameEnd _ _ _
  | .linePacket _ _ | .otherPacket _ _ | .frameTimeout _ | .captureTimeout _ | .ulpsEntry _ | .ulpsExit _
  | .deskewSequence _ | .fastRetrainDone _ _ | .arithSlewComplete | .clearingComplete _ | .signingComplete => true

end Sys2Proof
end

