-- ==== Sys2Proof/Safety.lean ====
section
/-! DEFINITION. What claims about the device are stated in: the invariants that every step keeps, and the groups of
registers that a reset sets. -/

namespace Sys2Proof.Machine

/-- Every waiting command carries lists of the lengths that the device's events have. -/
def QueueWf (s : State) : Prop := ∀ c ∈ s.pending, c.wf = true

/-- A press's three stores have the canonical form. -/
def PressMemoriesWf (p : Press) : Prop :=
  p.cask.wf = true ∧ p.accumulators.wf = true ∧ p.sideStore.wf = true

/-- Every memory of the device has the canonical form: device memory, the Cellar, the window SRAM, and each press's Cask
and accumulator store. -/
def MemoriesWf (s : State) : Prop :=
  s.dram.wf = true ∧ s.cellar.mem.wf = true ∧ s.port.window.wf = true ∧ ∀ p : Fin 16, PressMemoriesWf (s.press p)

/-- R576: outside retained storage, fuses, flash, straps and pins, every register of the device stands at its reset value
(memories, whose contents the spec leaves undefined at a device reset, apart). -/
def RegistersAtReset (t : State) : Prop :=
  t.time = 0 ∧ t.pages = State.reset.pages ∧ t.clocks = State.reset.clocks ∧ t.power = State.reset.power ∧
  { t.thermal with throttleC := 120 } = State.reset.thermal ∧ t.ageing = State.reset.ageing ∧
  t.safety = State.reset.safety ∧ t.diag = State.reset.diag ∧
  { t.port with window := Mem.empty } = State.reset.port ∧ t.queues = State.reset.queues ∧ t.objects = [] ∧
  (∀ p : Fin 16, { t.press p with cask := Mem.empty, accumulators := Mem.empty, sideStore := Mem.empty } = ({} : Press)) ∧
  t.engines = State.reset.engines ∧ t.intake = State.reset.intake ∧ t.codec = State.reset.codec ∧
  t.pipes = State.reset.pipes ∧ t.mmu = State.reset.mmu ∧ t.memctl = State.reset.memctl ∧
  { t.cellar with mem := Mem.empty } = State.reset.cellar ∧ t.vine = State.reset.vine ∧
  t.parcels = State.reset.parcels ∧ t.acct = State.reset.acct ∧ t.fw = State.reset.fw ∧ t.heartbeat = 0 ∧
  t.checking = [] ∧ t.checkTurn = 255 ∧ t.lanes = Vector.replicate 4 0

/-- Retained storage (R576), the fuses and the boot flash stand as before. -/
def RetainedKept (s t : State) : Prop :=
  t.book = s.book ∧ t.failed = s.failed ∧ t.fuses = s.fuses ∧ t.flash = s.flash

/-- A step of the start may begin: the device is not halted or in the safe state, and the step is the next one. -/
def StepIsNext (n : Nat) (s : State) : Prop :=
  s.boot.halted = false ∧ s.safety.safe = false ∧ s.boot.nextStep = n

/-- The source that step SOURCE tries now (R586). -/
def sourceNow (s : State) : Nat := (bootOrder s).getD s.bootRec.sourcePos 2

/-- The bytes that a host which writes LEN `n` has left in the staging SRAM (R588). -/
def hostImage (s : State) (n : BitVec 21) : List Byte := s.port.window.readBytes stagingBase (min n.toNat 1048576)

/-- The device has put message `m` on a link, after all that it put there before. -/
def Sent (s t : State) (m : VineMsg) : Prop :=
  t.vine.outbox.take (s.vine.outbox.length + 1) = s.vine.outbox ++ [m]

/-- The configuration and image that the device serves (R589): those of its own source, or those it was relayed. -/
def bootService (s : State) : List Byte × List Byte :=
  match if s.bootRec.source = 3 then none else fetchSource s s.bootRec.source.toNat s.bootRec.slot with
  | none => (s.boot.config, s.boot.image)
  | some x => (x.1, x.2.1)

/-- The device after a NOR command is written (R600, Table 16.7): refused while one is in progress or while its precondition does
not hold, else in progress. -/
def norWritten (s : State) (job : NorJob) : State :=
  { s with boot :=
    if s.boot.norJob.isSome then { s.boot with norResult := 1 }
    else match norRefusal s job with
      | some r => { s.boot with norResult := r }
      | none => { s.boot with norJob := some job } }

/-- The slot that a NOR command works on. -/
def NorJob.slot : NorJob → Fin 2
  | .erase x | .write x _ _ | .verify x | .activate x => x

/-- A NOR command has been performed on a flash that works (Table 16.7). -/
def NorDone (s : State) (job : NorJob) (t : State) : Prop :=
  t = { s with boot := t.boot, flash := t.flash } ∧ t.boot = { s.boot with norJob := none, norResult := t.boot.norResult } ∧
  vget t.flash.slots (otherSlot job.slot) = vget s.flash.slots (otherSlot job.slot) ∧
  match job with
  | .erase x => t.boot.norResult = 0 ∧ slotState t.flash x = 0 ∧ (vget t.flash.slots x).image = [] ∧
      t.flash.journal = s.flash.journal
  | .write x src len => t.boot.norResult = 0 ∧ slotState t.flash x = 1 ∧ (vget t.flash.slots x).length = len ∧
      (vget t.flash.slots x).image = s.port.window.readBytes (stagingBase + src) len ∧
      (vget t.flash.slots x).crc = crc32 (vget t.flash.slots x).image ∧ t.flash.journal = s.flash.journal
  | .verify x => if imageFault s.fuses (vget s.flash.slots x).image = none ∧
        crc32 (vget s.flash.slots x).image = (vget s.flash.slots x).crc
      then t.boot.norResult = 0 ∧ slotState t.flash x = 2 ∧ t.flash.journal = s.flash.journal
      else t.boot.norResult = 3 ∧ t.flash = s.flash
  | .activate x => t.boot.norResult = 0 ∧ slotState t.flash x = 3 ∧
      ∃ seq, t.flash.journal = s.flash.journal ++ [{ seq := seq, slot := decide (x = 1), trial := true }]

/-- A write of a control page by a writer takes effect (R427, R673): its hart runs, and a host write finds the page open in the
safe state. -/
def Writes (who : Writer) (p : Nat) (s : State) : Prop :=
  writerActs who s = true ∧ (who = .host → s.safety.safe = false ∨ safePage p = true)

/-- A channel of the lead's host port answers and is awake, the device is not in the safe state, and link ECC finds nothing that it
cannot correct. -/
def HostReaches (s : State) (ch : Fin 2) (ecc : LinkEcc) : Prop :=
  portAnswers s ch = true ∧ s.safety.safe = false ∧ (writeEcc s ch = false ∨ ecc ≠ .uncorrectable)

/-- Is a slot offset of staging SRAM in a range that a command which has started and not retired writes (R433, R467)? -/
def Unsettled (s : State) (off : Nat) : Prop := ∃ r ∈ unsettledStaging s, r.1 ≤ off ∧ off < r.1 + r.2

/-- Window address of a host command (R419, R420). -/
def hostWindow (s : State) (ch : Fin 2) (row : BitVec 17) (bank : BitVec 4) (col : BitVec 11) : Nat :=
  windowAddress s.straps.hostIlv ch (channelOffset row bank col.toNat)

/-- The device `t` after the corrections that the reads of a step reported have been counted (R251, R378, R380); `s` is the device
before the step. -/
def noted (h : ReadHealth) (s t : State) : State := { noteHealth h t with pending := s.pending }

/-- The phase that the end of a command brings (R461, R470): ended, or due while its queue holds 64 corks. -/
def endPhase (s : State) (q : Fin 256) (seq : Word) (status : Byte) (data : Long) : Phase :=
  if mayEnd (s.queue q) seq then .ended status data else .due status data

/-- The command of a queue that starts or resumes next (R146, R460, R462 to R464, R490, R491): the first of those that its order
allows whose block accepts it, or that ends because it needs a failed press. -/
def startsNext (s : State) (q : Fin 256) : Option Cmd :=
  if mayStart s q then (startable (s.queue q)).find? fun c => (failedNeed s q c).isSome || blockAccepts s q c else none

/-- The accesses of a COPY command of a queue. -/
def copyCx (s : State) (q : Fin 256) : Cx := { parcel := s.parcelOf q, agent := agentCopy, own := none, queue := some q }

/-- The device after the transfer of a COPY command, and the fault that stopped it, if one did (R182). -/
def copied (s : State) (q : Fin 256) (c : Cmd) : State × Option Stop :=
  copyView (copyCx s q) (queueLane q) (opAt c.operands 0) (opAt c.operands 1) s

/-- The accesses of a press's DMA. -/
def dmaCx (s : State) (p : Fin 16) (k : Sequencer) : Cx :=
  { parcel := s.parcelOf k.queue, agent := p.val, own := none, queue := some k.queue }

/-- The device after the next iteration of a press's DMA, and the fault that stopped it, if one did (R173). -/
def moved (s : State) (p : Fin 16) (k : Sequencer) (j : DmaJob) : State × Option Stop :=
  dmaIteration (dmaCx s p k) (pressLane p) j.src j.dst j.rows
    (j.src.coordsAt (nestIndex (j.counts.take j.depth) j.next)) (j.dst.coordsAt (nestIndex (j.counts.take j.depth) j.next))
    (beginTransfer p j s)

/-- The instruction of an opcode that a press issues now, and the device in which it issues: the device as it stands, or, where a
folded program swaps slots before the instruction, the device after the swaps, once the part that ends has come to rest (R190). -/
def issuing (s : State) (p : Fin 16) (opcode : Nat) : Option ((Cmd × Sequencer × PressInstr) × State) :=
  match issueOf s p opcode with
  | none => none
  | some (c, k, i) =>
    match swapsDue c p k with
    | [] => some ((c, k, i), s)
    | w :: rest =>
      if !k.jobs.isEmpty || !k.drains.isEmpty || k.children ≠ 0 then none
      else match foldExcept (swapSlots (pressCx s k.queue p) p) (w :: rest) s with
      | .error _ => none
      | .ok s1 => (issueOf s1 p opcode).map fun x => (x, s1)

/-- A command is killed with a fault: its phase and its presses say so until they are idle (R131, R133). -/
def Killed (k : Sequencer) (p : Fin 16) (e : Stop) (t : State) : Prop :=
  (t.cmd k.queue k.seq).map (·.phase) = some (.killing e.status e.data) ∧ (t.press p).mode = .killing

/-- The five counters of a press after an instruction whose nest took cycles `spans` (Table 3.6). -/
def Counted (spans : List CycleSpan) (cause : Option Cause) (st : Stalls) (x y : Press) : Prop :=
  y.busy = x.busy + BitVec.ofNat 64 (countSpans spans .busy cause) ∧
  y.stallWeight = x.stallWeight + BitVec.ofNat 64 (countSpans spans .weight cause) + BitVec.ofNat 64 st.weight ∧
  y.stallDrain = x.stallDrain + BitVec.ofNat 64 (countSpans spans .drain cause) + BitVec.ofNat 64 st.drain ∧
  y.stallOutlier = x.stallOutlier + BitVec.ofNat 64 (countSpans spans .outlier cause) ∧
  y.stallOperand = x.stallOperand + BitVec.ofNat 64 st.operand

/-- A command that a block failed, with the fault that did it: a PRESS_PROGRAM command is killed, and one of another kind, or one that
is suspended, has ended or, while 64 corks are held, is due to (R131, R249, R262, R470). -/
def Failed (s : State) (q : Fin 256) (seq : Word) (e : Stop) (t : State) : Prop :=
  ∀ c, s.cmd q seq = some c → c.phase.killable = true →
    (c.kind = 1 → (∀ k, c.phase ≠ .suspended k) → (t.cmd q seq).map (·.phase) = some (.killing e.status e.data)) ∧
    ((c.kind ≠ 1 ∨ ∃ k, c.phase = .suspended k) →
      (t.cmd q seq).map (·.phase) = some (endPhase s q seq e.status e.data))

/-- What serving engine `e` leaves of its own registers and lists: the job is gone from the list, it was its parcel's turn, and the
cycles of R264 count as busy, twice for a twinned command. -/
def TurnTaken (e : Fin 6) (s : State) (j : EngineJob) (cycles : Nat) (t : State) : Prop :=
  (t.engine e).lastParcel = j.parcel ∧
  (t.engine e).busy = (s.engine e).busy + BitVec.ofNat 64 ((if j.twinned then 2 else 1) * (100 + cycles))

/-- The end of an engine command that met no fault: its writes `ws` are made, it counts as work, and it has completed its
writes or waits as a child to be signalled (R255, R262). -/
def EngineServed (e : Fin 6) (s : State) (j : EngineJob) (ws : List (Loc × List Byte)) (t : State) : Prop :=
  (t.engine e).work = (s.engine e).work + 1 ∧ (t.engine e).waiting = dropJob j.parcel (s.engine e).waiting ∧
  (t.engine e).done = (s.engine e).done ++ (if j.press.isSome then [j] else []) ∧
  t.dram = (s.writeLocs ws).dram ∧ t.cellar = (s.writeLocs ws).cellar ∧ t.port = (s.writeLocs ws).port ∧
  (∀ p : Fin 16, (t.press p).cask = ((s.writeLocs ws).press p).cask) ∧
  (j.press = none → (s.cmd j.queue j.seq).isSome = true → (t.cmd j.queue j.seq).map (·.phase) = some (.written 0 0))

/-- The end of an engine command that failed with `x`: LAST_FAIL names it, its own or its parent's command fails (R262). -/
def EngineFailed (e : Fin 6) (s : State) (j : EngineJob) (x : Stop) (t : State) : Prop :=
  (t.engine e).failStatus = x.status ∧ (t.engine e).failParcel = BitVec.ofFin j.parcel ∧ Failed s j.queue j.seq x t

/-- What the row `c` of engine `e` does on every path: it runs the engine's next command to its end, as `run` and `cycles` say
(R255, R262, R264), or finds that it fails, or, twinned with another outcome at its twin, that the two differ (R263); with no command
waiting, with an access that is held, and in the safe state nothing changes but the count `h` of what its reads reported. -/
def EngineActs (e : Fin 6) (mismatch : Bool) (h : ReadHealth) (run : EngineJob → State → EngineRun)
    (cycles : EngineJob → State → Nat) (c : Instr) : Prop :=
  (∀ (s : State) (j : EngineJob) (ws : List (Loc × List Byte)), s.safety.safe = false → nextJob (s.engine e) = some j →
    run j s = (ws, none) → (mismatch && j.twinned) = false → ∃ t, exec c s = .next (noted h s t) ∧
    TurnTaken e s j (cycles j s) t ∧ EngineServed e s j ws t) ∧
  (∀ (s : State) (j : EngineJob) (ws : List (Loc × List Byte)), s.safety.safe = false → nextJob (s.engine e) = some j →
    run j s = (ws, none) → (mismatch && j.twinned) = true → ∃ t, exec c s = .next (noted h s t) ∧
    TurnTaken e s j (cycles j s) t ∧ EngineFailed e s j (stopTwinEngine e.val) t ∧ (t.engine e).work = (s.engine e).work ∧
    (t.engine e).twinFail = satInc (s.engine e).twinFail 1 ∧
    (vget t.safety.slots (Fin.ofNat 134 (0x5C + e.val))).raised =
      satInc (vget s.safety.slots (Fin.ofNat 134 (0x5C + e.val))).raised 1) ∧
  (∀ (s : State) (j : EngineJob) (ws : List (Loc × List Byte)) (x : Stop), s.safety.safe = false →
    nextJob (s.engine e) = some j → run j s = (ws, some x) → x.held = false → ∃ t, exec c s = .next (noted h s t) ∧
    TurnTaken e s j (cycles j s) t ∧ EngineFailed e s j x t ∧ (t.engine e).work = (s.engine e).work) ∧
  (∀ s : State, (s.safety.safe = true ∨ nextJob (s.engine e) = none ∨
      ∃ j ws x, nextJob (s.engine e) = some j ∧ run j s = (ws, some x) ∧ x.held = true) →
    exec c s = .next (noted h s s))

/-- The batch of an Intake command that the Intake takes (R340). -/
def batchOf (s : State) (j : EngineJob) : State × IntakeRun × Option Stop :=
  intakeBatch (engineCx 4 j) j.operands j.params (s.updEngine 4 fun x => { x with
    waiting := dropJob j.parcel x.waiting, lastParcel := j.parcel, asleep := false })

/-- The end of a codec command, whose run is `o`: its writes, its pixels and its phase (R354, R366). -/
def CodecServed (s : State) (q : Fin 256) (seq : Word) (o : CodecOut) (encode : Bool) (t : State) : Prop :=
  t.dram = (s.writeLocs o.run.1).dram ∧ t.cellar = (s.writeLocs o.run.1).cellar ∧ t.port = (s.writeLocs o.run.1).port ∧
  (∀ p : Fin 16, (t.press p).cask = ((s.writeLocs o.run.1).press p).cask) ∧
  (t.cmd q seq).map (·.phase) = some (.written 0 0) ∧
  t.codec.encPixels = s.codec.encPixels + (if encode then BitVec.ofNat 64 o.pixels else 0) ∧
  t.codec.decPixels = s.codec.decPixels + (if encode then 0 else BitVec.ofNat 64 o.pixels) ∧
  t.codec.concealed = (if o.concealed then satInc s.codec.concealed 1 else s.codec.concealed) ∧
  t.codec.failStatus = s.codec.failStatus

/-- A codec command that failed: LAST_FAIL names it, and it ends with the failure's status and DATA (R366). -/
def CodecFailed (s : State) (q : Fin 256) (seq : Word) (stream : Nat) (e : Stop) (t : State) : Prop :=
  t.codec.failStatus = e.status ∧ t.codec.failParcel = BitVec.ofFin (s.parcelOf q) ∧
  t.codec.failStream = BitVec.ofNat 6 stream ∧ t.codec.encPixels = s.codec.encPixels ∧
  t.codec.decPixels = s.codec.decPixels ∧ Failed s q seq e t

/-- What the row `r` of function `f` does on every path with the command that is on its core: it runs to its end (R354), fails, or,
with an access that is held, stays; a command that is on no core or of another function, and the safe state, change nothing but the
count `h`. -/
def CodecActs (f : Nat) (q : Fin 256) (seq cycles : Word) (h : ReadHealth) (r : Instr) : Prop :=
  (∀ (s : State) (c : Cmd) (st : Stream), s.safety.safe = false → s.cmd q seq = some c → c.kind = 5 → c.target = f →
    onCore s q seq = true → lookupKey s.codec.streams (fieldNat c.params 0 1) = some st →
    ((codecOut f s (codecCx s q) st c cycles.toNat).run.2 = none → ∃ t, exec r s = .next (noted h s t) ∧
      CodecServed s q seq (codecOut f s (codecCx s q) st c cycles.toNat) (isEncode f) t) ∧
    (∀ e, (codecOut f s (codecCx s q) st c cycles.toNat).run.2 = some e → e.held = false →
      ∃ t, exec r s = .next (noted h s t) ∧ CodecFailed s q seq (fieldNat c.params 0 1) e t) ∧
    (∀ e, (codecOut f s (codecCx s q) st c cycles.toNat).run.2 = some e → e.held = true →
      exec r s = .next (noted h s s))) ∧
  (∀ (s : State) (c : Cmd), s.safety.safe = false → s.cmd q seq = some c → c.kind = 5 → c.target = f →
    onCore s q seq = true → lookupKey s.codec.streams (fieldNat c.params 0 1) = none →
    ∃ t, exec r s = .next (noted h s t) ∧
      CodecFailed s q seq (fieldNat c.params 0 1) (stopCodec 0 (fieldNat c.params 0 1)) t) ∧
  (∀ s : State, (s.safety.safe = true ∨ onCore s q seq = false ∨
    ∀ c, s.cmd q seq = some c → c.kind ≠ 5 ∨ c.target ≠ f) → exec r s = .next (noted h s s))

/-- The request that a pair's firmware reads next, with every byte beyond its LENGTH 0 (R557, R562). -/
def requestOf (p : Fin 8) (s : State) : List Byte := requestBody ((nextRequest p s).getD [])

/-- The out-area of a pair holds nothing back and has room for a message. -/
def OutReady (p : Fin 8) (s : State) : Prop :=
  (s.pair p).held = [] ∧ outRoom s p = true ∧ 1 ≤ (s.pair p).outSlot ∧ (s.pair p).outSlot ≤ 255

/-- One request of a TYPE waits on a pair, it passes the checks of R561, and its reply can be written at once. -/
def Requested (typ : Nat) (p : Fin 8) (s : State) : Prop :=
  (nextRequest p s).isSome = true ∧ requestCheck s.fw.minor ((nextRequest p s).getD []) = 0 ∧
  fieldNat ((nextRequest p s).getD []) 2 2 = typ ∧ (s.pair p).inTail = (s.pair p).inRead + 1 ∧ OutReady p s

/-- A request's reply is the one message that the step wrote on the pair: TYPE with bit 14, the request's SEQ, the RESULT and
the reply's own fields (R563, Table 15.12), and no reply is owed. -/
def Replied (typ : Nat) (p : Fin 8) (seq : Word) (code : Nat) (fields : List Byte) (s t : State) : Prop :=
  (t.pair p).outTail = (s.pair p).outTail + 1 ∧ (t.pair p).job = none ∧
  t.port.window.readBytes (outArea p + 256 * (s.pair p).outSlot) (24 + fields.length) =
    message t.fw.minor (typ ||| 0x4000) (s.pair p).outTail (leBytes 4 seq.toNat ++ leBytes 2 code ++ [0, 0] ++ fields)

/-- The request is read and answered in one step. -/
def Served (typ : Nat) (p : Fin 8) (code : Nat) (fields : List Byte) (s t : State) : Prop :=
  (t.pair p).inRead = (s.pair p).inRead + 1 ∧ Replied typ p (reqSeq (requestOf p s)) code fields s t

/-- The request is read and its reply is owed. -/
def Owed (p : Fin 8) (job : FwJob) (s t : State) : Prop :=
  (t.pair p).inRead = (s.pair p).inRead + 1 ∧ (t.pair p).job = some job

/-- The request is read and refused with a RESULT, the reply's own fields being 0; but for mailboxes nothing changes. -/
def Refused (typ : Nat) (p : Fin 8) (code : Nat) (s t : State) : Prop :=
  Served typ p code (List.replicate (replyFieldBytes typ) 0) s t ∧ t = { s with port := t.port, fw := t.fw }

/-- Firmware reads no request of a TYPE from a pair: it may read none, or the next one fails the checks of R561 or is of another
TYPE. -/
def Unread (typ : Nat) (p : Fin 8) (s : State) : Prop :=
  ∀ raw, nextRequest p s = some raw → requestCheck s.fw.minor raw ≠ 0 ∨ fieldNat raw 2 2 ≠ typ

/-- The domains that a request gives work to run (R630). -/
def Awake (s : State) (work : List (Fin 9)) : Prop := ∀ d ∈ work, leavesDeep s d = false

/-- A request stays unread and every domain of `work` that is in deep sleep leaves it (R630). -/
def Wakes (p : Fin 8) (s : State) (work : List (Fin 9)) (t : State) : Prop :=
  (∀ d ∈ work, leavesDeep s d = true → (t.dom d).deepEn = false) ∧ t.fw = s.fw ∧ t = { s with clocks := t.clocks } ∧
  (t.pair p).inRead = (s.pair p).inRead

/-- The objects that a MODULE_TRANSLATE request `b` names: those of the module and those of the output; none where one is absent. -/
def translateObjects (s : State) (b : List Byte) : Option (List Named × List Named) :=
  let src := moduleHandles b 0 (fieldNat b 18 1)
  let dst := moduleHandles b (fieldNat b 18 1) (fieldNat b 19 1)
  match objectsOf s (fieldNat b 16 1) src, objectsOf s (fieldNat b 16 1) dst with
  | some x, some y => some (src.zip x, dst.zip y)
  | _, _ => none

/-- Are the numbers of a MODULE_TRANSLATE request within their ranges (Table 15.10)? -/
def translateRanges (b : List Byte) : Prop :=
  fieldNat b 16 1 ≤ 7 ∧ fieldNat b 18 1 ≠ 0 ∧ fieldNat b 19 1 ≠ 0 ∧ fieldNat b 18 1 + fieldNat b 19 1 ≤ 116

/-- The module that a MODULE_TRANSLATE request names in the objects `src`. -/
def moduleOf (s : State) (src : List Obj) : List Byte := src.flatMap fun o => fwRead s o.base o.length

/-- The checks of the module that a MODULE_TRANSLATE request `b` names in the objects `src`, to be translated into `dst`. -/
def translateCheck (s : State) (b : List Byte) (src dst : List Named) : Nat :=
  moduleCheck s (Fin.ofNat 8 (fieldNat b 16 1)) (translateTwin s b) (moduleOf s (src.map fun x => x.2)) src dst

/-- A discovery has failed with the link and result of Table 15.14; once its wait has ended, that is recorded (R524, R585). -/
def ProbeFailed (s : State) (i : Fin 4) (result : Nat) (t : State) : Prop :=
  t.vine.probing = false ∧ t.vine.probeFault = some (i, result) ∧ t.port.devices = s.port.devices ∧
  (waitOver s = true → t.vine.gaveUp = true ∧ (vget t.pages pgVine).errValid = true) ∧
  (waitOver s = false → t.vine.gaveUp = s.vine.gaveUp)

/-- May a probe that returns, sent on a link, be the one that the lead waits for (R524)? -/
def probeAwaited (s : State) (sentOn : Fin 4) : Prop :=
  discovering s = true ∧ s.vine.probing = true ∧ ((sentOn = 0 ∧ s.vine.foundCols = 0) ∨ (sentOn = 2 ∧ s.vine.foundCols ≠ 0))

/-- Has every device of the system arrived at a generation once `dev` has (R533)? -/
def allArrived (s : State) (ident : BitVec 16) (gen : Word) (dev : Nat) : Bool :=
  (List.range s.port.devices.toNat).all fun d => ((s.vine.arrivedAt ident gen ++ [dev]).eraseDups).contains d

/-- What an arrival at device 0 does (R533, R536): it is kept until every device has arrived, which fixes the release time; a counter
that has already passed it releases at once, late. -/
def Arrived (s : State) (ident : BitVec 16) (gen : Word) (dev : Nat) (t : State) : Prop :=
  (allArrived s ident gen dev = false →
    t.vine.arrivedAt ident gen = (s.vine.arrivedAt ident gen ++ [dev]).eraseDups ∧ t.vine.barriers = s.vine.barriers) ∧
  (allArrived s ident gen dev = true → 2 ≤ s.port.devices.toNat → Sent s t (.release ident gen (releaseTime s))) ∧
  (allArrived s ident gen dev = true → ¬ releaseTime s < s.time → t.vine.late = s.vine.late ∧
    t.vine.barriers = s.vine.barriers.map fun x =>
      if x.ident = ident ∧ x.gen = gen then { x with tRel := some (releaseTime s) } else x) ∧
  (∀ x, allArrived s ident gen dev = true → releaseTime s < s.time → s.vine.entry ident gen = some x →
    t.vine.entry ident gen = none ∧ t.vine.late = satInc s.vine.late 1 ∧ t.vine.timingBroken = true)

/-- The BARRIER command of an entry ends with a status (R534, R537). -/
def BarrierEnds (s : State) (b : Barrier) (status : Byte) (data : Long) (t : State) : Prop :=
  t.vine.entry b.ident b.gen = none ∧
  ∀ c, s.cmd b.queue b.seq = some c → c.phase.isEnded = false →
    (t.cmd b.queue b.seq).map (·.phase) = some (endPhase s b.queue b.seq status data)

/-- A port has discarded a packet (R299, R300, R315): it is counted, a corrected header too, and nothing else changes. -/
def PacketDiscarded (n : Fin 16) (corrected : Bool) (s t : State) : Prop :=
  (t.pipe n).otherPkt = (s.pipe n).otherPkt + 1 ∧ (t.pipe n).eccCorr = (s.pipe n).eccCorr + (if corrected then 1 else 0) ∧
  (t.pipe n).frames.map (fun f => { f with eccCorr := 0 }) = (s.pipe n).frames.map (fun f => { f with eccCorr := 0 }) ∧
  t.pipe n = { s.pipe n with otherPkt := (t.pipe n).otherPkt, eccCorr := (t.pipe n).eccCorr, frames := (t.pipe n).frames } ∧
  (∀ m : Fin 16, m ≠ n → t.pipe m = s.pipe m) ∧ t = { s with pipes := t.pipes }

/-- A port takes packets of a frame: it is in area mode, and they are of its virtual channel (R298, R299). -/
def areaTakes (s : State) (n : Fin 16) (vc : BitVec 4) : Prop := (s.pipe n).cfg.live.strip = false ∧ (s.pipe n).cfg.live.vc = vc

/-- A port uses a long packet: it is of its virtual channel and data type (R299). -/
def packetUsed (s : State) (n : Fin 16) (pkt : LongPacket) : Prop :=
  (s.pipe n).cfg.live.vc = pkt.vc ∧ (s.pipe n).cfg.live.dt = pkt.dt

/-- What the checks of a packet that is used add to the counters (R300). -/
def Checked (n : Fin 16) (pkt : LongPacket) (s t : State) : Prop :=
  (t.pipe n).crcLines = (s.pipe n).crcLines + (if pkt.crcOk then 0 else 1) ∧
  (t.pipe n).eccCorr = (s.pipe n).eccCorr + (if pkt.headerCorrected then 1 else 0) ∧ (t.pipe n).otherPkt = (s.pipe n).otherPkt

/-- The differences d of R291: each value of a plane less the reconstructed mean of its cell. -/
def planeDiffs (fmt : Nat) (v : List Int) : List Int :=
  let mn := minInt v
  let shift := if maxInt v - mn > 127 then 1 else 0
  (List.range 64).map fun i => v.getD i 0 - chat fmt mn shift (planeMeans v mn shift) (cellOf i)

end Sys2Proof.Machine
end

