-- ==== Sys2Proof/Certificates/Slice0/Obligations.lean ====
section
/-! DEFINITION. The obligations: what the commands and the device do, from the numbered rules of the spec. -/

open Sys2Proof Sys2Proof.Machine

/-! ### Resets and boot -/

/-- R575, R576: POWER_ON_RESET, and VDD_AON_DROP below 1.50 V, reset everything, retained storage included; fuses and flash
stay, the straps are those sampled and SAFE_N is asserted. VDD_AON_DROP at or above 1.50 V leaves the device running: below the
operating range it raises SUPPLY of AON once, in range it does nothing. Memories that nothing has written read 0 (DESIGN CHOICE, log
entry 4). -/
def Obligations.PowerOnResets : Prop :=
  (∀ (s : State) (b : Straps), ∃ t, exec (.powerOnReset b) s = .next t ∧ RegistersAtReset t ∧ t.straps = b ∧
    t.book = {} ∧ t.failed = 0 ∧ t.bootRec = {} ∧ t.boot = {} ∧ t.fuses = s.fuses ∧ t.flash = s.flash ∧
    t.pins.safe = true ∧ t.dram = Mem.empty ∧ t.pending = s.pending) ∧
  (∀ (s : State) (mv : Nat) (b : Straps), mv < 1500 → exec (.vddAonDrop mv b) s = exec (.powerOnReset b) s) ∧
  (∀ (s : State) (mv : Nat) (b : Straps), 1500 ≤ mv → mv < 1710 →
    exec (.vddAonDrop mv b) s = .next (raiseKey 0x16 (BitVec.ofNat 32 mv) s)) ∧
  (∀ (s : State) (mv : Nat) (b : Straps), 1710 ≤ mv → exec (.vddAonDrop mv b) s = .next s)

/-- R575, R576, R580: each cause of a device reset: RESET_N low for 1 µs, BOOT.RESET with its key by the host, a hart that runs or
the safety pair, the boot watchdog of a step that has a timeout, and AUTO_RESET in the safe state. Every register outside retained
storage takes its reset value, retained storage stays, and the record holds the cause; an operator reset clears ATTEMPTS and HALTED,
and another counts a start that did not reach READY. A RESET_N pulse below 1 µs, a write without the key and any cause but an
operator's on a halted device do nothing. -/
def Obligations.DeviceResets : Prop :=
  (∀ (s : State) (ns : Nat) (b : Straps), 1000 ≤ ns → ∃ t, exec (.deviceReset ns b) s = .next t ∧ RegistersAtReset t ∧
    RetainedKept s t ∧ t.straps = b ∧ t.bootRec.cause = 1 ∧ t.bootRec.attempts = 0 ∧ t.boot = {} ∧
    t.pending = s.pending) ∧
  (∀ (s : State) (ns : Nat) (b : Straps), ns < 1000 → exec (.deviceReset ns b) s = .next s) ∧
  (∀ (s : State) (b : Straps), ∃ t, exec (.resetDevice .host true 0xA5 b) s = .next t ∧ RegistersAtReset t ∧
    RetainedKept s t ∧ t.straps = b ∧ t.bootRec.cause = 3 ∧ t.bootRec.attempts = 0 ∧ t.boot = {}) ∧
  (∀ (s : State) (who : Writer) (b : Straps), who ≠ .host → writerActs who s = true → s.boot.halted = false →
    ∃ t, exec (.resetDevice who true 0xA5 b) s = .next t ∧ RegistersAtReset t ∧ RetainedKept s t ∧ t.straps = b ∧
    t.bootRec.cause = (if who = .safetyPair then 5 else 4) ∧
    t.bootRec.attempts = (if s.boot.readySeen then s.bootRec.attempts else s.bootRec.attempts + 1)) ∧
  (∀ (s : State) (who : Writer) (dev : Bool) (key : Byte) (b : Straps), ¬ (dev = true ∧ key = 0xA5) →
    exec (.resetDevice who dev key b) s = .next s) ∧
  (∀ (s : State) (b : Straps), s.boot.halted = false → s.safety.safe = false → s.boot.nextStep ≠ 3 → s.boot.nextStep ≠ 11 →
    s.boot.nextStep ≤ 12 → ∃ t, exec (.bootWatchdog b) s = .next t ∧ RegistersAtReset t ∧ RetainedKept s t ∧ t.straps = b ∧
    t.bootRec.cause = 2 ∧ t.bootRec.step = BitVec.ofNat 8 s.boot.nextStep) ∧
  (∀ (s : State) (b : Straps), s.boot.halted = false → s.safety.safe = true → s.safety.autoReset ≠ 0 →
    ∃ t, exec (.autoReset b) s = .next t ∧ RegistersAtReset t ∧ RetainedKept s t ∧ t.straps = b ∧ t.bootRec.cause = 5) ∧
  (∀ (s : State) (b : Straps), s.boot.halted = true → exec (.bootWatchdog b) s = .next s ∧ exec (.autoReset b) s = .next s)

/-- R578 to R580, R582, R586, R587, R592, R593: each step that the ROM runs, on every path. A step that passes writes its code to
RECORD.STEP and lets the next one begin. A failed ROM checksum halts the device. SOURCE waits for Vine and for the host, takes what
the source in order gives, and records a source that gives nothing; a failed CHECK records the check that failed and goes on with
SOURCE or halts. -/
def Obligations.RomStepsRun : Prop :=
  (∀ s : State, StepIsNext 1 s → (∃ t, exec (.romStart true) s = .next t ∧ t.boot.nextStep = 2 ∧ t.bootRec.step = 1 ∧
      t.boot.pkSeed.length = 16 ∧ t.boot.halted = false) ∧
    (∃ t, exec (.romStart false) s = .next t ∧ t.boot.halted = true ∧ t.bootRec.step = 1 ∧ t.bootRec.cause = 6)) ∧
  (∀ s : State, StepIsNext 2 s → ∃ t, exec .clocks s = .next t ∧ t.boot.nextStep = 3 ∧ t.bootRec.step = 2 ∧
    ∀ p : Fin 9, (vget t.clocks.plls p).locked =
      (decide (p.val ≠ 5 ∧ p.val < 7) || (vget s.clocks.plls p).locked)) ∧
  (∀ s : State, StepIsNext 3 s → ∃ t, exec .hostPort s = .next t ∧ t.boot.nextStep = 4 ∧ t.bootRec.step = 3 ∧
    t.boot.hostPortUp = true ∧ (vget t.clocks.doms 6).src = 2) ∧
  (∀ (s : State) (relay : Option Relay), StepIsNext 4 s →
    (∃ t, exec (.source relay) s = .next t ∧ t.bootRec.step = 4 ∧
    (sourceNow s = 3 → relay = none → t.boot = s.boot) ∧
    (∀ r, sourceNow s = 3 → relay = some r → t.boot.nextStep = 5 ∧ t.bootRec.source = 3 ∧
      t.boot.config = imageBytes r.config 64 ∧ t.boot.image = imageBytes r.image (min (imageLength r.image) 1048576)) ∧
    (sourceNow s = 2 → s.boot.imageSeen = false → t.boot = s.boot) ∧
    (∀ config image slot, sourceNow s ≠ 3 → (sourceNow s = 2 → s.boot.imageSeen = true) →
      fetchSource s (sourceNow s) s.bootRec.slotTried = some (config, image, slot) →
      t.boot.nextStep = 5 ∧ t.bootRec.source = BitVec.ofNat 2 (sourceNow s) ∧ t.bootRec.slot = slot ∧ t.boot.config = config ∧
      t.boot.image = imageBytes image (min (imageLength image) 1048576)) ∧
    (sourceNow s < 2 → fetchSource s (sourceNow s) s.bootRec.slotTried = none → t.bootRec.cause = 6))) ∧
  (∀ s : State, StepIsNext 5 s → ∃ t, exec .check s = .next t ∧ t.bootRec.step = 5 ∧
    (imageFault s.fuses s.boot.image = none →
      t.boot.nextStep = 6 ∧ t.boot.keyInUse = BitVec.ofNat 2 (fieldNat s.boot.image 13 1)) ∧
    (imageFault s.fuses s.boot.image ≠ none →
      some t.bootRec.cause = imageFault s.fuses s.boot.image ∧ (t.boot.nextStep = 4 ∨ t.boot.halted = true))) ∧
  (∀ s : State, StepIsNext 6 s → ∃ t, exec .entry s = .next t ∧ t.boot.nextStep = 7 ∧ t.bootRec.step = 6 ∧
    t.boot.hartsReleased = true ∧ t.fw.version = BitVec.ofNat 32 (fieldNat s.boot.image 4 4) ∧
    t.boot.pcr = sha256 (sha256 (s.boot.pcr ++ sha256 s.boot.config) ++ sha256 s.boot.image))

/-- R578, R579, R581, R583 to R585, R601: each step that firmware and the safety pair run, at every level of its record: training
that passes and that fails, the memory map, the safety firmware's own tests, the Vine links or the start alone, READY, and
SLOT_CONFIRM or its omission. -/
def Obligations.FirmwareStepsRun : Prop :=
  (∀ (s : State) (gib : List Nat) (two : Bool) (v : List Byte) (cap : BitVec 2), StepIsNext 7 s → gib.length = 16 →
    populationCode gib = some cap → ∃ t, exec (.lpddr6 true gib two v) s = .next t ∧ t.boot.nextStep = 8 ∧ t.bootRec.step = 7 ∧
    t.memctl.trained = true ∧ t.memctl.ranks = two ∧ t.memctl.capacity = cap ∧
    t.memctl.training = (if levelOf s.bootRec 7 = 1 then s.flash.training else v) ∧
    t.memctl.rate = (if levelOf s.bootRec 7 = 0 then BitVec.ofNat 2 (bootCfg s.boot.config).maxRate
      else if levelOf s.bootRec 7 = 1 then s.flash.trainingRate else 2)) ∧
  (∀ (s : State) (pass : Bool) (gib : List Nat) (two : Bool) (v : List Byte), StepIsNext 7 s → gib.length = 16 →
    (pass = false ∨ populationCode gib = none) → ∃ t, exec (.lpddr6 pass gib two v) s = .next t ∧ t.bootRec.step = 7 ∧
    t.bootRec.cause = 6 ∧ t.memctl = s.memctl ∧
    (levelOf s.bootRec 7 < 2 → t.boot.nextStep = 7 ∧ levelOf t.bootRec 7 = levelOf s.bootRec 7 + 1) ∧
    (2 ≤ levelOf s.bootRec 7 → t.boot.halted = true)) ∧
  (∀ s : State, StepIsNext 8 s → ∃ t, exec .memory s = .next t ∧ t.boot.nextStep = 9 ∧ t.bootRec.step = 8 ∧
    t.mmu.table = [] ∧ t.safety.mode = (bootCfg s.boot.config).safety ∧
    t.memctl.inlineEcc = ((bootCfg s.boot.config).inlineEcc || (bootCfg s.boot.config).safety)) ∧
  (∀ s : State, StepIsNext 9 s → (∃ t, exec (.safety true) s = .next t ∧ t.boot.nextStep = 10 ∧ t.bootRec.step = 9 ∧
      t.pins.safe = false) ∧
    (∃ t, exec (.safety false) s = .next t ∧ t.boot.halted = true ∧ t.bootRec.cause = 6)) ∧
  (∀ (s : State) (peers : List (Option Peer)), StepIsNext 10 s → peers.length = 4 →
    ∃ t, exec (.vine peers) s = .next t ∧ t.boot.nextStep = 11 ∧ t.bootRec.step = 10 ∧
    (levelOf s.bootRec 10 ≠ 1 → ∀ i : Fin 4, (t.link i).state = (if (peers.getD i.val none).isSome then 2 else 0) ∧
      (t.link i).wanted = (peers.getD i.val none).isSome) ∧
    (levelOf s.bootRec 10 = 1 → t.port.devices = 1 ∧ t.vine = s.vine)) ∧
  (∀ s : State, StepIsNext 11 s → ∃ t, exec .ready s = .next t ∧ t.boot.ready = true ∧ t.bootRec.step = 11 ∧
    t.bootRec.attempts = 0 ∧ t.bootRec.levels = Vector.replicate 12 0 ∧
    t.boot.nextStep = (if s.bootRec.trial then 12 else 13)) ∧
  (∀ s : State, StepIsNext 12 s → ∃ t, exec .slotConfirm s = .next t ∧ t.boot.nextStep = 13 ∧ t.bootRec.step = 12 ∧
    (levelOf s.bootRec 12 ≠ 1 → slotState t.flash (if s.bootRec.slot then 0 else 1) = 4 ∧
      t.flash.journal.length = s.flash.journal.length + 1 ∧
      t.fuses.svn = max s.fuses.svn (min 63 (fieldNat s.boot.image 12 1))) ∧
    (levelOf s.bootRec 12 = 1 → t.flash = s.flash ∧ t.fuses = s.fuses))

/-- R588, R589: HOST_IMAGE_WRITE stores LEN, before step SOURCE waits for it and after the ROM has taken one, and lets a SOURCE that
waits for the host take the image from staging; VINE_IMAGE_REQUEST in step SOURCE with the Vine source puts the request on the link
in turn; VINE_BOOT_SERVICE after READY puts the configuration and image of the device's own source, or those it was relayed, on the
link. Nothing but the boot page, Vine and, on the lead, the record of lost devices changes. -/
def Obligations.BootServicesRun : Prop :=
  (∀ (s : State) (n : BitVec 21), s.boot.hostImageTaken = true →
    exec (.hostImageWrite n) s = .next { s with boot := { s.boot with hostImageLen := n } }) ∧
  (∀ (s : State) (n : BitVec 21), s.boot.hostImageTaken = false →
    ¬ (StepIsNext 4 s ∧ s.bootRec.step = 4 ∧ (bootOrder s).getD s.bootRec.sourcePos 0 = 2) →
    exec (.hostImageWrite n) s = .next { s with boot := { s.boot with hostImageLen := n, imageSeen := true } }) ∧
  (∀ (s : State) (n : BitVec 21), StepIsNext 4 s → s.boot.hostImageTaken = false → s.bootRec.step = 4 →
    (bootOrder s).getD s.bootRec.sourcePos 0 = 2 → ∃ t, exec (.hostImageWrite n) s = .next t ∧ t.boot.nextStep = 5 ∧
    t.boot.hostImageTaken = true ∧ t.boot.hostImageLen = n ∧ t.bootRec.source = 2 ∧
    t.boot.config = s.port.window.readBytes (stagingBase + 0x100000) 64 ∧
    t.boot.image = imageBytes (hostImage s n) (min (imageLength (hostImage s n)) 1048576)) ∧
  (∀ s : State, s.boot.halted = false → s.boot.nextStep = 4 → (bootOrder s).getD s.bootRec.sourcePos 0 = 3 →
    ∃ t, exec .vineImageRequest s = .next t ∧ Sent s t (.imageRequest s.boot.vineLink) ∧
    t.boot = { s.boot with vineLink := nextImageLink s.boot.vineLink } ∧
    t = { s with boot := t.boot, vine := t.vine, freeCtr := t.freeCtr }) ∧
  (∀ (s : State) (i : Fin 4), firmwareUp s = true → ∃ t, exec (.vineBootService i) s = .next t ∧
    Sent s t (.image i (bootService s).1 (bootService s).2) ∧ ((isLead s = false ∨ s.port.devices.toNat ≤ 1) → t.port = s.port) ∧
    t = { s with vine := t.vine, freeCtr := t.freeCtr, port := t.port })

/-- R600, Table 16.7: a NOR command of a writer that acts is taken when its precondition holds, refused with its RESULT when it does
not, and RESULT becomes BUSY while another is in progress; nothing but the NOR fields of the BOOT page changes. When it completes on
a flash that works, its action is performed, with its RESULT, and BUSY clears: an erased slot is EMPTY, a written one holds the
staging bytes with their length and CRC and is WRITTEN, one whose image and CRC pass is VERIFIED and one whose image or CRC fails
stays as it is, an activated one is ACTIVE and named by a new selector record; the other slot stays as it is. When the flash fails,
RESULT is DEVICE_ERROR and what it was changing is free (DESIGN CHOICE, log entry 16). -/
def Obligations.NorCommandsRun : Prop :=
  (∀ (s : State) (who : Writer) (x : Fin 2), writerActs who s = true →
    exec (.eraseSlot who x) s = .next (norWritten s (.erase x)) ∧
    exec (.writeSlot who x) s = .next (norWritten s (.write x s.boot.norSrc.toNat s.boot.norLen.toNat)) ∧
    exec (.verifySlot who x) s = .next (norWritten s (.verify x)) ∧
    exec (.activateSlot who x) s = .next (norWritten s (.activate x))) ∧
  (∀ (s : State) (x : Fin 2), norRefusal s (.erase x) = if selectedSlot s.flash = x then some 4 else none) ∧
  (∀ (s : State) (x : Fin 2) (src len : Nat), norRefusal s (.write x src len) = if slotState s.flash x ≠ 0 then some 4
    else if 1048576 < len ∨ stagingSize < src + len then some 2 else none) ∧
  (∀ (s : State) (x : Fin 2), norRefusal s (.verify x) = if slotState s.flash x ≠ 1 then some 4 else none) ∧
  (∀ (s : State) (x : Fin 2), norRefusal s (.activate x) = if slotState s.flash x ≠ 2 then some 4 else none) ∧
  (∀ (s : State) (job : NorJob), s.boot.norJob = some job → hartsRun s = true → s.flash.norPresent = true →
    ∃ t, exec (.norCommandComplete true) s = .next t ∧ NorDone s job t) ∧
  (∀ (s : State) (job : NorJob) (ok : Bool), s.boot.norJob = some job → hartsRun s = true →
    (ok = false ∨ s.flash.norPresent = false) → ∃ t, exec (.norCommandComplete ok) s = .next t ∧
    t.boot = { s.boot with norJob := none, norResult := 5 } ∧ t.flash.journal = s.flash.journal ∧
    (s.flash.norPresent = false → t.flash = s.flash) ∧ vget t.flash.slots (otherSlot job.slot) = vget s.flash.slots (otherSlot job.slot) ∧
    t = { s with boot := t.boot, flash := t.flash, freeCtr := t.freeCtr })

/-! ### Clocks -/

/-- R612, R614, R618: a lock wait that has passed marks the PLL as locked, and a domain that waited on it runs from it again, ARITH
from FALLBACK while an alert holds it there; a PLL that waits for no lock is left as it is. A loss of lock adds 1 to LOSS and raises
the PLL's key.
R628 to R630: the gating enables, written by firmware or the safety pair. RUN_EN = 0 stands a running domain at NONE and RUN_EN = 1
starts one that stands there with its PLL locked; SLEEP_EN ignores writes where sleep is never allowed; DEEP_EN = 1 stops an allowed
domain and powers its PLL down, and is stored as 0 with a record on the CLOCKS page where Table 17.1 does not allow it; DEEP_EN = 0
powers the PLL up and waits for its lock. A host write that would change one of the three is denied and recorded (R427). -/
def Obligations.PllsAndDomainsAct : Prop :=
  (∀ (s : State) (p : Fin 9), (s.pll p).waiting = true → ∃ t, exec (.pllLockJudged p) s = .next t ∧
    (t.pll p).locked = true ∧ (t.pll p).waiting = false ∧
    ((s.pll p).raising = false ∧ (s.dom p).src = 0 ∧ (s.dom p).runEn = true ∧ (s.dom p).deepEn = false →
      (t.dom p).st = 1 ∧ (t.dom p).src = (if p = 0 ∧ (s.power.mode = .fallback ∨ s.power.mode = .returning) then 3
        else if (s.pll p).on then 2 else 1)) ∧
    (¬ ((s.pll p).raising = false ∧ (s.dom p).src = 0 ∧ (s.dom p).runEn = true ∧ (s.dom p).deepEn = false) →
      t.dom p = s.dom p) ∧ t.dram = s.dram ∧ t.queues = s.queues ∧ t.presses = s.presses) ∧
  (∀ (s : State) (p : Fin 9), (s.pll p).waiting = false → exec (.pllLockJudged p) s = .next s) ∧
  (∀ (s : State) (p : Fin 9), (s.pll p).locked = true → ∃ t, exec (.pllLoss p) s = .next t ∧
    (t.pll p).loss = satInc (s.pll p).loss 1 ∧ (t.pll p).locked = true ∧
    (vget t.safety.slots (Fin.ofNat 134 (10 + p.val))).raised =
      satInc (vget s.safety.slots (Fin.ofNat 134 (10 + p.val))).raised 1 ∧
    t = { s with clocks := t.clocks, safety := t.safety }) ∧
  (∀ (s : State) (who : Writer) (d : Fin 9) (on : Bool), who ≠ .host → writerActs who s = true →
    ∃ t, exec (.domRunEn who d on) s = .next t ∧ (t.dom d).runEn = on ∧
    ((s.dom d).runEn = true → on = false → (s.dom d).st = 1 → (t.dom d).src = 0 ∧ (t.dom d).st = 0) ∧
    ((s.dom d).runEn = false → on = true → (s.dom d).st = 0 → (s.pll d).waiting = false → (t.dom d).st = 1) ∧
    ((s.dom d).runEn = on → t = s) ∧ t.dram = s.dram ∧ t.queues = s.queues ∧ t.presses = s.presses) ∧
  (∀ (s : State) (who : Writer) (d : Fin 9) (on : Bool), who ≠ .host → writerActs who s = true →
    ∃ t, exec (.domSleepEn who d on) s = .next t ∧
    (t.dom d).sleepEn = (if d = 0 ∨ d = 3 ∨ d = 4 then on else (s.dom d).sleepEn) ∧ (t.dom d).st = (s.dom d).st ∧
    t = { s with clocks := t.clocks }) ∧
  (∀ (s : State) (who : Writer) (d : Fin 9), who ≠ .host → writerActs who s = true → (s.dom d).deepEn = false →
    deepAllowed s d = true → ∃ t, exec (.domDeepEn who d true) s = .next t ∧ (t.dom d).deepEn = true ∧ (t.dom d).src = 0 ∧
    (t.dom d).st = 3 ∧ (t.pll d).on = false ∧ t = { s with clocks := t.clocks }) ∧
  (∀ (s : State) (who : Writer) (d : Fin 9), who ≠ .host → writerActs who s = true → (s.dom d).deepEn = false →
    deepAllowed s d = false → d ≠ 1 → d ≠ 2 → d ≠ 5 → d ≠ 6 → ∃ t, exec (.domDeepEn who d true) s = .next t ∧
    (t.dom d).deepEn = false ∧ (vget t.pages pgClocks).irqError = true ∧
    t = { s with pages := t.pages, diag := t.diag, freeCtr := t.freeCtr }) ∧
  (∀ (s : State) (who : Writer) (d : Fin 9), who ≠ .host → writerActs who s = true → (s.dom d).deepEn = true →
    (s.dom d).st = 3 → d ≠ 1 → d ≠ 2 → d ≠ 5 → d ≠ 6 → ∃ t, exec (.domDeepEn who d false) s = .next t ∧
    (t.dom d).deepEn = false ∧ (t.dom d).st = 0 ∧ (t.pll d).on = true ∧ (t.pll d).waiting = true ∧
    t = { s with clocks := t.clocks }) ∧
  (∀ (s : State) (d : Fin 9) (on : Bool),
    ((s.dom d).runEn ≠ on → ∃ t, exec (.domRunEn .host d on) s = .next t ∧ t.clocks = s.clocks ∧
      t.port.errCount = satInc s.port.errCount 1) ∧
    ((s.dom d).sleepEn ≠ on → ∃ t, exec (.domSleepEn .host d on) s = .next t ∧ t.clocks = s.clocks ∧
      t.port.errCount = satInc s.port.errCount 1) ∧
    ((s.dom d).deepEn ≠ on → ∃ t, exec (.domDeepEn .host d on) s = .next t ∧ t.clocks = s.clocks ∧
      t.port.errCount = satInc s.port.errCount 1))

/-- R613: OTP_PROG with its key, by any writer that acts outside the safe state, programs the fields of the OTP that still hold 0 and
no other; without the key it programs nothing. -/
def Obligations.OtpProgramsOnce : Prop :=
  (∀ (s : State) (who : Writer) (m v : BitVec 12), writerActs who s = true → s.safety.safe = false →
    ∃ t, exec (.otpProg who m v 0x5A) s = .next t ∧
    t.fuses.otpMem = (if s.fuses.otpMem = 0 then m else s.fuses.otpMem) ∧
    t.fuses.otpVine = (if s.fuses.otpVine = 0 then v else s.fuses.otpVine) ∧ t = { s with fuses := t.fuses }) ∧
  (∀ (s : State) (who : Writer) (m v : BitVec 12) (key : Byte), key ≠ 0x5A → s.safety.safe = false →
    exec (.otpProg who m v key) s = .next s)

/-- R667: a window of the clock monitor counts a failure of each domain that it finds out of range; two in a row raise the
domain's key, and CTRL also asserts ALARM_N and SAFE_N; REFCLK silent for 2 µs raises its key and asserts both pins.
R668: a sample counts, for each rail, how many samples in a row lay outside its window; ten raise the rail's key. With fewer
failures, or a shorter silence, nothing changes. -/
def Obligations.MonitorsAct : Prop :=
  (∀ (s : State) (l : List Nat), l.length = 9 → ∃ t, exec (.clockMonitorWindow l) s = .next t ∧
    (∀ d : Fin 9, (t.dom d).fails = if windowFails s d (l.getD d.val 0) then (s.dom d).fails + 1 else 0) ∧
    t = { s with clocks := t.clocks }) ∧
  (∀ (s : State) (d : Fin 9), 2 ≤ (s.dom d).fails → ∃ t, exec (.clkDomain d) s = .next t ∧
    (vget t.safety.slots (Fin.ofNat 134 d.val)).raised = satInc (vget s.safety.slots (Fin.ofNat 134 d.val)).raised 1 ∧
    t.pins.alarm = (s.pins.alarm || decide (d = 2)) ∧ t.pins.safe = (s.pins.safe || decide (d = 2)) ∧
    t = { s with clocks := t.clocks, safety := t.safety, pins := t.pins }) ∧
  (∀ (s : State) (d : Fin 9), (s.dom d).fails < 2 → exec (.clkDomain d) s = .next s) ∧
  (∀ (s : State) (ns : Nat), 2000 ≤ ns → ∃ t, exec (.refclkLoss ns) s = .next t ∧ t.pins.alarm = true ∧ t.pins.safe = true ∧
    (vget t.safety.slots 9).raised = satInc (vget s.safety.slots 9).raised 1 ∧
    t = { s with safety := t.safety, pins := t.pins }) ∧
  (∀ (s : State) (ns : Nat), ns < 2000 → exec (.refclkLoss ns) s = .next s) ∧
  (∀ (s : State) (l : List Nat), l.length = 8 → ∃ t, exec (.supplySample l) s = .next t ∧
    (∀ i : Fin 8, vget t.power.supplyBad i = if supplyOut s i (l.getD i.val 0) then vget s.power.supplyBad i + 1 else 0) ∧
    t = { s with power := t.power }) ∧
  (∀ (s : State) (i : Fin 8), 10 ≤ vget s.power.supplyBad i → ∃ t, exec (.supply i) s = .next t ∧
    (vget t.safety.slots (Fin.ofNat 134 (19 + i.val))).raised =
      satInc (vget s.safety.slots (Fin.ofNat 134 (19 + i.val))).raised 1 ∧
    t = { s with power := t.power, safety := t.safety }) ∧
  (∀ (s : State) (i : Fin 8), vget s.power.supplyBad i < 10 → exec (.supply i) s = .next s)

/-- R620, R644 to R646, R619, R549: an assertion of PWR_ALERT_N while ARITH has its PLL counts, stops topping work and switches a
running ARITH to FALLBACK, or to NONE while FABRIC stands there; before that only the pin's level counts. Its deassertion starts the
hold, whose end after ALERT_HOLD.US begins the return when nothing else keeps ARITH on FALLBACK. The switch back leaves ARITH on its
PLL at 100 MHz, in deterministic mode on its way to the frequency of R549; a slew that completes leaves ARITH at its new frequency;
an assertion that lasts raises ALERT_LONG. -/
def Obligations.PowerAlertRuns : Prop :=
  (∀ s : State, s.pins.pwrAlert = false → ((s.pll 0).on = true ∨ (s.dom 0).st = 3) →
    ∃ t, exec .pwrAlertAssert s = .next t ∧ t.pins.pwrAlert = true ∧ t.power.mode = .fallback ∧
    t.power.alerts = satInc s.power.alerts 1 ∧ t.power.holding = false ∧ (∀ p : Fin 16, (t.press p).topping = 0) ∧
    ((s.dom 0).st = 0 ∨ (s.dom 0).st = 3 → t.dom 0 = s.dom 0) ∧
    ((s.dom 0).st ≠ 0 → (s.dom 0).st ≠ 3 → (s.dom 1).src = 0 → (t.dom 0).src = 0 ∧ (t.dom 0).st = 0) ∧
    ((s.dom 0).st ≠ 0 → (s.dom 0).st ≠ 3 → (s.dom 1).src ≠ 0 → (t.dom 0).src = 3 ∧
      t.power.arithMhz = BitVec.ofNat 9 (fallbackMhz s)) ∧ t.dram = s.dram ∧ t.queues = s.queues) ∧
  (∀ s : State, s.pins.pwrAlert = false → (s.pll 0).on = false → (s.dom 0).st ≠ 3 →
    exec .pwrAlertAssert s = .next { s with pins := { s.pins with pwrAlert := true } }) ∧
  (∀ s : State, s.pins.pwrAlert = true → exec .pwrAlertAssert s = .next s) ∧
  (∀ s : State, s.pins.pwrAlert = true → ∃ t, exec .pwrAlertDeassert s = .next t ∧ t.pins = { s.pins with pwrAlert := false } ∧
    t.power = { s.power with holding := decide (s.power.mode = .fallback), holdAt := s.time } ∧
    t = { s with pins := t.pins, power := t.power }) ∧
  (∀ s : State, s.power.holding = true → s.pins.pwrAlert = false → s.power.alertHold.toNat * 1000 ≤ elapsed s s.power.holdAt →
    exec .alertHoldExpiry s = .next { s with power := { s.power with
      holding := false
      mode := if s.power.mode = .fallback ∧ s.thermal.overTemp = false then .returning else s.power.mode } }) ∧
  (∀ s : State, s.power.mode = .returning → ∃ t, exec .arithReturnSwitch s = .next t ∧
    (t.dom 0).src = (if (s.dom 0).src = 3 then 2 else (s.dom 0).src) ∧
    (s.vine.cfg.live.det = false → t.power.mode = .normal ∧ ((s.dom 0).src = 3 → t.power.arithMhz = 100)) ∧
    (s.vine.cfg.live.det = true → t.vine.timingBroken = true ∧ ((s.dom 0).src = 3 → 100 < s.vine.detMhz.toNat →
      t.power.mode = .raising s.vine.detMhz.toNat ∨ t.power.mode = .slewing s.vine.detMhz.toNat)) ∧
    t.pins = s.pins ∧ t.queues = s.queues) ∧
  (∀ (s : State) (m : Nat), s.power.mode = .slewing m → ∃ t, exec .arithSlewComplete s = .next t ∧
    t.power.mode = .normal ∧ t.power.arithMhz = BitVec.ofNat 9 m ∧ t.clocks = s.clocks ∧ t.pins = s.pins) ∧
  (∀ s : State, s.pins.pwrAlert = true → exec .alertLong s = .next (raiseKey 0x20 0 s)) ∧
  (∀ s : State, s.pins.pwrAlert = false → exec .alertLong s = .next s)

/-! ### Supplies, voltage, frequency and temperature -/

/-- R633 to R636: a step of a rail's AVS loop stores the smallest slack of the rail's valid monitors, raises the trim by 5 mV when it
is below GUARD, leaves it alone when it is GUARD to GUARD + 2, and lowers it by 5 mV from the 50th step in a row above that on; the
voltage requested is the base voltage with the trim, within the fused limits, and a short VDD_CORE or VDD_SRAM at its upper limit
raises its key. While PWR_ALERT_N is asserted VDD_ARITH only stores its slack. A voltage that settles ends the wait; a wait of 50 µs
counts a timeout, and the third in a row raises AVS_TIMEOUT of the rail.
R638 to R643: the frequency controller makes no change while PWR_ALERT_N is asserted, and otherwise stores the limit that decides and
moves towards its target: down by a slew, up by a voltage and then a slew. A committed FLIMIT takes effect at its step (R660). A
reading of the core rails enters the last ten, whose mean is MEASURED; CAP_UNREACHABLE is set when ARITH has stood at FMIN with
MEASURED above CAP. The step at which a trim falls is the model's reading (DEDUCED, log entry 38). -/
def Obligations.VoltageAndFrequencyAreControlled : Prop :=
  (∀ (s : State) (r : Fin 3) (l : List Nat) (k : Nat), l.length = monitorCount r → smallest (validSlacks s r l) = some k →
    ¬ (r = 0 ∧ s.pins.pwrAlert = true) → ∃ t, exec (.avsStep r l) s = .next t ∧
    (vget t.power.rails r).slack = BitVec.ofNat 8 k ∧
    (vget t.power.rails r).guard = (vget s.power.rails r).guard ∧
    (vget t.power.rails r).above = (if (vget s.power.rails r).guard.toNat + 2 < k
      then min ((vget s.power.rails r).above + 1) 50 else 0) ∧
    (vget t.power.rails r).trim = (if k < (vget s.power.rails r).guard.toNat then (vget s.power.rails r).trim + 5
      else if (vget s.power.rails r).guard.toNat + 2 < k ∧ 49 ≤ (vget s.power.rails r).above
        then (vget s.power.rails r).trim - 5 else (vget s.power.rails r).trim) ∧
    (vget t.power.rails r).mv = BitVec.ofNat 10 (limitMv t r (baseOf s r)) ∧
    ((vget t.power.rails r).mv ≠ (vget s.power.rails r).mv → (vget t.power.rails r).waiting = true) ∧
    (r ≠ 0 → k < (vget s.power.rails r).guard.toNat → (vget s.power.rails r).mv.toNat = vget s.fuses.vmax r →
      (vget t.safety.slots (Fin.ofNat 134 (29 + r.val))).raised =
        satInc (vget s.safety.slots (Fin.ofNat 134 (29 + r.val))).raised 1) ∧
    (¬ (r ≠ 0 ∧ k < (vget s.power.rails r).guard.toNat ∧ (vget s.power.rails r).mv.toNat = vget s.fuses.vmax r) →
      t.safety = s.safety) ∧
    (∀ q : Fin 3, q ≠ r → vget t.power.rails q = vget s.power.rails q) ∧ t = { s with power := t.power, safety := t.safety }) ∧
  (∀ (s : State) (l : List Nat) (k : Nat), l.length = 16 → smallest (validSlacks s 0 l) = some k → s.pins.pwrAlert = true →
    ∃ t, exec (.avsStep 0 l) s = .next t ∧
    vget t.power.rails 0 = { vget s.power.rails 0 with slack := BitVec.ofNat 8 k } ∧
    (∀ q : Fin 3, q ≠ 0 → vget t.power.rails q = vget s.power.rails q) ∧ t = { s with power := t.power }) ∧
  (∀ (s : State) (r : Fin 3), (vget s.power.rails r).waiting = true → ∃ t, exec (.avsSettled r) s = .next t ∧
    (vget t.power.rails r).misses = 0 ∧ (vget t.power.rails r).timeouts = (vget s.power.rails r).timeouts ∧
    (r = 0 → (vget t.power.rails r).waiting = false) ∧
    (∀ m, r = 0 → s.power.mode = .raising m → t.power.mode = .slewing m) ∧
    (r ≠ 0 → (∀ q : Fin 3, q ≠ 0 → q ≠ r → (vget s.power.rails q).waiting = false) → ∀ p : Fin 9, (t.pll p).raising = false) ∧
    t.dram = s.dram ∧ t.queues = s.queues) ∧
  (∀ (s : State) (r : Fin 3), (vget s.power.rails r).waiting = true → ∃ t, exec (.avsTimeout r) s = .next t ∧
    (vget t.power.rails r).waiting = false ∧ (vget t.power.rails r).timeouts = satInc (vget s.power.rails r).timeouts 1 ∧
    (vget t.safety.slots (Fin.ofNat 134 (27 + r.val))).raised = (if (vget s.power.rails r).misses = 2
      then satInc (vget s.safety.slots (Fin.ofNat 134 (27 + r.val))).raised 1
      else (vget s.safety.slots (Fin.ofNat 134 (27 + r.val))).raised) ∧ t = { s with power := t.power, safety := t.safety }) ∧
  (∀ (s : State) (r : Fin 3), (vget s.power.rails r).waiting = false →
    exec (.avsSettled r) s = .next s ∧ exec (.avsTimeout r) s = .next s) ∧
  (∀ s : State, s.pins.pwrAlert = true → s.power.flimit.pending = none →
    exec .dvfsStep s = .next { s with power := { s.power with limit := 4 } }) ∧
  (∀ s : State, s.pins.pwrAlert = false → s.power.flimit.pending = none → s.power.mode = .normal → (s.dom 0).src = 2 →
    ∃ t, exec .dvfsStep s = .next t ∧ t.power.limit = BitVec.ofNat 3 (arithTarget s).2 ∧ t.power.arithMhz = s.power.arithMhz ∧
    ((arithTarget s).1 < s.power.arithMhz.toNat → t.power.mode = .slewing (arithTarget s).1) ∧
    ((arithTarget s).1 = s.power.arithMhz.toNat → t.power.mode = .normal) ∧
    (s.power.arithMhz.toNat < (arithTarget s).1 →
      t.power.mode = .raising (arithTarget s).1 ∨ t.power.mode = .slewing (arithTarget s).1)) ∧
  (∀ s : State, s.pins.pwrAlert = false → s.power.flimit.pending = none → ¬ (s.power.mode = .normal ∧ (s.dom 0).src = 2) →
    exec .dvfsStep s = .next s) ∧
  (∀ (s : State) (f : Flimit), s.safety.safe = false → s.power.flimit.pending = some f → ∃ t, exec .dvfsStep s = .next t ∧
    t.power.flimit.pending = none ∧ t.power.flimit.live = (if flimitBad f then s.power.flimit.live else f)) ∧
  (∀ (s : State) (mv ma : List Nat), mv.length = 3 → ma.length = 3 → ∃ t, exec (.powerMeasure mv ma) s = .next t ∧
    t.power.sums.length = min 10 (s.power.sums.length + 1) ∧ t.power.sums.tail = s.power.sums.take 9 ∧
    t.power.measured = BitVec.ofNat 17 (min (divOpen t.power.sums.sum t.power.sums.length) 131071) ∧
    t.power.railMv = mv ∧ t.power.railMa = ma ∧ t = { s with power := t.power }) ∧
  (∀ s : State, s.power.arithMhz.toNat ≤ s.power.flimit.live.fmin.toNat → 100 * s.power.cap.toNat < s.power.measured.toNat →
    exec .capUnreachable s = .next { s with power := { s.power with capUnreachable := true } })

/-- R647 to R650: a sample stores the 32 readings and excludes the sensors that it finds out of range. With the hottest of the valid
ones, throttling starts at THROTTLE_C, counted, and stops HYST_C below it, and critical temperature is entered at CRIT_C and left
below THROTTLE_C; between the two bounds each stays as it was.
R653, R657, R659: a reading of the vintage monitors counts and stores 48 degradations; the guard update raises GUARD to 3 plus the
worst degradation of the rail in units of 4,000 ppm, and never lowers it; the ramp-up takes each press without a command of a parcel
with an open barrier to LEVEL, and no other. -/
def Obligations.HeatAndAgeingAct : Prop :=
  (∀ (s : State) (l : List Int), l.length = 32 → ∃ t, exec (.thermalSample l) s = .next t ∧
    (∀ i : Fin 32, vget t.thermal.sensors i = BitVec.ofInt 12 (l.getD i.val 0)) ∧
    (∀ i : Fin 32, t.thermal.excluded.getLsbD i.val =
      (s.thermal.excluded.getLsbD i.val || (newExclusions s l).contains i.val)) ∧
    (∀ (i : Nat) (h : Int), hottestOf l ((List.range 32).filter fun i => !t.thermal.excluded.getLsbD i) = some (i, h) →
      t.thermal.hottest = BitVec.ofInt 12 h ∧ t.thermal.hotSensor = BitVec.ofNat 5 i ∧
      (4 * (s.thermal.throttleC.toNat : Int) ≤ h → t.thermal.throttling = true ∧
        t.thermal.throttles = (if s.thermal.throttling then s.thermal.throttles else satInc s.thermal.throttles 1)) ∧
      (h < 4 * (s.thermal.throttleC.toNat : Int) - 4 * (s.thermal.hystC.toNat : Int) → t.thermal.throttling = false) ∧
      (h < 4 * (s.thermal.throttleC.toNat : Int) → 4 * (s.thermal.throttleC.toNat : Int) - 4 * (s.thermal.hystC.toNat : Int) ≤ h →
        t.thermal.throttling = s.thermal.throttling) ∧
      (4 * (critC s : Int) ≤ h → t.thermal.overTemp = true) ∧
      (h < 4 * (critC s : Int) → h < 4 * (s.thermal.throttleC.toNat : Int) → t.thermal.overTemp = false) ∧
      (h < 4 * (critC s : Int) → 4 * (s.thermal.throttleC.toNat : Int) ≤ h → t.thermal.overTemp = s.thermal.overTemp)) ∧
    t.dram = s.dram ∧ t.queues = s.queues) ∧
  (∀ (s : State) (l : List (Nat × Nat)), l.length = 48 → ∃ t, exec (.vintageReading l) s = .next t ∧
    t.ageing.readings = s.ageing.readings + 1 ∧
    (∀ i : Fin 48, vget t.ageing.mons i = BitVec.ofInt 24 (degradation (l.getD i.val (1, 1)))) ∧
    t = { s with ageing := t.ageing, diag := t.diag, freeCtr := t.freeCtr }) ∧
  (∀ s : State, hartsRun s = true → ∃ t, exec .guardUpdate s = .next t ∧
    (∀ r : Fin 3, (vget t.power.rails r).guard.toNat = (match worstOf s r with
      | none => (vget s.power.rails r).guard.toNat
      | some d => max (vget s.power.rails r).guard.toNat (min 53 (3 + -((-d) / 4000)).toNat)) ∧
      (vget t.power.rails r).trim = (vget s.power.rails r).trim) ∧ t.dram = s.dram ∧ t.queues = s.queues) ∧
  (∀ (s : State) (n : Fin 8), barrierOpen s n = true → toppingAllowed s = true → ∃ t, exec (.toppingRampUp n) s = .next t ∧
    (∀ p : Fin 16, (s.press p).assigned = some n → (s.press p).sequencer = none →
      t.press p = { s.press p with mode := .topping, topping := s.power.toppingLevel.toNat }) ∧
    (∀ p : Fin 16, ¬ ((s.press p).assigned = some n ∧ (s.press p).sequencer = none) → t.press p = s.press p) ∧
    t = { s with presses := t.presses })


/-! ### Functional safety and diagnostics -/

/-- R666, R669, R677: the events that only raise a key count it once in its slot and change nothing else: a notice of another
device's safe state, LOCKSTEP, BUS_TIMEOUT, and a silent hart that was released.
R666, R671, R672: a delivery moves the next pending key into its slot and the cellar book; a key whose reaction is SAFE
takes the device into the safe state, with its key as the cause; FORCE with its key, by a writer that acts, does so with cause
0xFF, and a write without the key does nothing. A key whose reaction is not SAFE freezes the book when its class says so. With no key
pending a delivery changes nothing. -/
def Obligations.AlarmsAreRaisedAndDelivered : Prop :=
  (∀ (s : State) (d : Fin 64), ∃ t, exec (.remoteSafe d) s = .next t ∧
    (vget t.safety.slots 0x85).raised = satInc (vget s.safety.slots 0x85).raised 1 ∧
    (∀ k : Fin 134, k ≠ 0x85 → vget t.safety.slots k = vget s.safety.slots k) ∧ t = { s with safety := t.safety }) ∧
  (∀ s : State, ∃ t, exec .lockstep s = .next t ∧
    (vget t.safety.slots 0x4A).raised = satInc (vget s.safety.slots 0x4A).raised 1 ∧
    (∀ k : Fin 134, k ≠ 0x4A → vget t.safety.slots k = vget s.safety.slots k) ∧ t = { s with safety := t.safety }) ∧
  (∀ (s : State) (b : Fin 48), ∃ t, exec (.busTimeout b) s = .next t ∧
    (vget t.safety.slots 0x4B).raised = satInc (vget s.safety.slots 0x4B).raised 1 ∧
    (∀ k : Fin 134, k ≠ 0x4B → vget t.safety.slots k = vget s.safety.slots k) ∧ t = { s with safety := t.safety }) ∧
  (∀ (s : State) (h : Fin 4), (s.boot.hartsReleased = false ∨ s.boot.halted = true) → exec (.hartWdog h) s = .next s) ∧
  (∀ (s : State) (h : Fin 4), s.boot.hartsReleased = true → s.boot.halted = false → ∃ t, exec (.hartWdog h) s = .next t ∧
    (vget t.safety.slots (Fin.ofNat 134 (0x81 + h.val))).raised =
      satInc (vget s.safety.slots (Fin.ofNat 134 (0x81 + h.val))).raised 1 ∧ t = { s with safety := t.safety }) ∧
  (∀ s : State, nextKey s = none → exec .alarmDelivery s = .next s) ∧
  (∀ (s : State) (k : Fin 134), nextKey s = some k → (reactsSafe s k.val = false ∨ s.safety.safe = true) →
    ∃ t, exec .alarmDelivery s = .next t ∧
    t.book.frozen = (s.book.frozen || s.safety.reactFreeze.getLsbD (keyClass k.val)) ∧ t.safety.safe = s.safety.safe ∧
    (vget t.safety.slots k).pending = true ∧ (vget t.safety.slots k).raised = 0 ∧ t.safety.lastKey = k.val ∧
    (vget t.safety.slots k).count = satInc (vget s.safety.slots k).count (vget s.safety.slots k).raised.toNat ∧
    t.book.eventSeq = s.book.eventSeq + 1 ∧ t = { s with safety := t.safety, book := t.book }) ∧
  (∀ (s : State) (k : Fin 134), nextKey s = some k → reactsSafe s k.val = true → s.safety.safe = false →
    ∃ t, exec .alarmDelivery s = .next t ∧ t.safety.safe = true ∧ t.safety.safeCause = BitVec.ofNat 8 k.val ∧
    t.safety.hartsHalted = true ∧ t.pins.safe = true) ∧
  (∀ (s : State) (who : Writer), writerActs who s = true → s.safety.safe = false → ∃ t, exec (.forceSafe who true 0xC3) s = .next t ∧
    t.safety.safe = true ∧ t.safety.safeCause = 0xFF ∧ t.safety.hartsHalted = true ∧ t.pins.safe = true ∧
    t.safety.safeAt = s.time) ∧
  (∀ (s : State) (who : Writer) (b : Bool) (key : Byte), ¬ (b = true ∧ key = 0xC3) → exec (.forceSafe who b key) s = .next s)

/-- R662, R669, R670, R708: the heartbeats and the register writes of the SAFETY page. A configuration write stores KAT or REACT
while safety mode is off or no parcel exists, KAT.PERIOD at the nearest end of 1,000 to 9,700; at any other time it changes no
configuration and records an error on the SAFETY page. -/
def Obligations.SafetyRegistersAct : Prop :=
  (∀ (s : State) (h : Fin 4), hartsRun s = true →
    exec (.hartHeartbeat h) s = .next { s with safety := { s.safety with hartBeat := vset s.safety.hartBeat h s.time } }) ∧
  (∀ s : State, hartsRun s = true → s.boot.readySeen = true →
    exec .heartbeat s = .next { s with heartbeat := s.heartbeat + 1 }) ∧
  (∀ (s : State) (who : Writer) (k : Fin 134), writerActs who s = true → ∃ t, exec (.alarmAck who k) s = .next t ∧
    vget t.safety.slots k = { vget s.safety.slots k with pending := false, saturated := false, count := 0 } ∧
    (∀ j : Fin 134, j ≠ k → vget t.safety.slots j = vget s.safety.slots j) ∧ t = { s with safety := t.safety }) ∧
  (∀ (s : State) (who : Writer) (v : Word), writerActs who s = true →
    (s.safety.mode = false ∨ ∀ n : Fin 8, (s.parcel n).state = 0) → exec (.safetyConfigWrite who false v) s = .next { s with safety := { s.safety with
      reactSafe := BitVec.ofNat 6 v.toNat, reactFreeze := BitVec.ofNat 6 (v.toNat / 256) } }) ∧
  (∀ (s : State) (who : Writer) (v : Word), writerActs who s = true →
    (s.safety.mode = false ∨ ∀ n : Fin 8, (s.parcel n).state = 0) → ∃ t, exec (.safetyConfigWrite who true v) s = .next t ∧
    t.safety.katPeriod.toNat = max 1000 (min 9700 (v.toNat % 16384)) ∧ t.safety.katMode = v.getLsbD 16 ∧
    t = { s with safety := t.safety }) ∧
  (∀ (s : State) (who : Writer) (kat : Bool) (v : Word) (n : Fin 8), writerActs who s = true → s.safety.mode = true → (s.parcel n).state ≠ 0 →
    ∃ t, exec (.safetyConfigWrite who kat v) s = .next t ∧ t.safety = s.safety ∧
    (vget t.pages pgSafety).irqError = true ∧ t = { s with pages := t.pages, diag := t.diag, freeCtr := t.freeCtr })

/-- R680 to R683: a due test starts on a press that the tests cover; its end leaves its CRC and counts; the comparison ends it,
and an expected CRC changes nothing else, another raises KAT_FAIL of the press and takes it out of service; a test that has not started
raises KAT_LATE of its press; the follow-up of a twin alarm leaves both CRCs in KAT_SIG, raises KAT_FAIL of each press whose CRC is
not the expected one, and outside safety mode takes no press out of service. -/
def Obligations.KnownAnswerTestsRun : Prop :=
  (∀ (s : State) (p : Fin 16), katCovers s = true → enabled s p = true → arithDeep s = false →
    ∃ t, exec (.katDue p) s = .next t ∧ (t.press p).kat = .running (s.press p).sequencer.isNone ∧
    t = { s with presses := t.presses }) ∧
  (∀ (s : State) (p : Fin 16) (full : Bool) (crc : Word), (s.press p).kat = .running full →
    ∃ t, exec (.katTestEnd p crc) s = .next t ∧ (t.press p).kat = .ended full ∧ (t.press p).katSig = crc ∧
    t.safety.katRuns = satInc s.safety.katRuns 1 ∧ t = { s with presses := t.presses, safety := t.safety }) ∧
  (∀ (s : State) (p : Fin 16) (full : Bool), (s.press p).kat = .ended full → (s.press p).katSig = Config.katExpected full →
    ∃ t, exec (.katCompare p) s = .next t ∧ (t.press p).kat = .none ∧ t.failed = s.failed ∧
    t = { s with presses := t.presses }) ∧
  (∀ (s : State) (p : Fin 16) (full : Bool), (s.press p).kat = .ended full → (s.press p).katSig ≠ Config.katExpected full →
    ∃ t, exec (.katCompare p) s = .next t ∧ (t.press p).kat = .none ∧ t.failed.getLsbD p.val = true ∧
    (vget t.safety.slots (Fin.ofNat 134 (0x61 + p.val))).raised =
      satInc (vget s.safety.slots (Fin.ofNat 134 (0x61 + p.val))).raised 1 ∧ t.fuses = s.fuses) ∧
  (∀ (s : State) (p : Fin 16), (∀ full, (s.press p).kat ≠ .running full) → katCovers s = true → enabled s p = true → arithDeep s = false →
    exec (.katLate p) s = .next (raiseKey (0x71 + p.val) 0 s)) ∧
  (∀ (s : State) (p q : Fin 16) (a b : Word), p ≠ q → (s.press p).sequencer = none →
    (s.press q).sequencer = none → ∃ t, exec (.katFollowUp p q a b) s = .next t ∧ (t.press p).katSig = a ∧
    (t.press q).katSig = b ∧ t.safety.katRuns = satInc (satInc s.safety.katRuns 1) 1 ∧
    (vget t.safety.slots (Fin.ofNat 134 (0x61 + p.val))).raised = (if a = Config.katExpected true
      then (vget s.safety.slots (Fin.ofNat 134 (0x61 + p.val))).raised
      else satInc (vget s.safety.slots (Fin.ofNat 134 (0x61 + p.val))).raised 1) ∧
    (vget t.safety.slots (Fin.ofNat 134 (0x61 + q.val))).raised = (if b = Config.katExpected true
      then (vget s.safety.slots (Fin.ofNat 134 (0x61 + q.val))).raised
      else satInc (vget s.safety.slots (Fin.ofNat 134 (0x61 + q.val))).raised 1) ∧
    (s.safety.mode = true → a ≠ Config.katExpected true → t.failed.getLsbD p.val = true) ∧
    (s.safety.mode = false → t.failed = s.failed ∧ t = { s with presses := t.presses, safety := t.safety }))

/-- R684, R688, R689: FREEZE and THAW with their key, without which neither does anything; the log path takes one waiting
event, numbers it, and serves its source last; with no event waiting it changes nothing. -/
def Obligations.BookAndLogAct : Prop :=
  (∀ (s : State) (who : Writer), writerActs who s = true → s.book.frozen = false → ∃ t, exec (.freeze who 0x96) s = .next t ∧ t.book.frozen = true ∧
    t.book.freezeCause = 3 ∧ t.book.eventSeq = s.book.eventSeq + 1 ∧ t = { s with book := t.book, freeCtr := t.freeCtr }) ∧
  (∀ (s : State) (who : Writer), writerActs who s = true → exec (.thaw who 0x96) s = .next { s with book := { s.book with frozen := false, missed := 0 } }) ∧
  (∀ (s : State) (who : Writer) (key : Byte), key ≠ 0x96 → exec (.freeze who key) s = .next s ∧ exec (.thaw who key) s = .next s) ∧
  (∀ s : State, nextLogSource s = none → exec .logTake s = .next s) ∧
  (∀ (s : State) (k : Fin 64), nextLogSource s = some k → ∃ t, exec .logTake s = .next t ∧
    t.diag.waiting.length + 1 = s.diag.waiting.length ∧ t.diag.lastSource = k ∧ t.book.eventSeq = s.book.eventSeq + 1 ∧
    t.dram = s.dram ∧ t.queues = s.queues)

/-! ### Control registers -/

/-- R695, R697, R699, R702: GO on any page with staged fields, by a writer that the page takes it from, marks a set that still
waited as superseded; on the POWER page, whose boundary is the controller's step, it copies the staged set into the pending set.
CANCEL discards every set that waits and sets COMMIT_DONE, and with none waiting it changes nothing. The host's GO or CANCEL on a
page that takes neither from it is recorded as a host port error and does nothing else. At its boundary a set that
waits on POWER, on an idle parcel or on an empty queue group entry comes into force or, outside its range, is rejected; nothing is
applied where nothing waits, or in the safe state. -/
def Obligations.CommitsGoCancelApply : Prop :=
  (∀ (s : State) (who : Writer) (p : Fin 121), Writes who p.val s → staged p.val = true → mayCommit who p = true →
    ∃ t, exec (.commitGo who p) s = .next t ∧ (vget t.pages p).goBy = who ∧
    (vget t.pages p).superseded = ((vget s.pages p).superseded || pagePending s p.val)) ∧
  (∀ (s : State) (who : Writer), Writes who 5 s → s.power.flimit.staged ≠ s.power.flimit.live →
    ∃ t, exec (.commitGo who pgPower) s = .next t ∧ t.power.flimit.pending = some s.power.flimit.staged ∧
    t.power.flimit.live = s.power.flimit.live ∧ t = { s with power := t.power, pages := t.pages }) ∧
  (∀ (s : State) (who : Writer) (p : Fin 121), Writes who p.val s → mayCommit who p = true → pagePending s p.val = true →
    ∃ t, exec (.commitCancel who p) s = .next t ∧ pagePending t p.val = false ∧ (vget t.pages p).irqCommitDone = true) ∧
  (∀ (s : State) (who : Writer), Writes who 5 s → s.power.flimit.pending.isSome = true →
    ∃ t, exec (.commitCancel who pgPower) s = .next t ∧ t.power.flimit.pending = none ∧
    t.power.flimit.staged = s.power.flimit.live ∧ t.power.flimit.live = s.power.flimit.live ∧
    t = { s with power := t.power, pages := t.pages }) ∧
  (∀ (s : State) (who : Writer) (p : Fin 121), Writes who p.val s → mayCommit who p = true → allocated p.val = true →
    pagePending s p.val = false → exec (.commitCancel who p) s = .next s) ∧
  (∀ (s : State) (u : Fin 16) (f : Flimit), s.safety.safe = false → s.power.flimit.pending = some f → flimitBad f = false →
    ∃ t, exec (.commitApply pgPower u) s = .next t ∧ t.power.flimit.live = f ∧ t.power.flimit.pending = none ∧
    (vget t.pages pgPower).irqCommitDone = true ∧ t = { s with power := t.power, pages := t.pages }) ∧
  (∀ (s : State) (u : Fin 16) (f : Flimit), s.safety.safe = false → s.power.flimit.pending = some f → flimitBad f = true →
    ∃ t, exec (.commitApply pgPower u) s = .next t ∧ t.power.flimit.live = s.power.flimit.live ∧
    t.power.flimit.staged = s.power.flimit.live ∧ t.power.flimit.pending = none ∧
    (vget t.pages pgPower).rejected = true ∧ (vget t.pages pgPower).irqError = true) ∧
  (∀ (s : State) (n : Fin 8) (u : Fin 16) (c : ParcelCfg), s.safety.safe = false → (s.parcel n).cfg.pending = some c →
    runsCmd s n (fun x => x.kind = 1) = false → ∃ t, exec (.commitApply (pgParcel n) u) s = .next t ∧
    (t.parcel n).cfg.pending = none ∧
    (t.parcel n).cfg.live = (if (parcelCfgBad c).isNone then c else (s.parcel n).cfg.live) ∧
    (vget t.pages (pgParcel n)).rejected = ((vget s.pages (pgParcel n)).rejected || (parcelCfgBad c).isSome)) ∧
  (∀ (s : State) (q : Fin 256) (c : QueueCfg), s.safety.safe = false → (s.queue q).cfg.pending = some c →
    queueEmpty (s.queue q) = true → ∃ t, exec (.commitApply (pgQueue q) (Fin.ofNat 16 (q.val % 16))) s = .next t ∧
    (t.queue q).cfg.pending = none ∧
    (t.queue q).cfg.live = (if (c.en = true ∧ c.size = 0) ∨ (s.parcel c.parcel.toFin).state = 0 then (s.queue q).cfg.live else c) ∧
    (∀ r : Fin 256, r ≠ q → t.queue r = s.queue r)) ∧
  (∀ (s : State) (p : Fin 121), s.safety.safe = false → allocated p.val = true → offPress s p.val = false →
    hostCommit p.val = false → (∃ t, exec (.commitGo .host p) s = .next t ∧ t.port.errCount = satInc s.port.errCount 1 ∧
      t = { s with pages := t.pages, diag := t.diag, freeCtr := t.freeCtr, port := t.port }) ∧
    (∃ t, exec (.commitCancel .host p) s = .next t ∧ t.port.errCount = satInc s.port.errCount 1 ∧
      t = { s with pages := t.pages, diag := t.diag, freeCtr := t.freeCtr, port := t.port })) ∧
  (∀ (s : State) (p : Fin 121) (u : Fin 16), (s.safety.safe = true ∨ pagePending s p.val = false) →
    exec (.commitApply p u) s = .next s)

/-- R12, R425, R427, R428, R660, R673, R694, R703: a register write. CAP stores the nearest end of its range; IRQ_STATUS clears the
bits written as 1 and IRQ_MASK keeps its two bits, for firmware, while the host's write of a 1 to either is denied and recorded as a
host port error; a write of a page that Table 20.6 does not allocate records the same of the host and does nothing else; the page
of a press that is not enabled takes no write. Clearing an error record empties it and leaves every other page as it is. -/
def Obligations.RegisterWritesAct : Prop :=
  (∀ (s : State) (who : Writer) (v : Word), Writes who 5 s → ∃ t, exec (.registerWrite who 5 0x10 v) s = .next t ∧
    t.power.cap.toNat = max 200 (min 750 (v.toNat % 1024)) ∧ t = { s with power := { s.power with cap := t.power.cap } }) ∧
  (∀ (s : State) (who : Writer) (p : Fin 121) (v : Word), who ≠ .host → writerActs who s = true → allocated p.val = true →
    offPress s p.val = false →
    exec (.registerWrite who (BitVec.ofNat 10 p.val) 4 v) s = .next (s.updPage p fun r => { r with
      irqError := r.irqError && !v.getLsbD 0, irqCommitDone := r.irqCommitDone && !v.getLsbD 1 }) ∧
    exec (.registerWrite who (BitVec.ofNat 10 p.val) 5 v) s = .next (s.updPage p fun r => { r with irqMask := v &&& 3 })) ∧
  (∀ (s : State) (p : Fin 121) (w : BitVec 10) (v : Word), s.safety.safe = false → allocated p.val = true →
    offPress s p.val = false → (w = 4 ∨ w = 5 ∧ (vget s.pages p).irqMask = 3) → v = 1 ∨ v = 2 →
    ∃ t, exec (.registerWrite .host (BitVec.ofNat 10 p.val) w v) s = .next t ∧
    t.port.errCount = satInc s.port.errCount 1 ∧ (p ≠ pgHostPort → vget t.pages p = vget s.pages p) ∧
    t = { s with pages := t.pages, diag := t.diag, freeCtr := t.freeCtr, port := t.port }) ∧
  (∀ (s : State) (pg w : BitVec 10) (v : Word), allocated pg.toNat = false →
    (∃ t, exec (.registerWrite .host pg w v) s = .next t ∧
      t.port.errCount = satInc s.port.errCount 1 ∧ (vget t.pages pgHostPort).irqError = true ∧
      t = { s with pages := t.pages, diag := t.diag, freeCtr := t.freeCtr, port := t.port }) ∧
    ∀ who : Writer, who ≠ .host → exec (.registerWrite who pg w v) s = .next s) ∧
  (∀ (s : State) (who : Writer) (n : Fin 16) (w : BitVec 10) (v : Word), enabled s n = false →
    (who = .host → s.safety.safe = false) → exec (.registerWrite who (BitVec.ofNat 10 (20 + n.val)) w v) s = .next s) ∧
  (∀ (s : State) (who : Writer) (p : Fin 121), Writes who p.val s → allocated p.val = true → offPress s p.val = false →
    ∃ t, exec (.errClear who p) s = .next t ∧ (vget t.pages p).errValid = false ∧ (vget t.pages p).errLost = 0 ∧
    (∀ q : Fin 121, q ≠ p → vget t.pages q = vget s.pages q) ∧ t = { s with pages := t.pages })

/-- R424: a read of a word that is the low half of a 64-bit value latches the high half, which stands until the next such read of the
same value; of a word that is none it latches nothing. The low half of a press's BUSY is such a word.
R149, R296, R369, R412, R510: CNT_CLEAR clears the counters of a press or engine and nothing else; ACCT_CLEAR empties the accounting
table; INVAL by firmware changes no register or table, and by the host it is denied; MAX_PIXELS stores the nearest end of its range. -/
def Obligations.CountersLatchAndClear : Prop :=
  (∀ (s : State) (pg w : BitVec 10) (x : Word), highHalf s pg.toNat w.toNat = some x →
    ∃ t, exec (.counterLoRead pg w) s = .next t ∧ lookupKey t.port.hiLatch (pg.toNat * 1024 + w.toNat + 1) = some x ∧
    (∀ k, k ≠ pg.toNat * 1024 + w.toNat + 1 → lookupKey t.port.hiLatch k = lookupKey s.port.hiLatch k) ∧
    t = { s with port := { s.port with hiLatch := t.port.hiLatch } }) ∧
  (∀ (s : State) (pg w : BitVec 10), highHalf s pg.toNat w.toNat = none → exec (.counterLoRead pg w) s = .next s) ∧
  (∀ (s : State) (p : Fin 16), enabled s p = true →
    highHalf s (20 + p.val) 0x12 = some (((s.press p).busy >>> 32).setWidth 32)) ∧
  (∀ (s : State) (who : Writer) (p : Fin 16), Writes who (20 + p.val) s → enabled s p = true →
    ∃ t, exec (.cntClear who (BitVec.ofNat 10 (20 + p.val))) s = .next t ∧
    t.press p = { s.press p with busy := 0, stallWeight := 0, stallDrain := 0, stallOutlier := 0, stallOperand := 0 } ∧
    (∀ q : Fin 16, q ≠ p → t.press q = s.press q) ∧ t = { s with presses := t.presses }) ∧
  (∀ (s : State) (who : Writer) (e : Fin 6), Writes who (52 + e.val) s →
    ∃ t, exec (.cntClear who (BitVec.ofNat 10 (52 + e.val))) s = .next t ∧
    t.engine e = { s.engine e with busy := 0, work := 0 } ∧
    (∀ f : Fin 6, f ≠ e → t.engine f = s.engine f) ∧ t = { s with engines := t.engines }) ∧
  (∀ (s : State) (who : Writer), Writes who 88 s → exec (.acctClear who) s = .next { s with acct := {} }) ∧
  (∀ (s : State) (who : Writer) (n : BitVec 24), who ≠ .host →
    exec (.invalVpn who n) s = .next s ∧ exec (.invalAll who) s = .next s) ∧
  (∀ s : State, ∃ t, exec (.invalAll .host) s = .next t ∧ t.port.errCount = satInc s.port.errCount 1 ∧ t.mmu = s.mmu) ∧
  (∀ (s : State) (who : Writer) (n : BitVec 27), Writes who 56 s → ∃ t, exec (.maxPixelsWrite who n) s = .next t ∧
    t.intake.maxPixels.toNat = max 1 (min 67108864 n.toNat) ∧
    t = { s with intake := { s.intake with maxPixels := t.intake.maxPixels } })

/-- R145, R446, R476: firmware's write of FAILED.MASK takes a press out of service, whatever runs on it; IRQ_ACK stores ACKED of its
wire, so that the lead's wire is asserted exactly while the two differ; RESUME.GO, once the submit words written before it are taken,
leaves a stopped queue to resume at the TAIL it then has: at once, or when its last cancellation has ended. In the safe state neither
write of the host is taken. -/
def Obligations.FailAckResumeAct : Prop :=
  (∀ (s : State) (p : Fin 16), hartsRun s = true →
    ∃ t, exec (.pressFailedSet p) s = .next t ∧ t.failed = s.failed ||| BitVec.ofNat 16 (2 ^ p.val) ∧ enabled t p = false ∧
    t.fuses = s.fuses) ∧
  (∀ (s : State) (w : Fin 4) (v : Word), s.safety.safe = false → ∃ t, exec (.irqAck w v) s = .next t ∧
    (vget t.port.wires w).acked = v ∧ (vget t.port.wires w).raised = (vget s.port.wires w).raised ∧
    irqN t w = (isLead s && decide ((vget s.port.wires w).raised ≠ v)) ∧
    (∀ x : Fin 4, x ≠ w → vget t.port.wires x = vget s.port.wires x) ∧ t = { s with port := t.port }) ∧
  (∀ (s : State) (q : Fin 256) (x : Queue), s.safety.safe = false → x = (takeSubmits s.port.observer.length q s).queue q →
    x.stopped = true → x.resume = none → ∃ t, exec (.resumeGo q) s = .next t ∧ (t.queue q).tail = x.tail ∧
    ((t.queue q).stopped = false ∧ (t.queue q).resume = none ∨
      (t.queue q).stopped = true ∧ (t.queue q).resume = some x.tail) ∧ t.dram = s.dram) ∧
  (∀ (s : State) (w : Fin 4) (v : Word) (q : Fin 256), s.safety.safe = true →
    (∃ t, exec (.irqAck w v) s = .next t ∧ t.port.wires = s.port.wires ∧ t.port.errCount = satInc s.port.errCount 1) ∧
    ∃ t, exec (.resumeGo q) s = .next t ∧ t.queues = s.queues ∧ t.port.errCount = satInc s.port.errCount 1)

/-! ### Host port -/

/-- R419, R420, R422: every byte of the two channels has its own window address, at every interleave: two commands that name
the same window address name the same channel, row, bank and column. -/
def Obligations.WindowAddressesAreDistinct : Prop :=
  ∀ (ilv : BitVec 2) (ch ch' : Fin 2) (row row' : BitVec 17) (bank bank' : BitVec 4) (col col' : BitVec 11),
    windowAddress ilv ch (channelOffset row bank col.toNat) = windowAddress ilv ch' (channelOffset row' bank' col'.toNat) →
    ch = ch' ∧ row = row' ∧ bank = bank' ∧ col = col'

/-- R417, R422, R429, R433, R436: a burst that the host writes to staging SRAM of the lead, and then reads with the same command
address, comes back byte for byte, but for the bytes that a running command writes, which are undefined; between the two no other
byte of the window SRAM changes, and no register. A burst whose link ECC finds an error that it cannot correct writes nothing and is
recorded. -/
def Obligations.HostReadsWhatItWrote : Prop :=
  (∀ (s : State) (ch : Fin 2) (row : BitVec 17) (bank : BitVec 4) (col : BitVec 11) (data : List Byte) (ecc : LinkEcc),
    HostReaches s ch ecc → 0 < s.port.devices.toNat → ¬ 0 ∈ s.port.lost → slotOf (hostWindow s ch row bank col) = 0 →
    0x1000000 ≤ hostWindow s ch row bank col → hostWindow s ch row bank col + data.length ≤ 0x2800000 →
    burstOk col.toNat data.length = true →
    ∃ t, exec (.hostWrite ch row bank col (data.map some) ecc) s = .next t ∧
      (∀ a, a < hostWindow s ch row bank col ∨ hostWindow s ch row bank col + data.length ≤ a →
        t.port.window.read a = s.port.window.read a) ∧
      t.pages = s.pages ∧ t.dram = s.dram ∧ t.cellar = s.cellar ∧ t.presses = s.presses ∧ t.queues = s.queues ∧
      ∃ u, exec (.hostRead ch row bank col data.length) t = .next u ∧ u.port.dq.length = data.length ∧
        (∀ i, i < data.length → ¬ Unsettled t (hostWindow s ch row bank col + i) → u.port.dq.getD i 0 = data.getD i 0) ∧
        (unsettledStaging t = [] → u.port.dq = data) ∧
        u = { t with port := { t.port with dq := u.port.dq }, freeCtr := u.freeCtr }) ∧
  (∀ (s : State) (ch : Fin 2) (row : BitVec 17) (bank : BitVec 4) (col : BitVec 11) (data : List (Option Byte)),
    portAnswers s ch = true → writeEcc s ch = true → burstOk col.toNat data.length = true →
    ∃ t, exec (.hostWrite ch row bank col data .uncorrectable) s = .next t ∧ t.port.window = s.port.window ∧
      t.port.linkUncorr = satInc s.port.linkUncorr 1 ∧ t.port.errCount = satInc s.port.errCount 1 ∧
      t = { s with pages := t.pages, diag := t.diag, freeCtr := t.freeCtr, port := t.port })

/-- R424, R428, R430, R435, R439, R442, R449: reads and writes that meet no staging SRAM. A slot of a device that is not there, or
lost, and a reserved offset of the lead read as all ones and record a host port error; a register word reads as the register; an
echoed offset of another device reads the lead's copy, and one that is not echoed reads as all ones and is recorded; a channel in
self-refresh answers nothing. A host write of a whole submit word is seen by the observer; a write to another device's slot joins
the forward queue, and is dropped, counted and recorded when the queue is full.
R427, R436, R438, R673: a forwarded write to staging SRAM of a device other than the lead stores its bytes and no other;
in the safe state the window SRAM takes no host write and the write is recorded as denied. -/
def Obligations.ReadsOfNothingAndForwardedWrites : Prop :=
  (∀ (s : State) (ch : Fin 2) (row : BitVec 17) (bank : BitVec 4) (col : BitVec 11) (n : Nat), portAnswers s ch = true →
    slotAbsent s (slotOf (hostWindow s ch row bank col)) = true → burstOk col.toNat n = true →
    ∃ t, exec (.hostRead ch row bank col n) s = .next t ∧ t.port.dq = List.replicate n 0xFF ∧
    t.port.errCount = satInc s.port.errCount 1 ∧ t.port.window = s.port.window) ∧
  (∀ (s : State) (off : BitVec 27), (reservedOffset off.toNat = true → ∃ t, exec (.reservedRead off) s = .next t ∧
      t.port.dq = List.replicate 32 0xFF ∧ t.port.errCount = satInc s.port.errCount 1 ∧ t.port.window = s.port.window) ∧
    (reservedOffset off.toNat = false → exec (.reservedRead off) s = .next s)) ∧
  (∀ (s : State) (ch : Fin 2) (row : BitVec 17) (bank : BitVec 4) (col : BitVec 11), portAnswers s ch = true →
    slotAbsent s 0 = false → hostWindow s ch row bank col < 0x400000 → hostWindow s ch row bank col % 4 = 0 →
    allocated (hostWindow s ch row bank col / 4096) = true → burstOk col.toNat 4 = true →
    ∃ t, exec (.hostRead ch row bank col 4) s = .next t ∧ t.port.dq =
      leBytes 4 (regRead s (hostWindow s ch row bank col / 4096) (hostWindow s ch row bank col % 4096 / 4)).toNat ∧
    t = { s with port := { s.port with dq := t.port.dq, hiLatch := t.port.hiLatch } }) ∧
  (∀ (s : State) (ch : Fin 2) (row : BitVec 17) (bank : BitVec 4) (col : BitVec 11) (n : Nat), portAnswers s ch = true →
    slotAbsent s (slotOf (hostWindow s ch row bank col)) = false → slotOf (hostWindow s ch row bank col) ≠ 0 →
    burstOk col.toNat n = true → ∃ t, exec (.hostRead ch row bank col n) s = .next t ∧ t.port.window = s.port.window ∧
    (∀ a, echoAddress s (slotOf (hostWindow s ch row bank col)) (offsetOf (hostWindow s ch row bank col)) = some a →
      t.port.dq = s.port.window.readBytes a n ∧ t.port.errCount = s.port.errCount) ∧
    (echoAddress s (slotOf (hostWindow s ch row bank col)) (offsetOf (hostWindow s ch row bank col)) = none →
      t.port.dq = List.replicate n 0xFF ∧ t.port.errCount = satInc s.port.errCount 1)) ∧
  (∀ (s : State) (ch : Fin 2) (row : BitVec 17) (bank : BitVec 4) (col : BitVec 11) (n : Nat), burstOk col.toNat n = true →
    (vget s.port.channels ch).asleep = true → exec (.hostRead ch row bank col n) s = .next s) ∧
  (∀ (s : State) (ch : Fin 2) (row : BitVec 17) (bank : BitVec 4) (col : BitVec 11) (data : List Byte) (ecc : LinkEcc) (q : Fin 256),
    HostReaches s ch ecc → slotAbsent s 0 = false → hostWindow s ch row bank col = ringBase q → data.length = 8 →
    burstOk col.toNat 8 = true → ∃ t, exec (.hostWrite ch row bank col (data.map some) ecc) s = .next t ∧
    t.port.window.readBytes (ringBase q) 8 = data ∧
    t.port.observer = s.port.observer ++ [.submit q (BitVec.ofNat 64 (t.port.window.readNat (ringBase q) 8))] ∧
    t = { s with port := t.port }) ∧
  (∀ (s : State) (ch : Fin 2) (row : BitVec 17) (bank : BitVec 4) (col : BitVec 11) (data : List (Option Byte)),
    HostReaches s ch .clean → slotAbsent s (slotOf (hostWindow s ch row bank col)) = false →
    slotOf (hostWindow s ch row bank col) ≠ 0 → burstOk col.toNat data.length = true →
    ∃ t, exec (.hostWrite ch row bank col data .clean) s = .next t ∧
    (s.port.forward.length < 4096 → t = { pumpForward { s with port := { s.port with forward := s.port.forward ++ [{
      dev := Fin.ofNat 64 (slotOf (hostWindow s ch row bank col))
      offset := BitVec.ofNat 27 (offsetOf (hostWindow s ch row bank col)), data := data }] } } with pending := s.pending }) ∧
    (4096 ≤ s.port.forward.length → t.port.fwdDropped = satInc s.port.fwdDropped 1 ∧ t.port.forward = s.port.forward ∧
      t.port.errCount = satInc s.port.errCount 1 ∧ t.port.window = s.port.window)) ∧
  (∀ (s : State) (off : BitVec 27) (data : List Byte), isLead s = false → s.safety.safe = false →
    0x1000000 ≤ off.toNat → off.toNat + data.length ≤ 0x2800000 → burstOk off.toNat data.length = true →
    ∃ t, exec (.forwardedWriteApply off (data.map some)) s = .next t ∧
    t.port.window.readBytes off.toNat data.length = data ∧
    (∀ a, a < off.toNat ∨ off.toNat + data.length ≤ a → t.port.window.read a = s.port.window.read a) ∧
    t = { s with port := { s.port with window := t.port.window } }) ∧
  (∀ (s : State) (off : BitVec 27) (data : List Byte), isLead s = false → s.safety.safe = true →
    0x1000000 ≤ off.toNat → off.toNat < 0x2800000 → burstOk off.toNat data.length = true →
    ∃ t, exec (.forwardedWriteApply off (data.map some)) s = .next t ∧
    t.port.window = s.port.window ∧ t.port.errCount = satInc s.port.errCount 1)

/-- R414, R415: LPDDR5X commands of a channel that answers. A mode register write stores the writable fields of a register
that is not read-only, and a read drives what the register holds; the write FIFO reads back; read DQ calibration drives a pattern,
the end of training sets the rate and the other steps of training change nothing; refresh and power-down change nothing.
R447, R449: a channel that enters self-refresh or deep sleep mode answers no command and the host is asleep, and it answers again
after its exit; the host is awake when neither channel sleeps. A lead whose port is not up takes none of them. -/
def Obligations.ChannelCommandsAct : Prop :=
  (∀ (s : State) (ch : Fin 2) (mr v : Byte), portAnswers s ch = true → modeReadOnly mr = false →
    ∃ t, exec (.modeRegisterWrite ch mr v) s = .next t ∧
    modeValue t ch mr = ((v &&& Config.modeRegisterWritable mr) ||| (modeValue s ch mr &&& ~~~Config.modeRegisterWritable mr)) ∧
    (∀ (c : Fin 2) (m : Byte), ¬ (c = ch ∧ m = mr) → modeValue t c m = modeValue s c m) ∧ t = { s with port := t.port }) ∧
  (∀ (s : State) (ch : Fin 2) (mr v : Byte), modeReadOnly mr = true → exec (.modeRegisterWrite ch mr v) s = .next s) ∧
  (∀ (s : State) (ch : Fin 2) (mr : Byte), portAnswers s ch = true →
    exec (.modeRegisterRead ch mr) s = .next { s with port := { s.port with dq := [modeValue s ch mr] } }) ∧
  (∀ (s : State) (ch : Fin 2) (data : List Byte), portAnswers s ch = true →
    ∃ t, exec (.writeFifo ch data) s = .next t ∧ t = { s with port := t.port } ∧
    ∃ u, exec (.readFifo ch) t = .next u ∧ u.port.dq = data ∧ u = { t with port := u.port }) ∧
  (∀ (s : State) (ch : Fin 2) (rate : BitVec 14), portAnswers s ch = true → 3200 ≤ rate.toNat → rate.toNat ≤ 8533 →
    ∃ t, exec (.hostTraining ch (.complete rate)) s = .next t ∧ t.port.rateMts = rate ∧
    (vget t.port.channels ch).trained = true ∧ t = { s with port := t.port }) ∧
  (∀ (s : State) (ch : Fin 2), portAnswers s ch = true → ∃ t, exec (.hostTraining ch .readDq) s = .next t ∧
    t.port.dq.length = 2 ∧ t = { s with port := { s.port with dq := t.port.dq } }) ∧
  (∀ (s : State) (ch : Fin 2) (k : TrainingKind), k = .commandAddress ∨ k = .wckToCk ∨ k = .wck →
    exec (.hostTraining ch k) s = .next s) ∧
  (∀ (s : State) (ch : Fin 2) (all : Bool), exec (.hostRefresh ch all) s = .next s ∧ exec (.powerDownEntry ch) s = .next s ∧
    exec (.powerDownExit ch) s = .next s) ∧
  (∀ (s : State) (ch : Fin 2), s.boot.hostPortUp = true → ∃ t, exec (.selfRefreshEntry ch) s = .next t ∧
    portAnswers t ch = false ∧ hostAsleep t = true ∧ t.port.window = s.port.window ∧
    ∃ u, exec (.selfRefreshExit ch) t = .next u ∧ portAnswers u ch = isLead s ∧ u.port.window = s.port.window ∧
    hostAsleep u = (List.finRange 2).any fun c => c ≠ ch && (vget s.port.channels c).asleep) ∧
  (∀ (s : State) (ch : Fin 2), s.boot.hostPortUp = true → ∃ t, exec (.deepSleepModeEntry ch) s = .next t ∧
    portAnswers t ch = false ∧ hostAsleep t = true ∧ t.port.window = s.port.window ∧
    ∃ u, exec (.deepSleepModeExit ch) t = .next u ∧ portAnswers u ch = isLead s ∧ u.port.window = s.port.window ∧
    hostAsleep u = (List.finRange 2).any fun c => c ≠ ch && (vget s.port.channels c).asleep) ∧
  (∀ (s : State) (ch : Fin 2), s.boot.hostPortUp = false → isLead s = true →
    exec (.selfRefreshEntry ch) s = .next s ∧ exec (.selfRefreshExit ch) s = .next s ∧
    exec (.deepSleepModeEntry ch) s = .next s ∧ exec (.deepSleepModeExit ch) s = .next s)

/-- R440, R441, R444: a device other than the lead, in a system of several, pushes the oldest changed unit that waits, with the event
that it carries, or, when none waits, a unit of control space that has changed since it was pushed; any other unit is not pushed.
The lead stores a pushed unit in its echo store and counts the event that came with it on its wire; a unit that is not echoed, or
from no device of the system, is dropped. -/
def Obligations.EchoesMove : Prop :=
  (∀ (s : State) (u : Nat) (event : Option (BitVec 2)) (rest : List (Nat × Option (BitVec 2))), isLead s = false →
    1 < s.port.devices.toNat → s.port.pushes = (u, event) :: rest → u < 2 ^ 22 →
    ∃ t, exec (.echoPush (BitVec.ofNat 22 u)) s = .next t ∧ Sent s t (.echo (BitVec.ofNat 22 u) (unitData s u) event) ∧
    t.port.pushes = rest ∧ t.port.window = s.port.window) ∧
  (∀ (s : State) (unit : BitVec 22), isLead s = false → 1 < s.port.devices.toNat → s.port.pushes = [] →
    unitChanged s unit.toNat = true → ∃ t, exec (.echoPush unit) s = .next t ∧
    Sent s t (.echo unit (unitData s unit.toNat) none) ∧
    lookupKey t.port.pushed unit.toNat = some (unitData s unit.toNat) ∧ t.port.window = s.port.window) ∧
  (∀ (s : State) (unit : BitVec 22), (isLead s = true ∨ (s.port.pushes = [] ∧ unitChanged s unit.toNat = false) ∨
      (s.port.pushes ≠ [] ∧ (s.port.pushes.head?.map fun x => x.1) ≠ some unit.toNat)) → exec (.echoPush unit) s = .next s) ∧
  (∀ (s : State) (dev : Fin 64) (unit : BitVec 22) (data : List Byte) (a : Nat) (event : Option (Fin 4)), data.length = 32 →
    isLead s = true → dev ≠ 0 → dev.val < s.port.devices.toNat → echoAddress s dev.val (unit.toNat * 32) = some a →
    ∃ t, exec (.echoApply dev unit data event) s = .next t ∧ t.port.window.readBytes a 32 = data ∧
    (∀ b, b < a ∨ a + 32 ≤ b → t.port.window.read b = s.port.window.read b) ∧ t = { s with port := t.port } ∧
    ∀ w : Fin 4, (vget t.port.wires w).raised = (vget s.port.wires w).raised +
      (if event = some w ∧ s.safety.safe = false then 1 else 0)) ∧
  (∀ (s : State) (dev : Fin 64) (unit : BitVec 22) (data : List Byte) (event : Option (Fin 4)), data.length = 32 →
    (isLead s = false ∨ dev = 0 ∨ s.port.devices.toNat ≤ dev.val ∨ echoAddress s dev.val (unit.toNat * 32) = none) →
    exec (.echoApply dev unit data event) s = .next s)

/-! ### Queues and commands -/

/-- R454 to R459, R471, R483, R735: the front end takes the oldest submit word that was written to a queue: of an enabled queue it
sets TAIL and CONSUMED, each where it is in range, and no other queue changes; a TAIL or CONSUMED out of range, or a disabled queue,
is an error of the queue's page. COMMAND_CHECK, when the queue's turn has come, reads its next descriptor: a command that passes its
checks takes its place in the queue, and one that fails ends with the check's status and DATA; before its turn, and while a read of
the check is held, the command stays unread. -/
def Obligations.CommandsAreSubmittedAndChecked : Prop :=
  (∀ (s : State) (q : Fin 256) (w : Long), s.safety.safe = false → s.port.observer.find? (isSubmit q) = some (.submit q w) →
    (s.queue q).cfg.live.en = true → (w.setWidth 32 - (s.queue q).tail).toNat < 2 ^ 31 →
    (w.setWidth 32 - (s.queue q).read).toNat ≤ (s.queue q).cfg.live.size.toNat →
    (((w >>> 32).setWidth 32 : Word) - (s.queue q).consumed).toNat ≤ ((s.queue q).nextCork - (s.queue q).consumed).toNat →
    ∃ t, exec (.submitWordWrite q) s = .next t ∧ (t.queue q).tail = w.setWidth 32 ∧
    (t.queue q).consumed = (w >>> 32).setWidth 32 ∧ (t.queue q).cmds = (s.queue q).cmds ∧
    (∀ r : Fin 256, r ≠ q → t.queue r = s.queue r) ∧
    t = { s with queues := t.queues, checking := t.checking, checkTurn := t.checkTurn
                 port := { s.port with observer := dropEvent (isSubmit q) s.port.observer } }) ∧
  (∀ (s : State) (q : Fin 256) (w : Long), s.safety.safe = false → s.port.observer.find? (isSubmit q) = some (.submit q w) →
    ((s.queue q).cfg.live.en = false ∨ w.setWidth 32 ≠ (s.queue q).tail ∧
      (2 ^ 31 ≤ (w.setWidth 32 - (s.queue q).tail).toNat ∨
        (s.queue q).cfg.live.size.toNat < (w.setWidth 32 - (s.queue q).read).toNat)) →
    ∃ t, exec (.submitWordWrite q) s = .next t ∧ (t.queue q).tail = (s.queue q).tail ∧
    t.port.observer = dropEvent (isSubmit q) s.port.observer ∧ (vget t.pages (pgQueue q)).errValid = true ∧
    (vget t.pages (pgQueue q)).irqError = true ∧
    ((vget s.pages (pgQueue q)).errValid = false → (vget t.pages (pgQueue q)).errCode =
      if (s.queue q).cfg.live.en then 1 else 3)) ∧
  (∀ (s : State) (q : Fin 256) (w : Long), s.safety.safe = false → s.port.observer.find? (isSubmit q) = some (.submit q w) →
    (s.queue q).cfg.live.en = true →
    ((s.queue q).nextCork - (s.queue q).consumed).toNat < (((w >>> 32).setWidth 32 : Word) - (s.queue q).consumed).toNat →
    ∃ t, exec (.submitWordWrite q) s = .next t ∧ (t.queue q).consumed = (s.queue q).consumed ∧
    t.port.observer = dropEvent (isSubmit q) s.port.observer ∧ (vget t.pages (pgQueue q)).errValid = true) ∧
  (∀ (s : State) (q : Fin 256), (s.safety.safe = true ∨ s.port.observer.find? (isSubmit q) = none) →
    exec (.submitWordWrite q) s = .next s) ∧
  (∀ (s : State) (q : Fin 256) (h : ReadHealth) (c : Cmd), s.safety.safe = false → (s.queue q).cfg.live.en = true →
    (s.queue q).stopped = false → (fillChecks s).checking.contains q = true →
    checkCommand (fillChecks s) q (readCmd q (fillChecks s)) = .ok c →
    ∃ t, exec (.commandCheck q h) s = .next (noted h s t) ∧
    ((t.queue q).cmds.take ((s.queue q).cmds.length + 1)).map (·.seq) = (s.queue q).cmds.map (·.seq) ++ [c.seq] ∧
    (dueCandidate (s.queue q) = none → (t.queue q).read = (s.queue q).read + 1 ∧
      (t.queue q).cmds.length = (s.queue q).cmds.length + 1) ∧
    t.dram = s.dram ∧ t.presses.map (·.sequencer) = s.presses.map (·.sequencer)) ∧
  (∀ (s : State) (q : Fin 256) (h : ReadHealth) (e : Stop), s.safety.safe = false → (s.queue q).cfg.live.en = true →
    (s.queue q).stopped = false → (fillChecks s).checking.contains q = true →
    checkCommand (fillChecks s) q (readCmd q (fillChecks s)) = .error e →
    ∃ t, exec (.commandCheck q h) s = .next (noted h s t) ∧ t.dram = s.dram ∧
    (e.held = false → s.cmd q (s.queue q).read = none →
      (t.cmd q (s.queue q).read).map (·.phase) = some (endPhase s q (s.queue q).read e.status e.data)) ∧
    (e.held = true → (t.queue q).read = (s.queue q).read ∧ (t.queue q).cmds = (s.queue q).cmds)) ∧
  (∀ (s : State) (q : Fin 256) (h : ReadHealth), s.safety.safe = false → (s.queue q).cfg.live.en = true →
    (s.queue q).stopped = false → (fillChecks s).checking.contains q = false →
    exec (.commandCheck q h) s = .next (noted h s (fillChecks s)))

/-- R112, R131, R146, R404, R460 to R464, R490, R491, R531: COMMAND_START starts the queue's next command that its order and its
block allow. A PRESS_PROGRAM command that has not run, or that KILL re-queued, seats its presses, and their twins, at their first
instruction with counters 0 to 62 at 0, and a suspended one is restored; an ENGINE or CODEC command joins its block's list, a BARRIER
takes the next generation of its identifier, and any other kind starts alone. A command that needs a failed press ends instead, and
with no such command nothing changes.
R461, R466, R468 to R471: a command whose writes are done commits with its status, or waits while 64 corks are held, and the cork of
the queue's next command is appended to the log as Table 12.3 lays it out, when the log has room; on the lead it raises the queue's
wire unless it is quiet. -/
def Obligations.CommandsStartAndEnd : Prop :=
  (∀ (s : State) (q : Fin 256) (c : Cmd), startsNext s q = some c → failedNeed s q c = none →
    c.kind ≠ 1 → c.kind ≠ 2 → c.kind ≠ 5 → c.kind ≠ 6 →
    ∃ t, exec (.commandStart q) s = .next t ∧ (t.cmd q c.seq).map (·.phase) = some .started ∧
    (∀ r : Fin 256, r ≠ q → t.queue r = s.queue r) ∧ t.presses = s.presses ∧ t.dram = s.dram ∧ t.objects = s.objects) ∧
  (∀ (s : State) (q : Fin 256) (c : Cmd), startsNext s q = some c → s.cmd q c.seq = some c → failedNeed s q c = none →
    c.kind = 1 →
    ∃ t, exec (.commandStart q) s = .next t ∧
    (t.cmd q c.seq).map (·.phase) = some (match c.phase with | .suspended k => .restoring k | _ => .started) ∧
    (c.twinned = false → ∀ p ∈ maskPresses c.pressMask,
      (t.press p).sequencer.map (fun k => (k.queue, k.seq, k.index, k.twinOf)) = some (q, c.seq, 0, none) ∧
      (t.press p).cask = (s.press p).cask ∧ ∀ i : Fin 64, i.val < 63 → vget (t.press p).arrive i = 0) ∧
    (c.twinned = true → ∀ p ∈ maskPresses c.pressMask, ∀ x, twinPress s (s.parcelOf q) p = some x →
      x ∉ maskPresses c.pressMask → (t.press x).sequencer.map (fun k => (k.queue, k.seq, k.index, k.twinOf)) =
        some (q, c.seq, 0, some p) ∧ (t.press x).cask = (s.press x).cask) ∧
    (c.fold = none → t.dram = s.dram) ∧ t.objects = s.objects) ∧
  (∀ (s : State) (q : Fin 256) (c : Cmd), startsNext s q = some c → failedNeed s q c = none → c.kind = 2 →
    ∃ t, exec (.commandStart q) s = .next t ∧ (t.cmd q c.seq).map (·.phase) = some .running ∧
    (t.engine (Fin.ofNat 6 (c.target % 256))).waiting = (s.engine (Fin.ofNat 6 (c.target % 256))).waiting ++ [topJob q c s] ∧
    t.dram = s.dram ∧ t.objects = s.objects) ∧
  (∀ (s : State) (q : Fin 256) (c : Cmd), startsNext s q = some c → failedNeed s q c = none → c.kind = 5 →
    ∃ t, exec (.commandStart q) s = .next t ∧ (t.cmd q c.seq).map (·.phase) = some .running ∧
    (onCore t q c.seq = true ∨ (q, c.seq) ∈ t.codec.waiting) ∧ t.dram = s.dram ∧ t.objects = s.objects) ∧
  (∀ (s : State) (q : Fin 256) (c : Cmd) (g : Word), startsNext s q = some c → failedNeed s q c = none → c.kind = 6 →
    g = (lookupKey s.vine.generations (c.target % 65536)).getD 0 →
    ∃ t, exec (.commandStart q) s = .next t ∧ (t.cmd q c.seq).map (·.phase) = some .started ∧
    lookupKey t.vine.generations (c.target % 65536) = some (g + 1) ∧
    t.vine.barriers = s.vine.barriers ++ [{
      ident := BitVec.ofNat 16 c.target, gen := g, arrivedAt := s.time, tRel := none, queue := q, seq := c.seq }] ∧ t.dram = s.dram ∧ t.objects = s.objects) ∧
  (∀ (s : State) (q : Fin 256) (c : Cmd) (e : Stop), startsNext s q = some c → s.cmd q c.seq = some c →
    failedNeed s q c = some e →
    ∃ t, exec (.commandStart q) s = .next t ∧ (t.cmd q c.seq).map (·.phase) = some (endPhase s q c.seq e.status e.data) ∧
    t.dram = s.dram) ∧
  (∀ (s : State) (q : Fin 256), startsNext s q = none → exec (.commandStart q) s = .next s) ∧
  (∀ (s : State) (q : Fin 256) (seq : Word) (c : Cmd) (st : Byte) (data : Long), s.safety.safe = false →
    s.cmd q seq = some c → c.phase = .written st data →
    ∃ t, exec (.commandCommit q seq) s = .next t ∧ (t.cmd q seq).map (·.phase) = some (endPhase s q seq st data) ∧
    (mayEnd (s.queue q) seq = true → (t.cmd q seq).map (·.tEnd) = some s.time) ∧ t.dram = s.dram ∧ t.objects = s.objects) ∧
  (∀ (s : State) (q : Fin 256) (c : Cmd) (st : Byte) (data : Long), s.safety.safe = false →
    ((s.queue q).nextCork - (s.queue q).consumed).toNat < 128 → s.cmd q (s.queue q).nextCork = some c →
    c.phase = .ended st data → ∃ t, exec (.corkAppend q) s = .next t ∧ (t.queue q).nextCork = (s.queue q).nextCork + 1 ∧
    t.port.window.readBytes (corkLog q + 32 * ((s.queue q).nextCork.toNat % 128)) (corkRecord s q c st data).length =
      corkRecord s q c st data ∧
    t.dram = s.dram ∧
    (s.fw.muxWaiting = [] → (∀ p : Fin 8, (s.pair p).job = none) →
      ∀ w : Fin 4, (vget t.port.wires w).raised = (vget s.port.wires w).raised +
        (if isLead s && !c.quiet && decide (w = (s.queue q).cfg.live.wire.toFin) then 1 else 0))) ∧
  (∀ (s : State) (q : Fin 256), (s.safety.safe = true ∨ 128 ≤ ((s.queue q).nextCork - (s.queue q).consumed).toNat ∨
    s.cmd q (s.queue q).nextCork = none) → exec (.corkAppend q) s = .next s)

/-- R160, R182, R183, R295, R322, R404, R462, R463: the kinds of command that need no block of their own, each with its whole
effect: a PRESS_PROGRAM command runs; a CAPTURE waits at its pipeline; a COPY that meets no fault has made every write, one that
meets a fault ends with it, and one through the compressor waits while its lane is busy; a MARKER ends at once; OBJECT_FREE releases a
free object at once, marks a held one, and is rejected when the object has gone meanwhile. A row that names no started command of its
kind changes nothing; what the reads of a COPY reported is counted. -/
def Obligations.CommandKindsAct : Prop :=
  (∀ (s : State) (q : Fin 256) (seq : Word) (c : Cmd), startedOf s q seq 1 = some c →
    ∃ t, exec (.pressProgram q seq) s = .next t ∧ (t.cmd q seq).map (·.phase) = some .running ∧ t = { s with queues := t.queues }) ∧
  (∀ (s : State) (q : Fin 256) (seq : Word) (c : Cmd), startedOf s q seq 3 = some c →
    ∃ t, exec (.capture q seq) s = .next t ∧ (t.cmd q seq).map (·.phase) = some .running ∧
    (t.pipe (Fin.ofNat 16 (c.target % 16))).pendingCaptures = (s.pipe (Fin.ofNat 16 (c.target % 16))).pendingCaptures ++
      [{ queue := q, seq := seq, parcel := s.parcelOf q, arrived := s.time }] ∧
    t = { s with queues := t.queues, pipes := t.pipes }) ∧
  (∀ (s : State) (q : Fin 256) (seq : Word) (c : Cmd) (h : ReadHealth), startedOf s q seq 4 = some c →
    ((compressEnds (opAt c.operands 0) (opAt c.operands 1)).isSome = false ∨ laneHeld s (queueLane q) = false) →
    (copied s q c).2 = none → ∃ t, exec (.copy q seq h) s = .next (noted h s t) ∧
    (t.cmd q seq).map (·.phase) = some (.written 0 0) ∧
    t.dram = (copied s q c).1.dram ∧ t.cellar = (copied s q c).1.cellar ∧ t.port = (copied s q c).1.port ∧
    (∀ p : Fin 16, (t.press p).cask = ((copied s q c).1.press p).cask) ∧
    ((opAt c.operands 1).space = 0 → vget (t.press (opAt c.operands 1).press).arrive 63 =
      vget ((copied s q c).1.press (opAt c.operands 1).press).arrive 63 + 1)) ∧
  (∀ (s : State) (q : Fin 256) (seq : Word) (c : Cmd) (h : ReadHealth) (e : Stop), startedOf s q seq 4 = some c →
    ((compressEnds (opAt c.operands 0) (opAt c.operands 1)).isSome = false ∨ laneHeld s (queueLane q) = false) →
    (copied s q c).2 = some e → e.held = false → ∃ t, exec (.copy q seq h) s = .next (noted h s t) ∧
    (t.cmd q seq).map (·.phase) = some (endPhase s q seq e.status e.data)) ∧
  (∀ (s : State) (q : Fin 256) (seq : Word) (c : Cmd) (h : ReadHealth), startedOf s q seq 4 = some c →
    (compressEnds (opAt c.operands 0) (opAt c.operands 1)).isSome = true → laneHeld s (queueLane q) = true →
    exec (.copy q seq h) s = .next (noted h s s)) ∧
  (∀ (s : State) (q : Fin 256) (seq : Word) (c : Cmd), startedOf s q seq 8 = some c →
    ∃ t, exec (.marker q seq) s = .next t ∧ (t.cmd q seq).map (·.phase) = some (endPhase s q seq 0 0) ∧ t.dram = s.dram ∧
    t.objects = s.objects) ∧
  (∀ (s : State) (q : Fin 256) (seq : Word) (c : Cmd) (o : Obj), startedOf s q seq 7 = some c →
    s.object (c.target % 65536) = some o → o.parcel = s.parcelOf q → o.releasePending = false → o.holds ≠ 0 →
    ∃ t, exec (.objectFree q seq) s = .next t ∧ (t.cmd q seq).map (·.phase) = some .running ∧
    t.object (c.target % 65536) = some { o with releasePending := true } ∧
    t = { s with queues := t.queues, objects := t.objects }) ∧
  (∀ (s : State) (q : Fin 256) (seq : Word) (c : Cmd) (o : Obj), startedOf s q seq 7 = some c →
    s.object (c.target % 65536) = some o → o.parcel = s.parcelOf q → o.releasePending = false → o.holds = 0 →
    ∃ t, exec (.objectFree q seq) s = .next t ∧ (t.cmd q seq).map (·.phase) = some (.written 0 0) ∧
    t.object (c.target % 65536) = none ∧ t = { s with queues := t.queues, objects := t.objects }) ∧
  (∀ (s : State) (q : Fin 256) (seq : Word) (c : Cmd), startedOf s q seq 7 = some c →
    objectUsable s (s.parcelOf q) (c.target % 65536) = false → ∃ t, exec (.objectFree q seq) s = .next t ∧
    (t.cmd q seq).map (·.phase) = some (endPhase s q seq 0x14 (dataI (c.target % 65536) 0)) ∧ t.objects = s.objects) ∧
  (∀ (s : State) (q : Fin 256) (seq : Word) (h : ReadHealth),
    (startedOf s q seq 1 = none → exec (.pressProgram q seq) s = .next s) ∧
    (startedOf s q seq 3 = none → exec (.capture q seq) s = .next s) ∧
    (startedOf s q seq 4 = none → exec (.copy q seq h) s = .next (noted h s s)) ∧
    (startedOf s q seq 7 = none → exec (.objectFree q seq) s = .next s) ∧
    (startedOf s q seq 8 = none → exec (.marker q seq) s = .next s))

/-- R461, R464, R466, R496, R672: when the presses of a killed command are idle they are free, and the command ends with the kill's
status; a command that a KILL pre-emption killed is queued again. In the safe state the presses come to rest and the command stays. -/
def Obligations.KilledCommandsEnd : Prop :=
  (∀ (s : State) (q : Fin 256) (seq : Word) (c : Cmd) (st : Byte) (data : Long), s.safety.safe = false →
    s.cmd q seq = some c → c.phase = .killing st data →
    ∃ t, exec (.killComplete q seq) s = .next t ∧ (t.cmd q seq).map (·.phase) = some (endPhase s q seq st data) ∧
    (∀ p ∈ pressesOf s q seq, (t.press p).sequencer = none ∧ (t.press p).twin = false) ∧ t.dram = s.dram) ∧
  (∀ (s : State) (q : Fin 256) (seq : Word) (c : Cmd), s.safety.safe = false → s.cmd q seq = some c →
    c.phase = .killingRequeue → ∃ t, exec (.killComplete q seq) s = .next t ∧
    (t.cmd q seq).map (·.phase) = some .requeued ∧ (t.cmd q seq).map (·.requeued) = some true ∧
    (∀ p ∈ pressesOf s q seq, (t.press p).sequencer = none) ∧ t.dram = s.dram) ∧
  (∀ (s : State) (q : Fin 256) (seq : Word) (c : Cmd) (st : Byte) (data : Long), s.safety.safe = true →
    s.cmd q seq = some c → (c.phase = .killing st data ∨ c.phase = .killingRequeue) →
    ∃ t, exec (.killComplete q seq) s = .next t ∧ (∀ p ∈ pressesOf s q seq, (t.press p).sequencer = none) ∧
    t = { s with presses := t.presses })

/-! ### Presses -/

/-- R93, R99, R111, R117, R131, R148, R171, R172, R190, R231: MATMUL and ELTWISE with the output stage idle run their whole nest,
count its cycles, hand the tiles to the output stage and go on to the next instruction, in the device as the swaps of a folded
program have left it; the twin keeps the same accumulators. A check that fails kills the command with its status; while the output
stage works the instruction waits. The first tile of the next matrix instruction loads into the shadow buffer. A drain writes its
bytes to the press's Cask, and the instruction's last drain raises counter 62. Nothing but the press, and its twin, changes.
R139, R140: a drain of a twinned press whose twin formed another CRC counts at both presses and kills the command with
TWIN_MISMATCH; a drain whose CRCs agree is written to the primary's Cask alone. A press that has no such instruction to issue, or no
drain, is left as it is. What the reads of an instruction reported is counted beside it. -/
def Obligations.PressRunsMatrixWork : Prop :=
  (∀ (s u : State) (p : Fin 16) (st : Stalls) (h : ReadHealth) (c : Cmd) (k : Sequencer) (i : PressInstr) (n : NestRun),
    issuing s p 1 = some ((c, k, i), u) → k.drains = [] → twinOfPress u p ≠ some p →
    runMatmul u (pressCx u k.queue p) c.operands i (u.press p) = n → n.cause = none →
    ∃ t, exec (.matmul p st h) s = .next (noted h s t) ∧
    (t.press p).sequencer = some { k with index := k.index + 1, drains := n.tiles } ∧
    (t.press p).accumulators = n.accumulators ∧ (t.press p).sideStore = n.sideStore ∧ (t.press p).mode = .matrix ∧
    (t.press p).cask = (u.press p).cask ∧ (t.press p).arrive = (u.press p).arrive ∧
    Counted n.spans none st (u.press p) (t.press p) ∧
    (∀ q : Fin 16, twinOfPress u p = some q → (t.press q).accumulators = n.accumulators ∧ (t.press q).cask = (u.press q).cask) ∧
    (∀ q : Fin 16, q ≠ p → twinOfPress u p ≠ some q → t.press q = u.press q) ∧ t = { u with presses := t.presses }) ∧
  (∀ (s u : State) (p : Fin 16) (st : Stalls) (h : ReadHealth) (c : Cmd) (k : Sequencer) (i : PressInstr) (n : NestRun)
    (e : Cause), issuing s p 1 = some ((c, k, i), u) → k.drains = [] → c.kind = 1 →
    runMatmul u (pressCx u k.queue p) c.operands i (u.press p) = n → n.cause = some e → e.2.held = false →
    ∃ t, exec (.matmul p st h) s = .next (noted h s t) ∧ Killed k p e.2 t) ∧
  (∀ (s u : State) (p : Fin 16) (st : Stalls) (h : ReadHealth) (c : Cmd) (k : Sequencer) (i : PressInstr) (l : List OutTile),
    issuing s p 2 = some ((c, k, i), u) → k.drains = [] → twinOfPress u p ≠ some p →
    runEltwise u (pressCx u k.queue p) c.operands i = .ok l → ∃ t, exec (.eltwise p st h) s = .next (noted h s t) ∧
    (t.press p).sequencer = some { k with index := k.index + 1, drains := l } ∧ (t.press p).mode = .elementwise ∧
    (t.press p).cask = (u.press p).cask ∧ (t.press p).accumulators = (u.press p).accumulators ∧
    (t.press p).arrive = (u.press p).arrive ∧ Counted [] none st (u.press p) (t.press p) ∧
    (∀ q : Fin 16, q ≠ p → twinOfPress u p ≠ some q → t.press q = u.press q) ∧ t = { u with presses := t.presses }) ∧
  (∀ (s u : State) (p : Fin 16) (st : Stalls) (h : ReadHealth) (c : Cmd) (k : Sequencer) (i : PressInstr) (e : Stop),
    issuing s p 2 = some ((c, k, i), u) → k.drains = [] → c.kind = 1 →
    runEltwise u (pressCx u k.queue p) c.operands i = .error e → e.held = false →
    ∃ t, exec (.eltwise p st h) s = .next (noted h s t) ∧ Killed k p e t) ∧
  (∀ (s u : State) (p : Fin 16) (h : ReadHealth) (c : Cmd) (k : Sequencer) (i : PressInstr) (w : Tile),
    issuing s p 1 = some ((c, k, i), u) → (u.press p).shadow = none → loadWaits c p k i = false →
    loadTile u (pressCx u k.queue p) c.operands i (List.replicate i.depth 0) = .ok w →
    ∃ t, exec (.weightTileLoaded p h) s = .next (noted h s t) ∧ (t.press p).shadow = some w ∧
    (t.press p).sequencer = some k ∧ (t.press p).cask = (u.press p).cask ∧ t = { u with presses := t.presses }) ∧
  (∀ (s u : State) (p : Fin 16) (h : ReadHealth) (c : Cmd) (k : Sequencer) (i : PressInstr) (e : Stop),
    issuing s p 1 = some ((c, k, i), u) → (u.press p).shadow = none → loadWaits c p k i = false → c.kind = 1 →
    loadTile u (pressCx u k.queue p) c.operands i (List.replicate i.depth 0) = .error e → e.held = false →
    ∃ t, exec (.weightTileLoaded p h) s = .next (noted h s t) ∧ Killed k p e t) ∧
  (∀ (s u : State) (p : Fin 16) (st : Stalls) (h : ReadHealth) (c : Cmd) (k : Sequencer) (i : PressInstr), k.drains ≠ [] →
    (issuing s p 1 = some ((c, k, i), u) → exec (.matmul p st h) s = .next (noted h s u)) ∧
    (issuing s p 2 = some ((c, k, i), u) → exec (.eltwise p st h) s = .next (noted h s u))) ∧
  (∀ (s : State) (p : Fin 16) (st : Stalls) (h : ReadHealth),
    (issueOf s p 1 = none → exec (.matmul p st h) s = .next (noted h s s) ∧
      exec (.weightTileLoaded p h) s = .next (noted h s s)) ∧
    (issueOf s p 2 = none → exec (.eltwise p st h) s = .next (noted h s s))) ∧
  (∀ (s : State) (p : Fin 16) (c : Cmd) (k : Sequencer) (w : OutTile) (rest : List OutTile) (x : Option Word),
    runningOn s p = some (c, k) → k.drains = w :: rest → twinOfPress s p = none →
    ∃ t, exec (.outputTileDrainEnd p x) s = .next t ∧ (t.press p).cask = (s.press p).cask.writeRuns w.writes ∧
    (t.press p).sequencer = some { k with drains := rest } ∧
    vget (t.press p).arrive 62 = vget (s.press p).arrive 62 + (if rest = [] then 1 else 0) ∧
    (∀ i : Fin 64, i ≠ 62 → vget (t.press p).arrive i = vget (s.press p).arrive i) ∧
    (∀ q : Fin 16, q ≠ p → t.press q = s.press q) ∧ t = { s with presses := t.presses, queues := t.queues }) ∧
  (∀ (s : State) (p q : Fin 16) (c : Cmd) (k : Sequencer) (w : OutTile) (rest : List OutTile) (x : Word), c.kind = 1 →
    runningOn s p = some (c, k) → k.drains = w :: rest → twinOfPress s p = some q → q ≠ p → x ≠ w.crc →
    ∃ t, exec (.outputTileDrainEnd p (some x)) s = .next t ∧ (t.press p).twinFail = satInc (s.press p).twinFail 1 ∧
    (t.press q).twinFail = satInc (s.press q).twinFail 1 ∧
    (t.cmd k.queue k.seq).map (·.phase) = some (.killing 0x25 (dataI p.val q.val))) ∧
  (∀ (s : State) (p q : Fin 16) (c : Cmd) (k : Sequencer) (w : OutTile) (rest : List OutTile) (x : Option Word),
    runningOn s p = some (c, k) → k.drains = w :: rest → twinOfPress s p = some q → q ≠ p → x.getD w.crc = w.crc →
    ∃ t, exec (.outputTileDrainEnd p x) s = .next t ∧ (t.press p).cask = (s.press p).cask.writeRuns w.writes ∧
    (t.press p).sequencer = some { k with drains := rest } ∧
    vget (t.press p).arrive 62 = vget (s.press p).arrive 62 + (if rest = [] then 1 else 0) ∧
    (t.press q).cask = (s.press q).cask ∧ (t.press p).twinFail = (s.press p).twinFail) ∧
  (∀ (s : State) (p : Fin 16) (x : Option Word),
    (runningOn s p = none ∨ ∃ c k, runningOn s p = some (c, k) ∧ k.drains = []) → exec (.outputTileDrainEnd p x) s = .next s)

/-- R166 to R168, R173 to R176, R181, R190, R191, R231 to R236, R256, R257: each instruction that the sequencer itself runs, in the
device as the swaps of a folded program have left it. DMA starts a transfer; ENGINE queues a child whose checks passed, kills the
command when they fail, and waits while the engine's list is full; WAIT goes on when its counter has reached the target and else
holds, and a WAIT that has held too long kills the command; RACK passes the point or stops when a pre-emption asks for it; END ends
the stream. A press that has no such instruction to issue is left as it is. -/
def Obligations.SequencerInstructionsAct : Prop :=
  (∀ (s u : State) (p : Fin 16) (c : Cmd) (k : Sequencer) (i : PressInstr), issuing s p 3 = some ((c, k, i), u) →
    twinOfPress u p ≠ some p → ∃ t, exec (.dma p) s = .next t ∧
    (t.press p).sequencer = some { k with index := k.index + 1, jobs := k.jobs ++ [{
      src := opAt c.operands i.opa.toNat, dst := opAt c.operands i.opout.toNat, rows := 16 * i.mrows.toNat
      depth := i.depth, counts := i.counts, counter := fieldNat i.arg 0 1, next := 0
      total := nestTotal i.depth i.counts, image := imageCounters c p k }] } ∧
    (t.press p).cask = (u.press p).cask ∧ t = { u with presses := t.presses }) ∧
  (∀ (s u : State) (p : Fin 16) (c : Cmd) (k : Sequencer) (i : PressInstr), issuing s p 4 = some ((c, k, i), u) →
    twinOfPress u p ≠ some p → ∃ t, exec (.wait p) s = .next t ∧
    (t.press p).sequencer = some (if reached u p i then { k with index := k.index + 1 } else { k with waiting := true }) ∧
    (t.press p).arrive = (u.press p).arrive ∧ t = { u with presses := t.presses }) ∧
  (∀ (s : State) (p : Fin 16) (held : Nat) (c : Cmd) (k : Sequencer) (i : PressInstr), heldWait s p = some (k, i) →
    runningOn s p = some (c, k) → reached s p i = true → twinOfPress s p ≠ some p →
    ∃ t, exec (.waitSatisfied p held) s = .next t ∧
    (t.press p).sequencer = some { k with index := k.index + 1, waiting := false } ∧
    (t.press p).stallOperand = (s.press p).stallOperand + BitVec.ofNat 64 held ∧ t = { s with presses := t.presses }) ∧
  (∀ (s : State) (p : Fin 16) (held : Nat), (heldWait s p = none ∨ ∃ k i, heldWait s p = some (k, i) ∧ reached s p i = false) →
    exec (.waitSatisfied p held) s = .next s) ∧
  (∀ (s : State) (p : Fin 16) (held : Nat) (c : Cmd) (k : Sequencer) (i : PressInstr), heldWait s p = some (k, i) →
    runningOn s p = some (c, k) → c.kind = 1 → twinOfPress s p ≠ some p → ∃ t, exec (.waitTimeout p held) s = .next t ∧
    Killed k p { status := 0x24, data := dataI (fieldNat i.arg 0 1) p.val } t ∧
    (t.press p).stallOperand = (s.press p).stallOperand + BitVec.ofNat 64 held) ∧
  (∀ (s : State) (p : Fin 16) (held : Nat), heldWait s p = none → exec (.waitTimeout p held) s = .next s) ∧
  (∀ (s u : State) (p : Fin 16) (c : Cmd) (k : Sequencer) (i : PressInstr), issuing s p 6 = some ((c, k, i), u) →
    twinOfPress u p ≠ some p → ∃ t, exec (.rack p) s = .next t ∧
    (t.press p).sequencer = some (if c.rackRequested then { k with stopped := true, point := fieldNat i.arg 0 4 }
      else { k with index := k.index + 1, point := fieldNat i.arg 0 4, passedPoint := true }) ∧
    t = { u with presses := t.presses }) ∧
  (∀ (s u : State) (p : Fin 16) (c : Cmd) (k : Sequencer) (i : PressInstr), issuing s p 0x0F = some ((c, k, i), u) →
    twinOfPress u p ≠ some p → ∃ t, exec (.endStream p) s = .next t ∧ (t.press p).sequencer = some { k with ended := true } ∧
    (pressesOf u k.queue k.seq = [p] → k.jobs = [] → k.children = 0 → k.drains = [] →
      (t.cmd k.queue k.seq).map (·.phase) = some (.written 0 0)) ∧
    t = { u with presses := t.presses, queues := t.queues }) ∧
  (∀ (s u : State) (p : Fin 16) (held : Nat) (c : Cmd) (k : Sequencer) (i : PressInstr) (d : List Byte) (e : Fin 6)
    (ops : List Operand) (block : List Byte), issuing s p 5 = some ((c, k, i), u) → twinOfPress u p ≠ some p →
    frontRead u k.queue (fieldNat i.arg 0 5 % 2 ^ 38) 64 = .ok d → checkChild d = none →
    e = Fin.ofNat 6 (fieldNat d 12 4 % 256) → listFull u e (u.parcelOf k.queue) = false →
    readChild u k.queue e.val { seq := k.seq, desc := d, phase := .checked } = .ok (ops, block) →
    ∃ t, exec (.engine p held) s = .next t ∧
    (t.press p).sequencer = some { k with index := k.index + 1, children := k.children + 1 } ∧
    (t.press p).stallOperand = (u.press p).stallOperand + BitVec.ofNat 64 held ∧
    (t.engine e).waiting = (u.engine e).waiting ++ [
      { queue := k.queue, seq := k.seq, press := some p, counter := fieldNat i.arg2 0 1, parcel := u.parcelOf k.queue
        twinned := decide (fieldNat d 1 1 % 2 = 1) || c.twinned, operands := ops, params := block }] ∧
    t = { u with presses := t.presses, engines := t.engines }) ∧
  (∀ (s u : State) (p : Fin 16) (held : Nat) (c : Cmd) (k : Sequencer) (i : PressInstr) (d : List Byte) (e : Fin 6) (x : Stop),
    issuing s p 5 = some ((c, k, i), u) → c.kind = 1 → x.held = false → e = Fin.ofNat 6 (fieldNat d 12 4 % 256) →
    (frontRead u k.queue (fieldNat i.arg 0 5 % 2 ^ 38) 64 = .error x ∨
      frontRead u k.queue (fieldNat i.arg 0 5 % 2 ^ 38) 64 = .ok d ∧ (checkChild d = some x ∨
        checkChild d = none ∧ listFull u e (u.parcelOf k.queue) = false ∧
          readChild u k.queue e.val { seq := k.seq, desc := d, phase := .checked } = .error x)) →
    ∃ t, exec (.engine p held) s = .next t ∧ Killed k p x t) ∧
  (∀ (s u : State) (p : Fin 16) (held : Nat) (c : Cmd) (k : Sequencer) (i : PressInstr) (d : List Byte),
    issuing s p 5 = some ((c, k, i), u) → frontRead u k.queue (fieldNat i.arg 0 5 % 2 ^ 38) 64 = .ok d → checkChild d = none →
    listFull u (Fin.ofNat 6 (fieldNat d 12 4 % 256)) (u.parcelOf k.queue) = true → exec (.engine p held) s = .next u) ∧
  (∀ (s : State) (p : Fin 16) (held : Nat),
    (issueOf s p 3 = none → exec (.dma p) s = .next s) ∧ (issueOf s p 4 = none → exec (.wait p) s = .next s) ∧
    (issueOf s p 5 = none → exec (.engine p held) s = .next s) ∧ (issueOf s p 6 = none → exec (.rack p) s = .next s) ∧
    (issueOf s p 0x0F = none → exec (.endStream p) s = .next s))

/-- R173, R175, R182, R191, R232, R262, R295: an iteration of a DMA that meets no fault raises its counter, in the Cask that Table 5.2
gives or in the fold image that stands for it, and counts as done; one that meets a fault kills the command, and one that would begin
on a busy lane of the compressor waits; the end of a child raises its press's counter. A row that names no transfer or child changes
nothing. What the reads of an iteration reported is counted. -/
def Obligations.TransfersAndChildrenSignal : Prop :=
  (∀ (s u : State) (p : Fin 16) (n : Nat) (c : Cmd) (k : Sequencer) (j : DmaJob) (h : ReadHealth),
    runningOn s p = some (c, k) → k.jobs[n]? = some j → (j.compresses && j.next = 0 && laneHeld s (pressLane p)) = false →
    (moved s p k j).2 = none → countArrival (dmaCx s p k) p j (moved s p k j).1 = .ok u →
    ∃ t, exec (.dmaIterationComplete p n h) s = .next (noted h s t) ∧
    (t.press p).sequencer = some
      { k with jobs := editAt n (if j.next + 1 < j.total then some { j with next := j.next + 1 } else none) k.jobs } ∧
    t.dram = u.dram ∧ t.cellar = u.cellar ∧ t.port = u.port ∧
    (∀ q : Fin 16, (t.press q).cask = ((moved s p k j).1.press q).cask) ∧
    (j.image = none → t.dram = (moved s p k j).1.dram ∧
      vget (t.press (counterPress p j)).arrive (Fin.ofNat 64 j.counter) =
        vget (s.press (counterPress p j)).arrive (Fin.ofNat 64 j.counter) + 1)) ∧
  (∀ (s : State) (p : Fin 16) (n : Nat) (c : Cmd) (k : Sequencer) (j : DmaJob) (h : ReadHealth) (e : Stop), c.kind = 1 →
    runningOn s p = some (c, k) → k.jobs[n]? = some j → (j.compresses && j.next = 0 && laneHeld s (pressLane p)) = false →
    ((moved s p k j).2 = some e ∨ (moved s p k j).2 = none ∧ countArrival (dmaCx s p k) p j (moved s p k j).1 = .error e) →
    e.held = false → ∃ t, exec (.dmaIterationComplete p n h) s = .next (noted h s t) ∧ Killed k p e t) ∧
  (∀ (s : State) (p : Fin 16) (n : Nat) (h : ReadHealth), (runningOn s p = none ∨ ∃ c k, runningOn s p = some (c, k) ∧
      (k.jobs[n]? = none ∨ ∃ j, k.jobs[n]? = some j ∧ j.compresses = true ∧ j.next = 0 ∧ laneHeld s (pressLane p) = true)) →
    exec (.dmaIterationComplete p n h) s = .next (noted h s s)) ∧
  (∀ (s : State) (e : Fin 5) (j : EngineJob) (rest : List EngineJob) (p : Fin 16),
    (s.engine (Fin.ofNat 6 e.val)).done = j :: rest → j.press = some p →
    ∃ t, exec (.childComplete e) s = .next t ∧ (t.engine (Fin.ofNat 6 e.val)).done = rest ∧
    (t.engine (Fin.ofNat 6 e.val)).waiting = (s.engine (Fin.ofNat 6 e.val)).waiting ∧
    vget (t.press p).arrive (Fin.ofNat 64 j.counter) = vget (s.press p).arrive (Fin.ofNat 64 j.counter) + 1 ∧
    (t.press p).sequencer = (s.press p).sequencer.map (fun k => { k with children := k.children - 1 }) ∧
    t = { s with presses := t.presses, queues := t.queues, engines := t.engines }) ∧
  (∀ (s : State) (e : Fin 5), (s.engine (Fin.ofNat 6 e.val)).done = [] → exec (.childComplete e) s = .next s)

/-- R33, R134, R238, R251 to R253, R480, R734: an idle press with its domain's SLEEP_EN sleeps, and so does an engine without work,
the compressor among them, and no other. A scrub read of a Cask or of the Cellar moves to the next line and counts what it finds; an
uncorrectable line raises its alarm; in the safe state neither reads. An uncorrectable word of SRAM raises its alarm and ends the
command that read it, or kills it while its presses come to rest, with the word's address in DATA. -/
def Obligations.SleepAndScrubAct : Prop :=
  (∀ (s : State) (p : Fin 16), enabled s p = true → (s.press p).sequencer = none → (s.press p).mode = .idle →
    (vget s.clocks.doms 0).sleepEn = true → ∃ t, exec (.pressSleep (.press p)) s = .next t ∧
    t.press p = { s.press p with mode := .sleep } ∧ (∀ q : Fin 16, q ≠ p → t.press q = s.press q) ∧
    t = { s with presses := t.presses }) ∧
  (∀ (s : State) (p : Fin 16), (enabled s p = false ∨ (s.press p).sequencer ≠ none ∨ (s.press p).mode ≠ .idle ∨
    (vget s.clocks.doms 0).sleepEn = false) → exec (.pressSleep (.press p)) s = .next s) ∧
  (∀ (s : State) (e : Fin 6), (s.engine e).waiting = [] → (s.engine e).done = [] → (e = 5 → compressorWorks s = false) →
    ∃ t, exec (.pressSleep (.engine e)) s = .next t ∧ t.engine e = { s.engine e with asleep := true } ∧
    (∀ f : Fin 6, f ≠ e → t.engine f = s.engine f) ∧ t = { s with engines := t.engines }) ∧
  (∀ (s : State) (e : Fin 6), ((s.engine e).waiting ≠ [] ∨ (s.engine e).done ≠ [] ∨ e = 5 ∧ compressorWorks s = true) →
    exec (.pressSleep (.engine e)) s = .next s) ∧
  (∀ (s : State) (p : Fin 16) (b : Fin 32) (r : EccResult), s.safety.safe = false → r ≠ .uncorrectable →
    ∃ t, exec (.caskScrub p b r) s = .next t ∧
    (t.press p).eccCorr = (if r = .corrected then satInc (s.press p).eccCorr 1 else (s.press p).eccCorr) ∧
    vget (t.press p).scrubLine b = (vget (s.press p).scrubLine b + 1) % 1536 ∧
    (t.press p).cask = (s.press p).cask ∧ t = { s with presses := t.presses }) ∧
  (∀ (s : State) (p : Fin 16) (b : Fin 32), s.safety.safe = false → ∃ t, exec (.caskScrub p b .uncorrectable) s = .next t ∧
    (t.press p).eccUncorr = satInc (s.press p).eccUncorr 1 ∧
    (t.press p).ueAddr = BitVec.ofNat 23 (caskLine b.val (vget (s.press p).scrubLine b)) ∧
    vget (t.press p).scrubLine b = (vget (s.press p).scrubLine b + 1) % 1536 ∧
    (vget t.safety.slots (Fin.ofNat 134 (0x24 + p.val))).raised =
      satInc (vget s.safety.slots (Fin.ofNat 134 (0x24 + p.val))).raised 1 ∧
    t = { s with presses := t.presses, safety := t.safety }) ∧
  (∀ (s : State) (b : Fin 64) (r : EccResult), s.safety.safe = false → r ≠ .uncorrectable →
    ∃ t, exec (.cellarScrub b r) s = .next t ∧
    t.cellar.eccCorr = (if r = .corrected then satInc s.cellar.eccCorr 1 else s.cellar.eccCorr) ∧ t.cellar.mem = s.cellar.mem ∧
    vget t.cellar.scrubLine b = (vget s.cellar.scrubLine b + 1) % 6144 ∧ t = { s with cellar := t.cellar }) ∧
  (∀ (s : State) (b : Fin 64), s.safety.safe = false → ∃ t, exec (.cellarScrub b .uncorrectable) s = .next t ∧
    t.cellar.eccUncorr = satInc s.cellar.eccUncorr 1 ∧ t.cellar.mem = s.cellar.mem ∧
    t.cellar.ueAddr = BitVec.ofNat 26 (cellarLine b.val (vget s.cellar.scrubLine b)) ∧
    (vget t.safety.slots 0x34).raised = satInc (vget s.safety.slots 0x34).raised 1 ∧
    t = { s with cellar := t.cellar, safety := t.safety }) ∧
  (∀ (s : State) (p : Fin 16) (b : Fin 32) (d : Fin 64) (r : EccResult), s.safety.safe = true →
    exec (.caskScrub p b r) s = .next s ∧ exec (.cellarScrub d r) s = .next s) ∧
  (∀ (s : State) (q : Fin 256) (seq : Word) (c : Cmd) (place : SramPlace) (agent : Byte), s.cmd q seq = some c →
    c.phase.killable = true → c.kind = 1 → (∀ k, c.phase ≠ .suspended k) →
    ∃ t, exec (.sramUncorrectable q seq place agent) s = .next t ∧
    (t.cmd q seq).map (·.phase) = some (.killing 0x22 (faultWord (sramAddress place s) 0 0 agent.toNat)) ∧
    (∀ p ∈ pressesOf s q seq, (t.press p).mode = .killing)) ∧
  (∀ (s : State) (q : Fin 256) (seq : Word) (c : Cmd) (place : SramPlace) (agent : Byte), s.safety.safe = false →
    s.cmd q seq = some c → c.phase.killable = true → c.kind ≠ 1 → ∃ t, exec (.sramUncorrectable q seq place agent) s = .next t ∧
    (t.cmd q seq).map (·.phase) = some (endPhase s q seq 0x22 (faultWord (sramAddress place s) 0 0 agent.toNat))) ∧
  (∀ (s : State) (q : Fin 256) (seq : Word) (o : BitVec 27) (agent : Byte),
    ∃ t, exec (.sramUncorrectable q seq (.windowSram o) agent) s = .next t ∧
    (vget t.safety.slots 0x46).raised = satInc (vget s.safety.slots 0x46).raised 1)

/-! ### Engines, the Intake and the codec -/

/-- R29, R255, R262 to R264, R266 to R287: on every path each of the Window, Detect, Fold and Lookup engines acts as its rules say: it
takes the next waiting command, runs it to its end and makes the writes of its operation; the command counts as work, a command of
its own has completed its writes and a child waits to be signalled; a twinned command whose two runs differ, and a command that meets
a fault, set LAST_FAIL and fail. -/
def Obligations.EnginesRunTheirCommands : Prop :=
  ∀ (m : Bool) (h : ReadHealth),
    EngineActs 0 m h (fun j s => windowRun (engineCx 0 j) j.operands j.params s)
      (fun j _ => windowCycles j.operands j.params) (.window m h) ∧
    EngineActs 1 m h (fun j s => detectRun (engineCx 1 j) j.operands j.params s)
      (fun j s => detectCycles (engineCx 1 j) j.operands j.params s) (.detect m h) ∧
    EngineActs 2 m h (fun j s => foldRun (engineCx 2 j) j.operands j.params s)
      (fun j _ => foldCycles j.operands j.params) (.fold m h) ∧
    EngineActs 3 m h (fun j s => lookupRun (engineCx 3 j) j.operands j.params s)
      (fun j _ => lookupCycles j.operands j.params) (.lookup m h)

/-- R340 to R351: the Intake runs the whole batch of its next command: its samples count as work, those that are not OK as
corrupt, and a command of its own has STATUS 0 when every sample is OK and else 1, with the bitmap of the others as DATA; a twinned
command whose two runs differ, and one that meets a fault, set LAST_FAIL and fail; with no command waiting nothing changes.
R354 to R366: on every path each codec function acts as its rules say: the command on its core writes its outputs, counts its pixels
and leaves its core with its writes complete, or sets LAST_FAIL and ends with the failure's status. What the stream formats leave to
the encoder or the decoder is free. -/
def Obligations.IntakeAndCodecRun : Prop :=
  (∀ (s : State) (m : Bool) (h : ReadHealth) (j : EngineJob), s.safety.safe = false → nextJob (s.engine 4) = some j →
    (m && j.twinned) = false → (batchOf s j).2.2 = none → ∃ t, exec (.intake m h) s = .next (noted h s t) ∧
    TurnTaken 4 s j (batchOf s j).2.1.cycles t ∧
    (t.engine 4).work = (s.engine 4).work + BitVec.ofNat 64 (batchOf s j).2.1.statuses.length ∧
    t.intake.corrupt = satInc s.intake.corrupt ((batchOf s j).2.1.statuses.countP fun x => decide (x ≠ 0)) ∧
    t.dram = (batchOf s j).1.dram ∧ t.cellar = (batchOf s j).1.cellar ∧
    (j.press.isSome = true → (t.engine 4).done = (s.engine 4).done ++ [j]) ∧
    (j.press = none → (s.cmd j.queue j.seq).isSome = true → (t.cmd j.queue j.seq).map (·.phase) = some (.written
      (if corruptBitmap (batchOf s j).2.1.statuses = 0 then 0 else 1) (corruptBitmap (batchOf s j).2.1.statuses)))) ∧
  (∀ (s : State) (m : Bool) (h : ReadHealth) (j : EngineJob), s.safety.safe = false → nextJob (s.engine 4) = some j →
    (m && j.twinned) = true → (batchOf s j).2.2 = none → ∃ t, exec (.intake m h) s = .next (noted h s t) ∧
    EngineFailed 4 s j (stopTwinEngine 4) t ∧ (t.engine 4).twinFail = satInc (s.engine 4).twinFail 1) ∧
  (∀ (s : State) (m : Bool) (h : ReadHealth) (j : EngineJob) (e : Stop), s.safety.safe = false →
    nextJob (s.engine 4) = some j → (batchOf s j).2.2 = some e →
    (e.held = false → ∃ t, exec (.intake m h) s = .next (noted h s t) ∧ EngineFailed 4 s j e t) ∧
    (e.held = true → exec (.intake m h) s = .next (noted h s s))) ∧
  (∀ (s : State) (m : Bool) (h : ReadHealth), (s.safety.safe = true ∨ nextJob (s.engine 4) = none) →
    exec (.intake m h) s = .next (noted h s s)) ∧
  ∀ (q : Fin 256) (seq cycles : Word) (h : ReadHealth),
    CodecActs 1 q seq cycles h (.hevcEncode q seq cycles h) ∧ CodecActs 2 q seq cycles h (.hevcDecode q seq cycles h) ∧
    CodecActs 3 q seq cycles h (.h264Decode q seq cycles h) ∧ CodecActs 4 q seq cycles h (.jpegEncode q seq cycles h)

/-! ### Device memory -/

/-- R377, R380 to R384, R406 to R409: an uncorrectable block that an access of a command meets is counted and recorded in UE_PA, and
the command fails with it, or is rejected with it while the front end checks it; one of the translation table raises TT_UE, ends no
command and holds every access that needs its block. An access that the table does not allow counts as a fault, enters the fault log
and fails its command with its cause, or rejects it; an access that the table allows, or holds, faults nothing. The patrol reads the
next block and counts what it finds, and a pool page of an uncorrectable block is retired; without inline ECC, before training and in
the safe state it reads nothing. -/
def Obligations.MemoryFaultsKill : Prop :=
  (∀ (s : State) (q : Fin 256) (seq : Word) (va : BitVec 38) (acc : Access) (agent : Byte) (pa : Nat), s.safety.safe = false →
    translate s (s.parcelOf q) acc va.toNat = .ok pa → ∃ t, exec (.dramUncorrectable q seq va acc agent false) s = .next t ∧
    t.memctl.eccUncorr = satInc s.memctl.eccUncorr 1 ∧ t.memctl.uePa = BitVec.ofNat 32 (pa / 64) ∧
    ((acc = .frontEnd → readsNext s q seq = false) →
      Failed s q seq { status := 0x21, data := faultWord va.toNat 4 (accessCode acc) agent.toNat } t) ∧
    (acc = .frontEnd → readsNext s q seq = true → s.cmd q seq = none → (t.cmd q seq).map (·.phase) =
      some (endPhase s q seq 0x21 (faultWord va.toNat 4 (accessCode acc) agent.toNat)))) ∧
  (∀ (s : State) (q : Fin 256) (seq : Word) (va : BitVec 38) (acc : Access) (agent : Byte) (cause : Nat),
    translate s (s.parcelOf q) acc va.toNat = .error cause → exec (.dramUncorrectable q seq va acc agent false) s = .next s) ∧
  (∀ (s : State) (q : Fin 256) (seq : Word) (va : BitVec 38) (acc : Access) (agent : Byte),
    ∃ t, exec (.dramUncorrectable q seq va acc agent true) s = .next t ∧
    t.memctl.eccUncorr = satInc s.memctl.eccUncorr 1 ∧
    (vget t.safety.slots 0x45).raised = satInc (vget s.safety.slots 0x45).raised 1 ∧
    (∀ (n : Fin 8) (x : Access) (a : Nat), a / 16384 = va.toNat / 16384 → translate t n x a = .error causeHeld) ∧
    t = { s with memctl := t.memctl, safety := t.safety, mmu := { s.mmu with badBlocks := t.mmu.badBlocks } }) ∧
  (∀ (s : State) (q : Fin 256) (seq : Word) (va : BitVec 38) (acc : Access) (agent : Byte) (cause : Nat),
    s.safety.safe = false → translate s (s.parcelOf q) acc va.toNat = .error cause → cause ≠ causeHeld →
    ∃ t, exec (.translationFault q seq va acc agent) s = .next t ∧
    t.mmu.faults = satInc s.mmu.faults 1 ∧ t.mmu.logNext = s.mmu.logNext + 1 ∧
    (vget t.mmu.log s.mmu.logNext.toFin).va = va ∧ (vget t.mmu.log s.mmu.logNext.toFin).time = s.time ∧
    ((acc = .frontEnd → readsNext s q seq = false) →
      Failed s q seq { status := 0x20, data := faultWord va.toNat cause (accessCode acc) agent.toNat } t) ∧
    (acc = .frontEnd → readsNext s q seq = true → s.cmd q seq = none → (t.cmd q seq).map (·.phase) =
      some (endPhase s q seq 0x20 (faultWord va.toNat cause (accessCode acc) agent.toNat)))) ∧
  (∀ (s : State) (q : Fin 256) (seq : Word) (va : BitVec 38) (acc : Access) (agent : Byte),
    ((∃ pa, translate s (s.parcelOf q) acc va.toNat = .ok pa) ∨ translate s (s.parcelOf q) acc va.toNat = .error causeHeld) →
    exec (.translationFault q seq va acc agent) s = .next s) ∧
  (∀ (s : State) (r : EccResult), s.memctl.trained = true → s.memctl.inlineEcc = true → s.safety.safe = false →
    ∃ t, exec (.patrolScrub r) s = .next t ∧ t.memctl.scrubBlock = (s.memctl.scrubBlock + 1) % blocksBelowD s ∧
    t.memctl.eccCorr = (if r = .corrected then satInc s.memctl.eccCorr 1 else s.memctl.eccCorr) ∧
    t.memctl.eccUncorr = (if r = .uncorrectable then satInc s.memctl.eccUncorr 1 else s.memctl.eccUncorr) ∧
    (r = .uncorrectable → t.memctl.uePa = BitVec.ofNat 32 s.memctl.scrubBlock) ∧
    (r = .uncorrectable → s.memctl.scrubBlock * 64 < s.mmu.ttBase.toNat * 16384 → hartsRun s = true →
      s.memctl.scrubBlock / 256 < s.mmu.poolPages → s.memctl.scrubBlock / 256 ∈ t.mmu.retired) ∧
    (r = .clean → t = { s with memctl := { s.memctl with scrubBlock := t.memctl.scrubBlock } }) ∧
    t.dram = s.dram ∧ t.presses = s.presses) ∧
  (∀ (s : State) (r : EccResult), (s.memctl.trained = false ∨ s.memctl.inlineEcc = false ∨ s.safety.safe = true) →
    exec (.patrolScrub r) s = .next s)

/-- R371, R373, R379, R389 to R391, R551: firmware that runs adds the on-die counts; a margin below the minimum starts a fast retrain
and breaks the timing bound, and the end of a retrain stores the training values, in NOR too while firmware runs; the 24-hour copy
goes to NOR; a temperature code shows in its rank's field; a refresh changes nothing. Before training, in a retrain and where no
firmware runs, the rows that need it change nothing.
R385, R386, R388: the migration of a retired page moves its bytes to a free page, an uncorrectable block as zeros, and maps the
virtual page there with the permissions it had; the objects on a page with such a block are poisoned; with no free page left the
entry is set RETIRED; a page that is not retired stays. -/
def Obligations.MemoryIsMaintained : Prop :=
  (∀ (s : State) (counts : List Nat), hartsRun s = true → counts.length = 16 → ∃ t, exec (.odeccPoll counts) s = .next t ∧
    (∀ i : Fin 16, vget t.memctl.channels i = { vget s.memctl.channels i with
      odecc := satInc (vget s.memctl.channels i).odecc (counts.getD i.val 0) }) ∧ t = { s with memctl := t.memctl }) ∧
  (∀ (s : State) (counts : List Nat), hartsRun s = false → counts.length = 16 → exec (.odeccPoll counts) s = .next s) ∧
  (∀ (s : State) (ch : Fin 16) (m : Byte), s.memctl.trained = true → s.safety.safe = false →
    (vget s.memctl.channels ch).retraining = false → ∃ t, exec (.phyCalibrationStep ch m) s = .next t ∧
    (vget t.memctl.channels ch).margin = m ∧
    (vget t.memctl.channels ch).retraining = decide (m.toNat < (vget s.memctl.channels ch).marginMin.toNat) ∧
    t.vine.timingBroken = (s.vine.timingBroken || decide (m.toNat < (vget s.memctl.channels ch).marginMin.toNat)) ∧
    (∀ i : Fin 16, i ≠ ch → vget t.memctl.channels i = vget s.memctl.channels i) ∧
    t = { s with memctl := t.memctl, vine := { s.vine with timingBroken := t.vine.timingBroken } }) ∧
  (∀ (s : State) (ch : Fin 16) (m : Byte), (s.memctl.trained = false ∨ s.safety.safe = true ∨
    (vget s.memctl.channels ch).retraining = true) → exec (.phyCalibrationStep ch m) s = .next s) ∧
  (∀ (s : State) (ch : Fin 16) (v : List Byte), (vget s.memctl.channels ch).retraining = true →
    ∃ t, exec (.fastRetrainDone ch v) s = .next t ∧ (vget t.memctl.channels ch).retraining = false ∧ t.memctl.training = v ∧
    t.flash = (if hartsRun s then { s.flash with training := v, trainingRate := s.memctl.rate } else s.flash) ∧
    t = { s with memctl := t.memctl, flash := t.flash }) ∧
  (∀ (s : State) (ch : Fin 16) (v : List Byte), (vget s.memctl.channels ch).retraining = false →
    exec (.fastRetrainDone ch v) s = .next s) ∧
  (∀ (s : State) (v : List Byte), s.memctl.trained = true → hartsRun s = true →
    ∃ t, exec (.trainingValueSave v) s = .next t ∧ t.flash.training = v ∧ t.memctl.training = v ∧
    t = { s with memctl := { s.memctl with training := v },
                 flash := { s.flash with training := v, trainingRate := s.memctl.rate } }) ∧
  (∀ (s : State) (v : List Byte), (s.memctl.trained = false ∨ hartsRun s = false) →
    exec (.trainingValueSave v) s = .next s) ∧
  (∀ (s : State) (ch : Fin 16) (bank : Nat), exec (.lpddr6Refresh ch bank) s = .next s) ∧
  (∀ (s : State) (ch : Fin 16) (r : Fin 2) (code : Byte), s.memctl.trained = true →
    ∃ t, exec (.dramTemperatureRead ch r code) s = .next t ∧ vget (vget t.memctl.channels ch).temps r = code ∧
    (∀ i : Fin 16, i ≠ ch → vget t.memctl.channels i = vget s.memctl.channels i) ∧ t = { s with memctl := t.memctl }) ∧
  (∀ (s : State) (ch : Fin 16) (r : Fin 2) (code : Byte), s.memctl.trained = false →
    exec (.dramTemperatureRead ch r code) s = .next s) ∧
  (∀ (s : State) (vpn : BitVec 24) (h : ReadHealth) (e : TtEntry) (new : Nat), e = ttEntry s vpn.toNat → e.valid = true →
    e.retired = false → s.mmu.retired.contains e.ppn.toNat = true → s.safety.safe = false → freePage s = some new →
    ∃ t, exec (.pageMigration vpn h) s = .next (noted h s t) ∧
    ttEntry t vpn.toNat = { e with ppn := BitVec.ofNat 24 new } ∧ t.vine.timingBroken = true ∧
    t.dram.readBytes (new * 16384) 16384 = migratedBytes s e.ppn.toNat ∧
    (∀ a, a < new * 16384 ∨ new * 16384 + 16384 ≤ a → t.dram.read a = s.dram.read a) ∧
    ((∀ b ∈ s.mmu.badBlocks, b / 256 ≠ e.ppn.toNat) → t.objects = s.objects ∧
      t.dram.readBytes (new * 16384) 16384 = s.dram.readBytes (e.ppn.toNat * 16384) 16384) ∧
    ((∃ b ∈ s.mmu.badBlocks, b / 256 = e.ppn.toNat) → ∀ x ∈ objectsOn s vpn.toNat, ∀ o, t.object x = some o → o.poisoned = true)) ∧
  (∀ (s : State) (vpn : BitVec 24) (h : ReadHealth) (e : TtEntry), e = ttEntry s vpn.toNat → e.valid = true →
    e.retired = false → s.mmu.retired.contains e.ppn.toNat = true → s.safety.safe = false → freePage s = none →
    ∃ t, exec (.pageMigration vpn h) s = .next (noted h s t) ∧ ttEntry t vpn.toNat = { e with retired := true } ∧
    t.dram = s.dram ∧ ∀ x ∈ objectsOn s vpn.toNat, ∀ o, t.object x = some o → o.poisoned = true) ∧
  (∀ (s : State) (vpn : BitVec 24) (h : ReadHealth), ((ttEntry s vpn.toNat).valid = false ∨ (ttEntry s vpn.toNat).retired = true ∨
    s.mmu.retired.contains (ttEntry s vpn.toNat).ppn.toNat = false ∨ s.safety.safe = true) →
    exec (.pageMigration vpn h) s = .next (noted h s s))

/-! ### Parcels and switching -/

/-- R492, R493, R495 to R499, R514: where a holder's slice is over and nothing is blocked, it goes on with a new slice; else the
first blocked context becomes the holder with a new slice, and every command of the old one on a press that it wants is pre-empted:
under KILL it is killed to be queued again, under RACK it is requested, with the lowest free save slot and RACK_WAIT.US of time, or
killed so where it has no rack map or no slot is free. While a protected command stands on a wanted press, before the slice is over,
without a holder and in the safe state the row changes nothing. A staged policy is applied with the end of the slice. RACK_STOP
begins the save of a requested command whose presses have all stopped. RACK_WAIT_EXPIRY kills a requested command whose presses have
not all stopped in time, releases its save slots and counts a fallback. Elsewhere both change nothing. -/
def Obligations.SlicesPreempt : Prop :=
  (∀ (s : State) (n : Fin 8) (old : BitVec 16), (s.parcel n).holder = some old → s.safety.safe = false → sliceOver s n = true →
    blockedCmds s n old = [] → ∃ t, exec (.sliceEnd n) s = .next t ∧ (t.parcel n).sliceStart = s.time ∧
    (t.parcel n).holder = some old ∧ (∀ m : Fin 8, m ≠ n → t.parcel m = s.parcel m) ∧ t.queues = s.queues ∧
    t.presses = s.presses ∧
    (∀ x, (s.parcel n).cfg.pending = some x → parcelCfgBad x = none → (t.parcel n).cfg.live = x) ∧
    ((s.parcel n).cfg.pending = none → t = { s with parcels := t.parcels })) ∧
  (∀ (s : State) (n : Fin 8) (old : BitVec 16) (r : Fin 256) (d : Cmd) (rest : List (Fin 256 × Cmd)),
    (s.parcel n).holder = some old → s.safety.safe = false → sliceOver s n = true → blockedCmds s n old = (r, d) :: rest →
    protectedOn s n (wantedBy s n d.context ((r, d) :: rest)) = false → ∃ t, exec (.sliceEnd n) s = .next t ∧
    (t.parcel n).holder = some d.context ∧ (t.parcel n).sliceStart = s.time ∧
    (∀ w ∈ victims s n old (wantedBy s n d.context ((r, d) :: rest)), ∀ c, s.cmd w.1 w.2 = some c → preemptable c = true →
      ((s.parcel n).cfg.live.rack = false → (t.cmd w.1 w.2).map (·.phase) = some .killingRequeue) ∧
      ((s.parcel n).cfg.live.rack = true → ∃ x, t.cmd w.1 w.2 = some x ∧
        (x.phase = .killingRequeue ∨ (x.phase = c.phase ∧ x.rackRequested = true ∧ x.rackSlot.isSome = true))))) ∧
  (∀ (s : State) (q : Fin 256) (seq : Word) (c : Cmd) (n : Fin 8) (old : BitVec 16) (r : Fin 256) (d : Cmd)
    (rest : List (Fin 256 × Cmd)), (s.parcel n).holder = some old → s.safety.safe = false → sliceOver s n = true →
    blockedCmds s n old = (r, d) :: rest → protectedOn s n (wantedBy s n d.context ((r, d) :: rest)) = false →
    victims s n old (wantedBy s n d.context ((r, d) :: rest)) = [(q, seq)] → s.parcelOf q = n → s.cmd q seq = some c →
    preemptable c = true → ∃ t, exec (.sliceEnd n) s = .next t ∧
    ((s.parcel n).cfg.live.rack = false → (t.parcel n).kills = satInc (s.parcel n).kills 1 ∧
      (t.cmd q seq).map (·.preempted) = some (c.preempted + 1)) ∧
    ((s.parcel n).cfg.live.rack = true → ∀ k, c.rackMap.isSome = true → lowestSlot (s.parcel n) = some k →
      (t.cmd q seq).map (·.rackSlot) = some (some k) ∧ (t.cmd q seq).map (·.phase) = some c.phase ∧
      (t.cmd q seq).map (·.rackBy) =
        some (s.time + BitVec.ofNat 64 ((s.parcel n).cfg.live.rackWaitUs.toNat * 1000)) ∧
      (t.parcel n).saveFree = (s.parcel n).saveFree &&& ~~~ BitVec.ofNat 16 (2 ^ k)) ∧
    ((s.parcel n).cfg.live.rack = true → (c.rackMap = none ∨ lowestSlot (s.parcel n) = none) →
      (t.cmd q seq).map (·.phase) = some .killingRequeue ∧
      (t.parcel n).fallbacks = satInc (s.parcel n).fallbacks 1 ∧ (t.parcel n).kills = satInc (s.parcel n).kills 1)) ∧
  (∀ (s : State) (n : Fin 8), ((s.parcel n).holder = none ∨ s.safety.safe = true ∨ sliceOver s n = false ∨
      ∃ old r d rest, (s.parcel n).holder = some old ∧ blockedCmds s n old = (r, d) :: rest ∧
        protectedOn s n (wantedBy s n d.context ((r, d) :: rest)) = true) → exec (.sliceEnd n) s = .next s) ∧
  (∀ (s : State) (q : Fin 256) (seq : Word) (c : Cmd) (k : Nat), s.safety.safe = false → s.cmd q seq = some c →
    c.rackSlot = some k → c.rackRequested = true → allStopped s q c = true →
    ∃ t, exec (.rackStop q seq) s = .next t ∧ (t.cmd q seq).map (·.phase) = some (.saving k) ∧
    t = { s with queues := t.queues }) ∧
  (∀ (s : State) (q : Fin 256) (seq : Word), (s.safety.safe = true ∨ ∀ c, s.cmd q seq = some c →
      c.rackSlot = none ∨ c.rackRequested = false ∨ allStopped s q c = false) → exec (.rackStop q seq) s = .next s) ∧
  (∀ (s : State) (q : Fin 256) (seq : Word) (c : Cmd), s.safety.safe = false → s.cmd q seq = some c → c.kind = 1 →
    c.requeued = false → c.rackRequested = true → c.phase.runs = true → allStopped s q c = false →
    c.rackBy.toNat ≤ s.time.toNat → ∃ t, exec (.rackWaitExpiry q seq) s = .next t ∧
    (t.cmd q seq).map (·.phase) = some .killingRequeue ∧ (t.cmd q seq).map (·.rackSlot) = some none ∧
    (∀ j ∈ c.slots, j < 16 → (t.parcel (s.parcelOf q)).saveFree.getLsbD j = true) ∧
    (t.parcel (s.parcelOf q)).fallbacks = satInc (s.parcel (s.parcelOf q)).fallbacks 1 ∧
    (t.parcel (s.parcelOf q)).kills = satInc (s.parcel (s.parcelOf q)).kills 1) ∧
  (∀ (s : State) (q : Fin 256) (seq : Word), (s.safety.safe = true ∨ ∀ c, s.cmd q seq = some c →
      c.rackRequested = false ∨ c.phase.runs = false ∨ allStopped s q c = true ∨ s.time.toNat < c.rackBy.toNat) →
    exec (.rackWaitExpiry q seq) s = .next s)

/-- R498, R500, R501, R503, R507: SWITCH_COMPLETE of a save writes the bytes that the save of each press makes, suspends its command
and frees its presses; of a restore it gives the presses and the Cellar what the restores and refills make, lets the command run
again and frees its slot. A save or restore that meets a page without memory kills the command with that fault, and an
uncorrectable block of the slot is counted and kills it with status 0x21; the save slots of a killed command are free. An access
that is held, a command that neither saves nor restores and the safe state change nothing but the count of corrected blocks. -/
def Obligations.SwitchesComplete : Prop :=
  (∀ (s u : State) (q : Fin 256) (seq : Word) (c : Cmd) (k : Nat) (e : Option Nat) (h : ReadHealth), s.safety.safe = false →
    s.cmd q seq = some c → c.phase = .saving k →
    overPresses (savePress c (s.parcelOf q) k) (pressesOf s q seq) s.bump = .ok u →
    ∃ t, exec (.switchComplete q seq e h) s = .next (noted h s t) ∧ (t.cmd q seq).map (·.phase) = some (.suspended k) ∧
    (t.cmd q seq).map (·.preempted) = some (c.preempted + 1) ∧
    (t.cmd q seq).map (·.savedPoints) = some (pointsOf s (pressesOf s q seq)) ∧ t.dram = u.dram ∧
    (∀ p ∈ pressesOf s q seq, (t.press p).sequencer = none) ∧
    (t.parcel (s.parcelOf q)).racks = satInc (s.parcel (s.parcelOf q)).racks 1) ∧
  (∀ (s : State) (q : Fin 256) (seq : Word) (c : Cmd) (k : Nat) (e : Option Nat) (x : Stop) (h : ReadHealth),
    s.safety.safe = false → s.cmd q seq = some c → c.kind = 1 → c.phase = .saving k →
    overPresses (savePress c (s.parcelOf q) k) (pressesOf s q seq) s.bump = .error x →
    (x.held = true → exec (.switchComplete q seq e h) s = .next (noted h s s)) ∧
    (x.held = false → ∃ t, exec (.switchComplete q seq e h) s = .next (noted h s t) ∧
      (t.cmd q seq).map (·.phase) = some (.killing x.status x.data) ∧
      (∀ p ∈ pressesOf s q seq, (t.press p).mode = .killing) ∧
      (∀ j ∈ c.slots, j < 16 → (t.parcel (s.parcelOf q)).saveFree.getLsbD j = true))) ∧
  (∀ (s u v : State) (q : Fin 256) (seq : Word) (c : Cmd) (k : Nat) (h : ReadHealth), s.safety.safe = false →
    s.cmd q seq = some c → c.phase = .restoring k →
    overPresses (restorePress c (s.parcelOf q) k) (pressesOf s q seq) s = .ok u →
    foldStop (fun s g => refillRange (s.parcelOf q) q g.1 s g.2) (refillList c) u = .ok v →
    ∃ t, exec (.switchComplete q seq none h) s = .next (noted h s t) ∧
    ((t.cmd q seq).map (·.phase) = some .running ∨ (t.cmd q seq).map (·.phase) = some (.written 0 0)) ∧
    t.cellar = v.cellar ∧ (∀ p : Fin 16, t.press p = v.press p) ∧
    (t.parcel (s.parcelOf q)).saveFree = (s.parcel (s.parcelOf q)).saveFree ||| BitVec.ofNat 16 (2 ^ k)) ∧
  (∀ (s : State) (q : Fin 256) (seq : Word) (c : Cmd) (k : Nat) (x : Stop) (h : ReadHealth),
    s.safety.safe = false → s.cmd q seq = some c → c.kind = 1 → c.phase = .restoring k →
    overPresses (restorePress c (s.parcelOf q) k) (pressesOf s q seq) s = .error x →
    (x.held = true → exec (.switchComplete q seq none h) s = .next (noted h s s)) ∧
    (x.held = false → ∃ t, exec (.switchComplete q seq none h) s = .next (noted h s t) ∧
      (t.cmd q seq).map (·.phase) = some (.killing x.status x.data) ∧
      (∀ p ∈ pressesOf s q seq, (t.press p).mode = .killing) ∧
      (∀ j ∈ c.slots, j < 16 → (t.parcel (s.parcelOf q)).saveFree.getLsbD j = true))) ∧
  (∀ (s u : State) (q : Fin 256) (seq : Word) (c : Cmd) (k : Nat) (x : Stop) (h : ReadHealth), s.safety.safe = false →
    s.cmd q seq = some c → c.kind = 1 → c.phase = .restoring k →
    overPresses (restorePress c (s.parcelOf q) k) (pressesOf s q seq) s = .ok u →
    foldStop (fun s g => refillRange (s.parcelOf q) q g.1 s g.2) (refillList c) u = .error x →
    (x.held = true → exec (.switchComplete q seq none h) s = .next (noted h s s)) ∧
    (x.held = false → ∃ t, exec (.switchComplete q seq none h) s = .next (noted h s t) ∧
      (t.cmd q seq).map (·.phase) = some (.killing x.status x.data) ∧
      (∀ j ∈ c.slots, j < 16 → (t.parcel (s.parcelOf q)).saveFree.getLsbD j = true))) ∧
  (∀ (s : State) (q : Fin 256) (seq : Word) (c : Cmd) (k offset va pa : Nat) (h : ReadHealth), s.safety.safe = false →
    s.cmd q seq = some c → c.kind = 1 → c.phase = .restoring k →
    va = (s.parcel (s.parcelOf q)).saveVpn.toNat * 16384 + k * ((parcelPresses s (s.parcelOf q)).length * recordBytes) +
      offset % max ((parcelPresses s (s.parcelOf q)).length * recordBytes) 1 →
    saveParts s .read 1 va 1 = .ok [(pa, 1)] → ∃ t, exec (.switchComplete q seq (some offset) h) s = .next (noted h s t) ∧
    t.memctl.eccUncorr = satInc s.memctl.eccUncorr 1 ∧ t.memctl.uePa = BitVec.ofNat 32 (pa / 64) ∧
    (t.cmd q seq).map (·.phase) = some (.killing 0x21 (faultWord va 4 0 (saveAgent s))) ∧
    (∀ p ∈ pressesOf s q seq, (t.press p).mode = .killing) ∧
    (∀ j ∈ c.slots, j < 16 → (t.parcel (s.parcelOf q)).saveFree.getLsbD j = true)) ∧
  (∀ (s : State) (q : Fin 256) (seq : Word) (e : Option Nat) (h : ReadHealth), (s.safety.safe = true ∨
      ∀ c, s.cmd q seq = some c → ∀ k, c.phase ≠ .saving k ∧ c.phase ≠ .restoring k) →
    exec (.switchComplete q seq e h) s = .next (noted h s s))

/-- R250, R486 to R488: where firmware runs, CLEARING_COMPLETE clears every Cask of the parcel with its 64 counters, and its Cellar
share; a parcel that was being created takes its policy and is ACTIVE, and one that was being destroyed is ABSENT, without presses,
pages and folded programs. With neither under way, or without firmware, it changes nothing. -/
def Obligations.ClearingEnds : Prop :=
  (∀ (s : State) (n p : Fin 8) (seq : Word) (policy : ParcelCfg), firmwareUp s = true →
    clearingJob s n = some (p, seq, some policy) → ∃ t, exec (.clearingComplete n) s = .next t ∧ (t.parcel n).state = 2 ∧
    (∀ k : Fin 16, (s.press k).assigned = some n →
      (t.press k).cask = (s.press k).cask.clear 0 0x600000 ∧ (t.press k).arrive = Vector.replicate 64 0) ∧
    (∀ k : Fin 16, (s.press k).assigned ≠ some n → t.press k = s.press k) ∧ t.queues = s.queues ∧
    t.cellar.mem = s.cellar.mem.clear ((vget s.cellar.shares.live n).base.toNat * 1048576)
      ((vget s.cellar.shares.live n).size.toNat * 1048576) ∧ (t.pair p).job = none) ∧
  (∀ (s : State) (n p : Fin 8) (seq : Word), firmwareUp s = true → clearingJob s n = some (p, seq, none) →
    ∃ t, exec (.clearingComplete n) s = .next t ∧ (t.parcel n).state = 0 ∧ (t.parcel n).presses = 0 ∧
    (∀ k : Fin 16, (t.press k).assigned = (if (s.press k).assigned = some n then none else (s.press k).assigned)) ∧
    (∀ k : Fin 16, (s.press k).assigned = some n →
      (t.press k).cask = (s.press k).cask.clear 0 0x600000 ∧ (t.press k).arrive = Vector.replicate 64 0) ∧
    (∀ e ∈ t.mmu.table, ¬ (e.2.valid = true ∧ e.2.owner.toNat = n.val)) ∧
    (∀ f ∈ t.fw.folds, f.parcel ≠ n) ∧ (t.pair p).job = none) ∧
  (∀ (s : State) (n : Fin 8), (firmwareUp s = false ∨ clearingJob s n = none) → exec (.clearingComplete n) s = .next s)

/-! ### Mailboxes and firmware's requests -/

/-- R556 to R563, R571: a mailbox word sets IN_TAIL and OUT_CONSUMED of its pair; a half that is out of range leaves its register and
is recorded. A held message is written once OUT_CONSUMED makes room. A request that fails a check of R561 is read and answered with
that check's RESULT. HELLO is answered with the device's versions, number, grade and enabled presses; a reply for which the out-area
has no room is held. With no mailbox word, and while firmware does not run, nothing changes; a row whose request firmware does not
read changes nothing but, for MODULE_TRANSLATE, the count of corrected blocks. -/
def Obligations.MailboxesAreRead : Prop :=
  (∀ (s : State) (p : Fin 8) (w : Long), firmwareUp s = true → s.port.observer.find? (isMailbox p) = some (.mailbox p w) →
    (w.setWidth 32 - (s.pair p).inTail).toNat < 2 ^ 31 → (w.setWidth 32 - (s.pair p).inRead).toNat ≤ 255 →
    (((w >>> 32).setWidth 32 : Word) - (s.pair p).outConsumed).toNat ≤ ((s.pair p).outTail - (s.pair p).outConsumed).toNat →
    ∃ t, exec (.mailboxWordWrite p) s = .next t ∧ (t.pair p).inTail = w.setWidth 32 ∧
    (t.pair p).outConsumed = (w >>> 32).setWidth 32 ∧ t.port.observer = dropEvent (isMailbox p) s.port.observer ∧
    t = { s with port := t.port, fw := t.fw }) ∧
  (∀ (s : State) (p : Fin 8) (w : Long), firmwareUp s = true → s.port.observer.find? (isMailbox p) = some (.mailbox p w) →
    w.setWidth 32 ≠ (s.pair p).inTail →
    (2 ^ 31 ≤ (w.setWidth 32 - (s.pair p).inTail).toNat ∨ 255 < (w.setWidth 32 - (s.pair p).inRead).toNat) →
    (((w >>> 32).setWidth 32 : Word) - (s.pair p).outConsumed).toNat ≤ ((s.pair p).outTail - (s.pair p).outConsumed).toNat →
    ∃ t, exec (.mailboxWordWrite p) s = .next t ∧ (t.pair p).inTail = (s.pair p).inTail ∧
    (t.pair p).outConsumed = (w >>> 32).setWidth 32 ∧
    t.pages = (pageError pgFw 1 (BitVec.ofNat 32 p.val) 0 0x40 s).pages) ∧
  (∀ (s : State) (p : Fin 8) (w : Long), firmwareUp s = true → s.port.observer.find? (isMailbox p) = some (.mailbox p w) →
    (w.setWidth 32 - (s.pair p).inTail).toNat < 2 ^ 31 → (w.setWidth 32 - (s.pair p).inRead).toNat ≤ 255 →
    ((s.pair p).outTail - (s.pair p).outConsumed).toNat < (((w >>> 32).setWidth 32 : Word) - (s.pair p).outConsumed).toNat →
    ∃ t, exec (.mailboxWordWrite p) s = .next t ∧ (t.pair p).inTail = w.setWidth 32 ∧
    (t.pair p).outConsumed = (s.pair p).outConsumed ∧
    t.pages = (pageError pgFw 2 (BitVec.ofNat 32 p.val) 0 0x40 s).pages) ∧
  (∀ (s : State) (p : Fin 8), (firmwareUp s = false ∨ s.port.observer.find? (isMailbox p) = none) →
    exec (.mailboxWordWrite p) s = .next s) ∧
  (∀ (s : State) (p : Fin 8) (c : Word) (kind : Bool) (body : List Byte), firmwareUp s = true →
    s.port.observer.find? (isMailbox p) =
      some (.mailbox p (BitVec.ofNat 64 ((s.pair p).inTail.toNat + c.toNat * 2 ^ 32))) →
    (s.pair p).inTail = (s.pair p).inRead → (s.pair p).held = [(kind, body)] → 1 ≤ (s.pair p).outSlot →
    (s.pair p).outSlot ≤ 255 → body.length ≤ 242 →
    (c - (s.pair p).outConsumed).toNat ≤ ((s.pair p).outTail - (s.pair p).outConsumed).toNat →
    ((s.pair p).outTail - c).toNat < 255 → ∃ t, exec (.mailboxWordWrite p) s = .next t ∧ (t.pair p).held = [] ∧
    (t.pair p).outTail = (s.pair p).outTail + 1 ∧
    t.port.window.readBytes (outArea p + 256 * (s.pair p).outSlot) (16 + (body.length - 2)) =
      message s.fw.minor (fieldNat body 0 2) (s.pair p).outTail (body.drop 2)) ∧
  (∀ (s : State) (p : Fin 8) (raw : List Byte), firmwareUp s = true →
    s.port.observer = [.mailbox p (BitVec.ofNat 64 (((s.pair p).inRead + 1).toNat + (s.pair p).outConsumed.toNat * 2 ^ 32))] →
    (s.pair p).inTail = (s.pair p).inRead → (s.pair p).job = none → swapPending s = false → OutReady p s →
    raw = s.port.window.readBytes (inArea p + 256 * (s.pair p).inSlot) 256 → requestCheck s.fw.minor raw ≠ 0 →
    ∃ t, exec (.mailboxWordWrite p) s = .next t ∧ (t.pair p).inRead = (s.pair p).inRead + 1 ∧
    Replied (fieldNat raw 2 2) p (BitVec.ofNat 32 (fieldNat raw 8 4)) (requestCheck s.fw.minor raw)
      (List.replicate (replyFieldBytes (fieldNat raw 2 2)) 0) s t) ∧
  (∀ (s : State) (p : Fin 8), Requested 0x01 p s → ∃ t, exec (.hello p) s = .next t ∧
    Served 0x01 p 0 (leBytes 4 s.fw.version.toNat ++ leBytes 4 s.fw.translator.toNat ++ leBytes 1 (self s) ++
      leBytes 1 s.fuses.grade.toNat ++ leBytes 2 (enabledMask s).toNat ++ [0, 0, 0, 0]) s t ∧
    t = { s with port := t.port, fw := t.fw }) ∧
  (∀ (s : State) (p : Fin 8) (raw : List Byte), nextRequest p s = some raw → requestCheck s.fw.minor raw = 0 →
    fieldNat raw 2 2 = 1 → outRoom s p = false → (s.pair p).held = [] → ∃ t, exec (.hello p) s = .next t ∧
    (t.pair p).inRead = (s.pair p).inRead + 1 ∧ (t.pair p).outTail = (s.pair p).outTail ∧
    (t.pair p).held = [(false, leBytes 2 0x4001 ++ leBytes 4 (reqSeq (requestBody raw)).toNat ++ [0, 0, 0, 0] ++ helloFields s)]) ∧
  (∀ (s : State) (p : Fin 8) (x : Nat × Instr), x ∈ [(0x01, Instr.hello p), (0x10, .parcelCreate p), (0x11, .parcelDestroy p),
      (0x20, .queueCreate p), (0x21, .queueDestroy p), (0x30, .objectCreate p), (0x31, .objectClearPoison p),
      (0x48, .echoSet p), (0x50, .streamOpen p), (0x51, .streamClose p), (0x58, .pipeCommit p), (0x60, .pressFail p),
      (0x68, .linkRetrain p), (0x70, .collective p), (0x78, .muxOpen p), (0x79, .muxSubmit p), (0x7A, .muxClose p),
      (0x80, .fwLoad p), (0x81, .fwSwap p), (0x90, .attest p)] → Unread x.1 p s → exec x.2 s = .next s) ∧
  (∀ (s : State) (p : Fin 8) (h : ReadHealth), Unread 0x40 p s → exec (.moduleTranslate p h) s = .next (noted h s s))

/-- R242, R396 to R401, R434, R455, R473, R484 to R488, R565, R566, R630: the requests that set up and remove parcels, queues and
objects, where one request waits and its reply can be written at once. A create request that passes the checks of Table 13.2 assigns
its presses and owes its reply, once the domains that it gives work run; a destroy request releases the objects and owes its reply.
Outside the safe state a new queue is enabled with its first number, which TAIL, CONSUMED and the cork log show, and a destroyed one
is disabled. An object takes the lowest free handle; its poison is cleared on request. A request that fails a check is refused with
the check's RESULT. -/
def Obligations.SetupRequestsAct : Prop :=
  (∀ (s : State) (p : Fin 8), Requested 0x10 p s → createCheck s (requestOf p s) = 0 → Awake s (createWork (requestOf p s) s) →
    ∃ t, exec (.parcelCreate p) s = .next t ∧
    Owed p (.creating (reqSeq (requestOf p s)) (reqParcel (requestOf p s)) (reqPolicy (requestOf p s))) s t ∧
    (t.parcel (reqParcel (requestOf p s))).state = 1 ∧
    (t.parcel (reqParcel (requestOf p s))).presses = reqPresses (requestOf p s) ∧
    (∀ k : Fin 16, (t.press k).assigned = (if (reqPresses (requestOf p s)).getLsbD k.val then
      some (reqParcel (requestOf p s)) else (s.press k).assigned))) ∧
  (∀ (s : State) (p : Fin 8), Requested 0x10 p s → ¬ Awake s (createWork (requestOf p s) s) →
    ∃ t, exec (.parcelCreate p) s = .next t ∧ Wakes p s (createWork (requestOf p s) s) t) ∧
  (∀ (s : State) (p : Fin 8), Requested 0x10 p s → createCheck s (requestOf p s) ≠ 0 →
    ∃ t, exec (.parcelCreate p) s = .next t ∧ Refused 0x10 p (createCheck s (requestOf p s)) s t) ∧
  (∀ (s : State) (p : Fin 8), Requested 0x11 p s → ∃ t, exec (.parcelDestroy p) s = .next t ∧
    (destroyCheck s (requestOf p s) = 0 →
      Owed p (.destroying (reqSeq (requestOf p s)) (reqParcel (requestOf p s))) s t ∧
      (t.parcel (reqParcel (requestOf p s))).state = 3 ∧
      t.objects = s.objects.filter (fun o => decide (o.2.parcel ≠ reqParcel (requestOf p s)))) ∧
    (destroyCheck s (requestOf p s) ≠ 0 → Refused 0x11 p (destroyCheck s (requestOf p s)) s t)) ∧
  (∀ (s : State) (p : Fin 8) (q : Fin 256) (f : Word), Requested 0x20 p s → queueCheck s (requestOf p s) = 0 →
    q = reqQueue (requestOf p s) → f = BitVec.ofNat 32 (fieldNat (requestOf p s) 24 4) →
    ∃ t, exec (.queueCreate p) s = .next t ∧ Served 0x20 p 0 [] s t ∧
    (s.safety.safe = false → (t.queue q).cfg.live = {
      en := true, continuePolicy := (fieldNat (requestOf p s) 20 1).testBit 0,
      wire := BitVec.ofNat 2 (fieldNat (requestOf p s) 20 1 / 2), parcel := BitVec.ofNat 3 (fieldNat (requestOf p s) 17 1),
      size := BitVec.ofNat 9 (fieldNat (requestOf p s) 18 2) }) ∧
    (t.queue q).tail = f ∧ (t.queue q).consumed = f ∧ (t.queue q).nextCork = f ∧ (t.queue q).cmds = [] ∧
    t.port.window.readBytes (ringBase q) 8 = leBytes 4 f.toNat ++ leBytes 4 f.toNat ∧
    (∀ r < 128, t.port.window.readBytes (corkLog q + 32 * r + 8) 4 = leBytes 4 (firstLogSeq f r).toNat ∧
      t.port.window.readBytes (corkLog q + 32 * r + 14) 1 = [0xFF])) ∧
  (∀ (s : State) (p : Fin 8), Requested 0x20 p s → queueCheck s (requestOf p s) ≠ 0 →
    ∃ t, exec (.queueCreate p) s = .next t ∧ Refused 0x20 p (queueCheck s (requestOf p s)) s t) ∧
  (∀ (s : State) (p : Fin 8) (q : Fin 256), Requested 0x21 p s → q = reqQueue (requestOf p s) →
    ∃ t, exec (.queueDestroy p) s = .next t ∧
    ((s.queue q).cfg.live.en = true → queueEmpty (s.queue q) = true → Served 0x21 p 0 [] s t ∧
      (s.safety.safe = false → (s.parcel (s.parcelOf q)).state ≠ 0 → (t.queue q).cfg.live.en = false)) ∧
    ((s.queue q).cfg.live.en = false → Refused 0x21 p 0x22 s t) ∧
    ((s.queue q).cfg.live.en = true → queueEmpty (s.queue q) = false → Refused 0x21 p 0x21 s t)) ∧
  (∀ (s : State) (p : Fin 8), Requested 0x30 p s → ∃ t, exec (.objectCreate p) s = .next t ∧
    (objectCheck s (requestOf p s) = 0 → Served 0x30 p 0 (leBytes 2 (lowestFree s.objects 0) ++ [0, 0, 0, 0, 0, 0]) s t ∧
      t.object (lowestFree s.objects 0) = some {
        base := fieldNat (requestOf p s) 24 8, length := fieldNat (requestOf p s) 32 8,
        parcel := Fin.ofNat 8 (fieldNat (requestOf p s) 16 1), holds := 0, releasePending := false, poisoned := false } ∧
      t = { s with objects := t.objects, port := t.port, fw := t.fw }) ∧
    (objectCheck s (requestOf p s) ≠ 0 → Refused 0x30 p (objectCheck s (requestOf p s)) s t)) ∧
  (∀ (s : State) (p : Fin 8), Requested 0x31 p s → ∃ t, exec (.objectClearPoison p) s = .next t ∧
    (7 < fieldNat (requestOf p s) 18 1 → Refused 0x31 p 5 s t) ∧
    (fieldNat (requestOf p s) 18 1 ≤ 7 → objectOf s (fieldNat (requestOf p s) 18 1) (fieldNat (requestOf p s) 16 2) = none →
      Refused 0x31 p 0x32 s t) ∧
    (∀ o, fieldNat (requestOf p s) 18 1 ≤ 7 →
      objectOf s (fieldNat (requestOf p s) 18 1) (fieldNat (requestOf p s) 16 2) = some o → Served 0x31 p 0 [] s t ∧
      t.object (fieldNat (requestOf p s) 16 2) = some { o with poisoned := false } ∧
      t = { s with objects := t.objects, port := t.port, fw := t.fw }))

/-- R23, R329, R355, R440, R567, R568, R630, R737: the requests for echo, streams and pipelines, where one request waits and its reply
can be written at once. On a lead outside the safe state ECHO_SET applies at once with no command running, and owes its reply until
then otherwise. A stream opens with its reservation, once CODEC runs; it closes at once, or after its last command, which its reply
waits for. A pipeline's staged set is committed when its reservation fits, coming into force at once where it may and passes the
checks, and is refused and lost when it does not fit. A request that fails a check is refused with its RESULT. -/
def Obligations.StreamRequestsAct : Prop :=
  (∀ (s : State) (p : Fin 8), Requested 0x48 p s → s.safety.safe = false → isLead s = true →
    fieldNat (requestOf p s) 16 2 ≤ 256 → fieldNat (requestOf p s) 18 1 ≤ 8 → fieldNat (requestOf p s) 20 2 ≤ 383 →
    echoBad s (reqEcho (requestOf p s)) = false → (∀ q : Fin 8, (s.pair q).job = none) → ∃ t, exec (.echoSet p) s = .next t ∧
    ((∀ n : Fin 8, runsCmd s n (fun _ => true) = false) → Served 0x48 p 0 [] s t ∧
      t.port.echo.live = reqEcho (requestOf p s)) ∧
    ((∃ n : Fin 8, runsCmd s n (fun _ => true) = true) → Owed p (.echoing (reqSeq (requestOf p s))) s t ∧
      t.port.echo.pending = some (reqEcho (requestOf p s)) ∧ t.port.echo.live = s.port.echo.live)) ∧
  (∀ (s : State) (p : Fin 8), Requested 0x48 p s → ∃ t, exec (.echoSet p) s = .next t ∧
    ((256 < fieldNat (requestOf p s) 16 2 ∨ 8 < fieldNat (requestOf p s) 18 1 ∨ 383 < fieldNat (requestOf p s) 20 2) →
      Refused 0x48 p 5 s t) ∧
    (fieldNat (requestOf p s) 16 2 ≤ 256 → fieldNat (requestOf p s) 18 1 ≤ 8 → fieldNat (requestOf p s) 20 2 ≤ 383 →
      isLead s = false → Refused 0x48 p 6 s t) ∧
    (fieldNat (requestOf p s) 16 2 ≤ 256 → fieldNat (requestOf p s) 18 1 ≤ 8 → fieldNat (requestOf p s) 20 2 ≤ 383 →
      isLead s = true → echoBad s (reqEcho (requestOf p s)) = true → Refused 0x48 p 0x90 s t)) ∧
  (∀ (s : State) (p : Fin 8) (d w h fps : Nat), Requested 0x50 p s → d = fieldNat (requestOf p s) 17 1 →
    w = fieldNat (requestOf p s) 18 2 → h = fieldNat (requestOf p s) 20 2 → fps = fieldNat (requestOf p s) 22 2 →
    streamCheck s (requestOf p s) = 0 → Awake s (streamWork (requestOf p s) s) → ∃ t, exec (.streamOpen p) s = .next t ∧
    Served 0x50 p 0 (leBytes 1 (lowestFree s.codec.streams 0) ++ leBytes 7 0 ++ leBytes 8 (streamReservation w h d fps)) s t ∧
    lookupKey t.codec.streams (lowestFree s.codec.streams 0) = some {
      function := BitVec.ofNat 8 (fieldNat (requestOf p s) 16 1), width := w, height := h, depth := d, fpsCenti := fps,
      reservation := streamReservation w h d fps, closing := false } ∧
    t = { s with codec := t.codec, port := t.port, fw := t.fw }) ∧
  (∀ (s : State) (p : Fin 8), Requested 0x50 p s → ¬ Awake s (streamWork (requestOf p s) s) →
    ∃ t, exec (.streamOpen p) s = .next t ∧ Wakes p s (streamWork (requestOf p s) s) t) ∧
  (∀ (s : State) (p : Fin 8), Requested 0x50 p s → streamCheck s (requestOf p s) ≠ 0 →
    ∃ t, exec (.streamOpen p) s = .next t ∧ Refused 0x50 p (streamCheck s (requestOf p s)) s t) ∧
  (∀ (s : State) (p : Fin 8) (n : Nat), Requested 0x51 p s → n = fieldNat (requestOf p s) 16 1 →
    ∃ t, exec (.streamClose p) s = .next t ∧ (lookupKey s.codec.streams n = none → Refused 0x51 p 0x52 s t) ∧
    (∀ st, lookupKey s.codec.streams n = some st → st.closing = true → Refused 0x51 p 6 s t) ∧
    (∀ st, lookupKey s.codec.streams n = some st → st.closing = false → streamBusy s n = false →
      Served 0x51 p 0 [] s t ∧ t.codec.streams = dropKey s.codec.streams n ∧
      t = { s with codec := t.codec, port := t.port, fw := t.fw }) ∧
    (∀ st, lookupKey s.codec.streams n = some st → st.closing = false → streamBusy s n = true →
      Owed p (.closing (reqSeq (requestOf p s)) n) s t ∧ lookupKey t.codec.streams n = some { st with closing := true })) ∧
  (∀ (s : State) (p : Fin 8) (n : Fin 16) (r : Nat), Requested 0x58 p s → fieldNat (requestOf p s) 16 1 = n.val →
    r = pipeReservation s (s.pipe n).cfg.staged → ∃ t, exec (.pipeCommit p) s = .next t ∧
    (isoSum s - (s.pipe n).reservation + r ≤ isoLimit s → Served 0x58 p 0 (leBytes 8 r) s t ∧ (t.pipe n).reservation = r ∧
      (pipeIdle (s.pipe n) = true → s.safety.safe = false → pipeConfigBad (s.pipe n).cfg.staged = none →
        (t.pipe n).cfg.live = (s.pipe n).cfg.staged)) ∧
    (isoLimit s < isoSum s - (s.pipe n).reservation + r → Served 0x58 p 0x50 (List.replicate 8 0) s t ∧
      (t.pipe n).cfg.staged = (s.pipe n).cfg.live ∧ (t.pipe n).cfg.live = (s.pipe n).cfg.live)) ∧
  (∀ (s : State) (p : Fin 8), Requested 0x58 p s → 15 < fieldNat (requestOf p s) 16 1 →
    ∃ t, exec (.pipeCommit p) s = .next t ∧ Refused 0x58 p 5 s t)

/-- R34, R145, R146, R184 to R192, R520, R539, R540, R551, R552, R569, R630: the requests for presses, links, translation,
collectives and multiplexed streams, where one request waits and its reply can be written at once. PRESS_FAIL sets the press's bit
and kills what runs on it, and its reply waits until the press is free. LINK_RETRAIN retrains a link that has a partner and brings up
one that is DOWN, once its domain runs. MODULE_TRANSLATE writes what `translation` makes of a module that passes its checks and
keeps the plans of folded programs. COLLECTIVE begins an exchange and owes its reply. A stream of a multiplexer is opened and closed,
and its descriptor goes into its queue's ring, or into the forward queue for another device's, or waits for room. A request that
fails a check is refused with its RESULT. -/
def Obligations.UnitRequestsAct : Prop :=
  (∀ (s : State) (p : Fin 8) (k : Fin 16), Requested 0x60 p s → fieldNat (requestOf p s) 16 1 = k.val →
    ∃ t, exec (.pressFail p) s = .next t ∧ t.failed = s.failed ||| BitVec.ofNat 16 (2 ^ k.val) ∧
    (((setFailed k s).press k).sequencer = none → Served 0x60 p 0 [] s t) ∧
    (((setFailed k s).press k).sequencer ≠ none → Owed p (.failing (reqSeq (requestOf p s)) k) s t) ∧
    (failVictims k s = [] → t = { s with failed := t.failed, port := t.port, fw := t.fw }) ∧
    (∀ w ∈ failVictims k s, ∀ c, s.cmd w.1 w.2 = some c → c.kind = 1 → c.phase.killable = true →
      (∀ i, c.phase ≠ .suspended i) → (t.cmd w.1 w.2).map (·.phase) = some (.killing 0x2B (dataI 0 k.val)))) ∧
  (∀ (s : State) (p : Fin 8), Requested 0x60 p s → 15 < fieldNat (requestOf p s) 16 1 →
    ∃ t, exec (.pressFail p) s = .next t ∧ Refused 0x60 p 5 s t) ∧
  (∀ (s : State) (p : Fin 8) (i : Fin 4), Requested 0x68 p s → fieldNat (requestOf p s) 16 1 = i.val →
    Awake s (retrainWork (requestOf p s) s) → ∃ t, exec (.linkRetrain p) s = .next t ∧
    (2 ≤ (s.link i).state.toNat → Owed p (.retraining (reqSeq (requestOf p s)) i) s t ∧ (t.link i).state = 1 ∧
      (t.link i).retrains = satInc (s.link i).retrains 1 ∧ t.vine.timingBroken = true) ∧
    ((s.link i).state = 0 → Owed p (.retraining (reqSeq (requestOf p s)) i) s t ∧ (t.link i).state = 1 ∧
      (t.link i).wanted = true ∧ t.vine.timingBroken = s.vine.timingBroken) ∧
    ((s.link i).state = 1 → Refused 0x68 p 6 s t)) ∧
  (∀ (s : State) (p : Fin 8), Requested 0x68 p s → ¬ Awake s (retrainWork (requestOf p s) s) →
    ∃ t, exec (.linkRetrain p) s = .next t ∧ Wakes p s (retrainWork (requestOf p s) s) t) ∧
  (∀ (s : State) (p : Fin 8), Requested 0x68 p s → 3 < fieldNat (requestOf p s) 16 1 →
    ∃ t, exec (.linkRetrain p) s = .next t ∧ Refused 0x68 p 5 s t) ∧
  (∀ (s : State) (p : Fin 8) (h : ReadHealth) (b m : List Byte) (src dst : List Named), Requested 0x40 p s → b = requestOf p s →
    translateRanges b → translateObjects s b = some (src, dst) → m = moduleOf s (src.map fun x => x.2) →
    ∃ t, exec (.moduleTranslate p h) s = .next (noted h s t) ∧
    (translateCheck s b src dst = 0 →
      Served 0x40 p 0 (leBytes 2 (moduleVariants m) ++ [0, 0] ++ leBytes 4 (32 * moduleVariants m)) s t ∧
      ∃ w, translation (Fin.ofNat 8 (fieldNat b 16 1)) (slotPresses s (Fin.ofNat 8 (fieldNat b 16 1)) (translateTwin s b))
          m src dst = some w ∧ t.dram = (writeTranslation w s).dram ∧ t.fw.folds = (writeTranslation w s).fw.folds) ∧
    (translateCheck s b src dst ≠ 0 → Refused 0x40 p (translateCheck s b src dst) s t)) ∧
  (∀ (s : State) (p : Fin 8) (h : ReadHealth), Requested 0x40 p s → ∃ t, exec (.moduleTranslate p h) s = .next (noted h s t) ∧
    (¬ translateRanges (requestOf p s) → Refused 0x40 p 5 s t) ∧
    (translateRanges (requestOf p s) → translateObjects s (requestOf p s) = none → Refused 0x40 p 0x32 s t)) ∧
  (∀ (s : State) (p : Fin 8), Requested 0x70 p s → ∃ t, exec (.collective p) s = .next t ∧
    (collCheck s (requestOf p s) = 0 → Owed p (.collective (reqSeq (requestOf p s))) s t ∧
      t.fw.colls.length = s.fw.colls.length + 1 ∧ t.dram = s.dram ∧
      ∀ c, t.fw.colls.getLast? = some c → c.seq = BitVec.ofNat 32 (fieldNat (requestOf p s) 20 4) ∧
        c.count = fieldNat (requestOf p s) 24 8 ∧ c.inHandle = fieldNat (requestOf p s) 32 2 ∧
        c.outHandle = fieldNat (requestOf p s) 34 2 ∧
        (2 ≤ s.port.devices.toNat → Sent s t (.collective c.seq (collInput s c)))) ∧
    (collCheck s (requestOf p s) ≠ 0 → Refused 0x70 p (collCheck s (requestOf p s)) s t)) ∧
  (∀ (s : State) (p : Fin 8), Requested 0x78 p s → ∃ t, exec (.muxOpen p) s = .next t ∧
    (muxCheck s (requestOf p s) = 0 → Served 0x78 p 0 (leBytes 2 (lowestFree s.fw.muxes 0) ++ [0, 0]) s t ∧
      lookupKey t.fw.muxes (lowestFree s.fw.muxes 0) = some {
        dev := Fin.ofNat 64 (fieldNat (requestOf p s) 16 1), parcel := Fin.ofNat 8 (fieldNat (requestOf p s) 17 1),
        queue := Fin.ofNat 256 (fieldNat (requestOf p s) 18 1) } ∧ t = { s with port := t.port, fw := t.fw }) ∧
    (muxCheck s (requestOf p s) ≠ 0 → Refused 0x78 p (muxCheck s (requestOf p s)) s t)) ∧
  (∀ (s : State) (p : Fin 8) (m : Mux), Requested 0x79 p s → muxStreamCheck s (fieldNat (requestOf p s) 16 2) = 0 →
    lookupKey s.fw.muxes (fieldNat (requestOf p s) 16 2) = some m → s.fw.muxWaiting = [] →
    ∃ t, exec (.muxSubmit p) s = .next t ∧
    (m.dev.val = self s → ringRoom (s.queue m.queue) = true → s.port.observer = [] → s.safety.safe = false →
      Served 0x79 p 0 [] s t ∧ (t.queue m.queue).tail = (s.queue m.queue).tail + 1 ∧
      t.port.window.readBytes (ringBase m.queue + 64 * tailEntry (s.queue m.queue)) 64 =
        ((requestOf p s).drop 24).take 64) ∧
    (m.dev.val ≠ self s → s.port.forward.length + 2 ≤ 4096 → Served 0x79 p 0 [] s t ∧ t.queues = s.queues ∧
      t.port.forward = (pumpForward (forwardDescriptor m.dev m.queue (((requestOf p s).drop 24).take 64) s)).port.forward ∧
      t.vine = (pumpForward (forwardDescriptor m.dev m.queue (((requestOf p s).drop 24).take 64) s)).vine) ∧
    (muxRoom s m = false → Owed p (.muxing (reqSeq (requestOf p s)) (fieldNat (requestOf p s) 16 2)
      (((requestOf p s).drop 24).take 64)) s t ∧ t.fw.muxWaiting = [p] ∧ t.queues = s.queues)) ∧
  (∀ (s : State) (p : Fin 8), Requested 0x79 p s → muxStreamCheck s (fieldNat (requestOf p s) 16 2) ≠ 0 →
    ∃ t, exec (.muxSubmit p) s = .next t ∧ Refused 0x79 p (muxStreamCheck s (fieldNat (requestOf p s) 16 2)) s t) ∧
  (∀ (s : State) (p : Fin 8) (id : Nat), Requested 0x7A p s → id = fieldNat (requestOf p s) 16 2 →
    ∃ t, exec (.muxClose p) s = .next t ∧ (muxStreamCheck s id ≠ 0 → Refused 0x7A p (muxStreamCheck s id) s t) ∧
    (muxStreamCheck s id = 0 → (∃ w ∈ s.fw.muxWaiting, ∃ seq d, muxJob s w = some (seq, id, d)) → Refused 0x7A p 6 s t) ∧
    (muxStreamCheck s id = 0 → (∀ w ∈ s.fw.muxWaiting, ∀ seq d, muxJob s w ≠ some (seq, id, d)) → Served 0x7A p 0 [] s t ∧
      t.fw.muxes = dropKey s.fw.muxes id ∧ t = { s with port := t.port, fw := t.fw }))

/-- R570 to R573, R594, R604 to R606: with one request that waits and whose reply can be written at once, FW_LOAD keeps an image that
passes the checks of a boot image, and one that fails them leaves none; FW_SWAP owes its reply until the stall, or is refused without
a checked image. The stall enters the image and measures it, or refuses it; without a swap that is ready it changes nothing. ATTEST
fixes the report's bytes, or is refused where its object is absent or too short; when signing is done the oldest report goes to its
object with its signature, or is refused where the object is gone; with none to sign, nothing changes. -/
def Obligations.UpdateAndAttestAct : Prop :=
  (∀ (s : State) (p : Fin 8) (img : List Byte), Requested 0x80 p s → fieldNat (requestOf p s) 20 4 ≤ 1048576 →
    fieldNat (requestOf p s) 16 4 + fieldNat (requestOf p s) 20 4 ≤ stagingSize →
    img = s.port.window.readBytes (stagingBase + fieldNat (requestOf p s) 16 4) (fieldNat (requestOf p s) 20 4) →
    ∃ t, exec (.fwLoad p) s = .next t ∧
    (imageFault s.fuses img = none → Served 0x80 p 0 (leBytes 4 (imageVersion img)) s t ∧ t.fw.loaded = some img) ∧
    (imageFault s.fuses img ≠ none → Refused 0x80 p 0x80 s t ∧ t.fw.loaded = none) ∧
    t = { s with port := t.port, fw := t.fw }) ∧
  (∀ (s : State) (p : Fin 8), Requested 0x80 p s → (1048576 < fieldNat (requestOf p s) 20 4 ∨
      stagingSize < fieldNat (requestOf p s) 16 4 + fieldNat (requestOf p s) 20 4) →
    ∃ t, exec (.fwLoad p) s = .next t ∧ Refused 0x80 p 0x81 s t ∧ t.fw.loaded = none) ∧
  (∀ (s : State) (p : Fin 8), Requested 0x81 p s → ∃ t, exec (.fwSwap p) s = .next t ∧ t.fw.loaded = s.fw.loaded ∧
    (s.fw.loaded ≠ none → Owed p (.swapping (reqSeq (requestOf p s))) s t) ∧
    (s.fw.loaded = none → Refused 0x81 p 6 s t)) ∧
  (∀ (s : State) (p : Fin 8) (seq : Word) (img : List Byte) (us : BitVec 12), firmwareUp s = true →
    swapJob s = some (p, seq) → s.fw.loaded = some img → swapReady s p = true → OutReady p s →
    (s.pair p).inTail = (s.pair p).inRead → ∃ t, exec (.fwSwapStall true us) s = .next t ∧
    Replied 0x81 p seq 0 (leBytes 4 (imageVersion img)) s t ∧ t.fw.version = BitVec.ofNat 32 (imageVersion img) ∧
    t.fw.half = !s.fw.half ∧ t.fw.loaded = none ∧ t.fw.swaps = satInc s.fw.swaps 1 ∧ t.fw.lastStall = us ∧
    t.boot.keyInUse = BitVec.ofNat 2 (fieldNat img 13 1) ∧
    t.boot.pcr = sha256 (s.boot.pcr ++ sha256 (img.take (imageLength img)))) ∧
  (∀ (s : State) (p : Fin 8) (seq : Word) (img : List Byte) (us : BitVec 12), firmwareUp s = true →
    swapJob s = some (p, seq) → s.fw.loaded = some img → swapReady s p = true → OutReady p s →
    (s.pair p).inTail = (s.pair p).inRead → ∃ t, exec (.fwSwapStall false us) s = .next t ∧
    Replied 0x81 p seq 0x82 [0, 0, 0, 0] s t ∧ t.fw.version = s.fw.version ∧ t.fw.loaded = none ∧ t.fw.lastStall = us ∧
    t.fw.refused = satInc s.fw.refused 1) ∧
  (∀ (s : State) (ok : Bool) (us : BitVec 12), (firmwareUp s = false ∨ s.fw.loaded = none ∨
      ∀ p seq, swapJob s = some (p, seq) → swapReady s p = false) → exec (.fwSwapStall ok us) s = .next s) ∧
  (∀ (s : State) (p : Fin 8), Requested 0x90 p s → ∃ t, exec (.attest p) s = .next t ∧
    (7 < fieldNat (requestOf p s) 50 1 → Refused 0x90 p 5 s t) ∧
    (fieldNat (requestOf p s) 50 1 ≤ 7 → objectOf s (fieldNat (requestOf p s) 50 1) (fieldNat (requestOf p s) 48 2) = none →
      Refused 0x90 p 0x32 s t) ∧
    (∀ o, fieldNat (requestOf p s) 50 1 ≤ 7 →
      objectOf s (fieldNat (requestOf p s) 50 1) (fieldNat (requestOf p s) 48 2) = some o →
      (o.length < reportLength s → Refused 0x90 p 5 s t) ∧
      (reportLength s ≤ o.length → Owed p (.signing (reqSeq (requestOf p s)) (fieldNat (requestOf p s) 48 2)
        (Fin.ofNat 8 (fieldNat (requestOf p s) 50 1)) (reportBody s (((requestOf p s).drop 16).take 32))) s t ∧
        t.fw.signing = s.fw.signing ++ [p] ∧ t.dram = s.dram))) ∧
  (∀ (s : State) (p n : Fin 8) (seq : Word) (h : Nat) (l : List Byte), firmwareUp s = true →
    signingJob s = some (p, seq, h, n, l) → OutReady p s → (s.pair p).inTail = (s.pair p).inRead →
    ∃ t, exec .signingComplete s = .next t ∧
    (∀ o, objectOf s n.val h = some o → Replied 0x90 p seq 0 (leBytes 4 (l.length + 7856)) s t ∧
      t.dram = (fwWrite o.base (l ++ imageBytes (Config.slhSign s.boot.skSeed s.boot.skPrf s.boot.pkSeed l) 7856) s).dram) ∧
    (objectOf s n.val h = none → Replied 0x90 p seq 0x32 [0, 0, 0, 0] s t ∧ t.dram = s.dram)) ∧
  (∀ s : State, (firmwareUp s = false ∨ signingJob s = none) → exec .signingComplete s = .next s)

/-! ### Vine -/

/-- R517 to R522, R525, R442, R530: on a link that carries flits, one with a good CRC and the expected sequence number is accepted,
goes on along its route where it is for another device, and is otherwise answered with an IDLE flit in an idle slot; an IDLE or
calibration flit has no answer. A bad CRC is counted and, like a wrong number, asks for a replay, the latter once. A replay request
drops what has arrived and sends the rest again; after 16 retries in succession the link retrains. Silence starts a retrain of an UP
link; a good retrain or bring-up brings the link UP, and the third failure leaves it FAILED. The failure of any device's link loses
the devices behind it: the lead marks their slots absent, and another device that the lead can no longer reach loses its step. A link
that carries nothing takes no flit, and no other row changes anything. -/
def Obligations.LinksCarryFlits : Prop :=
  (∀ (s : State) (i : Fin 4) (f : List Byte), linkCarries s i = true → f.length = 256 →
    BitVec.ofNat 32 (fieldNat f 252 4) = crc32 (f.take 252) → BitVec.ofNat 32 (fieldNat f 4 4) = (s.link i).rxNext →
    ∃ t, exec (.flitReceive i f) s = .next t ∧ (t.link i).rxNext = (s.link i).rxNext + 1 ∧ (t.link i).rejecting = false ∧
    (t.link i).crcErr = (s.link i).crcErr ∧ (t.link i).state = (s.link i).state ∧ t.dram = s.dram ∧ t.queues = s.queues ∧
    (s.port.forward = [] → s.port.notices = [] → (s.link i).backlog = [] →
      ((calibrates (s.link i).rxNext = true ∨ fieldNat f 0 1 = 3) → t.vine.outbox = s.vine.outbox) ∧
      (calibrates (s.link i).rxNext = false → fieldNat f 0 1 ≠ 3 → fieldNat f 2 1 % 64 = self s →
        (s.link i).replay.length < 128 → ∃ g, t.vine.outbox = s.vine.outbox ++ [.flit i (s.link i).txNext g]) ∧
      (∀ j : Fin 4, calibrates (s.link i).rxNext = false → fieldNat f 0 1 ≠ 3 → fieldNat f 2 1 % 64 ≠ self s →
        routeOut s (fieldNat f 2 1 % 64) = some j → j ≠ i → linkCarries s j = true → (s.link j).backlog = [] →
        (s.link j).replay.length < 128 → calibrates (s.link j).txNext = false → Sent s t (.flit j (s.link j).txNext
          (formFlit (s.link j) (f.take 4 ++ (f.drop 12).take 240)))))) ∧
  (∀ (s : State) (i : Fin 4) (f : List Byte), linkCarries s i = true → f.length = 256 →
    BitVec.ofNat 32 (fieldNat f 252 4) ≠ crc32 (f.take 252) → ∃ t, exec (.flitReceive i f) s = .next t ∧
    (t.link i).crcErr = satInc (s.link i).crcErr 1 ∧ (t.link i).rejecting = true ∧ (t.link i).rxNext = (s.link i).rxNext ∧
    Sent s t (.replayRequest i (s.link i).rxNext) ∧ t = { s with vine := t.vine, freeCtr := t.freeCtr }) ∧
  (∀ (s : State) (i : Fin 4) (f : List Byte), linkCarries s i = true → f.length = 256 →
    BitVec.ofNat 32 (fieldNat f 252 4) = crc32 (f.take 252) → BitVec.ofNat 32 (fieldNat f 4 4) ≠ (s.link i).rxNext →
    ((s.link i).rejecting = true → exec (.flitReceive i f) s = .next s) ∧
    ((s.link i).rejecting = false → ∃ t, exec (.flitReceive i f) s = .next t ∧ (t.link i).rejecting = true ∧
      (t.link i).rxNext = (s.link i).rxNext ∧ Sent s t (.replayRequest i (s.link i).rxNext) ∧
      t = { s with vine := t.vine, freeCtr := t.freeCtr })) ∧
  (∀ (s : State) (i : Fin 4) (f : List Byte) (n : Word), linkCarries s i = false → f.length = 256 →
    exec (.flitReceive i f) s = .next s ∧ exec (.replayRequest i n) s = .next s) ∧
  (∀ (s : State) (i : Fin 4) (n : Word) (kept : List (Word × List Byte)), linkCarries s i = true →
    (acceptAck (n - 1) (s.link i)).consecutive < 16 →
    kept = (s.link i).replay.filter (fun f => earlier (n - 1) f.1) → ∃ t, exec (.replayRequest i n) s = .next t ∧
    (t.link i).retries = satInc (s.link i).retries 1 ∧ (t.link i).replay.take kept.length = kept ∧
    t.vine.outbox.take (s.vine.outbox.length + kept.length) = s.vine.outbox ++ kept.map (fun f => .flit i f.1 f.2)) ∧
  (∀ (s : State) (i : Fin 4) (n : Word), linkCarries s i = true → 16 ≤ (acceptAck (n - 1) (s.link i)).consecutive →
    ∃ t, exec (.replayRequest i n) s = .next t ∧ (t.link i).state = 1 ∧ (t.link i).consecutive = 0 ∧
    (t.link i).retrains = satInc (s.link i).retrains 1 ∧ t.vine.timingBroken = true) ∧
  (∀ (s : State) (i : Fin 4), (s.link i).state = 2 → ∃ t, exec (.linkSilenceTimeout i) s = .next t ∧
    (t.link i).state = 1 ∧ (t.link i).retrains = satInc (s.link i).retrains 1 ∧ t.vine.timingBroken = true ∧
    (vget t.pages pgVine).errValid = true ∧ (∀ j : Fin 4, j ≠ i → t.link j = s.link j)) ∧
  (∀ (s : State) (i : Fin 4), (s.link i).state ≠ 2 → exec (.linkSilenceTimeout i) s = .next s) ∧
  (∀ (s : State) (d : Fin 64) (i : Fin 4), d.val = self s → (s.link i).state = 1 →
    ∃ t, exec (.linkRetrainDone d i true) s = .next t ∧ (t.link i).state = 2 ∧ (t.link i).failedRetrains = 0 ∧
    t.vine.outbox.take (s.vine.outbox.length + (s.link i).replay.length) =
      s.vine.outbox ++ (s.link i).replay.map (fun f => .flit i f.1 f.2)) ∧
  (∀ (s : State) (d : Fin 64) (i : Fin 4), d.val = self s → (s.link i).state = 1 →
    ∃ t, exec (.linkRetrainDone d i false) s = .next t ∧ (t.link i).failedRetrains = (s.link i).failedRetrains + 1 ∧
    ((s.link i).failedRetrains < 2 → (t.link i).state = 1 ∧ (t.link i).retrains = satInc (s.link i).retrains 1) ∧
    (2 ≤ (s.link i).failedRetrains → (t.link i).state = 3 ∧ (vget t.pages pgVine).errValid = true ∧
      (isLead s = true → ∀ x < s.port.devices.toNat, crosses s x d.val i = true → x ∈ t.port.lost) ∧
      (isLead s = false → crosses s 0 d.val i = true → t.vine.synced = false))) ∧
  (∀ (s : State) (d : Fin 64) (i : Fin 4), d.val ≠ self s → d.val < s.port.devices.toNat →
    ∃ t, exec (.linkRetrainDone d i false) s = .next t ∧ t.vine.links = s.vine.links ∧
    (isLead s = true → ∀ x < s.port.devices.toNat, crosses s x d.val i = true → x ∈ t.port.lost) ∧
    (isLead s = false → crosses s 0 d.val i = true → t.vine.synced = false)) ∧
  (∀ (s : State) (d : Fin 64) (i : Fin 4) (ok : Bool), ((d.val = self s ∧ (s.link i).state ≠ 1) ∨
      (d.val ≠ self s ∧ (ok = true ∨ s.port.devices.toNat ≤ d.val))) → exec (.linkRetrainDone d i ok) s = .next s)

/-- R523, R524, R585: while discovery runs, TOPOLOGY_DISCOVERY sends its probe on link 0, unless exactly one of links 2 and 3 has a
partner; once the wait has ended with a fault, that is recorded and reported. The return of the probes gives the columns and rows,
numbers the other devices and fixes the size of the system; one that comes back on another link, with a size that no system has, or
not at all, is the discovery's fault of that link. A row for which the lead does not wait changes nothing. -/
def Obligations.DiscoveryNumbersDevices : Prop :=
  (∀ s : State, discovering s = true → (s.vine.probeFault = none ∨ waitOver s = false) → hasPartner s 2 = hasPartner s 3 →
    ∃ t, exec .topologyDiscovery s = .next t ∧ t.vine.probing = true ∧ Sent s t (.probe 0) ∧ t.vine.foundCols = 0 ∧
    t = { s with vine := t.vine, freeCtr := t.freeCtr }) ∧
  (∀ s : State, discovering s = true → (s.vine.probeFault = none ∨ waitOver s = false) → hasPartner s 2 ≠ hasPartner s 3 →
    ∃ t, exec .topologyDiscovery s = .next t ∧ ProbeFailed s (if hasPartner s 2 then 3 else 2) 3 t) ∧
  (∀ (s : State) (x : Fin 4 × Nat), discovering s = true → s.vine.probeFault = some x → waitOver s = true →
    ∃ t, exec .topologyDiscovery s = .next t ∧ t.vine.gaveUp = true ∧ (vget t.pages pgVine).errValid = true ∧
    t.vine.probeFault = some x ∧ t.port.devices = s.port.devices) ∧
  (∀ s : State, discovering s = false → exec .topologyDiscovery s = .next s) ∧
  (∀ (s : State) (c : Nat), probeAwaited s 0 → 2 ≤ c → c ≤ 8 → ∃ t, exec (.probeReturn 0 1 c) s = .next t ∧
    (hasPartner s 2 = false → t.port.devices.toNat = c ∧ t.vine.rows = 1 ∧ t.vine.cols.toNat = c ∧ t.vine.probing = false ∧
      t.vine.synced = true ∧ Sent s t (.number 1 c)) ∧
    (hasPartner s 2 = true → t.vine.foundCols = c ∧ Sent s t (.probe 2) ∧ t.port = s.port)) ∧
  (∀ (s : State) (r : Nat), probeAwaited s 2 → 2 ≤ s.vine.foundCols → s.vine.foundCols ≤ 8 →
    1 ≤ r → r ≤ s.vine.foundCols → ∃ t, exec (.probeReturn 2 3 r) s = .next t ∧
    t.port.devices.toNat = r * s.vine.foundCols ∧ t.vine.rows.toNat = r ∧ t.vine.cols.toNat = s.vine.foundCols ∧
    t.vine.probing = false ∧ t.vine.synced = true ∧ Sent s t (.number r s.vine.foundCols)) ∧
  (∀ (s : State) (i j : Fin 4) (n : Nat), probeAwaited s i → j ≠ i + 1 →
    ∃ t, exec (.probeReturn i j n) s = .next t ∧ ProbeFailed s i 0 t) ∧
  (∀ (s : State) (n : Nat), probeAwaited s 0 → (n < 2 ∨ 8 < n) →
    ∃ t, exec (.probeReturn 0 1 n) s = .next t ∧ ProbeFailed s 0 2 t) ∧
  (∀ (s : State) (n : Nat), probeAwaited s 2 → (n = 0 ∨ s.vine.foundCols < n ∨ 64 < n * s.vine.foundCols) →
    ∃ t, exec (.probeReturn 2 3 n) s = .next t ∧ ProbeFailed s 2 2 t) ∧
  (∀ (s : State) (i j : Fin 4) (n : Nat), ¬ probeAwaited s i → exec (.probeReturn i j n) s = .next s) ∧
  (∀ (s : State) (i : Fin 4), probeAwaited s i → ∃ t, exec (.probeTimeout i) s = .next t ∧ ProbeFailed s i 1 t) ∧
  (∀ (s : State) (i : Fin 4), ¬ probeAwaited s i → exec (.probeTimeout i) s = .next s)

/-- R527 to R530, R534: the lead of several devices sends its time; another device that has a common REFCLK, or is not in step, steps
forward to the lead's time, or holds until it is reached; one that is in step without a common REFCLK is left to correct by single
increments. The idle step, which is an edge of REFCLK (DESIGN CHOICE, log entry 3), advances the counter by its period, a held counter
stands, and at most one edge in 64 makes one correction; every barrier whose release time the counter has reached is released with
it. -/
def Obligations.TimeIsSynchronised : Prop :=
  (∀ s : State, s.pending = [] → dueBarriers (advanceTime s) = [] → ∃ t, step s = .next t ∧
    (s.vine.hold = 0 → (s.vine.correction = 0 ∨ s.vine.edges < 63) → t.time = s.time + (if s.straps.refclk50 then 20 else 40) ∧
      t.vine.correction = s.vine.correction) ∧
    (s.vine.hold = 0 → 0 < s.vine.correction → 63 ≤ s.vine.edges →
      t.time = s.time + (if s.straps.refclk50 then 40 else 80) ∧ t.vine.correction = s.vine.correction - refclkNs s ∧
      t.vine.edges = 0) ∧
    (s.vine.hold = 0 → s.vine.correction < 0 → 63 ≤ s.vine.edges → t.time = s.time ∧
      t.vine.correction = s.vine.correction + refclkNs s ∧ t.vine.edges = 0) ∧
    (0 < s.vine.hold → t.time = s.time ∧ t.vine.hold = s.vine.hold - refclkNs s ∧
      (s.vine.hold ≤ refclkNs s → t.vine.synced = true)) ∧
    t = { s with time := t.time, vine := t.vine }) ∧
  (∀ s : State, s.pending = [] → ∃ t, step s = .next t ∧ t.time = (advanceTime s).time ∧
    ∀ b ∈ dueBarriers (advanceTime s), t.vine.entry b.ident b.gen = none ∧
      ∀ c, s.cmd b.queue b.seq = some c → c.phase = .running →
        ((t.cmd b.queue b.seq).map (·.phase) = some (.ended 0 0) ∨ (t.cmd b.queue b.seq).map (·.phase) = some (.due 0 0))) ∧
  (∀ s : State, isLead s = true → 1 < s.port.devices.toNat → ∃ t, exec .timeSyncSend s = .next t ∧
    Sent s t (.time s.time) ∧ t = { s with vine := t.vine, freeCtr := t.freeCtr }) ∧
  (∀ s : State, (isLead s = false ∨ s.port.devices.toNat ≤ 1) → exec .timeSyncSend s = .next s) ∧
  (∀ (s : State) (l : Long) (ns : Nat) (d : Int), isLead s = false →
    d = (l + BitVec.ofNat 64 (wholeDelay s ns) - s.time).toInt →
    (s.vine.synced = false ∨ s.vine.cfg.live.commonRefclk = true) → 0 ≤ d → ∃ t, exec (.timeSyncReceive l ns) s = .next t ∧
    t.time = l + BitVec.ofNat 64 (wholeDelay s ns) ∧ t.vine.synced = true ∧ t.vine.hold = 0 ∧ t.vine.correction = 0 ∧
    t.vine.offset = BitVec.ofInt 16 d ∧ t = { s with time := t.time, vine := t.vine }) ∧
  (∀ (s : State) (l : Long) (ns : Nat) (d : Int), isLead s = false →
    d = (l + BitVec.ofNat 64 (wholeDelay s ns) - s.time).toInt →
    (s.vine.synced = false ∨ s.vine.cfg.live.commonRefclk = true) → d < 0 → ∃ t, exec (.timeSyncReceive l ns) s = .next t ∧
    t.time = s.time ∧ t.vine.hold = d.natAbs ∧ t.vine.correction = 0 ∧ t.vine.synced = s.vine.synced ∧
    t.vine.offset = BitVec.ofInt 16 d ∧ t = { s with vine := t.vine }) ∧
  (∀ (s : State) (l : Long) (ns : Nat) (d : Int), isLead s = false →
    d = (l + BitVec.ofNat 64 (wholeDelay s ns) - s.time).toInt → s.vine.synced = true →
    s.vine.cfg.live.commonRefclk = false → ∃ t, exec (.timeSyncReceive l ns) s = .next t ∧ t.time = s.time ∧
    t.vine.correction.natAbs = d.natAbs / refclkNs s * refclkNs s ∧ (0 < t.vine.correction → 0 < d) ∧
    (t.vine.correction < 0 → d < 0) ∧ t.vine.hold = s.vine.hold ∧ t.vine.offset = BitVec.ofInt 16 d ∧
    t = { s with vine := t.vine }) ∧
  (∀ (s : State) (l : Long) (ns : Nat), isLead s = true → exec (.timeSyncReceive l ns) s = .next s)

/-- R531 to R538: a started BARRIER command's arrival, at the generation that it took, goes to device 0, or ends at once where that
generation was aborted. Device 0 fixes the release time when every device has arrived and sends it. A device that has arrived keeps
the release time that it receives, and releases when its counter has reached it, or at once, counted as late, when it has passed. An
arrival that has waited TIMEOUT_MS is aborted, and an abort that is received ends the command that has arrived, or waits for it: its
status is 0x2A. A row that names nothing which waits, and the safe state, change nothing. -/
def Obligations.BarriersRelease : Prop :=
  (∀ (s : State) (q : Fin 256) (seq : Word) (c : Cmd) (b : Barrier), startedOf s q seq 6 = some c →
    s.vine.barriers.find? (fun b => b.queue = q && b.seq = seq) = some b →
    s.vine.aborted.contains (b.ident.toNat, b.gen) = false → ∃ t, exec (.barrier q seq) s = .next t ∧
    (isLead s = true → Arrived s b.ident b.gen (self s) t) ∧
    (isLead s = false → 2 ≤ s.port.devices.toNat → Sent s t (.arrival b.ident b.gen)) ∧
    ((isLead s = false ∨ allArrived s b.ident b.gen (self s) = false ∨ ¬ releaseTime s < s.time) →
      (t.cmd q seq).map (·.phase) = some .running ∧
      t = { s with queues := t.queues, vine := t.vine, freeCtr := t.freeCtr })) ∧
  (∀ (s : State) (q : Fin 256) (seq : Word) (c : Cmd) (b : Barrier), startedOf s q seq 6 = some c →
    s.vine.barriers.find? (fun b => b.queue = q && b.seq = seq) = some b →
    s.vine.aborted.contains (b.ident.toNat, b.gen) = true → ∃ t, exec (.barrier q seq) s = .next t ∧
    BarrierEnds s b 0x2A (dataI b.ident.toNat 0) t ∧
    t.vine.aborted = s.vine.aborted.filter (fun a => decide (a ≠ (b.ident.toNat, b.gen)))) ∧
  (∀ (s : State) (q : Fin 256) (seq : Word), (startedOf s q seq 6 = none ∨
      s.vine.barriers.find? (fun b => b.queue = q && b.seq = seq) = none) → exec (.barrier q seq) s = .next s) ∧
  (∀ (s : State) (dev : Fin 64) (i : BitVec 16) (g : Word), isLead s = true → s.safety.safe = false → dev.val ≠ self s →
    dev.val < s.port.devices.toNat → ∃ t, exec (.barrierArrival dev i g) s = .next t ∧ Arrived s i g dev.val t ∧
    ((allArrived s i g dev.val = false ∨ ¬ releaseTime s < s.time) → t = { s with vine := t.vine, freeCtr := t.freeCtr })) ∧
  (∀ (s : State) (dev : Fin 64) (i : BitVec 16) (g : Word), (isLead s = false ∨ s.safety.safe = true ∨ dev.val = self s ∨
      s.port.devices.toNat ≤ dev.val) → exec (.barrierArrival dev i g) s = .next s) ∧
  (∀ (s : State) (i : BitVec 16) (g : Word) (tr : Long) (b : Barrier), s.safety.safe = false → s.vine.entry i g = some b →
    ¬ tr < s.time → ∃ t, exec (.releaseTimeReceive i g tr) s = .next t ∧
    t.vine.entry i g = some { b with tRel := some tr } ∧ t.vine.late = s.vine.late ∧ t = { s with vine := t.vine }) ∧
  (∀ (s : State) (i : BitVec 16) (g : Word) (tr : Long) (b : Barrier), s.safety.safe = false →
    s.vine.entry i g = some b → tr < s.time → ∃ t, exec (.releaseTimeReceive i g tr) s = .next t ∧
    BarrierEnds s b 0 0 t ∧ t.vine.late = satInc s.vine.late 1 ∧ t.vine.done = satInc s.vine.done 1 ∧
    t.vine.timingBroken = true) ∧
  (∀ (s : State) (i : BitVec 16) (g : Word) (tr : Long), (s.safety.safe = true ∨ s.vine.entry i g = none) →
    exec (.releaseTimeReceive i g tr) s = .next s) ∧
  (∀ (s : State) (i : BitVec 16) (b : Barrier), (dueBarriers s).find? (fun b => b.ident = i) = some b →
    ∃ t, exec (.barrierRelease i) s = .next t ∧ BarrierEnds s b 0 0 t ∧ t.vine.done = satInc s.vine.done 1 ∧
    t.vine.late = s.vine.late) ∧
  (∀ (s : State) (i : BitVec 16), (dueBarriers s).find? (fun b => b.ident = i) = none →
    exec (.barrierRelease i) s = .next s) ∧
  (∀ (s : State) (i : BitVec 16) (b : Barrier), s.safety.safe = false →
    s.vine.barriers.find? (fun b => b.ident = i && overdue s b) = some b → ∃ t, exec (.barrierTimeout i) s = .next t ∧
    BarrierEnds s b 0x2A (dataI i.toNat 0) t ∧ t.vine.timeouts = satInc s.vine.timeouts 1 ∧
    (2 ≤ s.port.devices.toNat → Sent s t (.abort i b.gen))) ∧
  (∀ (s : State) (i : BitVec 16), (s.safety.safe = true ∨
      s.vine.barriers.find? (fun b => b.ident = i && overdue s b) = none) → exec (.barrierTimeout i) s = .next s) ∧
  (∀ (s : State) (i : BitVec 16) (g : Word) (b : Barrier), s.safety.safe = false → s.vine.entry i g = some b →
    ∃ t, exec (.barrierAbort i g) s = .next t ∧ BarrierEnds s b 0x2A (dataI i.toNat 0) t ∧
    t.vine.timeouts = satInc s.vine.timeouts 1) ∧
  (∀ (s : State) (i : BitVec 16) (g next : Word), s.safety.safe = false → s.vine.entry i g = none →
    next = (lookupKey s.vine.generations i.toNat).getD 0 → (g = next ∨ earlier next g = true) →
    s.vine.aborted.contains (i.toNat, g) = false → ∃ t, exec (.barrierAbort i g) s = .next t ∧
    t.vine.aborted = s.vine.aborted ++ [(i.toNat, g)] ∧ t.vine.timeouts = satInc s.vine.timeouts 1 ∧
    t = { s with vine := t.vine }) ∧
  (∀ (s : State) (i : BitVec 16) (g next : Word), next = (lookupKey s.vine.generations i.toNat).getD 0 →
    (s.safety.safe = true ∨ (s.vine.entry i g = none ∧
      ((g ≠ next ∧ earlier next g = false) ∨ s.vine.aborted.contains (i.toNat, g) = true))) →
    exec (.barrierAbort i g) s = .next s)

/-- R539 to R544: with every device's input there, the oldest collective writes the result, taken in ascending device number, to its
output object, where that still exists, and answers OK; one that waits too long leaves its output undefined and answers with
COLLECTIVE_TIMEOUT. A completion whose inputs are not those of the other devices, a collective that is not under way, firmware that
does not run and, for a completion, the safe state change nothing. The replies are of a pair whose out-area has room. -/
def Obligations.CollectivesEnd : Prop :=
  (∀ (s : State) (inputs : List (List Byte)) (c : Coll) (rest : List Coll) (seq : Word), s.fw.colls = c :: rest →
    firmwareUp s = true → s.safety.safe = false → inputs.length + 1 = s.port.devices.toNat →
    inputs.any (fun l => decide (l.length ≠ collBytes c.format.toNat c.count)) = false →
    (s.pair c.pair).job = some (.collective seq) → OutReady c.pair s → (s.pair c.pair).inTail = (s.pair c.pair).inRead →
    ∃ t, exec (.collectiveComplete inputs) s = .next t ∧ Replied 0x70 c.pair seq 0 [] s t ∧ t.fw.colls = rest ∧
    (∀ o, s.object c.outHandle = some o → t.dram = (fwWrite o.base (collResult c.op.toNat c.format.toNat c.count
      (inputs.take (self s) ++ [collInput s c] ++ inputs.drop (self s))) s).dram) ∧
    (s.object c.outHandle = none → t.dram = s.dram)) ∧
  (∀ (s : State) (inputs : List (List Byte)), (s.fw.colls = [] ∨ firmwareUp s = false ∨ s.safety.safe = true ∨
      inputs.length + 1 ≠ s.port.devices.toNat ∨ ∃ c rest, s.fw.colls = c :: rest ∧
        inputs.any (fun l => decide (l.length ≠ collBytes c.format.toNat c.count)) = true) →
    exec (.collectiveComplete inputs) s = .next s) ∧
  (∀ (s : State) (c : Coll) (rest : List Coll) (seq : Word), s.fw.colls = c :: rest → firmwareUp s = true →
    (s.pair c.pair).job = some (.collective seq) → OutReady c.pair s → (s.pair c.pair).inTail = (s.pair c.pair).inRead →
    ∃ t, exec .collectiveTimeout s = .next t ∧ Replied 0x70 c.pair seq 0x61 [] s t ∧ t.fw.colls = rest ∧
    (∀ o, s.object c.outHandle = some o → t.dram = (wipeVirtual (o.length / 16384 + 2) o.base o.length s).dram) ∧
    (s.object c.outHandle = none → t.dram = s.dram)) ∧
  (∀ s : State, (s.fw.colls = [] ∨ firmwareUp s = false) → exec .collectiveTimeout s = .next s)

/-! ### Cameras -/

/-- R36, R37, R299 to R302, R315 to R318, R322 to R326, R330: packets of another virtual channel or data type, and frame packets in
strip mode, are counted and discarded. In area mode a frame start ends the frame in progress, puts a waiting configuration in force
and opens a frame, which the oldest pending capture of an owned pipeline claims or which is discarded and counted. A line of an open
frame is stored and counted, and a row that it completes is formed for the claiming command; a line too many is flagged, and one
outside a frame only counted. The end or the timeout of a frame closes it, and the command whose rows have been formed gets its
frame record. In strip mode a line that starts a strip opens it, after a configuration that waited for it. A line start or end is
ignored, a lost header flagged. A capture that waited too long ends; ULPS and deskew set the receiver's state. -/
def Obligations.FramesAreReceived : Prop :=
  (∀ (s : State) (n : Fin 16) (vc : BitVec 4) (no : BitVec 16) (e : Bool), ¬ areaTakes s n vc →
    (∃ t, exec (.frameStart n vc no e) s = .next t ∧ PacketDiscarded n e s t) ∧
    ∃ t, exec (.frameEnd n vc e) s = .next t ∧ PacketDiscarded n e s t) ∧
  (∀ (s : State) (n : Fin 16) (vc : BitVec 4) (no : BitVec 16) (e : Bool), areaTakes s n vc → (s.pipe n).cfg.pending = none →
    ∃ t, exec (.frameStart n vc no e) s = .next t ∧ (t.pipe n).received = (s.pipe n).received + 1 ∧ (t.pipe n).rxState = 3 ∧
    (t.pipe n).lineCount = 0 ∧ (t.pipe n).eccCorr = (s.pipe n).eccCorr + (if e then 1 else 0) ∧
    (t.pipe n).frames.map (fun f => (f.frameNo, f.tStart, f.received)) = [(no, s.time, 0)]) ∧
  (∀ (s : State) (n : Fin 16) (vc : BitVec 4) (no : BitVec 16) (e : Bool), areaTakes s n vc → (s.pipe n).cfg.pending = none →
    (s.pipe n).frames = [] → ((s.pipe n).owner = none ∨ (s.pipe n).pendingCaptures = []) →
    ∃ t, exec (.frameStart n vc no e) s = .next t ∧ (t.pipe n).discarded = satInc (s.pipe n).discarded 1 ∧
    (t.pipe n).frames.map (·.claim) = [none] ∧ (t.pipe n).sinceClaim = (s.pipe n).sinceClaim + 1 ∧
    t = { s with pipes := t.pipes }) ∧
  (∀ (s : State) (n : Fin 16) (vc : BitVec 4) (no : BitVec 16) (e : Bool) (r : CaptureRef) (rest : List CaptureRef),
    areaTakes s n vc → (s.pipe n).cfg.pending = none → (s.pipe n).frames = [] → (s.pipe n).owner ≠ none →
    (s.pipe n).pendingCaptures = r :: rest → ∃ t, exec (.frameStart n vc no e) s = .next t ∧
    (t.pipe n).pendingCaptures = rest ∧ (t.pipe n).discarded = (s.pipe n).discarded ∧ (t.pipe n).sinceClaim = 0 ∧
    (t.pipe n).frames.map (fun f => (f.claim, f.discardedBefore)) = [(some r, (s.pipe n).sinceClaim)] ∧
    t = { s with pipes := t.pipes }) ∧
  (∀ (s : State) (n : Fin 16) (vc : BitVec 4) (no : BitVec 16) (e : Bool) (c : PipeCfg), areaTakes s n vc →
    (s.pipe n).cfg.pending = some c → pipeConfigBad c = none → s.safety.safe = false →
    ∃ t, exec (.frameStart n vc no e) s = .next t ∧ (t.pipe n).cfg.live = c ∧
    (t.pipe n).frames.length = (if c.strip then 0 else 1) ∧
    (t.pipe n).otherPkt = (s.pipe n).otherPkt + (if c.strip then 1 else 0)) ∧
  (∀ (s : State) (n : Fin 16) (pkt : LongPacket), ¬ packetUsed s n pkt → ∃ t, exec (.linePacket n pkt) s = .next t ∧
    PacketDiscarded n pkt.headerCorrected s t) ∧
  (∀ (s : State) (n : Fin 16) (pkt : LongPacket), packetUsed s n pkt → (s.pipe n).cfg.live.strip = false →
    frameOf (s.pipe n) 0 = none → ∃ t, exec (.linePacket n pkt) s = .next t ∧ Checked n pkt s t ∧
    (t.pipe n).lines = (s.pipe n).lines ∧ (t.pipe n).lineCount = (s.pipe n).lineCount ∧ t = { s with pipes := t.pipes }) ∧
  (∀ (s : State) (n : Fin 16) (pkt : LongPacket) (f : OpenFrame), packetUsed s n pkt → (s.pipe n).cfg.live.strip = false →
    frameOf (s.pipe n) 0 = some f → (s.pipe n).lineCount < (s.pipe n).cfg.live.height.toNat →
    ∃ t, exec (.linePacket n pkt) s = .next t ∧ Checked n pkt s t ∧ (t.pipe n).lineCount = (s.pipe n).lineCount + 1 ∧
    (t.pipe n).lines.getLast? =
      some (lineSamples (s.pipe n).cfg.live (packetSamples (s.pipe n).cfg.live pkt)) ∧
    (frameOf (t.pipe n) 0).map (·.received) = some (f.received + 1)) ∧
  (∀ (s : State) (n : Fin 16) (pkt : LongPacket) (f : OpenFrame), packetUsed s n pkt → (s.pipe n).cfg.live.strip = false →
    frameOf (s.pipe n) 0 = some f → (s.pipe n).cfg.live.height.toNat ≤ (s.pipe n).lineCount →
    ∃ t, exec (.linePacket n pkt) s = .next t ∧ Checked n pkt s t ∧ (t.pipe n).lines = (s.pipe n).lines ∧
    (frameOf (t.pipe n) 0).map (fun g => (g.received, g.flags.getLsbD 2)) = some (f.received, true) ∧
    t = { s with pipes := t.pipes }) ∧
  (∀ (s : State) (n : Fin 16) (pkt : LongPacket) (f : OpenFrame) (r : CaptureRef) (c : Cmd) (run : EngineRun),
    packetUsed s n pkt → (s.pipe n).cfg.live.strip = false → (s.pipe n).frames = [f] → f.firstLine = 0 → f.claim = some r →
    s.cmd r.queue r.seq = some c → (s.pipe n).lineCount < (s.pipe n).cfg.live.height.toNat →
    min ((s.pipe n).cfg.live.height.toNat - 2) (rowsReady ((s.pipe n).lineCount + 1)) = f.formed + 1 →
    f.crop.2.1 ≤ f.formed → f.formed < f.crop.2.1 + f.crop.2.2.2 →
    run = pieceRun s (pipeCx n r.parcel) (rowPieces (rawImage (pushLine (s.pipe n).cfg.live pkt s.time (s.pipe n)))
      c.operands c.params f.crop 0 (f.formed - f.crop.2.1)) → ∃ t, exec (.linePacket n pkt) s = .next t ∧
    (run.2 = none → t.dram = (s.writeLocs run.1).dram ∧ t.queues = s.queues) ∧
    (∀ e, run.2 = some e → e.held = false → s.safety.safe = false → Failed s r.queue r.seq e t)) ∧
  (∀ (s : State) (n : Fin 16) (pkt : LongPacket) (l : Nat), packetUsed s n pkt → l = (s.pipe n).lineCount →
    (s.pipe n).cfg.live.strip = true → (s.pipe n).cfg.pending = none → ∃ t, exec (.linePacket n pkt) s = .next t ∧
    Checked n pkt s t ∧ (t.pipe n).lineCount = l + 1 ∧ (t.pipe n).rxState = 3 ∧
    (t.pipe n).received = (s.pipe n).received + (if stripStarts (s.pipe n).cfg.live l then 1 else 0) ∧
    (stripStarts (s.pipe n).cfg.live l = true → ((s.pipe n).owner = none ∨ (s.pipe n).pendingCaptures = []) →
      (s.pipe n).frames = [] → (t.pipe n).discarded = satInc (s.pipe n).discarded 1) ∧
    (∀ r rest, stripStarts (s.pipe n).cfg.live l = true → (s.pipe n).owner ≠ none →
      (s.pipe n).pendingCaptures = r :: rest → (s.pipe n).frames = [] → 2 ≤ (s.pipe n).cfg.live.stripHeight.toNat →
      (t.pipe n).pendingCaptures = rest ∧ (t.pipe n).frames.map (fun f => (f.claim, f.firstLine)) = [(some r, l)])) ∧
  (∀ (s : State) (n : Fin 16) (pkt : LongPacket) (c : PipeCfg), packetUsed s n pkt → (s.pipe n).cfg.live.strip = true →
    (s.pipe n).cfg.pending = some c → pipeConfigBad c = none → s.safety.safe = false →
    stripStarts (s.pipe n).cfg.live (s.pipe n).lineCount = true → (∀ f ∈ (s.pipe n).frames, f.claim = none) →
    ∃ t, exec (.linePacket n pkt) s = .next t ∧ (t.pipe n).cfg.live = c) ∧
  (∀ (s : State) (n : Fin 16) (vc : BitVec 4) (e : Bool), areaTakes s n vc → ∃ t, exec (.frameEnd n vc e) s = .next t ∧
    (t.pipe n).rxState = 2 ∧ (t.pipe n).frames = [] ∧
    (t.pipe n).eccCorr = (s.pipe n).eccCorr + (if e then 1 else 0)) ∧
  (∀ (s : State) (n : Fin 16) (vc : BitVec 4) (f : OpenFrame) (r : CaptureRef) (c : Cmd) (ws : List (Loc × List Byte)),
    areaTakes s n vc → (s.pipe n).frames = [f] → f.firstLine = 0 → f.claim = some r → s.cmd r.queue r.seq = some c →
    f.closed = false → (s.pipe n).cfg.live.height.toNat ≤ f.received → f.crop.2.1 + f.crop.2.2.2 ≤ f.formed →
    writePiece s (pipeCx n r.parcel) (opAt c.operands 4) 8 (rowAt 0 0 0)
      ((frameRecord (s.pipe n) { f with tEnd := s.time, closed := true }).map fun b => b.toNat) = .ok ws →
    ∃ t, exec (.frameEnd n vc false) s = .next t ∧ t.dram = (s.writeLocs ws).dram ∧
    (t.cmd r.queue r.seq).map (·.phase) = some (.written 0 0)) ∧
  (∀ (s : State) (n : Fin 16), (s.pipe n).cfg.live.timeout ≠ 0 → (s.pipe n).frames ≠ [] →
    ∃ t, exec (.frameTimeout n) s = .next t ∧ (t.pipe n).rxState = 2 ∧ (t.pipe n).frames = [] ∧
    ((s.pipe n).cfg.live.strip = true → (t.pipe n).lineCount = 0)) ∧
  (∀ (s : State) (n : Fin 16), ((s.pipe n).cfg.live.timeout = 0 ∨ (s.pipe n).frames = []) →
    exec (.frameTimeout n) s = .next s) ∧
  (∀ (s : State) (n : Fin 16) (pkt : LongPacket), exec (.otherPacket n (.long pkt)) s = exec (.linePacket n pkt) s) ∧
  (∀ (s : State) (n : Fin 16) (vc : BitVec 4) (line e : Bool), ∃ t, exec (.otherPacket n (.short vc line e)) s = .next t ∧
    ((line = false ∨ (s.pipe n).cfg.live.vc ≠ vc) → PacketDiscarded n e s t) ∧
    (line = true → (s.pipe n).cfg.live.vc = vc → (t.pipe n).otherPkt = (s.pipe n).otherPkt ∧
      (t.pipe n).eccCorr = (s.pipe n).eccCorr + (if e then 1 else 0) ∧ (e = false → t = s))) ∧
  (∀ (s : State) (n : Fin 16), ∃ t, exec (.otherPacket n .headerLost) s = .next t ∧
    (t.pipe n).frames = (s.pipe n).frames.map (fun f => if f.closed then f else { f with flags := f.flags ||| 0x100 }) ∧
    t.pipe n = { s.pipe n with frames := (t.pipe n).frames } ∧ t = { s with pipes := t.pipes }) ∧
  (∀ (s : State) (n : Fin 16) (r : CaptureRef) (c : Cmd), s.safety.safe = false →
    firstExpiry s (s.pipe n).pendingCaptures = some r → s.cmd r.queue r.seq = some c → c.phase.isEnded = false →
    ∃ t, exec (.captureTimeout n) s = .next t ∧
    (t.cmd r.queue r.seq).map (·.phase) = some (endPhase s r.queue r.seq 0x26 (dataI n.val 0)) ∧
    (t.pipe n).pendingCaptures = (s.pipe n).pendingCaptures.filter (fun x => !(x.queue = r.queue && x.seq = r.seq)) ∧
    t.dram = s.dram) ∧
  (∀ (s : State) (n : Fin 16), (s.safety.safe = true ∨ firstExpiry s (s.pipe n).pendingCaptures = none) →
    exec (.captureTimeout n) s = .next s) ∧
  (∀ (s : State) (n : Fin 16), ∃ t, exec (.ulpsEntry n) s = .next t ∧
    t.pipe n = { s.pipe n with rxState := 1 } ∧ (∀ m : Fin 16, m ≠ n → t.pipe m = s.pipe m) ∧ t = { s with pipes := t.pipes }) ∧
  (∀ (s : State) (n : Fin 16), ∃ t, exec (.ulpsExit n) s = .next t ∧
    t.pipe n = { s.pipe n with rxState := if (s.pipe n).frames = [] then 2 else 3 } ∧
    (∀ m : Fin 16, m ≠ n → t.pipe m = s.pipe m) ∧ t = { s with pipes := t.pipes }) ∧
  (∀ (s : State) (n : Fin 16), ∃ t, exec (.deskewSequence n) s = .next t ∧
    t.pipe n = { s.pipe n with deskewed := true, rxState := if (s.pipe n).frames = [] then 2 else 3 } ∧
    (∀ m : Fin 16, m ≠ n → t.pipe m = s.pipe m) ∧ t = { s with pipes := t.pipes })

/-! ### The whole device -/

/-- The block's interface: a step takes the command at the front of the queue and runs it with the queue's rest; with no command
waiting the device idles (DESIGN CHOICE, log entry 3: one edge of REFCLK passes). -/
def Obligations.StepRunsFrontCommand : Prop :=
  (∀ (s : State) (c : Instr) (rest : List Instr), s.pending = c :: rest → step s = exec c { s with pending := rest }) ∧
  (∀ s : State, s.pending = [] → step s = .next (idle s))

/-- Every command of the table answers a next state and leaves the queue as it is, unless its operand lists have lengths that
no event of the device carries; then it is refused by that name. -/
def Obligations.CommandsAnswerUnlessIllFormed : Prop :=
  (∀ (c : Instr) (s : State), c.wf = true → ∃ t, exec c s = .next t ∧ t.pending = s.pending) ∧
  (∀ (c : Instr) (s : State), c.wf = false → ∃ m, exec c s = .refused (.illFormed m))

/-- A queue of well-formed commands is served without a stop: from every state, a step answers a next state whose queue is
the rest of the queue, and that queue is well formed again. -/
def Obligations.QueueIsServedWithoutStop : Prop :=
  ∀ s : State, QueueWf s → ∃ t, step s = .next t ∧ t.pending = s.pending.tail ∧ QueueWf t

/-- Every memory of the device (LPDDR6, the Cellar, the window SRAM, each press's Cask, accumulators and side store) keeps its
canonical form: addresses strictly rising and no entry equal to what an unlisted address reads as. -/
def Obligations.MemoriesStayCanonical : Prop :=
  ∀ s t : State, MemoriesWf s → step s = .next t → MemoriesWf t

/-- Right after power-on reset every memory has its canonical form and the queue is empty. -/
def Obligations.ResetIsCanonical : Prop :=
  MemoriesWf State.reset ∧ QueueWf State.reset ∧ State.reset.pending = []

/-- R391: the PHY loops, refresh and retraining change the timing of accesses and never their data: none of the four commands
changes a byte of LPDDR6, of the Cellar, of the window SRAM or of a press. -/
def Obligations.MaintenanceNeverChangesData : Prop :=
  (∀ (s : State) (ch : Fin 16) (m : Byte), ∃ t, exec (.phyCalibrationStep ch m) s = .next t ∧ t.dram = s.dram ∧
    t.cellar = s.cellar ∧ t.port = s.port ∧ t.presses = s.presses) ∧
  (∀ (s : State) (v : List Byte), ∃ t, exec (.trainingValueSave v) s = .next t ∧ t.dram = s.dram ∧ t.cellar = s.cellar ∧
    t.port = s.port ∧ t.presses = s.presses) ∧
  (∀ (s : State) (ch : Fin 16) (v : List Byte), ∃ t, exec (.fastRetrainDone ch v) s = .next t ∧ t.dram = s.dram ∧
    t.cellar = s.cellar ∧ t.port = s.port ∧ t.presses = s.presses) ∧
  (∀ (s : State) (ch : Fin 16) (bank : Nat), ∃ t, exec (.lpddr6Refresh ch bank) s = .next t ∧ t.dram = s.dram ∧
    t.cellar = s.cellar ∧ t.port = s.port ∧ t.presses = s.presses)

/-- R219: in each zone of a Cask, with n banks, first bank F and first address B, the line at address a lies in bank
F + (((a − B) >> 7) mod n), at line ((a − B) >> 7) / n of that bank; so consecutive lines lie in the next bank of the zone. -/
def Obligations.CaskLinesRotate : Prop :=
  (∀ a : Nat, a < 0x180000 → caskLine (0 + a / 128 % 8) (a / 128 / 8) = a / 128 * 128) ∧
  (∀ a : Nat, 0x180000 ≤ a → a < 0x480000 →
    caskLine (8 + (a - 0x180000) / 128 % 16) ((a - 0x180000) / 128 / 16) = a / 128 * 128) ∧
  (∀ a : Nat, 0x480000 ≤ a → a < 0x600000 →
    caskLine (24 + (a - 0x480000) / 128 % 8) ((a - 0x480000) / 128 / 8) = a / 128 * 128)

/-- R294: the bounds of compression, for one plane of 64 values in the range of UINT8 or INT8. At 4:1 no value differs by more
than 0.75 × (largest − smallest of its cell) + 1; at 2:1 with RSHIFT 0 reconstruction is exact; with RSHIFT from 1 to 7 and no
clamped e the error is at most 2^(RSHIFT − 1). -/
def Obligations.CompressionErrorIsBounded : Prop :=
  (∀ (fmt : Nat) (v : List Int) (i k l : Nat), (fmt = 0 ∨ fmt = 1) → v.length = 64 → (∀ x ∈ v, satFmt fmt x = x) → i < 64 →
    k < 64 → l < 64 → cellOf k = cellOf i → cellOf l = cellOf i →
    (∀ j, j < 64 → cellOf j = cellOf i → v.getD k 0 ≤ v.getD j 0 ∧ v.getD j 0 ≤ v.getD l 0) →
    4 * (v.getD i 0 - (unpackPlane false fmt (packPlane false fmt v)).getD i 0).natAbs ≤
      (3 * (v.getD l 0 - v.getD k 0) + 4).toNat) ∧
  (∀ (fmt : Nat) (v : List Int), (fmt = 0 ∨ fmt = 1) → v.length = 64 → (∀ x ∈ v, satFmt fmt x = x) →
    planeShift (planeDiffs fmt v) = 0 → unpackPlane true fmt (packPlane true fmt v) = v) ∧
  (∀ (fmt : Nat) (v : List Int) (i r : Nat), (fmt = 0 ∨ fmt = 1) → v.length = 64 → (∀ x ∈ v, satFmt fmt x = x) → i < 64 →
    planeShift (planeDiffs fmt v) = r + 1 →
    (∀ d ∈ planeDiffs fmt v, -2 ≤ roundDiv d (2 ^ (r + 1)) ∧ roundDiv d (2 ^ (r + 1)) ≤ 1) →
    (v.getD i 0 - (unpackPlane true fmt (packPlane true fmt v)).getD i 0).natAbs ≤ 2 ^ r)

/-- R420: the window address of a channel offset takes the channel as bit g and the offset as its other bits, in order, with g
from Table 11.3, and HOSTPORT.CONFIG.ILV reports the strap. -/
def Obligations.WindowAddressFollowsTheStrap : Prop :=
  (∀ (ch : Fin 2) (off : Nat), off < 2 ^ 32 →
    windowAddress 0 ch off = ((off >>> 32) <<< 33) ||| (ch.val <<< 32) ||| (off &&& (2 ^ 32 - 1))) ∧
  (∀ (ch : Fin 2) (off : Nat), off < 2 ^ 32 →
    windowAddress 1 ch off = ((off >>> 8) <<< 9) ||| (ch.val <<< 8) ||| (off &&& (2 ^ 8 - 1))) ∧
  (∀ (ch : Fin 2) (off : Nat), off < 2 ^ 32 →
    windowAddress 2 ch off = ((off >>> 12) <<< 13) ||| (ch.val <<< 12) ||| (off &&& (2 ^ 12 - 1))) ∧
  (∀ (ch : Fin 2) (off : Nat), off < 2 ^ 32 →
    windowAddress 3 ch off = ((off >>> 16) <<< 17) ||| (ch.val <<< 16) ||| (off &&& (2 ^ 16 - 1))) ∧
  (∀ s : State, ((readHostPort s 0x10).extractLsb' 14 2 : BitVec 2) = s.straps.hostIlv)
end

