-- ==== Sys2Proof/Laws/Memory.lean ====
section
/-! SUPPORT. Laws of the byte store: what a byte reads as after each operation, and that each keeps the canonical form. -/

namespace Sys2Proof.Machine

/-! ### Listed cells -/

theorem cellAt_append (l k : List Host.Cell) (a : Nat) : cellAt (l ++ k) a = (cellAt l a).or (cellAt k a) := by
  induction l with
  | nil => simp [cellAt]
  | cons c rest ih => by_cases h : c.1 = a <;> simp [cellAt, h, ih]

theorem cellAt_filter (p : Nat → Bool) (l : List Host.Cell) (a : Nat) :
    cellAt (l.filter fun c => p c.1) a = if p a then cellAt l a else none := by
  induction l with
  | nil => simp [cellAt]
  | cons c rest ih =>
    by_cases h : p c.1 = true
    · by_cases e : c.1 = a
      · subst e; simp [cellAt, h]
      · simp [cellAt, h, e, ih]
    · by_cases e : c.1 = a
      · subst e; simp [h, ih]
      · simp [cellAt, h, e, ih]

theorem cellAt_none_of_keys {l : List Host.Cell} {a : Nat} (h : ∀ c ∈ l, c.1 ≠ a) : cellAt l a = none := by
  induction l with
  | nil => rfl
  | cons c rest ih =>
    simp only [List.mem_cons, forall_eq_or_imp] at h
    simp [cellAt, h.1, ih h.2]

theorem listed_keys (sp : List Span) (l : List Byte) (a : Nat) :
    ∀ c ∈ listed sp a l, a ≤ c.1 ∧ c.1 < a + l.length ∧ c.2 ≠ unlistedByte sp c.1 := by
  induction l generalizing a with
  | nil => simp [listed]
  | cons b rest ih =>
    intro c hc
    simp only [listed] at hc
    simp only [List.length_cons]
    split at hc
    · have := ih (a + 1) c hc; exact ⟨by omega, by omega, this.2.2⟩
    · rcases List.mem_cons.1 hc with rfl | hc
      · exact ⟨le_rfl, by simp, by assumption⟩
      · have := ih (a + 1) c hc; exact ⟨by omega, by omega, this.2.2⟩

theorem listed_rising (sp : List Span) (l : List Byte) (a : Nat) : (listed sp a l).Pairwise fun x y => x.1 < y.1 := by
  induction l generalizing a with
  | nil => simp [listed]
  | cons b rest ih =>
    simp only [listed]
    split
    · exact ih _
    · refine List.pairwise_cons.2 ⟨fun c hc => ?_, ih _⟩
      have := (listed_keys sp rest (a + 1) c hc).1
      show a < c.1
      omega

theorem cellAt_listed (sp : List Span) (l : List Byte) (a i : Nat) (h : i < l.length) :
    (cellAt (listed sp a l) (a + i)).getD (unlistedByte sp (a + i)) = l[i] := by
  induction l generalizing a i with
  | nil => simp at h
  | cons b rest ih =>
    cases i with
    | zero =>
      have hn : cellAt (listed sp (a + 1) rest) a = none :=
        cellAt_none_of_keys fun c hc => by have := (listed_keys sp rest (a + 1) c hc).1; omega
      simp only [listed]
      split <;> simp_all [cellAt]
    | succ i =>
      have e : a + (i + 1) = a + 1 + i := by omega
      have := ih (a + 1) i (by simpa using h)
      simp only [listed]
      split
      · simpa [e] using this
      · have ne : ¬ a = a + 1 + i := by omega
        simpa [cellAt, e, ne] using this

/-! ### Reading after an operation -/

@[simp] theorem Mem.read_empty (a : Nat) : Mem.empty.read a = 0 := rfl

/-- Bytes outside a write read as before. -/
theorem Mem.read_writeBytes_outside (m : Mem) (a : Nat) (l : List Byte) (x : Nat) (h : x < a ∨ a + l.length ≤ x) :
    (m.writeBytes a l).read x = m.read x := by
  have hl : cellAt (listed m.spans a l) x = none :=
    cellAt_none_of_keys fun c hc => by have := listed_keys m.spans l a c hc; omega
  unfold Mem.read Mem.writeBytes
  simp only [cellAt_append, cellAt_filter fun k => decide (k < a), cellAt_filter fun k => decide (a + l.length ≤ k), hl]
  rcases h with h | h
  · have : ¬ a + l.length ≤ x := by omega
    simp [h, this]
  · have : ¬ x < a := by omega
    simp [h, this]

/-- A written byte reads as written. -/
theorem Mem.read_writeBytes_inside (m : Mem) (a : Nat) (l : List Byte) (i : Nat) (h : i < l.length) :
    (m.writeBytes a l).read (a + i) = l[i] := by
  unfold Mem.read Mem.writeBytes
  have h1 : ¬ a + i < a := by omega
  have h2 : ¬ a + l.length ≤ a + i := by omega
  simp only [cellAt_append, cellAt_filter fun k => decide (k < a), cellAt_filter fun k => decide (a + l.length ≤ k)]
  simpa [h1, h2] using cellAt_listed m.spans l a i h

@[simp] theorem Mem.read_write_same (m : Mem) (a : Nat) (b : Byte) : (m.write a b).read a = b := by
  simpa [Mem.write] using Mem.read_writeBytes_inside m a [b] 0 (by simp)

theorem Mem.read_write_ne (m : Mem) (a x : Nat) (b : Byte) (h : x ≠ a) : (m.write a b).read x = m.read x :=
  Mem.read_writeBytes_outside m a [b] x (by simp; omega)

/-- Reading a range is reading each of its bytes. -/
theorem Mem.readBytes_eq (m : Mem) (a n : Nat) : m.readBytes a n = (List.range n).map fun i => m.read (a + i) := by
  unfold Mem.readBytes Mem.read
  refine List.map_congr_left fun i hi => ?_
  have hi := List.mem_range.1 hi
  simp only [cellAt_filter fun k => decide (a ≤ k) && decide (k < a + n)]
  simp [hi]

@[simp] theorem Mem.length_readBytes (m : Mem) (a n : Nat) : (m.readBytes a n).length = n := by simp [Mem.readBytes]

/-- A range reads back as written. -/
theorem Mem.readBytes_writeBytes (m : Mem) (a : Nat) (l : List Byte) : (m.writeBytes a l).readBytes a l.length = l := by
  rw [Mem.readBytes_eq]
  refine List.ext_getElem (by simp) fun i h1 h2 => ?_
  simp [Mem.read_writeBytes_inside m a l i h2]

/-! ### Free spans -/

/-- Outside a range that is cut out, an unlisted byte reads as before. -/
theorem unlistedByte_carve (sp : List Span) (lo len a : Nat) (h : a < lo ∨ lo + len ≤ a) :
    unlistedByte (sp.flatMap (Span.carve lo len)) a = unlistedByte sp a := by
  induction sp with
  | nil => rfl
  | cons s rest ih =>
    simp only [List.flatMap_cons, Span.carve]
    split
    · simp [unlistedByte, ih]
    · rename_i hm
      by_cases h1 : s.lo < lo <;> by_cases h2 : lo + len < s.lo + s.len <;>
        simp only [h1, h2, if_true, if_false, List.cons_append, List.nil_append, unlistedByte, ih, Span.holds] <;>
        (repeat' split) <;> simp_all <;> omega

/-- What a byte reads as after a range is cleared. -/
theorem Mem.read_clear (m : Mem) (lo len a : Nat) :
    (m.clear lo len).read a =
      if lo ≤ a ∧ a < lo + len then unlistedByte (m.clear lo len).spans a else m.read a := by
  unfold Mem.read Mem.clear
  simp only [cellAt_filter fun k => !(decide (lo ≤ k) && decide (k < lo + len))]
  by_cases h : lo ≤ a ∧ a < lo + len
  · simp [h]
  · have h' : a < lo ∨ lo + len ≤ a := by omega
    have hf : (decide (lo ≤ a) && decide (a < lo + len)) = false := by simpa using h
    simp [h, hf, unlistedByte_carve _ _ _ _ h']

/-! ### The canonical form -/

theorem Mem.wf_iff (m : Mem) :
    m.wf = true ↔ (m.cells.Pairwise fun x y => x.1 < y.1) ∧ ∀ c ∈ m.cells, c.2 ≠ unlistedByte m.spans c.1 := by
  simp [Mem.wf]

@[simp] theorem Mem.wf_empty : Mem.empty.wf = true := rfl

@[simp] theorem Mem.wf_free (sp : List Span) : ({ cells := [], spans := sp } : Mem).wf = true := by simp [Mem.wf]

@[simp] theorem Mem.wf_writeBytes (m : Mem) (a : Nat) (l : List Byte) (h : m.wf = true) : (m.writeBytes a l).wf = true := by
  rw [Mem.wf_iff] at h ⊢
  obtain ⟨h1, h2⟩ := h
  refine ⟨?_, fun c hc => ?_⟩
  · simp only [Mem.writeBytes, List.append_assoc, List.pairwise_append, List.mem_append, List.mem_filter, decide_eq_true_eq]
    refine ⟨h1.filter _, ⟨listed_rising _ _ _, h1.filter _, fun x hx y hy => ?_⟩, fun x hx y hy => ?_⟩
    · have := (listed_keys m.spans l a x hx).2.1; omega
    · rcases hy with hy | hy
      · have := (listed_keys m.spans l a y hy).1; omega
      · omega
  · simp only [Mem.writeBytes, List.append_assoc, List.mem_append, List.mem_filter] at hc
    rcases hc with hc | hc | hc
    · exact h2 c hc.1
    · exact (listed_keys m.spans l a c hc).2.2
    · exact h2 c hc.1

@[simp] theorem Mem.wf_write (m : Mem) (a : Nat) (b : Byte) (h : m.wf = true) : (m.write a b).wf = true :=
  Mem.wf_writeBytes m a [b] h

@[simp] theorem Mem.wf_writeNat (m : Mem) (a n v : Nat) (h : m.wf = true) : (m.writeNat a n v).wf = true :=
  Mem.wf_writeBytes m a _ h

@[simp] theorem Mem.wf_writeMasked (m : Mem) (a : Nat) (l : List (Option Byte)) (h : m.wf = true) :
    (m.writeMasked a l).wf = true := by
  induction l generalizing m a with
  | nil => exact h
  | cons b rest ih => cases b with
    | none => exact ih m (a + 1) h
    | some b => exact ih _ (a + 1) (Mem.wf_write m a b h)

@[simp] theorem Mem.wf_writeRuns (m : Mem) (l : List (Nat × List Byte)) (h : m.wf = true) : (m.writeRuns l).wf = true := by
  induction l generalizing m with
  | nil => exact h
  | cons r rest ih => exact ih _ (Mem.wf_writeBytes m _ _ h)

@[simp] theorem Mem.wf_writeAll (m : Mem) (l : List (Nat × Byte)) (h : m.wf = true) : (m.writeAll l).wf = true :=
  Mem.wf_writeRuns m _ h

@[simp] theorem Mem.wf_clear (m : Mem) (lo len : Nat) (h : m.wf = true) : (m.clear lo len).wf = true := by
  rw [Mem.wf_iff] at h ⊢
  obtain ⟨h1, h2⟩ := h
  refine ⟨h1.filter _, fun c hc => ?_⟩
  simp only [Mem.clear, List.mem_filter] at hc ⊢
  have hr : c.1 < lo ∨ lo + len ≤ c.1 := by
    have := hc.2
    simp only [Bool.not_eq_true', Bool.and_eq_false_iff, decide_eq_false_iff_not] at this
    omega
  rw [unlistedByte_carve _ _ _ _ hr]
  exact h2 c hc.1

@[simp] theorem Mem.wf_wipe (m : Mem) (lo len event : Nat) (h : m.wf = true) : (m.wipe lo len event).wf = true := by
  unfold Mem.wipe
  split
  · exact Mem.wf_clear m lo len h
  · have hc := (Mem.wf_iff _).1 (Mem.wf_clear m lo len h)
    refine (Mem.wf_iff _).2 ⟨hc.1, fun c hm => ?_⟩
    have hm' : c ∈ (m.clear lo len).cells := hm
    have out : ¬ (lo ≤ c.1 ∧ c.1 < lo + len) := by
      have := (List.mem_filter.1 (show c ∈ m.cells.filter _ from hm')).2
      simp at this; omega
    have hs : (Span.holds ⟨lo, len, event⟩ c.1) = false := by
      simp only [Span.holds, Bool.and_eq_false_iff, decide_eq_false_iff_not]; omega
    simp only [unlistedByte, hs]
    exact hc.2 c hm'

end Sys2Proof.Machine
end

