-- ==== Sys2Proof/Laws/State.lean ====
section
/-! SUPPORT. What each named update of the state leaves: one lemma for each field and update, all true by unfolding, and
the laws of the indexed stores and staged fields that the updates are made of. -/

namespace Sys2Proof.Machine

/-! ### Indexed stores -/

theorem vget_vset {α : Type} {n : Nat} (v : Vector α n) (i j : Fin n) (x : α) :
    vget (vset v i x) j = if i = j then x else vget v j := by
  simp [vget, vset, Vector.getElem_set, Fin.ext_iff]

@[simp] theorem vget_vset_self {α : Type} {n : Nat} (v : Vector α n) (i : Fin n) (x : α) : vget (vset v i x) i = x := by
  simp [vget_vset]

theorem vget_vset_ne {α : Type} {n : Nat} (v : Vector α n) {i j : Fin n} (x : α) (h : i ≠ j) :
    vget (vset v i x) j = vget v j := by simp [vget_vset, h]

theorem vget_vupd {α : Type} {n : Nat} (v : Vector α n) (i j : Fin n) (f : α → α) :
    vget (vupd v i f) j = if i = j then f (vget v i) else vget v j := by simp [vupd, vget_vset]

@[simp] theorem vget_vupd_self {α : Type} {n : Nat} (v : Vector α n) (i : Fin n) (f : α → α) :
    vget (vupd v i f) i = f (vget v i) := by simp [vupd]

theorem vget_vupd_ne {α : Type} {n : Nat} (v : Vector α n) {i j : Fin n} (f : α → α) (h : i ≠ j) :
    vget (vupd v i f) j = vget v j := by simp [vget_vupd, h]

@[simp] theorem vget_vmap {α : Type} {n : Nat} (v : Vector α n) (f : Fin n → α → α) (i : Fin n) :
    vget (vmap v f) i = f i (vget v i) := by simp [vget, vmap]

@[simp] theorem vget_replicate {α : Type} {n : Nat} (x : α) (i : Fin n) : vget (Vector.replicate n x) i = x := by
  simp [vget]

/-! ### Staged fields -/

@[simp] theorem Rws.go_staged {α : Type} [DecidableEq α] (r : Rws α) : r.go.staged = r.staged := rfl
@[simp] theorem Rws.go_live {α : Type} [DecidableEq α] (r : Rws α) : r.go.live = r.live := rfl
@[simp] theorem Rws.apply_pending {α : Type} (r : Rws α) : r.apply.pending = none := by
  unfold Rws.apply; split <;> simp_all
@[simp] theorem Rws.apply_staged {α : Type} (r : Rws α) : r.apply.staged = r.staged := by
  unfold Rws.apply; split <;> simp_all
@[simp] theorem Rws.cancel_pending {α : Type} (r : Rws α) : r.cancel.pending = none := by
  unfold Rws.cancel; split <;> simp_all
@[simp] theorem Rws.cancel_live {α : Type} (r : Rws α) : r.cancel.live = r.live := by
  unfold Rws.cancel; split <;> simp_all
@[simp] theorem Rws.reject_pending {α : Type} (r : Rws α) : r.reject.pending = none := rfl
@[simp] theorem Rws.reject_live {α : Type} (r : Rws α) : r.reject.live = r.live := rfl
@[simp] theorem Rws.reject_staged {α : Type} (r : Rws α) : r.reject.staged = r.live := rfl

/-! ### Parts of the state by number -/

@[simp] theorem press_updPress (s : State) (n : Fin 16) (f : Press → Press) : (s.updPress n f).press n = f (s.press n) := by
  simp [State.press, State.updPress]
@[simp] theorem queue_updQueue (s : State) (q : Fin 256) (f : Queue → Queue) :
    (s.updQueue q f).queue q = f (s.queue q) := by simp [State.queue, State.updQueue]
@[simp] theorem pipe_updPipe (s : State) (n : Fin 16) (f : Pipe → Pipe) : (s.updPipe n f).pipe n = f (s.pipe n) := by
  simp [State.pipe, State.updPipe]
@[simp] theorem parcel_updParcel (s : State) (n : Fin 8) (f : Parcel → Parcel) :
    (s.updParcel n f).parcel n = f (s.parcel n) := by simp [State.parcel, State.updParcel]
@[simp] theorem engine_updEngine (s : State) (e : Fin 6) (f : Engine → Engine) :
    (s.updEngine e f).engine e = f (s.engine e) := by simp [State.engine, State.updEngine]
@[simp] theorem link_updLink (s : State) (i : Fin 4) (f : Link → Link) : (s.updLink i f).link i = f (s.link i) := by
  simp [State.link, State.updLink]
@[simp] theorem pair_updPair (s : State) (p : Fin 8) (f : Pair → Pair) : (s.updPair p f).pair p = f (s.pair p) := by
  simp [State.pair, State.updPair]

/-! ### State.updPress -/

@[simp] theorem updPress_pending (s : State) (n : Fin 16) (f : Press → Press) : (s.updPress n f).pending = s.pending := rfl
@[simp] theorem updPress_freeCtr (s : State) (n : Fin 16) (f : Press → Press) : (s.updPress n f).freeCtr = s.freeCtr := rfl
@[simp] theorem updPress_time (s : State) (n : Fin 16) (f : Press → Press) : (s.updPress n f).time = s.time := rfl
@[simp] theorem updPress_fuses (s : State) (n : Fin 16) (f : Press → Press) : (s.updPress n f).fuses = s.fuses := rfl
@[simp] theorem updPress_straps (s : State) (n : Fin 16) (f : Press → Press) : (s.updPress n f).straps = s.straps := rfl
@[simp] theorem updPress_pins (s : State) (n : Fin 16) (f : Press → Press) : (s.updPress n f).pins = s.pins := rfl
@[simp] theorem updPress_pages (s : State) (n : Fin 16) (f : Press → Press) : (s.updPress n f).pages = s.pages := rfl
@[simp] theorem updPress_bootRec (s : State) (n : Fin 16) (f : Press → Press) : (s.updPress n f).bootRec = s.bootRec := rfl
@[simp] theorem updPress_boot (s : State) (n : Fin 16) (f : Press → Press) : (s.updPress n f).boot = s.boot := rfl
@[simp] theorem updPress_flash (s : State) (n : Fin 16) (f : Press → Press) : (s.updPress n f).flash = s.flash := rfl
@[simp] theorem updPress_clocks (s : State) (n : Fin 16) (f : Press → Press) : (s.updPress n f).clocks = s.clocks := rfl
@[simp] theorem updPress_power (s : State) (n : Fin 16) (f : Press → Press) : (s.updPress n f).power = s.power := rfl
@[simp] theorem updPress_thermal (s : State) (n : Fin 16) (f : Press → Press) : (s.updPress n f).thermal = s.thermal := rfl
@[simp] theorem updPress_ageing (s : State) (n : Fin 16) (f : Press → Press) : (s.updPress n f).ageing = s.ageing := rfl
@[simp] theorem updPress_safety (s : State) (n : Fin 16) (f : Press → Press) : (s.updPress n f).safety = s.safety := rfl
@[simp] theorem updPress_diag (s : State) (n : Fin 16) (f : Press → Press) : (s.updPress n f).diag = s.diag := rfl
@[simp] theorem updPress_book (s : State) (n : Fin 16) (f : Press → Press) : (s.updPress n f).book = s.book := rfl
@[simp] theorem updPress_port (s : State) (n : Fin 16) (f : Press → Press) : (s.updPress n f).port = s.port := rfl
@[simp] theorem updPress_queues (s : State) (n : Fin 16) (f : Press → Press) : (s.updPress n f).queues = s.queues := rfl
@[simp] theorem updPress_objects (s : State) (n : Fin 16) (f : Press → Press) : (s.updPress n f).objects = s.objects := rfl
@[simp] theorem updPress_failed (s : State) (n : Fin 16) (f : Press → Press) : (s.updPress n f).failed = s.failed := rfl
@[simp] theorem updPress_engines (s : State) (n : Fin 16) (f : Press → Press) : (s.updPress n f).engines = s.engines := rfl
@[simp] theorem updPress_intake (s : State) (n : Fin 16) (f : Press → Press) : (s.updPress n f).intake = s.intake := rfl
@[simp] theorem updPress_codec (s : State) (n : Fin 16) (f : Press → Press) : (s.updPress n f).codec = s.codec := rfl
@[simp] theorem updPress_pipes (s : State) (n : Fin 16) (f : Press → Press) : (s.updPress n f).pipes = s.pipes := rfl
@[simp] theorem updPress_mmu (s : State) (n : Fin 16) (f : Press → Press) : (s.updPress n f).mmu = s.mmu := rfl
@[simp] theorem updPress_memctl (s : State) (n : Fin 16) (f : Press → Press) : (s.updPress n f).memctl = s.memctl := rfl
@[simp] theorem updPress_dram (s : State) (n : Fin 16) (f : Press → Press) : (s.updPress n f).dram = s.dram := rfl
@[simp] theorem updPress_cellar (s : State) (n : Fin 16) (f : Press → Press) : (s.updPress n f).cellar = s.cellar := rfl
@[simp] theorem updPress_vine (s : State) (n : Fin 16) (f : Press → Press) : (s.updPress n f).vine = s.vine := rfl
@[simp] theorem updPress_parcels (s : State) (n : Fin 16) (f : Press → Press) : (s.updPress n f).parcels = s.parcels := rfl
@[simp] theorem updPress_acct (s : State) (n : Fin 16) (f : Press → Press) : (s.updPress n f).acct = s.acct := rfl
@[simp] theorem updPress_fw (s : State) (n : Fin 16) (f : Press → Press) : (s.updPress n f).fw = s.fw := rfl
@[simp] theorem updPress_heartbeat (s : State) (n : Fin 16) (f : Press → Press) : (s.updPress n f).heartbeat = s.heartbeat := rfl
@[simp] theorem updPress_checking (s : State) (n : Fin 16) (f : Press → Press) : (s.updPress n f).checking = s.checking := rfl
@[simp] theorem updPress_checkTurn (s : State) (n : Fin 16) (f : Press → Press) : (s.updPress n f).checkTurn = s.checkTurn := rfl
@[simp] theorem updPress_lanes (s : State) (n : Fin 16) (f : Press → Press) : (s.updPress n f).lanes = s.lanes := rfl

/-! ### State.updQueue -/

@[simp] theorem updQueue_pending (s : State) (q : Fin 256) (f : Queue → Queue) : (s.updQueue q f).pending = s.pending := rfl
@[simp] theorem updQueue_freeCtr (s : State) (q : Fin 256) (f : Queue → Queue) : (s.updQueue q f).freeCtr = s.freeCtr := rfl
@[simp] theorem updQueue_time (s : State) (q : Fin 256) (f : Queue → Queue) : (s.updQueue q f).time = s.time := rfl
@[simp] theorem updQueue_fuses (s : State) (q : Fin 256) (f : Queue → Queue) : (s.updQueue q f).fuses = s.fuses := rfl
@[simp] theorem updQueue_straps (s : State) (q : Fin 256) (f : Queue → Queue) : (s.updQueue q f).straps = s.straps := rfl
@[simp] theorem updQueue_pins (s : State) (q : Fin 256) (f : Queue → Queue) : (s.updQueue q f).pins = s.pins := rfl
@[simp] theorem updQueue_pages (s : State) (q : Fin 256) (f : Queue → Queue) : (s.updQueue q f).pages = s.pages := rfl
@[simp] theorem updQueue_bootRec (s : State) (q : Fin 256) (f : Queue → Queue) : (s.updQueue q f).bootRec = s.bootRec := rfl
@[simp] theorem updQueue_boot (s : State) (q : Fin 256) (f : Queue → Queue) : (s.updQueue q f).boot = s.boot := rfl
@[simp] theorem updQueue_flash (s : State) (q : Fin 256) (f : Queue → Queue) : (s.updQueue q f).flash = s.flash := rfl
@[simp] theorem updQueue_clocks (s : State) (q : Fin 256) (f : Queue → Queue) : (s.updQueue q f).clocks = s.clocks := rfl
@[simp] theorem updQueue_power (s : State) (q : Fin 256) (f : Queue → Queue) : (s.updQueue q f).power = s.power := rfl
@[simp] theorem updQueue_thermal (s : State) (q : Fin 256) (f : Queue → Queue) : (s.updQueue q f).thermal = s.thermal := rfl
@[simp] theorem updQueue_ageing (s : State) (q : Fin 256) (f : Queue → Queue) : (s.updQueue q f).ageing = s.ageing := rfl
@[simp] theorem updQueue_safety (s : State) (q : Fin 256) (f : Queue → Queue) : (s.updQueue q f).safety = s.safety := rfl
@[simp] theorem updQueue_diag (s : State) (q : Fin 256) (f : Queue → Queue) : (s.updQueue q f).diag = s.diag := rfl
@[simp] theorem updQueue_book (s : State) (q : Fin 256) (f : Queue → Queue) : (s.updQueue q f).book = s.book := rfl
@[simp] theorem updQueue_port (s : State) (q : Fin 256) (f : Queue → Queue) : (s.updQueue q f).port = s.port := rfl
@[simp] theorem updQueue_objects (s : State) (q : Fin 256) (f : Queue → Queue) : (s.updQueue q f).objects = s.objects := rfl
@[simp] theorem updQueue_presses (s : State) (q : Fin 256) (f : Queue → Queue) : (s.updQueue q f).presses = s.presses := rfl
@[simp] theorem updQueue_failed (s : State) (q : Fin 256) (f : Queue → Queue) : (s.updQueue q f).failed = s.failed := rfl
@[simp] theorem updQueue_engines (s : State) (q : Fin 256) (f : Queue → Queue) : (s.updQueue q f).engines = s.engines := rfl
@[simp] theorem updQueue_intake (s : State) (q : Fin 256) (f : Queue → Queue) : (s.updQueue q f).intake = s.intake := rfl
@[simp] theorem updQueue_codec (s : State) (q : Fin 256) (f : Queue → Queue) : (s.updQueue q f).codec = s.codec := rfl
@[simp] theorem updQueue_pipes (s : State) (q : Fin 256) (f : Queue → Queue) : (s.updQueue q f).pipes = s.pipes := rfl
@[simp] theorem updQueue_mmu (s : State) (q : Fin 256) (f : Queue → Queue) : (s.updQueue q f).mmu = s.mmu := rfl
@[simp] theorem updQueue_memctl (s : State) (q : Fin 256) (f : Queue → Queue) : (s.updQueue q f).memctl = s.memctl := rfl
@[simp] theorem updQueue_dram (s : State) (q : Fin 256) (f : Queue → Queue) : (s.updQueue q f).dram = s.dram := rfl
@[simp] theorem updQueue_cellar (s : State) (q : Fin 256) (f : Queue → Queue) : (s.updQueue q f).cellar = s.cellar := rfl
@[simp] theorem updQueue_vine (s : State) (q : Fin 256) (f : Queue → Queue) : (s.updQueue q f).vine = s.vine := rfl
@[simp] theorem updQueue_parcels (s : State) (q : Fin 256) (f : Queue → Queue) : (s.updQueue q f).parcels = s.parcels := rfl
@[simp] theorem updQueue_acct (s : State) (q : Fin 256) (f : Queue → Queue) : (s.updQueue q f).acct = s.acct := rfl
@[simp] theorem updQueue_fw (s : State) (q : Fin 256) (f : Queue → Queue) : (s.updQueue q f).fw = s.fw := rfl
@[simp] theorem updQueue_heartbeat (s : State) (q : Fin 256) (f : Queue → Queue) : (s.updQueue q f).heartbeat = s.heartbeat := rfl
@[simp] theorem updQueue_checking (s : State) (q : Fin 256) (f : Queue → Queue) : (s.updQueue q f).checking = s.checking := rfl
@[simp] theorem updQueue_checkTurn (s : State) (q : Fin 256) (f : Queue → Queue) : (s.updQueue q f).checkTurn = s.checkTurn := rfl
@[simp] theorem updQueue_lanes (s : State) (q : Fin 256) (f : Queue → Queue) : (s.updQueue q f).lanes = s.lanes := rfl

/-! ### State.updPipe -/

@[simp] theorem updPipe_pending (s : State) (n : Fin 16) (f : Pipe → Pipe) : (s.updPipe n f).pending = s.pending := rfl
@[simp] theorem updPipe_freeCtr (s : State) (n : Fin 16) (f : Pipe → Pipe) : (s.updPipe n f).freeCtr = s.freeCtr := rfl
@[simp] theorem updPipe_time (s : State) (n : Fin 16) (f : Pipe → Pipe) : (s.updPipe n f).time = s.time := rfl
@[simp] theorem updPipe_fuses (s : State) (n : Fin 16) (f : Pipe → Pipe) : (s.updPipe n f).fuses = s.fuses := rfl
@[simp] theorem updPipe_straps (s : State) (n : Fin 16) (f : Pipe → Pipe) : (s.updPipe n f).straps = s.straps := rfl
@[simp] theorem updPipe_pins (s : State) (n : Fin 16) (f : Pipe → Pipe) : (s.updPipe n f).pins = s.pins := rfl
@[simp] theorem updPipe_pages (s : State) (n : Fin 16) (f : Pipe → Pipe) : (s.updPipe n f).pages = s.pages := rfl
@[simp] theorem updPipe_bootRec (s : State) (n : Fin 16) (f : Pipe → Pipe) : (s.updPipe n f).bootRec = s.bootRec := rfl
@[simp] theorem updPipe_boot (s : State) (n : Fin 16) (f : Pipe → Pipe) : (s.updPipe n f).boot = s.boot := rfl
@[simp] theorem updPipe_flash (s : State) (n : Fin 16) (f : Pipe → Pipe) : (s.updPipe n f).flash = s.flash := rfl
@[simp] theorem updPipe_clocks (s : State) (n : Fin 16) (f : Pipe → Pipe) : (s.updPipe n f).clocks = s.clocks := rfl
@[simp] theorem updPipe_power (s : State) (n : Fin 16) (f : Pipe → Pipe) : (s.updPipe n f).power = s.power := rfl
@[simp] theorem updPipe_thermal (s : State) (n : Fin 16) (f : Pipe → Pipe) : (s.updPipe n f).thermal = s.thermal := rfl
@[simp] theorem updPipe_ageing (s : State) (n : Fin 16) (f : Pipe → Pipe) : (s.updPipe n f).ageing = s.ageing := rfl
@[simp] theorem updPipe_safety (s : State) (n : Fin 16) (f : Pipe → Pipe) : (s.updPipe n f).safety = s.safety := rfl
@[simp] theorem updPipe_diag (s : State) (n : Fin 16) (f : Pipe → Pipe) : (s.updPipe n f).diag = s.diag := rfl
@[simp] theorem updPipe_book (s : State) (n : Fin 16) (f : Pipe → Pipe) : (s.updPipe n f).book = s.book := rfl
@[simp] theorem updPipe_port (s : State) (n : Fin 16) (f : Pipe → Pipe) : (s.updPipe n f).port = s.port := rfl
@[simp] theorem updPipe_queues (s : State) (n : Fin 16) (f : Pipe → Pipe) : (s.updPipe n f).queues = s.queues := rfl
@[simp] theorem updPipe_objects (s : State) (n : Fin 16) (f : Pipe → Pipe) : (s.updPipe n f).objects = s.objects := rfl
@[simp] theorem updPipe_presses (s : State) (n : Fin 16) (f : Pipe → Pipe) : (s.updPipe n f).presses = s.presses := rfl
@[simp] theorem updPipe_failed (s : State) (n : Fin 16) (f : Pipe → Pipe) : (s.updPipe n f).failed = s.failed := rfl
@[simp] theorem updPipe_engines (s : State) (n : Fin 16) (f : Pipe → Pipe) : (s.updPipe n f).engines = s.engines := rfl
@[simp] theorem updPipe_intake (s : State) (n : Fin 16) (f : Pipe → Pipe) : (s.updPipe n f).intake = s.intake := rfl
@[simp] theorem updPipe_codec (s : State) (n : Fin 16) (f : Pipe → Pipe) : (s.updPipe n f).codec = s.codec := rfl
@[simp] theorem updPipe_mmu (s : State) (n : Fin 16) (f : Pipe → Pipe) : (s.updPipe n f).mmu = s.mmu := rfl
@[simp] theorem updPipe_memctl (s : State) (n : Fin 16) (f : Pipe → Pipe) : (s.updPipe n f).memctl = s.memctl := rfl
@[simp] theorem updPipe_dram (s : State) (n : Fin 16) (f : Pipe → Pipe) : (s.updPipe n f).dram = s.dram := rfl
@[simp] theorem updPipe_cellar (s : State) (n : Fin 16) (f : Pipe → Pipe) : (s.updPipe n f).cellar = s.cellar := rfl
@[simp] theorem updPipe_vine (s : State) (n : Fin 16) (f : Pipe → Pipe) : (s.updPipe n f).vine = s.vine := rfl
@[simp] theorem updPipe_parcels (s : State) (n : Fin 16) (f : Pipe → Pipe) : (s.updPipe n f).parcels = s.parcels := rfl
@[simp] theorem updPipe_acct (s : State) (n : Fin 16) (f : Pipe → Pipe) : (s.updPipe n f).acct = s.acct := rfl
@[simp] theorem updPipe_fw (s : State) (n : Fin 16) (f : Pipe → Pipe) : (s.updPipe n f).fw = s.fw := rfl
@[simp] theorem updPipe_heartbeat (s : State) (n : Fin 16) (f : Pipe → Pipe) : (s.updPipe n f).heartbeat = s.heartbeat := rfl
@[simp] theorem updPipe_checking (s : State) (n : Fin 16) (f : Pipe → Pipe) : (s.updPipe n f).checking = s.checking := rfl
@[simp] theorem updPipe_checkTurn (s : State) (n : Fin 16) (f : Pipe → Pipe) : (s.updPipe n f).checkTurn = s.checkTurn := rfl
@[simp] theorem updPipe_lanes (s : State) (n : Fin 16) (f : Pipe → Pipe) : (s.updPipe n f).lanes = s.lanes := rfl

/-! ### State.updParcel -/

@[simp] theorem updParcel_pending (s : State) (n : Fin 8) (f : Parcel → Parcel) : (s.updParcel n f).pending = s.pending := rfl
@[simp] theorem updParcel_freeCtr (s : State) (n : Fin 8) (f : Parcel → Parcel) : (s.updParcel n f).freeCtr = s.freeCtr := rfl
@[simp] theorem updParcel_time (s : State) (n : Fin 8) (f : Parcel → Parcel) : (s.updParcel n f).time = s.time := rfl
@[simp] theorem updParcel_fuses (s : State) (n : Fin 8) (f : Parcel → Parcel) : (s.updParcel n f).fuses = s.fuses := rfl
@[simp] theorem updParcel_straps (s : State) (n : Fin 8) (f : Parcel → Parcel) : (s.updParcel n f).straps = s.straps := rfl
@[simp] theorem updParcel_pins (s : State) (n : Fin 8) (f : Parcel → Parcel) : (s.updParcel n f).pins = s.pins := rfl
@[simp] theorem updParcel_pages (s : State) (n : Fin 8) (f : Parcel → Parcel) : (s.updParcel n f).pages = s.pages := rfl
@[simp] theorem updParcel_bootRec (s : State) (n : Fin 8) (f : Parcel → Parcel) : (s.updParcel n f).bootRec = s.bootRec := rfl
@[simp] theorem updParcel_boot (s : State) (n : Fin 8) (f : Parcel → Parcel) : (s.updParcel n f).boot = s.boot := rfl
@[simp] theorem updParcel_flash (s : State) (n : Fin 8) (f : Parcel → Parcel) : (s.updParcel n f).flash = s.flash := rfl
@[simp] theorem updParcel_clocks (s : State) (n : Fin 8) (f : Parcel → Parcel) : (s.updParcel n f).clocks = s.clocks := rfl
@[simp] theorem updParcel_power (s : State) (n : Fin 8) (f : Parcel → Parcel) : (s.updParcel n f).power = s.power := rfl
@[simp] theorem updParcel_thermal (s : State) (n : Fin 8) (f : Parcel → Parcel) : (s.updParcel n f).thermal = s.thermal := rfl
@[simp] theorem updParcel_ageing (s : State) (n : Fin 8) (f : Parcel → Parcel) : (s.updParcel n f).ageing = s.ageing := rfl
@[simp] theorem updParcel_safety (s : State) (n : Fin 8) (f : Parcel → Parcel) : (s.updParcel n f).safety = s.safety := rfl
@[simp] theorem updParcel_diag (s : State) (n : Fin 8) (f : Parcel → Parcel) : (s.updParcel n f).diag = s.diag := rfl
@[simp] theorem updParcel_book (s : State) (n : Fin 8) (f : Parcel → Parcel) : (s.updParcel n f).book = s.book := rfl
@[simp] theorem updParcel_port (s : State) (n : Fin 8) (f : Parcel → Parcel) : (s.updParcel n f).port = s.port := rfl
@[simp] theorem updParcel_queues (s : State) (n : Fin 8) (f : Parcel → Parcel) : (s.updParcel n f).queues = s.queues := rfl
@[simp] theorem updParcel_objects (s : State) (n : Fin 8) (f : Parcel → Parcel) : (s.updParcel n f).objects = s.objects := rfl
@[simp] theorem updParcel_presses (s : State) (n : Fin 8) (f : Parcel → Parcel) : (s.updParcel n f).presses = s.presses := rfl
@[simp] theorem updParcel_failed (s : State) (n : Fin 8) (f : Parcel → Parcel) : (s.updParcel n f).failed = s.failed := rfl
@[simp] theorem updParcel_engines (s : State) (n : Fin 8) (f : Parcel → Parcel) : (s.updParcel n f).engines = s.engines := rfl
@[simp] theorem updParcel_intake (s : State) (n : Fin 8) (f : Parcel → Parcel) : (s.updParcel n f).intake = s.intake := rfl
@[simp] theorem updParcel_codec (s : State) (n : Fin 8) (f : Parcel → Parcel) : (s.updParcel n f).codec = s.codec := rfl
@[simp] theorem updParcel_pipes (s : State) (n : Fin 8) (f : Parcel → Parcel) : (s.updParcel n f).pipes = s.pipes := rfl
@[simp] theorem updParcel_mmu (s : State) (n : Fin 8) (f : Parcel → Parcel) : (s.updParcel n f).mmu = s.mmu := rfl
@[simp] theorem updParcel_memctl (s : State) (n : Fin 8) (f : Parcel → Parcel) : (s.updParcel n f).memctl = s.memctl := rfl
@[simp] theorem updParcel_dram (s : State) (n : Fin 8) (f : Parcel → Parcel) : (s.updParcel n f).dram = s.dram := rfl
@[simp] theorem updParcel_cellar (s : State) (n : Fin 8) (f : Parcel → Parcel) : (s.updParcel n f).cellar = s.cellar := rfl
@[simp] theorem updParcel_vine (s : State) (n : Fin 8) (f : Parcel → Parcel) : (s.updParcel n f).vine = s.vine := rfl
@[simp] theorem updParcel_acct (s : State) (n : Fin 8) (f : Parcel → Parcel) : (s.updParcel n f).acct = s.acct := rfl
@[simp] theorem updParcel_fw (s : State) (n : Fin 8) (f : Parcel → Parcel) : (s.updParcel n f).fw = s.fw := rfl
@[simp] theorem updParcel_heartbeat (s : State) (n : Fin 8) (f : Parcel → Parcel) : (s.updParcel n f).heartbeat = s.heartbeat := rfl
@[simp] theorem updParcel_checking (s : State) (n : Fin 8) (f : Parcel → Parcel) : (s.updParcel n f).checking = s.checking := rfl
@[simp] theorem updParcel_checkTurn (s : State) (n : Fin 8) (f : Parcel → Parcel) : (s.updParcel n f).checkTurn = s.checkTurn := rfl
@[simp] theorem updParcel_lanes (s : State) (n : Fin 8) (f : Parcel → Parcel) : (s.updParcel n f).lanes = s.lanes := rfl

/-! ### State.updEngine -/

@[simp] theorem updEngine_pending (s : State) (e : Fin 6) (f : Engine → Engine) : (s.updEngine e f).pending = s.pending := rfl
@[simp] theorem updEngine_freeCtr (s : State) (e : Fin 6) (f : Engine → Engine) : (s.updEngine e f).freeCtr = s.freeCtr := rfl
@[simp] theorem updEngine_time (s : State) (e : Fin 6) (f : Engine → Engine) : (s.updEngine e f).time = s.time := rfl
@[simp] theorem updEngine_fuses (s : State) (e : Fin 6) (f : Engine → Engine) : (s.updEngine e f).fuses = s.fuses := rfl
@[simp] theorem updEngine_straps (s : State) (e : Fin 6) (f : Engine → Engine) : (s.updEngine e f).straps = s.straps := rfl
@[simp] theorem updEngine_pins (s : State) (e : Fin 6) (f : Engine → Engine) : (s.updEngine e f).pins = s.pins := rfl
@[simp] theorem updEngine_pages (s : State) (e : Fin 6) (f : Engine → Engine) : (s.updEngine e f).pages = s.pages := rfl
@[simp] theorem updEngine_bootRec (s : State) (e : Fin 6) (f : Engine → Engine) : (s.updEngine e f).bootRec = s.bootRec := rfl
@[simp] theorem updEngine_boot (s : State) (e : Fin 6) (f : Engine → Engine) : (s.updEngine e f).boot = s.boot := rfl
@[simp] theorem updEngine_flash (s : State) (e : Fin 6) (f : Engine → Engine) : (s.updEngine e f).flash = s.flash := rfl
@[simp] theorem updEngine_clocks (s : State) (e : Fin 6) (f : Engine → Engine) : (s.updEngine e f).clocks = s.clocks := rfl
@[simp] theorem updEngine_power (s : State) (e : Fin 6) (f : Engine → Engine) : (s.updEngine e f).power = s.power := rfl
@[simp] theorem updEngine_thermal (s : State) (e : Fin 6) (f : Engine → Engine) : (s.updEngine e f).thermal = s.thermal := rfl
@[simp] theorem updEngine_ageing (s : State) (e : Fin 6) (f : Engine → Engine) : (s.updEngine e f).ageing = s.ageing := rfl
@[simp] theorem updEngine_safety (s : State) (e : Fin 6) (f : Engine → Engine) : (s.updEngine e f).safety = s.safety := rfl
@[simp] theorem updEngine_diag (s : State) (e : Fin 6) (f : Engine → Engine) : (s.updEngine e f).diag = s.diag := rfl
@[simp] theorem updEngine_book (s : State) (e : Fin 6) (f : Engine → Engine) : (s.updEngine e f).book = s.book := rfl
@[simp] theorem updEngine_port (s : State) (e : Fin 6) (f : Engine → Engine) : (s.updEngine e f).port = s.port := rfl
@[simp] theorem updEngine_queues (s : State) (e : Fin 6) (f : Engine → Engine) : (s.updEngine e f).queues = s.queues := rfl
@[simp] theorem updEngine_objects (s : State) (e : Fin 6) (f : Engine → Engine) : (s.updEngine e f).objects = s.objects := rfl
@[simp] theorem updEngine_presses (s : State) (e : Fin 6) (f : Engine → Engine) : (s.updEngine e f).presses = s.presses := rfl
@[simp] theorem updEngine_failed (s : State) (e : Fin 6) (f : Engine → Engine) : (s.updEngine e f).failed = s.failed := rfl
@[simp] theorem updEngine_intake (s : State) (e : Fin 6) (f : Engine → Engine) : (s.updEngine e f).intake = s.intake := rfl
@[simp] theorem updEngine_codec (s : State) (e : Fin 6) (f : Engine → Engine) : (s.updEngine e f).codec = s.codec := rfl
@[simp] theorem updEngine_pipes (s : State) (e : Fin 6) (f : Engine → Engine) : (s.updEngine e f).pipes = s.pipes := rfl
@[simp] theorem updEngine_mmu (s : State) (e : Fin 6) (f : Engine → Engine) : (s.updEngine e f).mmu = s.mmu := rfl
@[simp] theorem updEngine_memctl (s : State) (e : Fin 6) (f : Engine → Engine) : (s.updEngine e f).memctl = s.memctl := rfl
@[simp] theorem updEngine_dram (s : State) (e : Fin 6) (f : Engine → Engine) : (s.updEngine e f).dram = s.dram := rfl
@[simp] theorem updEngine_cellar (s : State) (e : Fin 6) (f : Engine → Engine) : (s.updEngine e f).cellar = s.cellar := rfl
@[simp] theorem updEngine_vine (s : State) (e : Fin 6) (f : Engine → Engine) : (s.updEngine e f).vine = s.vine := rfl
@[simp] theorem updEngine_parcels (s : State) (e : Fin 6) (f : Engine → Engine) : (s.updEngine e f).parcels = s.parcels := rfl
@[simp] theorem updEngine_acct (s : State) (e : Fin 6) (f : Engine → Engine) : (s.updEngine e f).acct = s.acct := rfl
@[simp] theorem updEngine_fw (s : State) (e : Fin 6) (f : Engine → Engine) : (s.updEngine e f).fw = s.fw := rfl
@[simp] theorem updEngine_heartbeat (s : State) (e : Fin 6) (f : Engine → Engine) : (s.updEngine e f).heartbeat = s.heartbeat := rfl
@[simp] theorem updEngine_checking (s : State) (e : Fin 6) (f : Engine → Engine) : (s.updEngine e f).checking = s.checking := rfl
@[simp] theorem updEngine_checkTurn (s : State) (e : Fin 6) (f : Engine → Engine) : (s.updEngine e f).checkTurn = s.checkTurn := rfl
@[simp] theorem updEngine_lanes (s : State) (e : Fin 6) (f : Engine → Engine) : (s.updEngine e f).lanes = s.lanes := rfl

/-! ### State.updLink -/

@[simp] theorem updLink_pending (s : State) (i : Fin 4) (f : Link → Link) : (s.updLink i f).pending = s.pending := rfl
@[simp] theorem updLink_freeCtr (s : State) (i : Fin 4) (f : Link → Link) : (s.updLink i f).freeCtr = s.freeCtr := rfl
@[simp] theorem updLink_time (s : State) (i : Fin 4) (f : Link → Link) : (s.updLink i f).time = s.time := rfl
@[simp] theorem updLink_fuses (s : State) (i : Fin 4) (f : Link → Link) : (s.updLink i f).fuses = s.fuses := rfl
@[simp] theorem updLink_straps (s : State) (i : Fin 4) (f : Link → Link) : (s.updLink i f).straps = s.straps := rfl
@[simp] theorem updLink_pins (s : State) (i : Fin 4) (f : Link → Link) : (s.updLink i f).pins = s.pins := rfl
@[simp] theorem updLink_pages (s : State) (i : Fin 4) (f : Link → Link) : (s.updLink i f).pages = s.pages := rfl
@[simp] theorem updLink_bootRec (s : State) (i : Fin 4) (f : Link → Link) : (s.updLink i f).bootRec = s.bootRec := rfl
@[simp] theorem updLink_boot (s : State) (i : Fin 4) (f : Link → Link) : (s.updLink i f).boot = s.boot := rfl
@[simp] theorem updLink_flash (s : State) (i : Fin 4) (f : Link → Link) : (s.updLink i f).flash = s.flash := rfl
@[simp] theorem updLink_clocks (s : State) (i : Fin 4) (f : Link → Link) : (s.updLink i f).clocks = s.clocks := rfl
@[simp] theorem updLink_power (s : State) (i : Fin 4) (f : Link → Link) : (s.updLink i f).power = s.power := rfl
@[simp] theorem updLink_thermal (s : State) (i : Fin 4) (f : Link → Link) : (s.updLink i f).thermal = s.thermal := rfl
@[simp] theorem updLink_ageing (s : State) (i : Fin 4) (f : Link → Link) : (s.updLink i f).ageing = s.ageing := rfl
@[simp] theorem updLink_safety (s : State) (i : Fin 4) (f : Link → Link) : (s.updLink i f).safety = s.safety := rfl
@[simp] theorem updLink_diag (s : State) (i : Fin 4) (f : Link → Link) : (s.updLink i f).diag = s.diag := rfl
@[simp] theorem updLink_book (s : State) (i : Fin 4) (f : Link → Link) : (s.updLink i f).book = s.book := rfl
@[simp] theorem updLink_port (s : State) (i : Fin 4) (f : Link → Link) : (s.updLink i f).port = s.port := rfl
@[simp] theorem updLink_queues (s : State) (i : Fin 4) (f : Link → Link) : (s.updLink i f).queues = s.queues := rfl
@[simp] theorem updLink_objects (s : State) (i : Fin 4) (f : Link → Link) : (s.updLink i f).objects = s.objects := rfl
@[simp] theorem updLink_presses (s : State) (i : Fin 4) (f : Link → Link) : (s.updLink i f).presses = s.presses := rfl
@[simp] theorem updLink_failed (s : State) (i : Fin 4) (f : Link → Link) : (s.updLink i f).failed = s.failed := rfl
@[simp] theorem updLink_engines (s : State) (i : Fin 4) (f : Link → Link) : (s.updLink i f).engines = s.engines := rfl
@[simp] theorem updLink_intake (s : State) (i : Fin 4) (f : Link → Link) : (s.updLink i f).intake = s.intake := rfl
@[simp] theorem updLink_codec (s : State) (i : Fin 4) (f : Link → Link) : (s.updLink i f).codec = s.codec := rfl
@[simp] theorem updLink_pipes (s : State) (i : Fin 4) (f : Link → Link) : (s.updLink i f).pipes = s.pipes := rfl
@[simp] theorem updLink_mmu (s : State) (i : Fin 4) (f : Link → Link) : (s.updLink i f).mmu = s.mmu := rfl
@[simp] theorem updLink_memctl (s : State) (i : Fin 4) (f : Link → Link) : (s.updLink i f).memctl = s.memctl := rfl
@[simp] theorem updLink_dram (s : State) (i : Fin 4) (f : Link → Link) : (s.updLink i f).dram = s.dram := rfl
@[simp] theorem updLink_cellar (s : State) (i : Fin 4) (f : Link → Link) : (s.updLink i f).cellar = s.cellar := rfl
@[simp] theorem updLink_parcels (s : State) (i : Fin 4) (f : Link → Link) : (s.updLink i f).parcels = s.parcels := rfl
@[simp] theorem updLink_acct (s : State) (i : Fin 4) (f : Link → Link) : (s.updLink i f).acct = s.acct := rfl
@[simp] theorem updLink_fw (s : State) (i : Fin 4) (f : Link → Link) : (s.updLink i f).fw = s.fw := rfl
@[simp] theorem updLink_heartbeat (s : State) (i : Fin 4) (f : Link → Link) : (s.updLink i f).heartbeat = s.heartbeat := rfl
@[simp] theorem updLink_checking (s : State) (i : Fin 4) (f : Link → Link) : (s.updLink i f).checking = s.checking := rfl
@[simp] theorem updLink_checkTurn (s : State) (i : Fin 4) (f : Link → Link) : (s.updLink i f).checkTurn = s.checkTurn := rfl
@[simp] theorem updLink_lanes (s : State) (i : Fin 4) (f : Link → Link) : (s.updLink i f).lanes = s.lanes := rfl

/-! ### State.updPair -/

@[simp] theorem updPair_pending (s : State) (p : Fin 8) (f : Pair → Pair) : (s.updPair p f).pending = s.pending := rfl
@[simp] theorem updPair_freeCtr (s : State) (p : Fin 8) (f : Pair → Pair) : (s.updPair p f).freeCtr = s.freeCtr := rfl
@[simp] theorem updPair_time (s : State) (p : Fin 8) (f : Pair → Pair) : (s.updPair p f).time = s.time := rfl
@[simp] theorem updPair_fuses (s : State) (p : Fin 8) (f : Pair → Pair) : (s.updPair p f).fuses = s.fuses := rfl
@[simp] theorem updPair_straps (s : State) (p : Fin 8) (f : Pair → Pair) : (s.updPair p f).straps = s.straps := rfl
@[simp] theorem updPair_pins (s : State) (p : Fin 8) (f : Pair → Pair) : (s.updPair p f).pins = s.pins := rfl
@[simp] theorem updPair_pages (s : State) (p : Fin 8) (f : Pair → Pair) : (s.updPair p f).pages = s.pages := rfl
@[simp] theorem updPair_bootRec (s : State) (p : Fin 8) (f : Pair → Pair) : (s.updPair p f).bootRec = s.bootRec := rfl
@[simp] theorem updPair_boot (s : State) (p : Fin 8) (f : Pair → Pair) : (s.updPair p f).boot = s.boot := rfl
@[simp] theorem updPair_flash (s : State) (p : Fin 8) (f : Pair → Pair) : (s.updPair p f).flash = s.flash := rfl
@[simp] theorem updPair_clocks (s : State) (p : Fin 8) (f : Pair → Pair) : (s.updPair p f).clocks = s.clocks := rfl
@[simp] theorem updPair_power (s : State) (p : Fin 8) (f : Pair → Pair) : (s.updPair p f).power = s.power := rfl
@[simp] theorem updPair_thermal (s : State) (p : Fin 8) (f : Pair → Pair) : (s.updPair p f).thermal = s.thermal := rfl
@[simp] theorem updPair_ageing (s : State) (p : Fin 8) (f : Pair → Pair) : (s.updPair p f).ageing = s.ageing := rfl
@[simp] theorem updPair_safety (s : State) (p : Fin 8) (f : Pair → Pair) : (s.updPair p f).safety = s.safety := rfl
@[simp] theorem updPair_diag (s : State) (p : Fin 8) (f : Pair → Pair) : (s.updPair p f).diag = s.diag := rfl
@[simp] theorem updPair_book (s : State) (p : Fin 8) (f : Pair → Pair) : (s.updPair p f).book = s.book := rfl
@[simp] theorem updPair_port (s : State) (p : Fin 8) (f : Pair → Pair) : (s.updPair p f).port = s.port := rfl
@[simp] theorem updPair_queues (s : State) (p : Fin 8) (f : Pair → Pair) : (s.updPair p f).queues = s.queues := rfl
@[simp] theorem updPair_objects (s : State) (p : Fin 8) (f : Pair → Pair) : (s.updPair p f).objects = s.objects := rfl
@[simp] theorem updPair_presses (s : State) (p : Fin 8) (f : Pair → Pair) : (s.updPair p f).presses = s.presses := rfl
@[simp] theorem updPair_failed (s : State) (p : Fin 8) (f : Pair → Pair) : (s.updPair p f).failed = s.failed := rfl
@[simp] theorem updPair_engines (s : State) (p : Fin 8) (f : Pair → Pair) : (s.updPair p f).engines = s.engines := rfl
@[simp] theorem updPair_intake (s : State) (p : Fin 8) (f : Pair → Pair) : (s.updPair p f).intake = s.intake := rfl
@[simp] theorem updPair_codec (s : State) (p : Fin 8) (f : Pair → Pair) : (s.updPair p f).codec = s.codec := rfl
@[simp] theorem updPair_pipes (s : State) (p : Fin 8) (f : Pair → Pair) : (s.updPair p f).pipes = s.pipes := rfl
@[simp] theorem updPair_mmu (s : State) (p : Fin 8) (f : Pair → Pair) : (s.updPair p f).mmu = s.mmu := rfl
@[simp] theorem updPair_memctl (s : State) (p : Fin 8) (f : Pair → Pair) : (s.updPair p f).memctl = s.memctl := rfl
@[simp] theorem updPair_dram (s : State) (p : Fin 8) (f : Pair → Pair) : (s.updPair p f).dram = s.dram := rfl
@[simp] theorem updPair_cellar (s : State) (p : Fin 8) (f : Pair → Pair) : (s.updPair p f).cellar = s.cellar := rfl
@[simp] theorem updPair_vine (s : State) (p : Fin 8) (f : Pair → Pair) : (s.updPair p f).vine = s.vine := rfl
@[simp] theorem updPair_parcels (s : State) (p : Fin 8) (f : Pair → Pair) : (s.updPair p f).parcels = s.parcels := rfl
@[simp] theorem updPair_acct (s : State) (p : Fin 8) (f : Pair → Pair) : (s.updPair p f).acct = s.acct := rfl
@[simp] theorem updPair_heartbeat (s : State) (p : Fin 8) (f : Pair → Pair) : (s.updPair p f).heartbeat = s.heartbeat := rfl
@[simp] theorem updPair_checking (s : State) (p : Fin 8) (f : Pair → Pair) : (s.updPair p f).checking = s.checking := rfl
@[simp] theorem updPair_checkTurn (s : State) (p : Fin 8) (f : Pair → Pair) : (s.updPair p f).checkTurn = s.checkTurn := rfl
@[simp] theorem updPair_lanes (s : State) (p : Fin 8) (f : Pair → Pair) : (s.updPair p f).lanes = s.lanes := rfl

/-! ### State.updPage -/

@[simp] theorem updPage_pending (s : State) (p : Fin 121) (f : PageRegs → PageRegs) : (s.updPage p f).pending = s.pending := rfl
@[simp] theorem updPage_freeCtr (s : State) (p : Fin 121) (f : PageRegs → PageRegs) : (s.updPage p f).freeCtr = s.freeCtr := rfl
@[simp] theorem updPage_time (s : State) (p : Fin 121) (f : PageRegs → PageRegs) : (s.updPage p f).time = s.time := rfl
@[simp] theorem updPage_fuses (s : State) (p : Fin 121) (f : PageRegs → PageRegs) : (s.updPage p f).fuses = s.fuses := rfl
@[simp] theorem updPage_straps (s : State) (p : Fin 121) (f : PageRegs → PageRegs) : (s.updPage p f).straps = s.straps := rfl
@[simp] theorem updPage_pins (s : State) (p : Fin 121) (f : PageRegs → PageRegs) : (s.updPage p f).pins = s.pins := rfl
@[simp] theorem updPage_bootRec (s : State) (p : Fin 121) (f : PageRegs → PageRegs) : (s.updPage p f).bootRec = s.bootRec := rfl
@[simp] theorem updPage_boot (s : State) (p : Fin 121) (f : PageRegs → PageRegs) : (s.updPage p f).boot = s.boot := rfl
@[simp] theorem updPage_flash (s : State) (p : Fin 121) (f : PageRegs → PageRegs) : (s.updPage p f).flash = s.flash := rfl
@[simp] theorem updPage_clocks (s : State) (p : Fin 121) (f : PageRegs → PageRegs) : (s.updPage p f).clocks = s.clocks := rfl
@[simp] theorem updPage_power (s : State) (p : Fin 121) (f : PageRegs → PageRegs) : (s.updPage p f).power = s.power := rfl
@[simp] theorem updPage_thermal (s : State) (p : Fin 121) (f : PageRegs → PageRegs) : (s.updPage p f).thermal = s.thermal := rfl
@[simp] theorem updPage_ageing (s : State) (p : Fin 121) (f : PageRegs → PageRegs) : (s.updPage p f).ageing = s.ageing := rfl
@[simp] theorem updPage_safety (s : State) (p : Fin 121) (f : PageRegs → PageRegs) : (s.updPage p f).safety = s.safety := rfl
@[simp] theorem updPage_diag (s : State) (p : Fin 121) (f : PageRegs → PageRegs) : (s.updPage p f).diag = s.diag := rfl
@[simp] theorem updPage_book (s : State) (p : Fin 121) (f : PageRegs → PageRegs) : (s.updPage p f).book = s.book := rfl
@[simp] theorem updPage_port (s : State) (p : Fin 121) (f : PageRegs → PageRegs) : (s.updPage p f).port = s.port := rfl
@[simp] theorem updPage_queues (s : State) (p : Fin 121) (f : PageRegs → PageRegs) : (s.updPage p f).queues = s.queues := rfl
@[simp] theorem updPage_objects (s : State) (p : Fin 121) (f : PageRegs → PageRegs) : (s.updPage p f).objects = s.objects := rfl
@[simp] theorem updPage_presses (s : State) (p : Fin 121) (f : PageRegs → PageRegs) : (s.updPage p f).presses = s.presses := rfl
@[simp] theorem updPage_failed (s : State) (p : Fin 121) (f : PageRegs → PageRegs) : (s.updPage p f).failed = s.failed := rfl
@[simp] theorem updPage_engines (s : State) (p : Fin 121) (f : PageRegs → PageRegs) : (s.updPage p f).engines = s.engines := rfl
@[simp] theorem updPage_intake (s : State) (p : Fin 121) (f : PageRegs → PageRegs) : (s.updPage p f).intake = s.intake := rfl
@[simp] theorem updPage_codec (s : State) (p : Fin 121) (f : PageRegs → PageRegs) : (s.updPage p f).codec = s.codec := rfl
@[simp] theorem updPage_pipes (s : State) (p : Fin 121) (f : PageRegs → PageRegs) : (s.updPage p f).pipes = s.pipes := rfl
@[simp] theorem updPage_mmu (s : State) (p : Fin 121) (f : PageRegs → PageRegs) : (s.updPage p f).mmu = s.mmu := rfl
@[simp] theorem updPage_memctl (s : State) (p : Fin 121) (f : PageRegs → PageRegs) : (s.updPage p f).memctl = s.memctl := rfl
@[simp] theorem updPage_dram (s : State) (p : Fin 121) (f : PageRegs → PageRegs) : (s.updPage p f).dram = s.dram := rfl
@[simp] theorem updPage_cellar (s : State) (p : Fin 121) (f : PageRegs → PageRegs) : (s.updPage p f).cellar = s.cellar := rfl
@[simp] theorem updPage_vine (s : State) (p : Fin 121) (f : PageRegs → PageRegs) : (s.updPage p f).vine = s.vine := rfl
@[simp] theorem updPage_parcels (s : State) (p : Fin 121) (f : PageRegs → PageRegs) : (s.updPage p f).parcels = s.parcels := rfl
@[simp] theorem updPage_acct (s : State) (p : Fin 121) (f : PageRegs → PageRegs) : (s.updPage p f).acct = s.acct := rfl
@[simp] theorem updPage_fw (s : State) (p : Fin 121) (f : PageRegs → PageRegs) : (s.updPage p f).fw = s.fw := rfl
@[simp] theorem updPage_heartbeat (s : State) (p : Fin 121) (f : PageRegs → PageRegs) : (s.updPage p f).heartbeat = s.heartbeat := rfl
@[simp] theorem updPage_checking (s : State) (p : Fin 121) (f : PageRegs → PageRegs) : (s.updPage p f).checking = s.checking := rfl
@[simp] theorem updPage_checkTurn (s : State) (p : Fin 121) (f : PageRegs → PageRegs) : (s.updPage p f).checkTurn = s.checkTurn := rfl
@[simp] theorem updPage_lanes (s : State) (p : Fin 121) (f : PageRegs → PageRegs) : (s.updPage p f).lanes = s.lanes := rfl

/-! ### State.updSlot -/

@[simp] theorem updSlot_pending (s : State) (k : Fin 134) (f : AlarmSlot → AlarmSlot) : (s.updSlot k f).pending = s.pending := rfl
@[simp] theorem updSlot_freeCtr (s : State) (k : Fin 134) (f : AlarmSlot → AlarmSlot) : (s.updSlot k f).freeCtr = s.freeCtr := rfl
@[simp] theorem updSlot_time (s : State) (k : Fin 134) (f : AlarmSlot → AlarmSlot) : (s.updSlot k f).time = s.time := rfl
@[simp] theorem updSlot_fuses (s : State) (k : Fin 134) (f : AlarmSlot → AlarmSlot) : (s.updSlot k f).fuses = s.fuses := rfl
@[simp] theorem updSlot_straps (s : State) (k : Fin 134) (f : AlarmSlot → AlarmSlot) : (s.updSlot k f).straps = s.straps := rfl
@[simp] theorem updSlot_pins (s : State) (k : Fin 134) (f : AlarmSlot → AlarmSlot) : (s.updSlot k f).pins = s.pins := rfl
@[simp] theorem updSlot_pages (s : State) (k : Fin 134) (f : AlarmSlot → AlarmSlot) : (s.updSlot k f).pages = s.pages := rfl
@[simp] theorem updSlot_bootRec (s : State) (k : Fin 134) (f : AlarmSlot → AlarmSlot) : (s.updSlot k f).bootRec = s.bootRec := rfl
@[simp] theorem updSlot_boot (s : State) (k : Fin 134) (f : AlarmSlot → AlarmSlot) : (s.updSlot k f).boot = s.boot := rfl
@[simp] theorem updSlot_flash (s : State) (k : Fin 134) (f : AlarmSlot → AlarmSlot) : (s.updSlot k f).flash = s.flash := rfl
@[simp] theorem updSlot_clocks (s : State) (k : Fin 134) (f : AlarmSlot → AlarmSlot) : (s.updSlot k f).clocks = s.clocks := rfl
@[simp] theorem updSlot_power (s : State) (k : Fin 134) (f : AlarmSlot → AlarmSlot) : (s.updSlot k f).power = s.power := rfl
@[simp] theorem updSlot_thermal (s : State) (k : Fin 134) (f : AlarmSlot → AlarmSlot) : (s.updSlot k f).thermal = s.thermal := rfl
@[simp] theorem updSlot_ageing (s : State) (k : Fin 134) (f : AlarmSlot → AlarmSlot) : (s.updSlot k f).ageing = s.ageing := rfl
@[simp] theorem updSlot_diag (s : State) (k : Fin 134) (f : AlarmSlot → AlarmSlot) : (s.updSlot k f).diag = s.diag := rfl
@[simp] theorem updSlot_book (s : State) (k : Fin 134) (f : AlarmSlot → AlarmSlot) : (s.updSlot k f).book = s.book := rfl
@[simp] theorem updSlot_port (s : State) (k : Fin 134) (f : AlarmSlot → AlarmSlot) : (s.updSlot k f).port = s.port := rfl
@[simp] theorem updSlot_queues (s : State) (k : Fin 134) (f : AlarmSlot → AlarmSlot) : (s.updSlot k f).queues = s.queues := rfl
@[simp] theorem updSlot_objects (s : State) (k : Fin 134) (f : AlarmSlot → AlarmSlot) : (s.updSlot k f).objects = s.objects := rfl
@[simp] theorem updSlot_presses (s : State) (k : Fin 134) (f : AlarmSlot → AlarmSlot) : (s.updSlot k f).presses = s.presses := rfl
@[simp] theorem updSlot_failed (s : State) (k : Fin 134) (f : AlarmSlot → AlarmSlot) : (s.updSlot k f).failed = s.failed := rfl
@[simp] theorem updSlot_engines (s : State) (k : Fin 134) (f : AlarmSlot → AlarmSlot) : (s.updSlot k f).engines = s.engines := rfl
@[simp] theorem updSlot_intake (s : State) (k : Fin 134) (f : AlarmSlot → AlarmSlot) : (s.updSlot k f).intake = s.intake := rfl
@[simp] theorem updSlot_codec (s : State) (k : Fin 134) (f : AlarmSlot → AlarmSlot) : (s.updSlot k f).codec = s.codec := rfl
@[simp] theorem updSlot_pipes (s : State) (k : Fin 134) (f : AlarmSlot → AlarmSlot) : (s.updSlot k f).pipes = s.pipes := rfl
@[simp] theorem updSlot_mmu (s : State) (k : Fin 134) (f : AlarmSlot → AlarmSlot) : (s.updSlot k f).mmu = s.mmu := rfl
@[simp] theorem updSlot_memctl (s : State) (k : Fin 134) (f : AlarmSlot → AlarmSlot) : (s.updSlot k f).memctl = s.memctl := rfl
@[simp] theorem updSlot_dram (s : State) (k : Fin 134) (f : AlarmSlot → AlarmSlot) : (s.updSlot k f).dram = s.dram := rfl
@[simp] theorem updSlot_cellar (s : State) (k : Fin 134) (f : AlarmSlot → AlarmSlot) : (s.updSlot k f).cellar = s.cellar := rfl
@[simp] theorem updSlot_vine (s : State) (k : Fin 134) (f : AlarmSlot → AlarmSlot) : (s.updSlot k f).vine = s.vine := rfl
@[simp] theorem updSlot_parcels (s : State) (k : Fin 134) (f : AlarmSlot → AlarmSlot) : (s.updSlot k f).parcels = s.parcels := rfl
@[simp] theorem updSlot_acct (s : State) (k : Fin 134) (f : AlarmSlot → AlarmSlot) : (s.updSlot k f).acct = s.acct := rfl
@[simp] theorem updSlot_fw (s : State) (k : Fin 134) (f : AlarmSlot → AlarmSlot) : (s.updSlot k f).fw = s.fw := rfl
@[simp] theorem updSlot_heartbeat (s : State) (k : Fin 134) (f : AlarmSlot → AlarmSlot) : (s.updSlot k f).heartbeat = s.heartbeat := rfl
@[simp] theorem updSlot_checking (s : State) (k : Fin 134) (f : AlarmSlot → AlarmSlot) : (s.updSlot k f).checking = s.checking := rfl
@[simp] theorem updSlot_checkTurn (s : State) (k : Fin 134) (f : AlarmSlot → AlarmSlot) : (s.updSlot k f).checkTurn = s.checkTurn := rfl
@[simp] theorem updSlot_lanes (s : State) (k : Fin 134) (f : AlarmSlot → AlarmSlot) : (s.updSlot k f).lanes = s.lanes := rfl

/-! ### State.bump -/

@[simp] theorem bump_pending (s : State) : s.bump.pending = s.pending := rfl
@[simp] theorem bump_time (s : State) : s.bump.time = s.time := rfl
@[simp] theorem bump_fuses (s : State) : s.bump.fuses = s.fuses := rfl
@[simp] theorem bump_straps (s : State) : s.bump.straps = s.straps := rfl
@[simp] theorem bump_pins (s : State) : s.bump.pins = s.pins := rfl
@[simp] theorem bump_pages (s : State) : s.bump.pages = s.pages := rfl
@[simp] theorem bump_bootRec (s : State) : s.bump.bootRec = s.bootRec := rfl
@[simp] theorem bump_boot (s : State) : s.bump.boot = s.boot := rfl
@[simp] theorem bump_flash (s : State) : s.bump.flash = s.flash := rfl
@[simp] theorem bump_clocks (s : State) : s.bump.clocks = s.clocks := rfl
@[simp] theorem bump_power (s : State) : s.bump.power = s.power := rfl
@[simp] theorem bump_thermal (s : State) : s.bump.thermal = s.thermal := rfl
@[simp] theorem bump_ageing (s : State) : s.bump.ageing = s.ageing := rfl
@[simp] theorem bump_safety (s : State) : s.bump.safety = s.safety := rfl
@[simp] theorem bump_diag (s : State) : s.bump.diag = s.diag := rfl
@[simp] theorem bump_book (s : State) : s.bump.book = s.book := rfl
@[simp] theorem bump_port (s : State) : s.bump.port = s.port := rfl
@[simp] theorem bump_queues (s : State) : s.bump.queues = s.queues := rfl
@[simp] theorem bump_objects (s : State) : s.bump.objects = s.objects := rfl
@[simp] theorem bump_presses (s : State) : s.bump.presses = s.presses := rfl
@[simp] theorem bump_failed (s : State) : s.bump.failed = s.failed := rfl
@[simp] theorem bump_engines (s : State) : s.bump.engines = s.engines := rfl
@[simp] theorem bump_intake (s : State) : s.bump.intake = s.intake := rfl
@[simp] theorem bump_codec (s : State) : s.bump.codec = s.codec := rfl
@[simp] theorem bump_pipes (s : State) : s.bump.pipes = s.pipes := rfl
@[simp] theorem bump_mmu (s : State) : s.bump.mmu = s.mmu := rfl
@[simp] theorem bump_memctl (s : State) : s.bump.memctl = s.memctl := rfl
@[simp] theorem bump_dram (s : State) : s.bump.dram = s.dram := rfl
@[simp] theorem bump_cellar (s : State) : s.bump.cellar = s.cellar := rfl
@[simp] theorem bump_vine (s : State) : s.bump.vine = s.vine := rfl
@[simp] theorem bump_parcels (s : State) : s.bump.parcels = s.parcels := rfl
@[simp] theorem bump_acct (s : State) : s.bump.acct = s.acct := rfl
@[simp] theorem bump_fw (s : State) : s.bump.fw = s.fw := rfl
@[simp] theorem bump_heartbeat (s : State) : s.bump.heartbeat = s.heartbeat := rfl
@[simp] theorem bump_checking (s : State) : s.bump.checking = s.checking := rfl
@[simp] theorem bump_checkTurn (s : State) : s.bump.checkTurn = s.checkTurn := rfl
@[simp] theorem bump_lanes (s : State) : s.bump.lanes = s.lanes := rfl

/-! ### State.emit -/

@[simp] theorem emit_pending (s : State) (m : VineMsg) : (s.emit m).pending = s.pending := rfl
@[simp] theorem emit_freeCtr (s : State) (m : VineMsg) : (s.emit m).freeCtr = s.freeCtr := rfl
@[simp] theorem emit_time (s : State) (m : VineMsg) : (s.emit m).time = s.time := rfl
@[simp] theorem emit_fuses (s : State) (m : VineMsg) : (s.emit m).fuses = s.fuses := rfl
@[simp] theorem emit_straps (s : State) (m : VineMsg) : (s.emit m).straps = s.straps := rfl
@[simp] theorem emit_pins (s : State) (m : VineMsg) : (s.emit m).pins = s.pins := rfl
@[simp] theorem emit_pages (s : State) (m : VineMsg) : (s.emit m).pages = s.pages := rfl
@[simp] theorem emit_bootRec (s : State) (m : VineMsg) : (s.emit m).bootRec = s.bootRec := rfl
@[simp] theorem emit_boot (s : State) (m : VineMsg) : (s.emit m).boot = s.boot := rfl
@[simp] theorem emit_flash (s : State) (m : VineMsg) : (s.emit m).flash = s.flash := rfl
@[simp] theorem emit_clocks (s : State) (m : VineMsg) : (s.emit m).clocks = s.clocks := rfl
@[simp] theorem emit_power (s : State) (m : VineMsg) : (s.emit m).power = s.power := rfl
@[simp] theorem emit_thermal (s : State) (m : VineMsg) : (s.emit m).thermal = s.thermal := rfl
@[simp] theorem emit_ageing (s : State) (m : VineMsg) : (s.emit m).ageing = s.ageing := rfl
@[simp] theorem emit_safety (s : State) (m : VineMsg) : (s.emit m).safety = s.safety := rfl
@[simp] theorem emit_diag (s : State) (m : VineMsg) : (s.emit m).diag = s.diag := rfl
@[simp] theorem emit_book (s : State) (m : VineMsg) : (s.emit m).book = s.book := rfl
@[simp] theorem emit_port (s : State) (m : VineMsg) : (s.emit m).port = s.port := rfl
@[simp] theorem emit_queues (s : State) (m : VineMsg) : (s.emit m).queues = s.queues := rfl
@[simp] theorem emit_objects (s : State) (m : VineMsg) : (s.emit m).objects = s.objects := rfl
@[simp] theorem emit_presses (s : State) (m : VineMsg) : (s.emit m).presses = s.presses := rfl
@[simp] theorem emit_failed (s : State) (m : VineMsg) : (s.emit m).failed = s.failed := rfl
@[simp] theorem emit_engines (s : State) (m : VineMsg) : (s.emit m).engines = s.engines := rfl
@[simp] theorem emit_intake (s : State) (m : VineMsg) : (s.emit m).intake = s.intake := rfl
@[simp] theorem emit_codec (s : State) (m : VineMsg) : (s.emit m).codec = s.codec := rfl
@[simp] theorem emit_pipes (s : State) (m : VineMsg) : (s.emit m).pipes = s.pipes := rfl
@[simp] theorem emit_mmu (s : State) (m : VineMsg) : (s.emit m).mmu = s.mmu := rfl
@[simp] theorem emit_memctl (s : State) (m : VineMsg) : (s.emit m).memctl = s.memctl := rfl
@[simp] theorem emit_dram (s : State) (m : VineMsg) : (s.emit m).dram = s.dram := rfl
@[simp] theorem emit_cellar (s : State) (m : VineMsg) : (s.emit m).cellar = s.cellar := rfl
@[simp] theorem emit_parcels (s : State) (m : VineMsg) : (s.emit m).parcels = s.parcels := rfl
@[simp] theorem emit_acct (s : State) (m : VineMsg) : (s.emit m).acct = s.acct := rfl
@[simp] theorem emit_fw (s : State) (m : VineMsg) : (s.emit m).fw = s.fw := rfl
@[simp] theorem emit_heartbeat (s : State) (m : VineMsg) : (s.emit m).heartbeat = s.heartbeat := rfl
@[simp] theorem emit_checking (s : State) (m : VineMsg) : (s.emit m).checking = s.checking := rfl
@[simp] theorem emit_checkTurn (s : State) (m : VineMsg) : (s.emit m).checkTurn = s.checkTurn := rfl
@[simp] theorem emit_lanes (s : State) (m : VineMsg) : (s.emit m).lanes = s.lanes := rfl

/-! ### State.updWindow -/

@[simp] theorem updWindow_pending (s : State) (f : Mem → Mem) : (s.updWindow f).pending = s.pending := rfl
@[simp] theorem updWindow_freeCtr (s : State) (f : Mem → Mem) : (s.updWindow f).freeCtr = s.freeCtr := rfl
@[simp] theorem updWindow_time (s : State) (f : Mem → Mem) : (s.updWindow f).time = s.time := rfl
@[simp] theorem updWindow_fuses (s : State) (f : Mem → Mem) : (s.updWindow f).fuses = s.fuses := rfl
@[simp] theorem updWindow_straps (s : State) (f : Mem → Mem) : (s.updWindow f).straps = s.straps := rfl
@[simp] theorem updWindow_pins (s : State) (f : Mem → Mem) : (s.updWindow f).pins = s.pins := rfl
@[simp] theorem updWindow_pages (s : State) (f : Mem → Mem) : (s.updWindow f).pages = s.pages := rfl
@[simp] theorem updWindow_bootRec (s : State) (f : Mem → Mem) : (s.updWindow f).bootRec = s.bootRec := rfl
@[simp] theorem updWindow_boot (s : State) (f : Mem → Mem) : (s.updWindow f).boot = s.boot := rfl
@[simp] theorem updWindow_flash (s : State) (f : Mem → Mem) : (s.updWindow f).flash = s.flash := rfl
@[simp] theorem updWindow_clocks (s : State) (f : Mem → Mem) : (s.updWindow f).clocks = s.clocks := rfl
@[simp] theorem updWindow_power (s : State) (f : Mem → Mem) : (s.updWindow f).power = s.power := rfl
@[simp] theorem updWindow_thermal (s : State) (f : Mem → Mem) : (s.updWindow f).thermal = s.thermal := rfl
@[simp] theorem updWindow_ageing (s : State) (f : Mem → Mem) : (s.updWindow f).ageing = s.ageing := rfl
@[simp] theorem updWindow_safety (s : State) (f : Mem → Mem) : (s.updWindow f).safety = s.safety := rfl
@[simp] theorem updWindow_diag (s : State) (f : Mem → Mem) : (s.updWindow f).diag = s.diag := rfl
@[simp] theorem updWindow_book (s : State) (f : Mem → Mem) : (s.updWindow f).book = s.book := rfl
@[simp] theorem updWindow_queues (s : State) (f : Mem → Mem) : (s.updWindow f).queues = s.queues := rfl
@[simp] theorem updWindow_objects (s : State) (f : Mem → Mem) : (s.updWindow f).objects = s.objects := rfl
@[simp] theorem updWindow_presses (s : State) (f : Mem → Mem) : (s.updWindow f).presses = s.presses := rfl
@[simp] theorem updWindow_failed (s : State) (f : Mem → Mem) : (s.updWindow f).failed = s.failed := rfl
@[simp] theorem updWindow_engines (s : State) (f : Mem → Mem) : (s.updWindow f).engines = s.engines := rfl
@[simp] theorem updWindow_intake (s : State) (f : Mem → Mem) : (s.updWindow f).intake = s.intake := rfl
@[simp] theorem updWindow_codec (s : State) (f : Mem → Mem) : (s.updWindow f).codec = s.codec := rfl
@[simp] theorem updWindow_pipes (s : State) (f : Mem → Mem) : (s.updWindow f).pipes = s.pipes := rfl
@[simp] theorem updWindow_mmu (s : State) (f : Mem → Mem) : (s.updWindow f).mmu = s.mmu := rfl
@[simp] theorem updWindow_memctl (s : State) (f : Mem → Mem) : (s.updWindow f).memctl = s.memctl := rfl
@[simp] theorem updWindow_dram (s : State) (f : Mem → Mem) : (s.updWindow f).dram = s.dram := rfl
@[simp] theorem updWindow_cellar (s : State) (f : Mem → Mem) : (s.updWindow f).cellar = s.cellar := rfl
@[simp] theorem updWindow_vine (s : State) (f : Mem → Mem) : (s.updWindow f).vine = s.vine := rfl
@[simp] theorem updWindow_parcels (s : State) (f : Mem → Mem) : (s.updWindow f).parcels = s.parcels := rfl
@[simp] theorem updWindow_acct (s : State) (f : Mem → Mem) : (s.updWindow f).acct = s.acct := rfl
@[simp] theorem updWindow_fw (s : State) (f : Mem → Mem) : (s.updWindow f).fw = s.fw := rfl
@[simp] theorem updWindow_heartbeat (s : State) (f : Mem → Mem) : (s.updWindow f).heartbeat = s.heartbeat := rfl
@[simp] theorem updWindow_checking (s : State) (f : Mem → Mem) : (s.updWindow f).checking = s.checking := rfl
@[simp] theorem updWindow_checkTurn (s : State) (f : Mem → Mem) : (s.updWindow f).checkTurn = s.checkTurn := rfl
@[simp] theorem updWindow_lanes (s : State) (f : Mem → Mem) : (s.updWindow f).lanes = s.lanes := rfl

/-! ### State.nextSeq -/

@[simp] theorem nextSeq_pending (s : State) : s.nextSeq.pending = s.pending := rfl
@[simp] theorem nextSeq_freeCtr (s : State) : s.nextSeq.freeCtr = s.freeCtr := rfl
@[simp] theorem nextSeq_time (s : State) : s.nextSeq.time = s.time := rfl
@[simp] theorem nextSeq_fuses (s : State) : s.nextSeq.fuses = s.fuses := rfl
@[simp] theorem nextSeq_straps (s : State) : s.nextSeq.straps = s.straps := rfl
@[simp] theorem nextSeq_pins (s : State) : s.nextSeq.pins = s.pins := rfl
@[simp] theorem nextSeq_pages (s : State) : s.nextSeq.pages = s.pages := rfl
@[simp] theorem nextSeq_bootRec (s : State) : s.nextSeq.bootRec = s.bootRec := rfl
@[simp] theorem nextSeq_boot (s : State) : s.nextSeq.boot = s.boot := rfl
@[simp] theorem nextSeq_flash (s : State) : s.nextSeq.flash = s.flash := rfl
@[simp] theorem nextSeq_clocks (s : State) : s.nextSeq.clocks = s.clocks := rfl
@[simp] theorem nextSeq_power (s : State) : s.nextSeq.power = s.power := rfl
@[simp] theorem nextSeq_thermal (s : State) : s.nextSeq.thermal = s.thermal := rfl
@[simp] theorem nextSeq_ageing (s : State) : s.nextSeq.ageing = s.ageing := rfl
@[simp] theorem nextSeq_safety (s : State) : s.nextSeq.safety = s.safety := rfl
@[simp] theorem nextSeq_diag (s : State) : s.nextSeq.diag = s.diag := rfl
@[simp] theorem nextSeq_port (s : State) : s.nextSeq.port = s.port := rfl
@[simp] theorem nextSeq_queues (s : State) : s.nextSeq.queues = s.queues := rfl
@[simp] theorem nextSeq_objects (s : State) : s.nextSeq.objects = s.objects := rfl
@[simp] theorem nextSeq_presses (s : State) : s.nextSeq.presses = s.presses := rfl
@[simp] theorem nextSeq_failed (s : State) : s.nextSeq.failed = s.failed := rfl
@[simp] theorem nextSeq_engines (s : State) : s.nextSeq.engines = s.engines := rfl
@[simp] theorem nextSeq_intake (s : State) : s.nextSeq.intake = s.intake := rfl
@[simp] theorem nextSeq_codec (s : State) : s.nextSeq.codec = s.codec := rfl
@[simp] theorem nextSeq_pipes (s : State) : s.nextSeq.pipes = s.pipes := rfl
@[simp] theorem nextSeq_mmu (s : State) : s.nextSeq.mmu = s.mmu := rfl
@[simp] theorem nextSeq_memctl (s : State) : s.nextSeq.memctl = s.memctl := rfl
@[simp] theorem nextSeq_dram (s : State) : s.nextSeq.dram = s.dram := rfl
@[simp] theorem nextSeq_cellar (s : State) : s.nextSeq.cellar = s.cellar := rfl
@[simp] theorem nextSeq_vine (s : State) : s.nextSeq.vine = s.vine := rfl
@[simp] theorem nextSeq_parcels (s : State) : s.nextSeq.parcels = s.parcels := rfl
@[simp] theorem nextSeq_acct (s : State) : s.nextSeq.acct = s.acct := rfl
@[simp] theorem nextSeq_fw (s : State) : s.nextSeq.fw = s.fw := rfl
@[simp] theorem nextSeq_heartbeat (s : State) : s.nextSeq.heartbeat = s.heartbeat := rfl
@[simp] theorem nextSeq_checking (s : State) : s.nextSeq.checking = s.checking := rfl
@[simp] theorem nextSeq_checkTurn (s : State) : s.nextSeq.checkTurn = s.checkTurn := rfl
@[simp] theorem nextSeq_lanes (s : State) : s.nextSeq.lanes = s.lanes := rfl

/-! ### State.updPll -/

@[simp] theorem updPll_pending (s : State) (p : Fin 9) (f : Pll → Pll) : (s.updPll p f).pending = s.pending := rfl
@[simp] theorem updPll_freeCtr (s : State) (p : Fin 9) (f : Pll → Pll) : (s.updPll p f).freeCtr = s.freeCtr := rfl
@[simp] theorem updPll_time (s : State) (p : Fin 9) (f : Pll → Pll) : (s.updPll p f).time = s.time := rfl
@[simp] theorem updPll_fuses (s : State) (p : Fin 9) (f : Pll → Pll) : (s.updPll p f).fuses = s.fuses := rfl
@[simp] theorem updPll_straps (s : State) (p : Fin 9) (f : Pll → Pll) : (s.updPll p f).straps = s.straps := rfl
@[simp] theorem updPll_pins (s : State) (p : Fin 9) (f : Pll → Pll) : (s.updPll p f).pins = s.pins := rfl
@[simp] theorem updPll_pages (s : State) (p : Fin 9) (f : Pll → Pll) : (s.updPll p f).pages = s.pages := rfl
@[simp] theorem updPll_bootRec (s : State) (p : Fin 9) (f : Pll → Pll) : (s.updPll p f).bootRec = s.bootRec := rfl
@[simp] theorem updPll_boot (s : State) (p : Fin 9) (f : Pll → Pll) : (s.updPll p f).boot = s.boot := rfl
@[simp] theorem updPll_flash (s : State) (p : Fin 9) (f : Pll → Pll) : (s.updPll p f).flash = s.flash := rfl
@[simp] theorem updPll_power (s : State) (p : Fin 9) (f : Pll → Pll) : (s.updPll p f).power = s.power := rfl
@[simp] theorem updPll_thermal (s : State) (p : Fin 9) (f : Pll → Pll) : (s.updPll p f).thermal = s.thermal := rfl
@[simp] theorem updPll_ageing (s : State) (p : Fin 9) (f : Pll → Pll) : (s.updPll p f).ageing = s.ageing := rfl
@[simp] theorem updPll_safety (s : State) (p : Fin 9) (f : Pll → Pll) : (s.updPll p f).safety = s.safety := rfl
@[simp] theorem updPll_diag (s : State) (p : Fin 9) (f : Pll → Pll) : (s.updPll p f).diag = s.diag := rfl
@[simp] theorem updPll_book (s : State) (p : Fin 9) (f : Pll → Pll) : (s.updPll p f).book = s.book := rfl
@[simp] theorem updPll_port (s : State) (p : Fin 9) (f : Pll → Pll) : (s.updPll p f).port = s.port := rfl
@[simp] theorem updPll_queues (s : State) (p : Fin 9) (f : Pll → Pll) : (s.updPll p f).queues = s.queues := rfl
@[simp] theorem updPll_objects (s : State) (p : Fin 9) (f : Pll → Pll) : (s.updPll p f).objects = s.objects := rfl
@[simp] theorem updPll_presses (s : State) (p : Fin 9) (f : Pll → Pll) : (s.updPll p f).presses = s.presses := rfl
@[simp] theorem updPll_failed (s : State) (p : Fin 9) (f : Pll → Pll) : (s.updPll p f).failed = s.failed := rfl
@[simp] theorem updPll_engines (s : State) (p : Fin 9) (f : Pll → Pll) : (s.updPll p f).engines = s.engines := rfl
@[simp] theorem updPll_intake (s : State) (p : Fin 9) (f : Pll → Pll) : (s.updPll p f).intake = s.intake := rfl
@[simp] theorem updPll_codec (s : State) (p : Fin 9) (f : Pll → Pll) : (s.updPll p f).codec = s.codec := rfl
@[simp] theorem updPll_pipes (s : State) (p : Fin 9) (f : Pll → Pll) : (s.updPll p f).pipes = s.pipes := rfl
@[simp] theorem updPll_mmu (s : State) (p : Fin 9) (f : Pll → Pll) : (s.updPll p f).mmu = s.mmu := rfl
@[simp] theorem updPll_memctl (s : State) (p : Fin 9) (f : Pll → Pll) : (s.updPll p f).memctl = s.memctl := rfl
@[simp] theorem updPll_dram (s : State) (p : Fin 9) (f : Pll → Pll) : (s.updPll p f).dram = s.dram := rfl
@[simp] theorem updPll_cellar (s : State) (p : Fin 9) (f : Pll → Pll) : (s.updPll p f).cellar = s.cellar := rfl
@[simp] theorem updPll_vine (s : State) (p : Fin 9) (f : Pll → Pll) : (s.updPll p f).vine = s.vine := rfl
@[simp] theorem updPll_parcels (s : State) (p : Fin 9) (f : Pll → Pll) : (s.updPll p f).parcels = s.parcels := rfl
@[simp] theorem updPll_acct (s : State) (p : Fin 9) (f : Pll → Pll) : (s.updPll p f).acct = s.acct := rfl
@[simp] theorem updPll_fw (s : State) (p : Fin 9) (f : Pll → Pll) : (s.updPll p f).fw = s.fw := rfl
@[simp] theorem updPll_heartbeat (s : State) (p : Fin 9) (f : Pll → Pll) : (s.updPll p f).heartbeat = s.heartbeat := rfl
@[simp] theorem updPll_checking (s : State) (p : Fin 9) (f : Pll → Pll) : (s.updPll p f).checking = s.checking := rfl
@[simp] theorem updPll_checkTurn (s : State) (p : Fin 9) (f : Pll → Pll) : (s.updPll p f).checkTurn = s.checkTurn := rfl
@[simp] theorem updPll_lanes (s : State) (p : Fin 9) (f : Pll → Pll) : (s.updPll p f).lanes = s.lanes := rfl

/-! ### State.updDom -/

@[simp] theorem updDom_pending (s : State) (d : Fin 9) (f : Domain → Domain) : (s.updDom d f).pending = s.pending := rfl
@[simp] theorem updDom_freeCtr (s : State) (d : Fin 9) (f : Domain → Domain) : (s.updDom d f).freeCtr = s.freeCtr := rfl
@[simp] theorem updDom_time (s : State) (d : Fin 9) (f : Domain → Domain) : (s.updDom d f).time = s.time := rfl
@[simp] theorem updDom_fuses (s : State) (d : Fin 9) (f : Domain → Domain) : (s.updDom d f).fuses = s.fuses := rfl
@[simp] theorem updDom_straps (s : State) (d : Fin 9) (f : Domain → Domain) : (s.updDom d f).straps = s.straps := rfl
@[simp] theorem updDom_pins (s : State) (d : Fin 9) (f : Domain → Domain) : (s.updDom d f).pins = s.pins := rfl
@[simp] theorem updDom_pages (s : State) (d : Fin 9) (f : Domain → Domain) : (s.updDom d f).pages = s.pages := rfl
@[simp] theorem updDom_bootRec (s : State) (d : Fin 9) (f : Domain → Domain) : (s.updDom d f).bootRec = s.bootRec := rfl
@[simp] theorem updDom_boot (s : State) (d : Fin 9) (f : Domain → Domain) : (s.updDom d f).boot = s.boot := rfl
@[simp] theorem updDom_flash (s : State) (d : Fin 9) (f : Domain → Domain) : (s.updDom d f).flash = s.flash := rfl
@[simp] theorem updDom_power (s : State) (d : Fin 9) (f : Domain → Domain) : (s.updDom d f).power = s.power := rfl
@[simp] theorem updDom_thermal (s : State) (d : Fin 9) (f : Domain → Domain) : (s.updDom d f).thermal = s.thermal := rfl
@[simp] theorem updDom_ageing (s : State) (d : Fin 9) (f : Domain → Domain) : (s.updDom d f).ageing = s.ageing := rfl
@[simp] theorem updDom_safety (s : State) (d : Fin 9) (f : Domain → Domain) : (s.updDom d f).safety = s.safety := rfl
@[simp] theorem updDom_diag (s : State) (d : Fin 9) (f : Domain → Domain) : (s.updDom d f).diag = s.diag := rfl
@[simp] theorem updDom_book (s : State) (d : Fin 9) (f : Domain → Domain) : (s.updDom d f).book = s.book := rfl
@[simp] theorem updDom_port (s : State) (d : Fin 9) (f : Domain → Domain) : (s.updDom d f).port = s.port := rfl
@[simp] theorem updDom_queues (s : State) (d : Fin 9) (f : Domain → Domain) : (s.updDom d f).queues = s.queues := rfl
@[simp] theorem updDom_objects (s : State) (d : Fin 9) (f : Domain → Domain) : (s.updDom d f).objects = s.objects := rfl
@[simp] theorem updDom_presses (s : State) (d : Fin 9) (f : Domain → Domain) : (s.updDom d f).presses = s.presses := rfl
@[simp] theorem updDom_failed (s : State) (d : Fin 9) (f : Domain → Domain) : (s.updDom d f).failed = s.failed := rfl
@[simp] theorem updDom_engines (s : State) (d : Fin 9) (f : Domain → Domain) : (s.updDom d f).engines = s.engines := rfl
@[simp] theorem updDom_intake (s : State) (d : Fin 9) (f : Domain → Domain) : (s.updDom d f).intake = s.intake := rfl
@[simp] theorem updDom_codec (s : State) (d : Fin 9) (f : Domain → Domain) : (s.updDom d f).codec = s.codec := rfl
@[simp] theorem updDom_pipes (s : State) (d : Fin 9) (f : Domain → Domain) : (s.updDom d f).pipes = s.pipes := rfl
@[simp] theorem updDom_mmu (s : State) (d : Fin 9) (f : Domain → Domain) : (s.updDom d f).mmu = s.mmu := rfl
@[simp] theorem updDom_memctl (s : State) (d : Fin 9) (f : Domain → Domain) : (s.updDom d f).memctl = s.memctl := rfl
@[simp] theorem updDom_dram (s : State) (d : Fin 9) (f : Domain → Domain) : (s.updDom d f).dram = s.dram := rfl
@[simp] theorem updDom_cellar (s : State) (d : Fin 9) (f : Domain → Domain) : (s.updDom d f).cellar = s.cellar := rfl
@[simp] theorem updDom_vine (s : State) (d : Fin 9) (f : Domain → Domain) : (s.updDom d f).vine = s.vine := rfl
@[simp] theorem updDom_parcels (s : State) (d : Fin 9) (f : Domain → Domain) : (s.updDom d f).parcels = s.parcels := rfl
@[simp] theorem updDom_acct (s : State) (d : Fin 9) (f : Domain → Domain) : (s.updDom d f).acct = s.acct := rfl
@[simp] theorem updDom_fw (s : State) (d : Fin 9) (f : Domain → Domain) : (s.updDom d f).fw = s.fw := rfl
@[simp] theorem updDom_heartbeat (s : State) (d : Fin 9) (f : Domain → Domain) : (s.updDom d f).heartbeat = s.heartbeat := rfl
@[simp] theorem updDom_checking (s : State) (d : Fin 9) (f : Domain → Domain) : (s.updDom d f).checking = s.checking := rfl
@[simp] theorem updDom_checkTurn (s : State) (d : Fin 9) (f : Domain → Domain) : (s.updDom d f).checkTurn = s.checkTurn := rfl
@[simp] theorem updDom_lanes (s : State) (d : Fin 9) (f : Domain → Domain) : (s.updDom d f).lanes = s.lanes := rfl

/-! ### State.updRail -/

@[simp] theorem updRail_pending (s : State) (r : Fin 3) (f : AvsRail → AvsRail) : (s.updRail r f).pending = s.pending := rfl
@[simp] theorem updRail_freeCtr (s : State) (r : Fin 3) (f : AvsRail → AvsRail) : (s.updRail r f).freeCtr = s.freeCtr := rfl
@[simp] theorem updRail_time (s : State) (r : Fin 3) (f : AvsRail → AvsRail) : (s.updRail r f).time = s.time := rfl
@[simp] theorem updRail_fuses (s : State) (r : Fin 3) (f : AvsRail → AvsRail) : (s.updRail r f).fuses = s.fuses := rfl
@[simp] theorem updRail_straps (s : State) (r : Fin 3) (f : AvsRail → AvsRail) : (s.updRail r f).straps = s.straps := rfl
@[simp] theorem updRail_pins (s : State) (r : Fin 3) (f : AvsRail → AvsRail) : (s.updRail r f).pins = s.pins := rfl
@[simp] theorem updRail_pages (s : State) (r : Fin 3) (f : AvsRail → AvsRail) : (s.updRail r f).pages = s.pages := rfl
@[simp] theorem updRail_bootRec (s : State) (r : Fin 3) (f : AvsRail → AvsRail) : (s.updRail r f).bootRec = s.bootRec := rfl
@[simp] theorem updRail_boot (s : State) (r : Fin 3) (f : AvsRail → AvsRail) : (s.updRail r f).boot = s.boot := rfl
@[simp] theorem updRail_flash (s : State) (r : Fin 3) (f : AvsRail → AvsRail) : (s.updRail r f).flash = s.flash := rfl
@[simp] theorem updRail_clocks (s : State) (r : Fin 3) (f : AvsRail → AvsRail) : (s.updRail r f).clocks = s.clocks := rfl
@[simp] theorem updRail_thermal (s : State) (r : Fin 3) (f : AvsRail → AvsRail) : (s.updRail r f).thermal = s.thermal := rfl
@[simp] theorem updRail_ageing (s : State) (r : Fin 3) (f : AvsRail → AvsRail) : (s.updRail r f).ageing = s.ageing := rfl
@[simp] theorem updRail_safety (s : State) (r : Fin 3) (f : AvsRail → AvsRail) : (s.updRail r f).safety = s.safety := rfl
@[simp] theorem updRail_diag (s : State) (r : Fin 3) (f : AvsRail → AvsRail) : (s.updRail r f).diag = s.diag := rfl
@[simp] theorem updRail_book (s : State) (r : Fin 3) (f : AvsRail → AvsRail) : (s.updRail r f).book = s.book := rfl
@[simp] theorem updRail_port (s : State) (r : Fin 3) (f : AvsRail → AvsRail) : (s.updRail r f).port = s.port := rfl
@[simp] theorem updRail_queues (s : State) (r : Fin 3) (f : AvsRail → AvsRail) : (s.updRail r f).queues = s.queues := rfl
@[simp] theorem updRail_objects (s : State) (r : Fin 3) (f : AvsRail → AvsRail) : (s.updRail r f).objects = s.objects := rfl
@[simp] theorem updRail_presses (s : State) (r : Fin 3) (f : AvsRail → AvsRail) : (s.updRail r f).presses = s.presses := rfl
@[simp] theorem updRail_failed (s : State) (r : Fin 3) (f : AvsRail → AvsRail) : (s.updRail r f).failed = s.failed := rfl
@[simp] theorem updRail_engines (s : State) (r : Fin 3) (f : AvsRail → AvsRail) : (s.updRail r f).engines = s.engines := rfl
@[simp] theorem updRail_intake (s : State) (r : Fin 3) (f : AvsRail → AvsRail) : (s.updRail r f).intake = s.intake := rfl
@[simp] theorem updRail_codec (s : State) (r : Fin 3) (f : AvsRail → AvsRail) : (s.updRail r f).codec = s.codec := rfl
@[simp] theorem updRail_pipes (s : State) (r : Fin 3) (f : AvsRail → AvsRail) : (s.updRail r f).pipes = s.pipes := rfl
@[simp] theorem updRail_mmu (s : State) (r : Fin 3) (f : AvsRail → AvsRail) : (s.updRail r f).mmu = s.mmu := rfl
@[simp] theorem updRail_memctl (s : State) (r : Fin 3) (f : AvsRail → AvsRail) : (s.updRail r f).memctl = s.memctl := rfl
@[simp] theorem updRail_dram (s : State) (r : Fin 3) (f : AvsRail → AvsRail) : (s.updRail r f).dram = s.dram := rfl
@[simp] theorem updRail_cellar (s : State) (r : Fin 3) (f : AvsRail → AvsRail) : (s.updRail r f).cellar = s.cellar := rfl
@[simp] theorem updRail_vine (s : State) (r : Fin 3) (f : AvsRail → AvsRail) : (s.updRail r f).vine = s.vine := rfl
@[simp] theorem updRail_parcels (s : State) (r : Fin 3) (f : AvsRail → AvsRail) : (s.updRail r f).parcels = s.parcels := rfl
@[simp] theorem updRail_acct (s : State) (r : Fin 3) (f : AvsRail → AvsRail) : (s.updRail r f).acct = s.acct := rfl
@[simp] theorem updRail_fw (s : State) (r : Fin 3) (f : AvsRail → AvsRail) : (s.updRail r f).fw = s.fw := rfl
@[simp] theorem updRail_heartbeat (s : State) (r : Fin 3) (f : AvsRail → AvsRail) : (s.updRail r f).heartbeat = s.heartbeat := rfl
@[simp] theorem updRail_checking (s : State) (r : Fin 3) (f : AvsRail → AvsRail) : (s.updRail r f).checking = s.checking := rfl
@[simp] theorem updRail_checkTurn (s : State) (r : Fin 3) (f : AvsRail → AvsRail) : (s.updRail r f).checkTurn = s.checkTurn := rfl
@[simp] theorem updRail_lanes (s : State) (r : Fin 3) (f : AvsRail → AvsRail) : (s.updRail r f).lanes = s.lanes := rfl

/-! ### State.updBoot -/

@[simp] theorem updBoot_pending (s : State) (f : Boot → Boot) : (s.updBoot f).pending = s.pending := rfl
@[simp] theorem updBoot_freeCtr (s : State) (f : Boot → Boot) : (s.updBoot f).freeCtr = s.freeCtr := rfl
@[simp] theorem updBoot_time (s : State) (f : Boot → Boot) : (s.updBoot f).time = s.time := rfl
@[simp] theorem updBoot_fuses (s : State) (f : Boot → Boot) : (s.updBoot f).fuses = s.fuses := rfl
@[simp] theorem updBoot_straps (s : State) (f : Boot → Boot) : (s.updBoot f).straps = s.straps := rfl
@[simp] theorem updBoot_pins (s : State) (f : Boot → Boot) : (s.updBoot f).pins = s.pins := rfl
@[simp] theorem updBoot_pages (s : State) (f : Boot → Boot) : (s.updBoot f).pages = s.pages := rfl
@[simp] theorem updBoot_bootRec (s : State) (f : Boot → Boot) : (s.updBoot f).bootRec = s.bootRec := rfl
@[simp] theorem updBoot_flash (s : State) (f : Boot → Boot) : (s.updBoot f).flash = s.flash := rfl
@[simp] theorem updBoot_clocks (s : State) (f : Boot → Boot) : (s.updBoot f).clocks = s.clocks := rfl
@[simp] theorem updBoot_power (s : State) (f : Boot → Boot) : (s.updBoot f).power = s.power := rfl
@[simp] theorem updBoot_thermal (s : State) (f : Boot → Boot) : (s.updBoot f).thermal = s.thermal := rfl
@[simp] theorem updBoot_ageing (s : State) (f : Boot → Boot) : (s.updBoot f).ageing = s.ageing := rfl
@[simp] theorem updBoot_safety (s : State) (f : Boot → Boot) : (s.updBoot f).safety = s.safety := rfl
@[simp] theorem updBoot_diag (s : State) (f : Boot → Boot) : (s.updBoot f).diag = s.diag := rfl
@[simp] theorem updBoot_book (s : State) (f : Boot → Boot) : (s.updBoot f).book = s.book := rfl
@[simp] theorem updBoot_port (s : State) (f : Boot → Boot) : (s.updBoot f).port = s.port := rfl
@[simp] theorem updBoot_queues (s : State) (f : Boot → Boot) : (s.updBoot f).queues = s.queues := rfl
@[simp] theorem updBoot_objects (s : State) (f : Boot → Boot) : (s.updBoot f).objects = s.objects := rfl
@[simp] theorem updBoot_presses (s : State) (f : Boot → Boot) : (s.updBoot f).presses = s.presses := rfl
@[simp] theorem updBoot_failed (s : State) (f : Boot → Boot) : (s.updBoot f).failed = s.failed := rfl
@[simp] theorem updBoot_engines (s : State) (f : Boot → Boot) : (s.updBoot f).engines = s.engines := rfl
@[simp] theorem updBoot_intake (s : State) (f : Boot → Boot) : (s.updBoot f).intake = s.intake := rfl
@[simp] theorem updBoot_codec (s : State) (f : Boot → Boot) : (s.updBoot f).codec = s.codec := rfl
@[simp] theorem updBoot_pipes (s : State) (f : Boot → Boot) : (s.updBoot f).pipes = s.pipes := rfl
@[simp] theorem updBoot_mmu (s : State) (f : Boot → Boot) : (s.updBoot f).mmu = s.mmu := rfl
@[simp] theorem updBoot_memctl (s : State) (f : Boot → Boot) : (s.updBoot f).memctl = s.memctl := rfl
@[simp] theorem updBoot_dram (s : State) (f : Boot → Boot) : (s.updBoot f).dram = s.dram := rfl
@[simp] theorem updBoot_cellar (s : State) (f : Boot → Boot) : (s.updBoot f).cellar = s.cellar := rfl
@[simp] theorem updBoot_vine (s : State) (f : Boot → Boot) : (s.updBoot f).vine = s.vine := rfl
@[simp] theorem updBoot_parcels (s : State) (f : Boot → Boot) : (s.updBoot f).parcels = s.parcels := rfl
@[simp] theorem updBoot_acct (s : State) (f : Boot → Boot) : (s.updBoot f).acct = s.acct := rfl
@[simp] theorem updBoot_fw (s : State) (f : Boot → Boot) : (s.updBoot f).fw = s.fw := rfl
@[simp] theorem updBoot_heartbeat (s : State) (f : Boot → Boot) : (s.updBoot f).heartbeat = s.heartbeat := rfl
@[simp] theorem updBoot_checking (s : State) (f : Boot → Boot) : (s.updBoot f).checking = s.checking := rfl
@[simp] theorem updBoot_checkTurn (s : State) (f : Boot → Boot) : (s.updBoot f).checkTurn = s.checkTurn := rfl
@[simp] theorem updBoot_lanes (s : State) (f : Boot → Boot) : (s.updBoot f).lanes = s.lanes := rfl

/-! ### State.updRecord -/

@[simp] theorem updRecord_pending (s : State) (f : BootRecord → BootRecord) : (s.updRecord f).pending = s.pending := rfl
@[simp] theorem updRecord_freeCtr (s : State) (f : BootRecord → BootRecord) : (s.updRecord f).freeCtr = s.freeCtr := rfl
@[simp] theorem updRecord_time (s : State) (f : BootRecord → BootRecord) : (s.updRecord f).time = s.time := rfl
@[simp] theorem updRecord_fuses (s : State) (f : BootRecord → BootRecord) : (s.updRecord f).fuses = s.fuses := rfl
@[simp] theorem updRecord_straps (s : State) (f : BootRecord → BootRecord) : (s.updRecord f).straps = s.straps := rfl
@[simp] theorem updRecord_pins (s : State) (f : BootRecord → BootRecord) : (s.updRecord f).pins = s.pins := rfl
@[simp] theorem updRecord_pages (s : State) (f : BootRecord → BootRecord) : (s.updRecord f).pages = s.pages := rfl
@[simp] theorem updRecord_boot (s : State) (f : BootRecord → BootRecord) : (s.updRecord f).boot = s.boot := rfl
@[simp] theorem updRecord_flash (s : State) (f : BootRecord → BootRecord) : (s.updRecord f).flash = s.flash := rfl
@[simp] theorem updRecord_clocks (s : State) (f : BootRecord → BootRecord) : (s.updRecord f).clocks = s.clocks := rfl
@[simp] theorem updRecord_power (s : State) (f : BootRecord → BootRecord) : (s.updRecord f).power = s.power := rfl
@[simp] theorem updRecord_thermal (s : State) (f : BootRecord → BootRecord) : (s.updRecord f).thermal = s.thermal := rfl
@[simp] theorem updRecord_ageing (s : State) (f : BootRecord → BootRecord) : (s.updRecord f).ageing = s.ageing := rfl
@[simp] theorem updRecord_safety (s : State) (f : BootRecord → BootRecord) : (s.updRecord f).safety = s.safety := rfl
@[simp] theorem updRecord_diag (s : State) (f : BootRecord → BootRecord) : (s.updRecord f).diag = s.diag := rfl
@[simp] theorem updRecord_book (s : State) (f : BootRecord → BootRecord) : (s.updRecord f).book = s.book := rfl
@[simp] theorem updRecord_port (s : State) (f : BootRecord → BootRecord) : (s.updRecord f).port = s.port := rfl
@[simp] theorem updRecord_queues (s : State) (f : BootRecord → BootRecord) : (s.updRecord f).queues = s.queues := rfl
@[simp] theorem updRecord_objects (s : State) (f : BootRecord → BootRecord) : (s.updRecord f).objects = s.objects := rfl
@[simp] theorem updRecord_presses (s : State) (f : BootRecord → BootRecord) : (s.updRecord f).presses = s.presses := rfl
@[simp] theorem updRecord_failed (s : State) (f : BootRecord → BootRecord) : (s.updRecord f).failed = s.failed := rfl
@[simp] theorem updRecord_engines (s : State) (f : BootRecord → BootRecord) : (s.updRecord f).engines = s.engines := rfl
@[simp] theorem updRecord_intake (s : State) (f : BootRecord → BootRecord) : (s.updRecord f).intake = s.intake := rfl
@[simp] theorem updRecord_codec (s : State) (f : BootRecord → BootRecord) : (s.updRecord f).codec = s.codec := rfl
@[simp] theorem updRecord_pipes (s : State) (f : BootRecord → BootRecord) : (s.updRecord f).pipes = s.pipes := rfl
@[simp] theorem updRecord_mmu (s : State) (f : BootRecord → BootRecord) : (s.updRecord f).mmu = s.mmu := rfl
@[simp] theorem updRecord_memctl (s : State) (f : BootRecord → BootRecord) : (s.updRecord f).memctl = s.memctl := rfl
@[simp] theorem updRecord_dram (s : State) (f : BootRecord → BootRecord) : (s.updRecord f).dram = s.dram := rfl
@[simp] theorem updRecord_cellar (s : State) (f : BootRecord → BootRecord) : (s.updRecord f).cellar = s.cellar := rfl
@[simp] theorem updRecord_vine (s : State) (f : BootRecord → BootRecord) : (s.updRecord f).vine = s.vine := rfl
@[simp] theorem updRecord_parcels (s : State) (f : BootRecord → BootRecord) : (s.updRecord f).parcels = s.parcels := rfl
@[simp] theorem updRecord_acct (s : State) (f : BootRecord → BootRecord) : (s.updRecord f).acct = s.acct := rfl
@[simp] theorem updRecord_fw (s : State) (f : BootRecord → BootRecord) : (s.updRecord f).fw = s.fw := rfl
@[simp] theorem updRecord_heartbeat (s : State) (f : BootRecord → BootRecord) : (s.updRecord f).heartbeat = s.heartbeat := rfl
@[simp] theorem updRecord_checking (s : State) (f : BootRecord → BootRecord) : (s.updRecord f).checking = s.checking := rfl
@[simp] theorem updRecord_checkTurn (s : State) (f : BootRecord → BootRecord) : (s.updRecord f).checkTurn = s.checkTurn := rfl
@[simp] theorem updRecord_lanes (s : State) (f : BootRecord → BootRecord) : (s.updRecord f).lanes = s.lanes := rfl

/-! ### State.updNor -/

@[simp] theorem updNor_pending (s : State) (x : Fin 2) (f : NorSlot → NorSlot) : (s.updNor x f).pending = s.pending := rfl
@[simp] theorem updNor_freeCtr (s : State) (x : Fin 2) (f : NorSlot → NorSlot) : (s.updNor x f).freeCtr = s.freeCtr := rfl
@[simp] theorem updNor_time (s : State) (x : Fin 2) (f : NorSlot → NorSlot) : (s.updNor x f).time = s.time := rfl
@[simp] theorem updNor_fuses (s : State) (x : Fin 2) (f : NorSlot → NorSlot) : (s.updNor x f).fuses = s.fuses := rfl
@[simp] theorem updNor_straps (s : State) (x : Fin 2) (f : NorSlot → NorSlot) : (s.updNor x f).straps = s.straps := rfl
@[simp] theorem updNor_pins (s : State) (x : Fin 2) (f : NorSlot → NorSlot) : (s.updNor x f).pins = s.pins := rfl
@[simp] theorem updNor_pages (s : State) (x : Fin 2) (f : NorSlot → NorSlot) : (s.updNor x f).pages = s.pages := rfl
@[simp] theorem updNor_bootRec (s : State) (x : Fin 2) (f : NorSlot → NorSlot) : (s.updNor x f).bootRec = s.bootRec := rfl
@[simp] theorem updNor_boot (s : State) (x : Fin 2) (f : NorSlot → NorSlot) : (s.updNor x f).boot = s.boot := rfl
@[simp] theorem updNor_clocks (s : State) (x : Fin 2) (f : NorSlot → NorSlot) : (s.updNor x f).clocks = s.clocks := rfl
@[simp] theorem updNor_power (s : State) (x : Fin 2) (f : NorSlot → NorSlot) : (s.updNor x f).power = s.power := rfl
@[simp] theorem updNor_thermal (s : State) (x : Fin 2) (f : NorSlot → NorSlot) : (s.updNor x f).thermal = s.thermal := rfl
@[simp] theorem updNor_ageing (s : State) (x : Fin 2) (f : NorSlot → NorSlot) : (s.updNor x f).ageing = s.ageing := rfl
@[simp] theorem updNor_safety (s : State) (x : Fin 2) (f : NorSlot → NorSlot) : (s.updNor x f).safety = s.safety := rfl
@[simp] theorem updNor_diag (s : State) (x : Fin 2) (f : NorSlot → NorSlot) : (s.updNor x f).diag = s.diag := rfl
@[simp] theorem updNor_book (s : State) (x : Fin 2) (f : NorSlot → NorSlot) : (s.updNor x f).book = s.book := rfl
@[simp] theorem updNor_port (s : State) (x : Fin 2) (f : NorSlot → NorSlot) : (s.updNor x f).port = s.port := rfl
@[simp] theorem updNor_queues (s : State) (x : Fin 2) (f : NorSlot → NorSlot) : (s.updNor x f).queues = s.queues := rfl
@[simp] theorem updNor_objects (s : State) (x : Fin 2) (f : NorSlot → NorSlot) : (s.updNor x f).objects = s.objects := rfl
@[simp] theorem updNor_presses (s : State) (x : Fin 2) (f : NorSlot → NorSlot) : (s.updNor x f).presses = s.presses := rfl
@[simp] theorem updNor_failed (s : State) (x : Fin 2) (f : NorSlot → NorSlot) : (s.updNor x f).failed = s.failed := rfl
@[simp] theorem updNor_engines (s : State) (x : Fin 2) (f : NorSlot → NorSlot) : (s.updNor x f).engines = s.engines := rfl
@[simp] theorem updNor_intake (s : State) (x : Fin 2) (f : NorSlot → NorSlot) : (s.updNor x f).intake = s.intake := rfl
@[simp] theorem updNor_codec (s : State) (x : Fin 2) (f : NorSlot → NorSlot) : (s.updNor x f).codec = s.codec := rfl
@[simp] theorem updNor_pipes (s : State) (x : Fin 2) (f : NorSlot → NorSlot) : (s.updNor x f).pipes = s.pipes := rfl
@[simp] theorem updNor_mmu (s : State) (x : Fin 2) (f : NorSlot → NorSlot) : (s.updNor x f).mmu = s.mmu := rfl
@[simp] theorem updNor_memctl (s : State) (x : Fin 2) (f : NorSlot → NorSlot) : (s.updNor x f).memctl = s.memctl := rfl
@[simp] theorem updNor_dram (s : State) (x : Fin 2) (f : NorSlot → NorSlot) : (s.updNor x f).dram = s.dram := rfl
@[simp] theorem updNor_cellar (s : State) (x : Fin 2) (f : NorSlot → NorSlot) : (s.updNor x f).cellar = s.cellar := rfl
@[simp] theorem updNor_vine (s : State) (x : Fin 2) (f : NorSlot → NorSlot) : (s.updNor x f).vine = s.vine := rfl
@[simp] theorem updNor_parcels (s : State) (x : Fin 2) (f : NorSlot → NorSlot) : (s.updNor x f).parcels = s.parcels := rfl
@[simp] theorem updNor_acct (s : State) (x : Fin 2) (f : NorSlot → NorSlot) : (s.updNor x f).acct = s.acct := rfl
@[simp] theorem updNor_fw (s : State) (x : Fin 2) (f : NorSlot → NorSlot) : (s.updNor x f).fw = s.fw := rfl
@[simp] theorem updNor_heartbeat (s : State) (x : Fin 2) (f : NorSlot → NorSlot) : (s.updNor x f).heartbeat = s.heartbeat := rfl
@[simp] theorem updNor_checking (s : State) (x : Fin 2) (f : NorSlot → NorSlot) : (s.updNor x f).checking = s.checking := rfl
@[simp] theorem updNor_checkTurn (s : State) (x : Fin 2) (f : NorSlot → NorSlot) : (s.updNor x f).checkTurn = s.checkTurn := rfl
@[simp] theorem updNor_lanes (s : State) (x : Fin 2) (f : NorSlot → NorSlot) : (s.updNor x f).lanes = s.lanes := rfl

/-! ### State.updChannel -/

@[simp] theorem updChannel_pending (s : State) (i : Fin 16) (f : Channel → Channel) : (s.updChannel i f).pending = s.pending := rfl
@[simp] theorem updChannel_freeCtr (s : State) (i : Fin 16) (f : Channel → Channel) : (s.updChannel i f).freeCtr = s.freeCtr := rfl
@[simp] theorem updChannel_time (s : State) (i : Fin 16) (f : Channel → Channel) : (s.updChannel i f).time = s.time := rfl
@[simp] theorem updChannel_fuses (s : State) (i : Fin 16) (f : Channel → Channel) : (s.updChannel i f).fuses = s.fuses := rfl
@[simp] theorem updChannel_straps (s : State) (i : Fin 16) (f : Channel → Channel) : (s.updChannel i f).straps = s.straps := rfl
@[simp] theorem updChannel_pins (s : State) (i : Fin 16) (f : Channel → Channel) : (s.updChannel i f).pins = s.pins := rfl
@[simp] theorem updChannel_pages (s : State) (i : Fin 16) (f : Channel → Channel) : (s.updChannel i f).pages = s.pages := rfl
@[simp] theorem updChannel_bootRec (s : State) (i : Fin 16) (f : Channel → Channel) : (s.updChannel i f).bootRec = s.bootRec := rfl
@[simp] theorem updChannel_boot (s : State) (i : Fin 16) (f : Channel → Channel) : (s.updChannel i f).boot = s.boot := rfl
@[simp] theorem updChannel_flash (s : State) (i : Fin 16) (f : Channel → Channel) : (s.updChannel i f).flash = s.flash := rfl
@[simp] theorem updChannel_clocks (s : State) (i : Fin 16) (f : Channel → Channel) : (s.updChannel i f).clocks = s.clocks := rfl
@[simp] theorem updChannel_power (s : State) (i : Fin 16) (f : Channel → Channel) : (s.updChannel i f).power = s.power := rfl
@[simp] theorem updChannel_thermal (s : State) (i : Fin 16) (f : Channel → Channel) : (s.updChannel i f).thermal = s.thermal := rfl
@[simp] theorem updChannel_ageing (s : State) (i : Fin 16) (f : Channel → Channel) : (s.updChannel i f).ageing = s.ageing := rfl
@[simp] theorem updChannel_safety (s : State) (i : Fin 16) (f : Channel → Channel) : (s.updChannel i f).safety = s.safety := rfl
@[simp] theorem updChannel_diag (s : State) (i : Fin 16) (f : Channel → Channel) : (s.updChannel i f).diag = s.diag := rfl
@[simp] theorem updChannel_book (s : State) (i : Fin 16) (f : Channel → Channel) : (s.updChannel i f).book = s.book := rfl
@[simp] theorem updChannel_port (s : State) (i : Fin 16) (f : Channel → Channel) : (s.updChannel i f).port = s.port := rfl
@[simp] theorem updChannel_queues (s : State) (i : Fin 16) (f : Channel → Channel) : (s.updChannel i f).queues = s.queues := rfl
@[simp] theorem updChannel_objects (s : State) (i : Fin 16) (f : Channel → Channel) : (s.updChannel i f).objects = s.objects := rfl
@[simp] theorem updChannel_presses (s : State) (i : Fin 16) (f : Channel → Channel) : (s.updChannel i f).presses = s.presses := rfl
@[simp] theorem updChannel_failed (s : State) (i : Fin 16) (f : Channel → Channel) : (s.updChannel i f).failed = s.failed := rfl
@[simp] theorem updChannel_engines (s : State) (i : Fin 16) (f : Channel → Channel) : (s.updChannel i f).engines = s.engines := rfl
@[simp] theorem updChannel_intake (s : State) (i : Fin 16) (f : Channel → Channel) : (s.updChannel i f).intake = s.intake := rfl
@[simp] theorem updChannel_codec (s : State) (i : Fin 16) (f : Channel → Channel) : (s.updChannel i f).codec = s.codec := rfl
@[simp] theorem updChannel_pipes (s : State) (i : Fin 16) (f : Channel → Channel) : (s.updChannel i f).pipes = s.pipes := rfl
@[simp] theorem updChannel_mmu (s : State) (i : Fin 16) (f : Channel → Channel) : (s.updChannel i f).mmu = s.mmu := rfl
@[simp] theorem updChannel_dram (s : State) (i : Fin 16) (f : Channel → Channel) : (s.updChannel i f).dram = s.dram := rfl
@[simp] theorem updChannel_cellar (s : State) (i : Fin 16) (f : Channel → Channel) : (s.updChannel i f).cellar = s.cellar := rfl
@[simp] theorem updChannel_vine (s : State) (i : Fin 16) (f : Channel → Channel) : (s.updChannel i f).vine = s.vine := rfl
@[simp] theorem updChannel_parcels (s : State) (i : Fin 16) (f : Channel → Channel) : (s.updChannel i f).parcels = s.parcels := rfl
@[simp] theorem updChannel_acct (s : State) (i : Fin 16) (f : Channel → Channel) : (s.updChannel i f).acct = s.acct := rfl
@[simp] theorem updChannel_fw (s : State) (i : Fin 16) (f : Channel → Channel) : (s.updChannel i f).fw = s.fw := rfl
@[simp] theorem updChannel_heartbeat (s : State) (i : Fin 16) (f : Channel → Channel) : (s.updChannel i f).heartbeat = s.heartbeat := rfl
@[simp] theorem updChannel_checking (s : State) (i : Fin 16) (f : Channel → Channel) : (s.updChannel i f).checking = s.checking := rfl
@[simp] theorem updChannel_checkTurn (s : State) (i : Fin 16) (f : Channel → Channel) : (s.updChannel i f).checkTurn = s.checkTurn := rfl
@[simp] theorem updChannel_lanes (s : State) (i : Fin 16) (f : Channel → Channel) : (s.updChannel i f).lanes = s.lanes := rfl

/-! ### State.updHostChannel -/

@[simp] theorem updHostChannel_pending (s : State) (c : Fin 2) (f : HostChannel → HostChannel) : (s.updHostChannel c f).pending = s.pending := rfl
@[simp] theorem updHostChannel_freeCtr (s : State) (c : Fin 2) (f : HostChannel → HostChannel) : (s.updHostChannel c f).freeCtr = s.freeCtr := rfl
@[simp] theorem updHostChannel_time (s : State) (c : Fin 2) (f : HostChannel → HostChannel) : (s.updHostChannel c f).time = s.time := rfl
@[simp] theorem updHostChannel_fuses (s : State) (c : Fin 2) (f : HostChannel → HostChannel) : (s.updHostChannel c f).fuses = s.fuses := rfl
@[simp] theorem updHostChannel_straps (s : State) (c : Fin 2) (f : HostChannel → HostChannel) : (s.updHostChannel c f).straps = s.straps := rfl
@[simp] theorem updHostChannel_pins (s : State) (c : Fin 2) (f : HostChannel → HostChannel) : (s.updHostChannel c f).pins = s.pins := rfl
@[simp] theorem updHostChannel_pages (s : State) (c : Fin 2) (f : HostChannel → HostChannel) : (s.updHostChannel c f).pages = s.pages := rfl
@[simp] theorem updHostChannel_bootRec (s : State) (c : Fin 2) (f : HostChannel → HostChannel) : (s.updHostChannel c f).bootRec = s.bootRec := rfl
@[simp] theorem updHostChannel_boot (s : State) (c : Fin 2) (f : HostChannel → HostChannel) : (s.updHostChannel c f).boot = s.boot := rfl
@[simp] theorem updHostChannel_flash (s : State) (c : Fin 2) (f : HostChannel → HostChannel) : (s.updHostChannel c f).flash = s.flash := rfl
@[simp] theorem updHostChannel_clocks (s : State) (c : Fin 2) (f : HostChannel → HostChannel) : (s.updHostChannel c f).clocks = s.clocks := rfl
@[simp] theorem updHostChannel_power (s : State) (c : Fin 2) (f : HostChannel → HostChannel) : (s.updHostChannel c f).power = s.power := rfl
@[simp] theorem updHostChannel_thermal (s : State) (c : Fin 2) (f : HostChannel → HostChannel) : (s.updHostChannel c f).thermal = s.thermal := rfl
@[simp] theorem updHostChannel_ageing (s : State) (c : Fin 2) (f : HostChannel → HostChannel) : (s.updHostChannel c f).ageing = s.ageing := rfl
@[simp] theorem updHostChannel_safety (s : State) (c : Fin 2) (f : HostChannel → HostChannel) : (s.updHostChannel c f).safety = s.safety := rfl
@[simp] theorem updHostChannel_diag (s : State) (c : Fin 2) (f : HostChannel → HostChannel) : (s.updHostChannel c f).diag = s.diag := rfl
@[simp] theorem updHostChannel_book (s : State) (c : Fin 2) (f : HostChannel → HostChannel) : (s.updHostChannel c f).book = s.book := rfl
@[simp] theorem updHostChannel_queues (s : State) (c : Fin 2) (f : HostChannel → HostChannel) : (s.updHostChannel c f).queues = s.queues := rfl
@[simp] theorem updHostChannel_objects (s : State) (c : Fin 2) (f : HostChannel → HostChannel) : (s.updHostChannel c f).objects = s.objects := rfl
@[simp] theorem updHostChannel_presses (s : State) (c : Fin 2) (f : HostChannel → HostChannel) : (s.updHostChannel c f).presses = s.presses := rfl
@[simp] theorem updHostChannel_failed (s : State) (c : Fin 2) (f : HostChannel → HostChannel) : (s.updHostChannel c f).failed = s.failed := rfl
@[simp] theorem updHostChannel_engines (s : State) (c : Fin 2) (f : HostChannel → HostChannel) : (s.updHostChannel c f).engines = s.engines := rfl
@[simp] theorem updHostChannel_intake (s : State) (c : Fin 2) (f : HostChannel → HostChannel) : (s.updHostChannel c f).intake = s.intake := rfl
@[simp] theorem updHostChannel_codec (s : State) (c : Fin 2) (f : HostChannel → HostChannel) : (s.updHostChannel c f).codec = s.codec := rfl
@[simp] theorem updHostChannel_pipes (s : State) (c : Fin 2) (f : HostChannel → HostChannel) : (s.updHostChannel c f).pipes = s.pipes := rfl
@[simp] theorem updHostChannel_mmu (s : State) (c : Fin 2) (f : HostChannel → HostChannel) : (s.updHostChannel c f).mmu = s.mmu := rfl
@[simp] theorem updHostChannel_memctl (s : State) (c : Fin 2) (f : HostChannel → HostChannel) : (s.updHostChannel c f).memctl = s.memctl := rfl
@[simp] theorem updHostChannel_dram (s : State) (c : Fin 2) (f : HostChannel → HostChannel) : (s.updHostChannel c f).dram = s.dram := rfl
@[simp] theorem updHostChannel_cellar (s : State) (c : Fin 2) (f : HostChannel → HostChannel) : (s.updHostChannel c f).cellar = s.cellar := rfl
@[simp] theorem updHostChannel_vine (s : State) (c : Fin 2) (f : HostChannel → HostChannel) : (s.updHostChannel c f).vine = s.vine := rfl
@[simp] theorem updHostChannel_parcels (s : State) (c : Fin 2) (f : HostChannel → HostChannel) : (s.updHostChannel c f).parcels = s.parcels := rfl
@[simp] theorem updHostChannel_acct (s : State) (c : Fin 2) (f : HostChannel → HostChannel) : (s.updHostChannel c f).acct = s.acct := rfl
@[simp] theorem updHostChannel_fw (s : State) (c : Fin 2) (f : HostChannel → HostChannel) : (s.updHostChannel c f).fw = s.fw := rfl
@[simp] theorem updHostChannel_heartbeat (s : State) (c : Fin 2) (f : HostChannel → HostChannel) : (s.updHostChannel c f).heartbeat = s.heartbeat := rfl
@[simp] theorem updHostChannel_checking (s : State) (c : Fin 2) (f : HostChannel → HostChannel) : (s.updHostChannel c f).checking = s.checking := rfl
@[simp] theorem updHostChannel_checkTurn (s : State) (c : Fin 2) (f : HostChannel → HostChannel) : (s.updHostChannel c f).checkTurn = s.checkTurn := rfl
@[simp] theorem updHostChannel_lanes (s : State) (c : Fin 2) (f : HostChannel → HostChannel) : (s.updHostChannel c f).lanes = s.lanes := rfl

/-! ### State.updCmd -/

@[simp] theorem updCmd_pending (s : State) (q : Fin 256) (n : Word) (f : Cmd → Cmd) : (s.updCmd q n f).pending = s.pending := rfl
@[simp] theorem updCmd_freeCtr (s : State) (q : Fin 256) (n : Word) (f : Cmd → Cmd) : (s.updCmd q n f).freeCtr = s.freeCtr := rfl
@[simp] theorem updCmd_time (s : State) (q : Fin 256) (n : Word) (f : Cmd → Cmd) : (s.updCmd q n f).time = s.time := rfl
@[simp] theorem updCmd_fuses (s : State) (q : Fin 256) (n : Word) (f : Cmd → Cmd) : (s.updCmd q n f).fuses = s.fuses := rfl
@[simp] theorem updCmd_straps (s : State) (q : Fin 256) (n : Word) (f : Cmd → Cmd) : (s.updCmd q n f).straps = s.straps := rfl
@[simp] theorem updCmd_pins (s : State) (q : Fin 256) (n : Word) (f : Cmd → Cmd) : (s.updCmd q n f).pins = s.pins := rfl
@[simp] theorem updCmd_pages (s : State) (q : Fin 256) (n : Word) (f : Cmd → Cmd) : (s.updCmd q n f).pages = s.pages := rfl
@[simp] theorem updCmd_bootRec (s : State) (q : Fin 256) (n : Word) (f : Cmd → Cmd) : (s.updCmd q n f).bootRec = s.bootRec := rfl
@[simp] theorem updCmd_boot (s : State) (q : Fin 256) (n : Word) (f : Cmd → Cmd) : (s.updCmd q n f).boot = s.boot := rfl
@[simp] theorem updCmd_flash (s : State) (q : Fin 256) (n : Word) (f : Cmd → Cmd) : (s.updCmd q n f).flash = s.flash := rfl
@[simp] theorem updCmd_clocks (s : State) (q : Fin 256) (n : Word) (f : Cmd → Cmd) : (s.updCmd q n f).clocks = s.clocks := rfl
@[simp] theorem updCmd_power (s : State) (q : Fin 256) (n : Word) (f : Cmd → Cmd) : (s.updCmd q n f).power = s.power := rfl
@[simp] theorem updCmd_thermal (s : State) (q : Fin 256) (n : Word) (f : Cmd → Cmd) : (s.updCmd q n f).thermal = s.thermal := rfl
@[simp] theorem updCmd_ageing (s : State) (q : Fin 256) (n : Word) (f : Cmd → Cmd) : (s.updCmd q n f).ageing = s.ageing := rfl
@[simp] theorem updCmd_safety (s : State) (q : Fin 256) (n : Word) (f : Cmd → Cmd) : (s.updCmd q n f).safety = s.safety := rfl
@[simp] theorem updCmd_diag (s : State) (q : Fin 256) (n : Word) (f : Cmd → Cmd) : (s.updCmd q n f).diag = s.diag := rfl
@[simp] theorem updCmd_book (s : State) (q : Fin 256) (n : Word) (f : Cmd → Cmd) : (s.updCmd q n f).book = s.book := rfl
@[simp] theorem updCmd_port (s : State) (q : Fin 256) (n : Word) (f : Cmd → Cmd) : (s.updCmd q n f).port = s.port := rfl
@[simp] theorem updCmd_objects (s : State) (q : Fin 256) (n : Word) (f : Cmd → Cmd) : (s.updCmd q n f).objects = s.objects := rfl
@[simp] theorem updCmd_presses (s : State) (q : Fin 256) (n : Word) (f : Cmd → Cmd) : (s.updCmd q n f).presses = s.presses := rfl
@[simp] theorem updCmd_failed (s : State) (q : Fin 256) (n : Word) (f : Cmd → Cmd) : (s.updCmd q n f).failed = s.failed := rfl
@[simp] theorem updCmd_engines (s : State) (q : Fin 256) (n : Word) (f : Cmd → Cmd) : (s.updCmd q n f).engines = s.engines := rfl
@[simp] theorem updCmd_intake (s : State) (q : Fin 256) (n : Word) (f : Cmd → Cmd) : (s.updCmd q n f).intake = s.intake := rfl
@[simp] theorem updCmd_codec (s : State) (q : Fin 256) (n : Word) (f : Cmd → Cmd) : (s.updCmd q n f).codec = s.codec := rfl
@[simp] theorem updCmd_pipes (s : State) (q : Fin 256) (n : Word) (f : Cmd → Cmd) : (s.updCmd q n f).pipes = s.pipes := rfl
@[simp] theorem updCmd_mmu (s : State) (q : Fin 256) (n : Word) (f : Cmd → Cmd) : (s.updCmd q n f).mmu = s.mmu := rfl
@[simp] theorem updCmd_memctl (s : State) (q : Fin 256) (n : Word) (f : Cmd → Cmd) : (s.updCmd q n f).memctl = s.memctl := rfl
@[simp] theorem updCmd_dram (s : State) (q : Fin 256) (n : Word) (f : Cmd → Cmd) : (s.updCmd q n f).dram = s.dram := rfl
@[simp] theorem updCmd_cellar (s : State) (q : Fin 256) (n : Word) (f : Cmd → Cmd) : (s.updCmd q n f).cellar = s.cellar := rfl
@[simp] theorem updCmd_vine (s : State) (q : Fin 256) (n : Word) (f : Cmd → Cmd) : (s.updCmd q n f).vine = s.vine := rfl
@[simp] theorem updCmd_parcels (s : State) (q : Fin 256) (n : Word) (f : Cmd → Cmd) : (s.updCmd q n f).parcels = s.parcels := rfl
@[simp] theorem updCmd_acct (s : State) (q : Fin 256) (n : Word) (f : Cmd → Cmd) : (s.updCmd q n f).acct = s.acct := rfl
@[simp] theorem updCmd_fw (s : State) (q : Fin 256) (n : Word) (f : Cmd → Cmd) : (s.updCmd q n f).fw = s.fw := rfl
@[simp] theorem updCmd_heartbeat (s : State) (q : Fin 256) (n : Word) (f : Cmd → Cmd) : (s.updCmd q n f).heartbeat = s.heartbeat := rfl
@[simp] theorem updCmd_checking (s : State) (q : Fin 256) (n : Word) (f : Cmd → Cmd) : (s.updCmd q n f).checking = s.checking := rfl
@[simp] theorem updCmd_checkTurn (s : State) (q : Fin 256) (n : Word) (f : Cmd → Cmd) : (s.updCmd q n f).checkTurn = s.checkTurn := rfl
@[simp] theorem updCmd_lanes (s : State) (q : Fin 256) (n : Word) (f : Cmd → Cmd) : (s.updCmd q n f).lanes = s.lanes := rfl

/-! ### State.updObject -/

@[simp] theorem updObject_pending (s : State) (h : Nat) (f : Obj → Obj) : (s.updObject h f).pending = s.pending := by unfold State.updObject; split <;> rfl
@[simp] theorem updObject_freeCtr (s : State) (h : Nat) (f : Obj → Obj) : (s.updObject h f).freeCtr = s.freeCtr := by unfold State.updObject; split <;> rfl
@[simp] theorem updObject_time (s : State) (h : Nat) (f : Obj → Obj) : (s.updObject h f).time = s.time := by unfold State.updObject; split <;> rfl
@[simp] theorem updObject_fuses (s : State) (h : Nat) (f : Obj → Obj) : (s.updObject h f).fuses = s.fuses := by unfold State.updObject; split <;> rfl
@[simp] theorem updObject_straps (s : State) (h : Nat) (f : Obj → Obj) : (s.updObject h f).straps = s.straps := by unfold State.updObject; split <;> rfl
@[simp] theorem updObject_pins (s : State) (h : Nat) (f : Obj → Obj) : (s.updObject h f).pins = s.pins := by unfold State.updObject; split <;> rfl
@[simp] theorem updObject_pages (s : State) (h : Nat) (f : Obj → Obj) : (s.updObject h f).pages = s.pages := by unfold State.updObject; split <;> rfl
@[simp] theorem updObject_bootRec (s : State) (h : Nat) (f : Obj → Obj) : (s.updObject h f).bootRec = s.bootRec := by unfold State.updObject; split <;> rfl
@[simp] theorem updObject_boot (s : State) (h : Nat) (f : Obj → Obj) : (s.updObject h f).boot = s.boot := by unfold State.updObject; split <;> rfl
@[simp] theorem updObject_flash (s : State) (h : Nat) (f : Obj → Obj) : (s.updObject h f).flash = s.flash := by unfold State.updObject; split <;> rfl
@[simp] theorem updObject_clocks (s : State) (h : Nat) (f : Obj → Obj) : (s.updObject h f).clocks = s.clocks := by unfold State.updObject; split <;> rfl
@[simp] theorem updObject_power (s : State) (h : Nat) (f : Obj → Obj) : (s.updObject h f).power = s.power := by unfold State.updObject; split <;> rfl
@[simp] theorem updObject_thermal (s : State) (h : Nat) (f : Obj → Obj) : (s.updObject h f).thermal = s.thermal := by unfold State.updObject; split <;> rfl
@[simp] theorem updObject_ageing (s : State) (h : Nat) (f : Obj → Obj) : (s.updObject h f).ageing = s.ageing := by unfold State.updObject; split <;> rfl
@[simp] theorem updObject_safety (s : State) (h : Nat) (f : Obj → Obj) : (s.updObject h f).safety = s.safety := by unfold State.updObject; split <;> rfl
@[simp] theorem updObject_diag (s : State) (h : Nat) (f : Obj → Obj) : (s.updObject h f).diag = s.diag := by unfold State.updObject; split <;> rfl
@[simp] theorem updObject_book (s : State) (h : Nat) (f : Obj → Obj) : (s.updObject h f).book = s.book := by unfold State.updObject; split <;> rfl
@[simp] theorem updObject_port (s : State) (h : Nat) (f : Obj → Obj) : (s.updObject h f).port = s.port := by unfold State.updObject; split <;> rfl
@[simp] theorem updObject_queues (s : State) (h : Nat) (f : Obj → Obj) : (s.updObject h f).queues = s.queues := by unfold State.updObject; split <;> rfl
@[simp] theorem updObject_presses (s : State) (h : Nat) (f : Obj → Obj) : (s.updObject h f).presses = s.presses := by unfold State.updObject; split <;> rfl
@[simp] theorem updObject_failed (s : State) (h : Nat) (f : Obj → Obj) : (s.updObject h f).failed = s.failed := by unfold State.updObject; split <;> rfl
@[simp] theorem updObject_engines (s : State) (h : Nat) (f : Obj → Obj) : (s.updObject h f).engines = s.engines := by unfold State.updObject; split <;> rfl
@[simp] theorem updObject_intake (s : State) (h : Nat) (f : Obj → Obj) : (s.updObject h f).intake = s.intake := by unfold State.updObject; split <;> rfl
@[simp] theorem updObject_codec (s : State) (h : Nat) (f : Obj → Obj) : (s.updObject h f).codec = s.codec := by unfold State.updObject; split <;> rfl
@[simp] theorem updObject_pipes (s : State) (h : Nat) (f : Obj → Obj) : (s.updObject h f).pipes = s.pipes := by unfold State.updObject; split <;> rfl
@[simp] theorem updObject_mmu (s : State) (h : Nat) (f : Obj → Obj) : (s.updObject h f).mmu = s.mmu := by unfold State.updObject; split <;> rfl
@[simp] theorem updObject_memctl (s : State) (h : Nat) (f : Obj → Obj) : (s.updObject h f).memctl = s.memctl := by unfold State.updObject; split <;> rfl
@[simp] theorem updObject_dram (s : State) (h : Nat) (f : Obj → Obj) : (s.updObject h f).dram = s.dram := by unfold State.updObject; split <;> rfl
@[simp] theorem updObject_cellar (s : State) (h : Nat) (f : Obj → Obj) : (s.updObject h f).cellar = s.cellar := by unfold State.updObject; split <;> rfl
@[simp] theorem updObject_vine (s : State) (h : Nat) (f : Obj → Obj) : (s.updObject h f).vine = s.vine := by unfold State.updObject; split <;> rfl
@[simp] theorem updObject_parcels (s : State) (h : Nat) (f : Obj → Obj) : (s.updObject h f).parcels = s.parcels := by unfold State.updObject; split <;> rfl
@[simp] theorem updObject_acct (s : State) (h : Nat) (f : Obj → Obj) : (s.updObject h f).acct = s.acct := by unfold State.updObject; split <;> rfl
@[simp] theorem updObject_fw (s : State) (h : Nat) (f : Obj → Obj) : (s.updObject h f).fw = s.fw := by unfold State.updObject; split <;> rfl
@[simp] theorem updObject_heartbeat (s : State) (h : Nat) (f : Obj → Obj) : (s.updObject h f).heartbeat = s.heartbeat := by unfold State.updObject; split <;> rfl
@[simp] theorem updObject_checking (s : State) (h : Nat) (f : Obj → Obj) : (s.updObject h f).checking = s.checking := by unfold State.updObject; split <;> rfl
@[simp] theorem updObject_checkTurn (s : State) (h : Nat) (f : Obj → Obj) : (s.updObject h f).checkTurn = s.checkTurn := by unfold State.updObject; split <;> rfl
@[simp] theorem updObject_lanes (s : State) (h : Nat) (f : Obj → Obj) : (s.updObject h f).lanes = s.lanes := by unfold State.updObject; split <;> rfl

end Sys2Proof.Machine
end

