-- ==== Sys2Proof/Laws/Ops.lean ====
section
/-! SUPPORT. What each shared operation of Machine/Ops.lean and Machine/Queues.lean can do: the fields it leaves, and what
it writes. -/

namespace Sys2Proof.Machine

/-! ### How a command answers -/

theorem answer_eq (f : State → State) (s : State) : answer f s = .next { f s with pending := s.pending } := rfl

/-- The whole of what `answerIf` can do: a next state on operand lists of the right lengths, and only then. -/
theorem answerIf_true (m : String) (f : State → State) (s : State) :
    answerIf true m f s = .next { f s with pending := s.pending } := rfl

theorem answerIf_of {b : Bool} (h : b = true) (m : String) (f : State → State) (s : State) :
    answerIf b m f s = .next { f s with pending := s.pending } := by rw [h]; rfl

theorem answerIf_next {b : Bool} {m : String} {f : State → State} {s t : State} (h : answerIf b m f s = .next t) :
    b = true ∧ t = { f s with pending := s.pending } := by
  unfold answerIf at h
  split at h
  · exact ⟨‹_›, (Host.Outcome.next.inj h).symm⟩
  · cases h

@[simp] theorem foldState_nil {α : Type} (f : α → State → State) (s : State) : foldState f [] s = s := rfl
@[simp] theorem foldState_cons {α : Type} (f : α → State → State) (x : α) (l : List α) (s : State) :
    foldState f (x :: l) s = foldState f l (f x s) := rfl

/-- A property that each application keeps is kept by the fold. -/
theorem foldState_keeps {α : Type} (P : State → Prop) (f : α → State → State) (l : List α)
    (h : ∀ x s, P s → P (f x s)) (s : State) (hs : P s) : P (foldState f l s) := by
  induction l generalizing s with
  | nil => exact hs
  | cons x r ih => exact ih _ (h _ _ hs)

/-! ### raiseKey -/

/-- The fields that `raiseKey` can change. -/
theorem raiseKey_only (k : Nat) (d : Word) (s : State) :
    raiseKey k d s = { s with safety := (raiseKey k d s).safety } := rfl
@[simp] theorem raiseKey_pending (k : Nat) (d : Word) (s : State) : (raiseKey k d s).pending = s.pending :=
  (congrArg State.pending (raiseKey_only k d s) :)
@[simp] theorem raiseKey_freeCtr (k : Nat) (d : Word) (s : State) : (raiseKey k d s).freeCtr = s.freeCtr :=
  (congrArg State.freeCtr (raiseKey_only k d s) :)
@[simp] theorem raiseKey_time (k : Nat) (d : Word) (s : State) : (raiseKey k d s).time = s.time :=
  (congrArg State.time (raiseKey_only k d s) :)
@[simp] theorem raiseKey_fuses (k : Nat) (d : Word) (s : State) : (raiseKey k d s).fuses = s.fuses :=
  (congrArg State.fuses (raiseKey_only k d s) :)
@[simp] theorem raiseKey_straps (k : Nat) (d : Word) (s : State) : (raiseKey k d s).straps = s.straps :=
  (congrArg State.straps (raiseKey_only k d s) :)
@[simp] theorem raiseKey_pins (k : Nat) (d : Word) (s : State) : (raiseKey k d s).pins = s.pins :=
  (congrArg State.pins (raiseKey_only k d s) :)
@[simp] theorem raiseKey_pages (k : Nat) (d : Word) (s : State) : (raiseKey k d s).pages = s.pages :=
  (congrArg State.pages (raiseKey_only k d s) :)
@[simp] theorem raiseKey_bootRec (k : Nat) (d : Word) (s : State) : (raiseKey k d s).bootRec = s.bootRec :=
  (congrArg State.bootRec (raiseKey_only k d s) :)
@[simp] theorem raiseKey_boot (k : Nat) (d : Word) (s : State) : (raiseKey k d s).boot = s.boot :=
  (congrArg State.boot (raiseKey_only k d s) :)
@[simp] theorem raiseKey_flash (k : Nat) (d : Word) (s : State) : (raiseKey k d s).flash = s.flash :=
  (congrArg State.flash (raiseKey_only k d s) :)
@[simp] theorem raiseKey_clocks (k : Nat) (d : Word) (s : State) : (raiseKey k d s).clocks = s.clocks :=
  (congrArg State.clocks (raiseKey_only k d s) :)
@[simp] theorem raiseKey_power (k : Nat) (d : Word) (s : State) : (raiseKey k d s).power = s.power :=
  (congrArg State.power (raiseKey_only k d s) :)
@[simp] theorem raiseKey_thermal (k : Nat) (d : Word) (s : State) : (raiseKey k d s).thermal = s.thermal :=
  (congrArg State.thermal (raiseKey_only k d s) :)
@[simp] theorem raiseKey_ageing (k : Nat) (d : Word) (s : State) : (raiseKey k d s).ageing = s.ageing :=
  (congrArg State.ageing (raiseKey_only k d s) :)
@[simp] theorem raiseKey_diag (k : Nat) (d : Word) (s : State) : (raiseKey k d s).diag = s.diag :=
  (congrArg State.diag (raiseKey_only k d s) :)
@[simp] theorem raiseKey_book (k : Nat) (d : Word) (s : State) : (raiseKey k d s).book = s.book :=
  (congrArg State.book (raiseKey_only k d s) :)
@[simp] theorem raiseKey_port (k : Nat) (d : Word) (s : State) : (raiseKey k d s).port = s.port :=
  (congrArg State.port (raiseKey_only k d s) :)
@[simp] theorem raiseKey_queues (k : Nat) (d : Word) (s : State) : (raiseKey k d s).queues = s.queues :=
  (congrArg State.queues (raiseKey_only k d s) :)
@[simp] theorem raiseKey_objects (k : Nat) (d : Word) (s : State) : (raiseKey k d s).objects = s.objects :=
  (congrArg State.objects (raiseKey_only k d s) :)
@[simp] theorem raiseKey_presses (k : Nat) (d : Word) (s : State) : (raiseKey k d s).presses = s.presses :=
  (congrArg State.presses (raiseKey_only k d s) :)
@[simp] theorem raiseKey_failed (k : Nat) (d : Word) (s : State) : (raiseKey k d s).failed = s.failed :=
  (congrArg State.failed (raiseKey_only k d s) :)
@[simp] theorem raiseKey_engines (k : Nat) (d : Word) (s : State) : (raiseKey k d s).engines = s.engines :=
  (congrArg State.engines (raiseKey_only k d s) :)
@[simp] theorem raiseKey_intake (k : Nat) (d : Word) (s : State) : (raiseKey k d s).intake = s.intake :=
  (congrArg State.intake (raiseKey_only k d s) :)
@[simp] theorem raiseKey_codec (k : Nat) (d : Word) (s : State) : (raiseKey k d s).codec = s.codec :=
  (congrArg State.codec (raiseKey_only k d s) :)
@[simp] theorem raiseKey_pipes (k : Nat) (d : Word) (s : State) : (raiseKey k d s).pipes = s.pipes :=
  (congrArg State.pipes (raiseKey_only k d s) :)
@[simp] theorem raiseKey_mmu (k : Nat) (d : Word) (s : State) : (raiseKey k d s).mmu = s.mmu :=
  (congrArg State.mmu (raiseKey_only k d s) :)
@[simp] theorem raiseKey_memctl (k : Nat) (d : Word) (s : State) : (raiseKey k d s).memctl = s.memctl :=
  (congrArg State.memctl (raiseKey_only k d s) :)
@[simp] theorem raiseKey_dram (k : Nat) (d : Word) (s : State) : (raiseKey k d s).dram = s.dram :=
  (congrArg State.dram (raiseKey_only k d s) :)
@[simp] theorem raiseKey_cellar (k : Nat) (d : Word) (s : State) : (raiseKey k d s).cellar = s.cellar :=
  (congrArg State.cellar (raiseKey_only k d s) :)
@[simp] theorem raiseKey_vine (k : Nat) (d : Word) (s : State) : (raiseKey k d s).vine = s.vine :=
  (congrArg State.vine (raiseKey_only k d s) :)
@[simp] theorem raiseKey_parcels (k : Nat) (d : Word) (s : State) : (raiseKey k d s).parcels = s.parcels :=
  (congrArg State.parcels (raiseKey_only k d s) :)
@[simp] theorem raiseKey_acct (k : Nat) (d : Word) (s : State) : (raiseKey k d s).acct = s.acct :=
  (congrArg State.acct (raiseKey_only k d s) :)
@[simp] theorem raiseKey_fw (k : Nat) (d : Word) (s : State) : (raiseKey k d s).fw = s.fw :=
  (congrArg State.fw (raiseKey_only k d s) :)
@[simp] theorem raiseKey_heartbeat (k : Nat) (d : Word) (s : State) : (raiseKey k d s).heartbeat = s.heartbeat :=
  (congrArg State.heartbeat (raiseKey_only k d s) :)
@[simp] theorem raiseKey_checking (k : Nat) (d : Word) (s : State) : (raiseKey k d s).checking = s.checking :=
  (congrArg State.checking (raiseKey_only k d s) :)
@[simp] theorem raiseKey_checkTurn (k : Nat) (d : Word) (s : State) : (raiseKey k d s).checkTurn = s.checkTurn :=
  (congrArg State.checkTurn (raiseKey_only k d s) :)
@[simp] theorem raiseKey_lanes (k : Nat) (d : Word) (s : State) : (raiseKey k d s).lanes = s.lanes :=
  (congrArg State.lanes (raiseKey_only k d s) :)

/-! ### logEvent -/

/-- The fields that `logEvent` can change. -/
theorem logEvent_only (a : Nat) (b : BitVec 16) (s : State) :
    logEvent a b s = { s with diag := (logEvent a b s).diag, freeCtr := (logEvent a b s).freeCtr } := by
  unfold logEvent; dsimp only; split <;> rfl
@[simp] theorem logEvent_pending (a : Nat) (b : BitVec 16) (s : State) : (logEvent a b s).pending = s.pending :=
  (congrArg State.pending (logEvent_only a b s) :)
@[simp] theorem logEvent_time (a : Nat) (b : BitVec 16) (s : State) : (logEvent a b s).time = s.time :=
  (congrArg State.time (logEvent_only a b s) :)
@[simp] theorem logEvent_fuses (a : Nat) (b : BitVec 16) (s : State) : (logEvent a b s).fuses = s.fuses :=
  (congrArg State.fuses (logEvent_only a b s) :)
@[simp] theorem logEvent_straps (a : Nat) (b : BitVec 16) (s : State) : (logEvent a b s).straps = s.straps :=
  (congrArg State.straps (logEvent_only a b s) :)
@[simp] theorem logEvent_pins (a : Nat) (b : BitVec 16) (s : State) : (logEvent a b s).pins = s.pins :=
  (congrArg State.pins (logEvent_only a b s) :)
@[simp] theorem logEvent_pages (a : Nat) (b : BitVec 16) (s : State) : (logEvent a b s).pages = s.pages :=
  (congrArg State.pages (logEvent_only a b s) :)
@[simp] theorem logEvent_bootRec (a : Nat) (b : BitVec 16) (s : State) : (logEvent a b s).bootRec = s.bootRec :=
  (congrArg State.bootRec (logEvent_only a b s) :)
@[simp] theorem logEvent_boot (a : Nat) (b : BitVec 16) (s : State) : (logEvent a b s).boot = s.boot :=
  (congrArg State.boot (logEvent_only a b s) :)
@[simp] theorem logEvent_flash (a : Nat) (b : BitVec 16) (s : State) : (logEvent a b s).flash = s.flash :=
  (congrArg State.flash (logEvent_only a b s) :)
@[simp] theorem logEvent_clocks (a : Nat) (b : BitVec 16) (s : State) : (logEvent a b s).clocks = s.clocks :=
  (congrArg State.clocks (logEvent_only a b s) :)
@[simp] theorem logEvent_power (a : Nat) (b : BitVec 16) (s : State) : (logEvent a b s).power = s.power :=
  (congrArg State.power (logEvent_only a b s) :)
@[simp] theorem logEvent_thermal (a : Nat) (b : BitVec 16) (s : State) : (logEvent a b s).thermal = s.thermal :=
  (congrArg State.thermal (logEvent_only a b s) :)
@[simp] theorem logEvent_ageing (a : Nat) (b : BitVec 16) (s : State) : (logEvent a b s).ageing = s.ageing :=
  (congrArg State.ageing (logEvent_only a b s) :)
@[simp] theorem logEvent_safety (a : Nat) (b : BitVec 16) (s : State) : (logEvent a b s).safety = s.safety :=
  (congrArg State.safety (logEvent_only a b s) :)
@[simp] theorem logEvent_book (a : Nat) (b : BitVec 16) (s : State) : (logEvent a b s).book = s.book :=
  (congrArg State.book (logEvent_only a b s) :)
@[simp] theorem logEvent_port (a : Nat) (b : BitVec 16) (s : State) : (logEvent a b s).port = s.port :=
  (congrArg State.port (logEvent_only a b s) :)
@[simp] theorem logEvent_queues (a : Nat) (b : BitVec 16) (s : State) : (logEvent a b s).queues = s.queues :=
  (congrArg State.queues (logEvent_only a b s) :)
@[simp] theorem logEvent_objects (a : Nat) (b : BitVec 16) (s : State) : (logEvent a b s).objects = s.objects :=
  (congrArg State.objects (logEvent_only a b s) :)
@[simp] theorem logEvent_presses (a : Nat) (b : BitVec 16) (s : State) : (logEvent a b s).presses = s.presses :=
  (congrArg State.presses (logEvent_only a b s) :)
@[simp] theorem logEvent_failed (a : Nat) (b : BitVec 16) (s : State) : (logEvent a b s).failed = s.failed :=
  (congrArg State.failed (logEvent_only a b s) :)
@[simp] theorem logEvent_engines (a : Nat) (b : BitVec 16) (s : State) : (logEvent a b s).engines = s.engines :=
  (congrArg State.engines (logEvent_only a b s) :)
@[simp] theorem logEvent_intake (a : Nat) (b : BitVec 16) (s : State) : (logEvent a b s).intake = s.intake :=
  (congrArg State.intake (logEvent_only a b s) :)
@[simp] theorem logEvent_codec (a : Nat) (b : BitVec 16) (s : State) : (logEvent a b s).codec = s.codec :=
  (congrArg State.codec (logEvent_only a b s) :)
@[simp] theorem logEvent_pipes (a : Nat) (b : BitVec 16) (s : State) : (logEvent a b s).pipes = s.pipes :=
  (congrArg State.pipes (logEvent_only a b s) :)
@[simp] theorem logEvent_mmu (a : Nat) (b : BitVec 16) (s : State) : (logEvent a b s).mmu = s.mmu :=
  (congrArg State.mmu (logEvent_only a b s) :)
@[simp] theorem logEvent_memctl (a : Nat) (b : BitVec 16) (s : State) : (logEvent a b s).memctl = s.memctl :=
  (congrArg State.memctl (logEvent_only a b s) :)
@[simp] theorem logEvent_dram (a : Nat) (b : BitVec 16) (s : State) : (logEvent a b s).dram = s.dram :=
  (congrArg State.dram (logEvent_only a b s) :)
@[simp] theorem logEvent_cellar (a : Nat) (b : BitVec 16) (s : State) : (logEvent a b s).cellar = s.cellar :=
  (congrArg State.cellar (logEvent_only a b s) :)
@[simp] theorem logEvent_vine (a : Nat) (b : BitVec 16) (s : State) : (logEvent a b s).vine = s.vine :=
  (congrArg State.vine (logEvent_only a b s) :)
@[simp] theorem logEvent_parcels (a : Nat) (b : BitVec 16) (s : State) : (logEvent a b s).parcels = s.parcels :=
  (congrArg State.parcels (logEvent_only a b s) :)
@[simp] theorem logEvent_acct (a : Nat) (b : BitVec 16) (s : State) : (logEvent a b s).acct = s.acct :=
  (congrArg State.acct (logEvent_only a b s) :)
@[simp] theorem logEvent_fw (a : Nat) (b : BitVec 16) (s : State) : (logEvent a b s).fw = s.fw :=
  (congrArg State.fw (logEvent_only a b s) :)
@[simp] theorem logEvent_heartbeat (a : Nat) (b : BitVec 16) (s : State) : (logEvent a b s).heartbeat = s.heartbeat :=
  (congrArg State.heartbeat (logEvent_only a b s) :)
@[simp] theorem logEvent_checking (a : Nat) (b : BitVec 16) (s : State) : (logEvent a b s).checking = s.checking :=
  (congrArg State.checking (logEvent_only a b s) :)
@[simp] theorem logEvent_checkTurn (a : Nat) (b : BitVec 16) (s : State) : (logEvent a b s).checkTurn = s.checkTurn :=
  (congrArg State.checkTurn (logEvent_only a b s) :)
@[simp] theorem logEvent_lanes (a : Nat) (b : BitVec 16) (s : State) : (logEvent a b s).lanes = s.lanes :=
  (congrArg State.lanes (logEvent_only a b s) :)

/-! ### bookPut -/

/-- The fields that `bookPut` can change. -/
theorem bookPut_only (r : List Byte) (s : State) :
    bookPut r s = { s with book := (bookPut r s).book } := by
  unfold bookPut; dsimp only; split <;> rfl
@[simp] theorem bookPut_pending (r : List Byte) (s : State) : (bookPut r s).pending = s.pending :=
  (congrArg State.pending (bookPut_only r s) :)
@[simp] theorem bookPut_freeCtr (r : List Byte) (s : State) : (bookPut r s).freeCtr = s.freeCtr :=
  (congrArg State.freeCtr (bookPut_only r s) :)
@[simp] theorem bookPut_time (r : List Byte) (s : State) : (bookPut r s).time = s.time :=
  (congrArg State.time (bookPut_only r s) :)
@[simp] theorem bookPut_fuses (r : List Byte) (s : State) : (bookPut r s).fuses = s.fuses :=
  (congrArg State.fuses (bookPut_only r s) :)
@[simp] theorem bookPut_straps (r : List Byte) (s : State) : (bookPut r s).straps = s.straps :=
  (congrArg State.straps (bookPut_only r s) :)
@[simp] theorem bookPut_pins (r : List Byte) (s : State) : (bookPut r s).pins = s.pins :=
  (congrArg State.pins (bookPut_only r s) :)
@[simp] theorem bookPut_pages (r : List Byte) (s : State) : (bookPut r s).pages = s.pages :=
  (congrArg State.pages (bookPut_only r s) :)
@[simp] theorem bookPut_bootRec (r : List Byte) (s : State) : (bookPut r s).bootRec = s.bootRec :=
  (congrArg State.bootRec (bookPut_only r s) :)
@[simp] theorem bookPut_boot (r : List Byte) (s : State) : (bookPut r s).boot = s.boot :=
  (congrArg State.boot (bookPut_only r s) :)
@[simp] theorem bookPut_flash (r : List Byte) (s : State) : (bookPut r s).flash = s.flash :=
  (congrArg State.flash (bookPut_only r s) :)
@[simp] theorem bookPut_clocks (r : List Byte) (s : State) : (bookPut r s).clocks = s.clocks :=
  (congrArg State.clocks (bookPut_only r s) :)
@[simp] theorem bookPut_power (r : List Byte) (s : State) : (bookPut r s).power = s.power :=
  (congrArg State.power (bookPut_only r s) :)
@[simp] theorem bookPut_thermal (r : List Byte) (s : State) : (bookPut r s).thermal = s.thermal :=
  (congrArg State.thermal (bookPut_only r s) :)
@[simp] theorem bookPut_ageing (r : List Byte) (s : State) : (bookPut r s).ageing = s.ageing :=
  (congrArg State.ageing (bookPut_only r s) :)
@[simp] theorem bookPut_safety (r : List Byte) (s : State) : (bookPut r s).safety = s.safety :=
  (congrArg State.safety (bookPut_only r s) :)
@[simp] theorem bookPut_diag (r : List Byte) (s : State) : (bookPut r s).diag = s.diag :=
  (congrArg State.diag (bookPut_only r s) :)
@[simp] theorem bookPut_port (r : List Byte) (s : State) : (bookPut r s).port = s.port :=
  (congrArg State.port (bookPut_only r s) :)
@[simp] theorem bookPut_queues (r : List Byte) (s : State) : (bookPut r s).queues = s.queues :=
  (congrArg State.queues (bookPut_only r s) :)
@[simp] theorem bookPut_objects (r : List Byte) (s : State) : (bookPut r s).objects = s.objects :=
  (congrArg State.objects (bookPut_only r s) :)
@[simp] theorem bookPut_presses (r : List Byte) (s : State) : (bookPut r s).presses = s.presses :=
  (congrArg State.presses (bookPut_only r s) :)
@[simp] theorem bookPut_failed (r : List Byte) (s : State) : (bookPut r s).failed = s.failed :=
  (congrArg State.failed (bookPut_only r s) :)
@[simp] theorem bookPut_engines (r : List Byte) (s : State) : (bookPut r s).engines = s.engines :=
  (congrArg State.engines (bookPut_only r s) :)
@[simp] theorem bookPut_intake (r : List Byte) (s : State) : (bookPut r s).intake = s.intake :=
  (congrArg State.intake (bookPut_only r s) :)
@[simp] theorem bookPut_codec (r : List Byte) (s : State) : (bookPut r s).codec = s.codec :=
  (congrArg State.codec (bookPut_only r s) :)
@[simp] theorem bookPut_pipes (r : List Byte) (s : State) : (bookPut r s).pipes = s.pipes :=
  (congrArg State.pipes (bookPut_only r s) :)
@[simp] theorem bookPut_mmu (r : List Byte) (s : State) : (bookPut r s).mmu = s.mmu :=
  (congrArg State.mmu (bookPut_only r s) :)
@[simp] theorem bookPut_memctl (r : List Byte) (s : State) : (bookPut r s).memctl = s.memctl :=
  (congrArg State.memctl (bookPut_only r s) :)
@[simp] theorem bookPut_dram (r : List Byte) (s : State) : (bookPut r s).dram = s.dram :=
  (congrArg State.dram (bookPut_only r s) :)
@[simp] theorem bookPut_cellar (r : List Byte) (s : State) : (bookPut r s).cellar = s.cellar :=
  (congrArg State.cellar (bookPut_only r s) :)
@[simp] theorem bookPut_vine (r : List Byte) (s : State) : (bookPut r s).vine = s.vine :=
  (congrArg State.vine (bookPut_only r s) :)
@[simp] theorem bookPut_parcels (r : List Byte) (s : State) : (bookPut r s).parcels = s.parcels :=
  (congrArg State.parcels (bookPut_only r s) :)
@[simp] theorem bookPut_acct (r : List Byte) (s : State) : (bookPut r s).acct = s.acct :=
  (congrArg State.acct (bookPut_only r s) :)
@[simp] theorem bookPut_fw (r : List Byte) (s : State) : (bookPut r s).fw = s.fw :=
  (congrArg State.fw (bookPut_only r s) :)
@[simp] theorem bookPut_heartbeat (r : List Byte) (s : State) : (bookPut r s).heartbeat = s.heartbeat :=
  (congrArg State.heartbeat (bookPut_only r s) :)
@[simp] theorem bookPut_checking (r : List Byte) (s : State) : (bookPut r s).checking = s.checking :=
  (congrArg State.checking (bookPut_only r s) :)
@[simp] theorem bookPut_checkTurn (r : List Byte) (s : State) : (bookPut r s).checkTurn = s.checkTurn :=
  (congrArg State.checkTurn (bookPut_only r s) :)
@[simp] theorem bookPut_lanes (r : List Byte) (s : State) : (bookPut r s).lanes = s.lanes :=
  (congrArg State.lanes (bookPut_only r s) :)

/-! ### raiseWire -/

/-- The fields that `raiseWire` can change. -/
theorem raiseWire_only (w : BitVec 2) (s : State) :
    raiseWire w s = { s with port := (raiseWire w s).port } := by
  unfold raiseWire; split <;> rfl
@[simp] theorem raiseWire_pending (w : BitVec 2) (s : State) : (raiseWire w s).pending = s.pending :=
  (congrArg State.pending (raiseWire_only w s) :)
@[simp] theorem raiseWire_freeCtr (w : BitVec 2) (s : State) : (raiseWire w s).freeCtr = s.freeCtr :=
  (congrArg State.freeCtr (raiseWire_only w s) :)
@[simp] theorem raiseWire_time (w : BitVec 2) (s : State) : (raiseWire w s).time = s.time :=
  (congrArg State.time (raiseWire_only w s) :)
@[simp] theorem raiseWire_fuses (w : BitVec 2) (s : State) : (raiseWire w s).fuses = s.fuses :=
  (congrArg State.fuses (raiseWire_only w s) :)
@[simp] theorem raiseWire_straps (w : BitVec 2) (s : State) : (raiseWire w s).straps = s.straps :=
  (congrArg State.straps (raiseWire_only w s) :)
@[simp] theorem raiseWire_pins (w : BitVec 2) (s : State) : (raiseWire w s).pins = s.pins :=
  (congrArg State.pins (raiseWire_only w s) :)
@[simp] theorem raiseWire_pages (w : BitVec 2) (s : State) : (raiseWire w s).pages = s.pages :=
  (congrArg State.pages (raiseWire_only w s) :)
@[simp] theorem raiseWire_bootRec (w : BitVec 2) (s : State) : (raiseWire w s).bootRec = s.bootRec :=
  (congrArg State.bootRec (raiseWire_only w s) :)
@[simp] theorem raiseWire_boot (w : BitVec 2) (s : State) : (raiseWire w s).boot = s.boot :=
  (congrArg State.boot (raiseWire_only w s) :)
@[simp] theorem raiseWire_flash (w : BitVec 2) (s : State) : (raiseWire w s).flash = s.flash :=
  (congrArg State.flash (raiseWire_only w s) :)
@[simp] theorem raiseWire_clocks (w : BitVec 2) (s : State) : (raiseWire w s).clocks = s.clocks :=
  (congrArg State.clocks (raiseWire_only w s) :)
@[simp] theorem raiseWire_power (w : BitVec 2) (s : State) : (raiseWire w s).power = s.power :=
  (congrArg State.power (raiseWire_only w s) :)
@[simp] theorem raiseWire_thermal (w : BitVec 2) (s : State) : (raiseWire w s).thermal = s.thermal :=
  (congrArg State.thermal (raiseWire_only w s) :)
@[simp] theorem raiseWire_ageing (w : BitVec 2) (s : State) : (raiseWire w s).ageing = s.ageing :=
  (congrArg State.ageing (raiseWire_only w s) :)
@[simp] theorem raiseWire_safety (w : BitVec 2) (s : State) : (raiseWire w s).safety = s.safety :=
  (congrArg State.safety (raiseWire_only w s) :)
@[simp] theorem raiseWire_diag (w : BitVec 2) (s : State) : (raiseWire w s).diag = s.diag :=
  (congrArg State.diag (raiseWire_only w s) :)
@[simp] theorem raiseWire_book (w : BitVec 2) (s : State) : (raiseWire w s).book = s.book :=
  (congrArg State.book (raiseWire_only w s) :)
@[simp] theorem raiseWire_queues (w : BitVec 2) (s : State) : (raiseWire w s).queues = s.queues :=
  (congrArg State.queues (raiseWire_only w s) :)
@[simp] theorem raiseWire_objects (w : BitVec 2) (s : State) : (raiseWire w s).objects = s.objects :=
  (congrArg State.objects (raiseWire_only w s) :)
@[simp] theorem raiseWire_presses (w : BitVec 2) (s : State) : (raiseWire w s).presses = s.presses :=
  (congrArg State.presses (raiseWire_only w s) :)
@[simp] theorem raiseWire_failed (w : BitVec 2) (s : State) : (raiseWire w s).failed = s.failed :=
  (congrArg State.failed (raiseWire_only w s) :)
@[simp] theorem raiseWire_engines (w : BitVec 2) (s : State) : (raiseWire w s).engines = s.engines :=
  (congrArg State.engines (raiseWire_only w s) :)
@[simp] theorem raiseWire_intake (w : BitVec 2) (s : State) : (raiseWire w s).intake = s.intake :=
  (congrArg State.intake (raiseWire_only w s) :)
@[simp] theorem raiseWire_codec (w : BitVec 2) (s : State) : (raiseWire w s).codec = s.codec :=
  (congrArg State.codec (raiseWire_only w s) :)
@[simp] theorem raiseWire_pipes (w : BitVec 2) (s : State) : (raiseWire w s).pipes = s.pipes :=
  (congrArg State.pipes (raiseWire_only w s) :)
@[simp] theorem raiseWire_mmu (w : BitVec 2) (s : State) : (raiseWire w s).mmu = s.mmu :=
  (congrArg State.mmu (raiseWire_only w s) :)
@[simp] theorem raiseWire_memctl (w : BitVec 2) (s : State) : (raiseWire w s).memctl = s.memctl :=
  (congrArg State.memctl (raiseWire_only w s) :)
@[simp] theorem raiseWire_dram (w : BitVec 2) (s : State) : (raiseWire w s).dram = s.dram :=
  (congrArg State.dram (raiseWire_only w s) :)
@[simp] theorem raiseWire_cellar (w : BitVec 2) (s : State) : (raiseWire w s).cellar = s.cellar :=
  (congrArg State.cellar (raiseWire_only w s) :)
@[simp] theorem raiseWire_vine (w : BitVec 2) (s : State) : (raiseWire w s).vine = s.vine :=
  (congrArg State.vine (raiseWire_only w s) :)
@[simp] theorem raiseWire_parcels (w : BitVec 2) (s : State) : (raiseWire w s).parcels = s.parcels :=
  (congrArg State.parcels (raiseWire_only w s) :)
@[simp] theorem raiseWire_acct (w : BitVec 2) (s : State) : (raiseWire w s).acct = s.acct :=
  (congrArg State.acct (raiseWire_only w s) :)
@[simp] theorem raiseWire_fw (w : BitVec 2) (s : State) : (raiseWire w s).fw = s.fw :=
  (congrArg State.fw (raiseWire_only w s) :)
@[simp] theorem raiseWire_heartbeat (w : BitVec 2) (s : State) : (raiseWire w s).heartbeat = s.heartbeat :=
  (congrArg State.heartbeat (raiseWire_only w s) :)
@[simp] theorem raiseWire_checking (w : BitVec 2) (s : State) : (raiseWire w s).checking = s.checking :=
  (congrArg State.checking (raiseWire_only w s) :)
@[simp] theorem raiseWire_checkTurn (w : BitVec 2) (s : State) : (raiseWire w s).checkTurn = s.checkTurn :=
  (congrArg State.checkTurn (raiseWire_only w s) :)
@[simp] theorem raiseWire_lanes (w : BitVec 2) (s : State) : (raiseWire w s).lanes = s.lanes :=
  (congrArg State.lanes (raiseWire_only w s) :)

/-! ### traceEvent -/

/-- The fields that `traceEvent` can change. -/
theorem traceEvent_only (a : Nat) (b : BitVec 16) (s : State) :
    traceEvent a b s = { s with diag := (traceEvent a b s).diag, book := (traceEvent a b s).book, freeCtr := (traceEvent a b s).freeCtr, port := (traceEvent a b s).port } := by
  unfold traceEvent; dsimp only; split
  · rfl
  · split <;> rfl
@[simp] theorem traceEvent_pending (a : Nat) (b : BitVec 16) (s : State) : (traceEvent a b s).pending = s.pending :=
  (congrArg State.pending (traceEvent_only a b s) :)
@[simp] theorem traceEvent_time (a : Nat) (b : BitVec 16) (s : State) : (traceEvent a b s).time = s.time :=
  (congrArg State.time (traceEvent_only a b s) :)
@[simp] theorem traceEvent_fuses (a : Nat) (b : BitVec 16) (s : State) : (traceEvent a b s).fuses = s.fuses :=
  (congrArg State.fuses (traceEvent_only a b s) :)
@[simp] theorem traceEvent_straps (a : Nat) (b : BitVec 16) (s : State) : (traceEvent a b s).straps = s.straps :=
  (congrArg State.straps (traceEvent_only a b s) :)
@[simp] theorem traceEvent_pins (a : Nat) (b : BitVec 16) (s : State) : (traceEvent a b s).pins = s.pins :=
  (congrArg State.pins (traceEvent_only a b s) :)
@[simp] theorem traceEvent_pages (a : Nat) (b : BitVec 16) (s : State) : (traceEvent a b s).pages = s.pages :=
  (congrArg State.pages (traceEvent_only a b s) :)
@[simp] theorem traceEvent_bootRec (a : Nat) (b : BitVec 16) (s : State) : (traceEvent a b s).bootRec = s.bootRec :=
  (congrArg State.bootRec (traceEvent_only a b s) :)
@[simp] theorem traceEvent_boot (a : Nat) (b : BitVec 16) (s : State) : (traceEvent a b s).boot = s.boot :=
  (congrArg State.boot (traceEvent_only a b s) :)
@[simp] theorem traceEvent_flash (a : Nat) (b : BitVec 16) (s : State) : (traceEvent a b s).flash = s.flash :=
  (congrArg State.flash (traceEvent_only a b s) :)
@[simp] theorem traceEvent_clocks (a : Nat) (b : BitVec 16) (s : State) : (traceEvent a b s).clocks = s.clocks :=
  (congrArg State.clocks (traceEvent_only a b s) :)
@[simp] theorem traceEvent_power (a : Nat) (b : BitVec 16) (s : State) : (traceEvent a b s).power = s.power :=
  (congrArg State.power (traceEvent_only a b s) :)
@[simp] theorem traceEvent_thermal (a : Nat) (b : BitVec 16) (s : State) : (traceEvent a b s).thermal = s.thermal :=
  (congrArg State.thermal (traceEvent_only a b s) :)
@[simp] theorem traceEvent_ageing (a : Nat) (b : BitVec 16) (s : State) : (traceEvent a b s).ageing = s.ageing :=
  (congrArg State.ageing (traceEvent_only a b s) :)
@[simp] theorem traceEvent_safety (a : Nat) (b : BitVec 16) (s : State) : (traceEvent a b s).safety = s.safety :=
  (congrArg State.safety (traceEvent_only a b s) :)
@[simp] theorem traceEvent_queues (a : Nat) (b : BitVec 16) (s : State) : (traceEvent a b s).queues = s.queues :=
  (congrArg State.queues (traceEvent_only a b s) :)
@[simp] theorem traceEvent_objects (a : Nat) (b : BitVec 16) (s : State) : (traceEvent a b s).objects = s.objects :=
  (congrArg State.objects (traceEvent_only a b s) :)
@[simp] theorem traceEvent_presses (a : Nat) (b : BitVec 16) (s : State) : (traceEvent a b s).presses = s.presses :=
  (congrArg State.presses (traceEvent_only a b s) :)
@[simp] theorem traceEvent_failed (a : Nat) (b : BitVec 16) (s : State) : (traceEvent a b s).failed = s.failed :=
  (congrArg State.failed (traceEvent_only a b s) :)
@[simp] theorem traceEvent_engines (a : Nat) (b : BitVec 16) (s : State) : (traceEvent a b s).engines = s.engines :=
  (congrArg State.engines (traceEvent_only a b s) :)
@[simp] theorem traceEvent_intake (a : Nat) (b : BitVec 16) (s : State) : (traceEvent a b s).intake = s.intake :=
  (congrArg State.intake (traceEvent_only a b s) :)
@[simp] theorem traceEvent_codec (a : Nat) (b : BitVec 16) (s : State) : (traceEvent a b s).codec = s.codec :=
  (congrArg State.codec (traceEvent_only a b s) :)
@[simp] theorem traceEvent_pipes (a : Nat) (b : BitVec 16) (s : State) : (traceEvent a b s).pipes = s.pipes :=
  (congrArg State.pipes (traceEvent_only a b s) :)
@[simp] theorem traceEvent_mmu (a : Nat) (b : BitVec 16) (s : State) : (traceEvent a b s).mmu = s.mmu :=
  (congrArg State.mmu (traceEvent_only a b s) :)
@[simp] theorem traceEvent_memctl (a : Nat) (b : BitVec 16) (s : State) : (traceEvent a b s).memctl = s.memctl :=
  (congrArg State.memctl (traceEvent_only a b s) :)
@[simp] theorem traceEvent_dram (a : Nat) (b : BitVec 16) (s : State) : (traceEvent a b s).dram = s.dram :=
  (congrArg State.dram (traceEvent_only a b s) :)
@[simp] theorem traceEvent_cellar (a : Nat) (b : BitVec 16) (s : State) : (traceEvent a b s).cellar = s.cellar :=
  (congrArg State.cellar (traceEvent_only a b s) :)
@[simp] theorem traceEvent_vine (a : Nat) (b : BitVec 16) (s : State) : (traceEvent a b s).vine = s.vine :=
  (congrArg State.vine (traceEvent_only a b s) :)
@[simp] theorem traceEvent_parcels (a : Nat) (b : BitVec 16) (s : State) : (traceEvent a b s).parcels = s.parcels :=
  (congrArg State.parcels (traceEvent_only a b s) :)
@[simp] theorem traceEvent_acct (a : Nat) (b : BitVec 16) (s : State) : (traceEvent a b s).acct = s.acct :=
  (congrArg State.acct (traceEvent_only a b s) :)
@[simp] theorem traceEvent_fw (a : Nat) (b : BitVec 16) (s : State) : (traceEvent a b s).fw = s.fw :=
  (congrArg State.fw (traceEvent_only a b s) :)
@[simp] theorem traceEvent_heartbeat (a : Nat) (b : BitVec 16) (s : State) : (traceEvent a b s).heartbeat = s.heartbeat :=
  (congrArg State.heartbeat (traceEvent_only a b s) :)
@[simp] theorem traceEvent_checking (a : Nat) (b : BitVec 16) (s : State) : (traceEvent a b s).checking = s.checking :=
  (congrArg State.checking (traceEvent_only a b s) :)
@[simp] theorem traceEvent_checkTurn (a : Nat) (b : BitVec 16) (s : State) : (traceEvent a b s).checkTurn = s.checkTurn :=
  (congrArg State.checkTurn (traceEvent_only a b s) :)
@[simp] theorem traceEvent_lanes (a : Nat) (b : BitVec 16) (s : State) : (traceEvent a b s).lanes = s.lanes :=
  (congrArg State.lanes (traceEvent_only a b s) :)

/-! ### pageError -/

/-- The fields that `pageError` can change. -/
theorem pageError_only (p : Fin 121) (c : BitVec 16) (i : Word) (a : Long) (b : Byte) (s : State) :
    pageError p c i a b s = { s with pages := (pageError p c i a b s).pages, diag := (pageError p c i a b s).diag, freeCtr := (pageError p c i a b s).freeCtr } := by
  unfold pageError logEvent; dsimp only; split <;> rfl
@[simp] theorem pageError_pending (p : Fin 121) (c : BitVec 16) (i : Word) (a : Long) (b : Byte) (s : State) : (pageError p c i a b s).pending = s.pending :=
  (congrArg State.pending (pageError_only p c i a b s) :)
@[simp] theorem pageError_time (p : Fin 121) (c : BitVec 16) (i : Word) (a : Long) (b : Byte) (s : State) : (pageError p c i a b s).time = s.time :=
  (congrArg State.time (pageError_only p c i a b s) :)
@[simp] theorem pageError_fuses (p : Fin 121) (c : BitVec 16) (i : Word) (a : Long) (b : Byte) (s : State) : (pageError p c i a b s).fuses = s.fuses :=
  (congrArg State.fuses (pageError_only p c i a b s) :)
@[simp] theorem pageError_straps (p : Fin 121) (c : BitVec 16) (i : Word) (a : Long) (b : Byte) (s : State) : (pageError p c i a b s).straps = s.straps :=
  (congrArg State.straps (pageError_only p c i a b s) :)
@[simp] theorem pageError_pins (p : Fin 121) (c : BitVec 16) (i : Word) (a : Long) (b : Byte) (s : State) : (pageError p c i a b s).pins = s.pins :=
  (congrArg State.pins (pageError_only p c i a b s) :)
@[simp] theorem pageError_bootRec (p : Fin 121) (c : BitVec 16) (i : Word) (a : Long) (b : Byte) (s : State) : (pageError p c i a b s).bootRec = s.bootRec :=
  (congrArg State.bootRec (pageError_only p c i a b s) :)
@[simp] theorem pageError_boot (p : Fin 121) (c : BitVec 16) (i : Word) (a : Long) (b : Byte) (s : State) : (pageError p c i a b s).boot = s.boot :=
  (congrArg State.boot (pageError_only p c i a b s) :)
@[simp] theorem pageError_flash (p : Fin 121) (c : BitVec 16) (i : Word) (a : Long) (b : Byte) (s : State) : (pageError p c i a b s).flash = s.flash :=
  (congrArg State.flash (pageError_only p c i a b s) :)
@[simp] theorem pageError_clocks (p : Fin 121) (c : BitVec 16) (i : Word) (a : Long) (b : Byte) (s : State) : (pageError p c i a b s).clocks = s.clocks :=
  (congrArg State.clocks (pageError_only p c i a b s) :)
@[simp] theorem pageError_power (p : Fin 121) (c : BitVec 16) (i : Word) (a : Long) (b : Byte) (s : State) : (pageError p c i a b s).power = s.power :=
  (congrArg State.power (pageError_only p c i a b s) :)
@[simp] theorem pageError_thermal (p : Fin 121) (c : BitVec 16) (i : Word) (a : Long) (b : Byte) (s : State) : (pageError p c i a b s).thermal = s.thermal :=
  (congrArg State.thermal (pageError_only p c i a b s) :)
@[simp] theorem pageError_ageing (p : Fin 121) (c : BitVec 16) (i : Word) (a : Long) (b : Byte) (s : State) : (pageError p c i a b s).ageing = s.ageing :=
  (congrArg State.ageing (pageError_only p c i a b s) :)
@[simp] theorem pageError_safety (p : Fin 121) (c : BitVec 16) (i : Word) (a : Long) (b : Byte) (s : State) : (pageError p c i a b s).safety = s.safety :=
  (congrArg State.safety (pageError_only p c i a b s) :)
@[simp] theorem pageError_book (p : Fin 121) (c : BitVec 16) (i : Word) (a : Long) (b : Byte) (s : State) : (pageError p c i a b s).book = s.book :=
  (congrArg State.book (pageError_only p c i a b s) :)
@[simp] theorem pageError_port (p : Fin 121) (c : BitVec 16) (i : Word) (a : Long) (b : Byte) (s : State) : (pageError p c i a b s).port = s.port :=
  (congrArg State.port (pageError_only p c i a b s) :)
@[simp] theorem pageError_queues (p : Fin 121) (c : BitVec 16) (i : Word) (a : Long) (b : Byte) (s : State) : (pageError p c i a b s).queues = s.queues :=
  (congrArg State.queues (pageError_only p c i a b s) :)
@[simp] theorem pageError_objects (p : Fin 121) (c : BitVec 16) (i : Word) (a : Long) (b : Byte) (s : State) : (pageError p c i a b s).objects = s.objects :=
  (congrArg State.objects (pageError_only p c i a b s) :)
@[simp] theorem pageError_presses (p : Fin 121) (c : BitVec 16) (i : Word) (a : Long) (b : Byte) (s : State) : (pageError p c i a b s).presses = s.presses :=
  (congrArg State.presses (pageError_only p c i a b s) :)
@[simp] theorem pageError_failed (p : Fin 121) (c : BitVec 16) (i : Word) (a : Long) (b : Byte) (s : State) : (pageError p c i a b s).failed = s.failed :=
  (congrArg State.failed (pageError_only p c i a b s) :)
@[simp] theorem pageError_engines (p : Fin 121) (c : BitVec 16) (i : Word) (a : Long) (b : Byte) (s : State) : (pageError p c i a b s).engines = s.engines :=
  (congrArg State.engines (pageError_only p c i a b s) :)
@[simp] theorem pageError_intake (p : Fin 121) (c : BitVec 16) (i : Word) (a : Long) (b : Byte) (s : State) : (pageError p c i a b s).intake = s.intake :=
  (congrArg State.intake (pageError_only p c i a b s) :)
@[simp] theorem pageError_codec (p : Fin 121) (c : BitVec 16) (i : Word) (a : Long) (b : Byte) (s : State) : (pageError p c i a b s).codec = s.codec :=
  (congrArg State.codec (pageError_only p c i a b s) :)
@[simp] theorem pageError_pipes (p : Fin 121) (c : BitVec 16) (i : Word) (a : Long) (b : Byte) (s : State) : (pageError p c i a b s).pipes = s.pipes :=
  (congrArg State.pipes (pageError_only p c i a b s) :)
@[simp] theorem pageError_mmu (p : Fin 121) (c : BitVec 16) (i : Word) (a : Long) (b : Byte) (s : State) : (pageError p c i a b s).mmu = s.mmu :=
  (congrArg State.mmu (pageError_only p c i a b s) :)
@[simp] theorem pageError_memctl (p : Fin 121) (c : BitVec 16) (i : Word) (a : Long) (b : Byte) (s : State) : (pageError p c i a b s).memctl = s.memctl :=
  (congrArg State.memctl (pageError_only p c i a b s) :)
@[simp] theorem pageError_dram (p : Fin 121) (c : BitVec 16) (i : Word) (a : Long) (b : Byte) (s : State) : (pageError p c i a b s).dram = s.dram :=
  (congrArg State.dram (pageError_only p c i a b s) :)
@[simp] theorem pageError_cellar (p : Fin 121) (c : BitVec 16) (i : Word) (a : Long) (b : Byte) (s : State) : (pageError p c i a b s).cellar = s.cellar :=
  (congrArg State.cellar (pageError_only p c i a b s) :)
@[simp] theorem pageError_vine (p : Fin 121) (c : BitVec 16) (i : Word) (a : Long) (b : Byte) (s : State) : (pageError p c i a b s).vine = s.vine :=
  (congrArg State.vine (pageError_only p c i a b s) :)
@[simp] theorem pageError_parcels (p : Fin 121) (c : BitVec 16) (i : Word) (a : Long) (b : Byte) (s : State) : (pageError p c i a b s).parcels = s.parcels :=
  (congrArg State.parcels (pageError_only p c i a b s) :)
@[simp] theorem pageError_acct (p : Fin 121) (c : BitVec 16) (i : Word) (a : Long) (b : Byte) (s : State) : (pageError p c i a b s).acct = s.acct :=
  (congrArg State.acct (pageError_only p c i a b s) :)
@[simp] theorem pageError_fw (p : Fin 121) (c : BitVec 16) (i : Word) (a : Long) (b : Byte) (s : State) : (pageError p c i a b s).fw = s.fw :=
  (congrArg State.fw (pageError_only p c i a b s) :)
@[simp] theorem pageError_heartbeat (p : Fin 121) (c : BitVec 16) (i : Word) (a : Long) (b : Byte) (s : State) : (pageError p c i a b s).heartbeat = s.heartbeat :=
  (congrArg State.heartbeat (pageError_only p c i a b s) :)
@[simp] theorem pageError_checking (p : Fin 121) (c : BitVec 16) (i : Word) (a : Long) (b : Byte) (s : State) : (pageError p c i a b s).checking = s.checking :=
  (congrArg State.checking (pageError_only p c i a b s) :)
@[simp] theorem pageError_checkTurn (p : Fin 121) (c : BitVec 16) (i : Word) (a : Long) (b : Byte) (s : State) : (pageError p c i a b s).checkTurn = s.checkTurn :=
  (congrArg State.checkTurn (pageError_only p c i a b s) :)
@[simp] theorem pageError_lanes (p : Fin 121) (c : BitVec 16) (i : Word) (a : Long) (b : Byte) (s : State) : (pageError p c i a b s).lanes = s.lanes :=
  (congrArg State.lanes (pageError_only p c i a b s) :)

/-! ### noteEcho -/

/-- The fields that `noteEcho` can change. -/
theorem noteEcho_only (a n : Nat) (w : Option (BitVec 2)) (s : State) :
    noteEcho a n w s = { s with port := (noteEcho a n w s).port } := by
  unfold noteEcho; repeat' split
  all_goals rfl
@[simp] theorem noteEcho_pending (a n : Nat) (w : Option (BitVec 2)) (s : State) : (noteEcho a n w s).pending = s.pending :=
  (congrArg State.pending (noteEcho_only a n w s) :)
@[simp] theorem noteEcho_freeCtr (a n : Nat) (w : Option (BitVec 2)) (s : State) : (noteEcho a n w s).freeCtr = s.freeCtr :=
  (congrArg State.freeCtr (noteEcho_only a n w s) :)
@[simp] theorem noteEcho_time (a n : Nat) (w : Option (BitVec 2)) (s : State) : (noteEcho a n w s).time = s.time :=
  (congrArg State.time (noteEcho_only a n w s) :)
@[simp] theorem noteEcho_fuses (a n : Nat) (w : Option (BitVec 2)) (s : State) : (noteEcho a n w s).fuses = s.fuses :=
  (congrArg State.fuses (noteEcho_only a n w s) :)
@[simp] theorem noteEcho_straps (a n : Nat) (w : Option (BitVec 2)) (s : State) : (noteEcho a n w s).straps = s.straps :=
  (congrArg State.straps (noteEcho_only a n w s) :)
@[simp] theorem noteEcho_pins (a n : Nat) (w : Option (BitVec 2)) (s : State) : (noteEcho a n w s).pins = s.pins :=
  (congrArg State.pins (noteEcho_only a n w s) :)
@[simp] theorem noteEcho_pages (a n : Nat) (w : Option (BitVec 2)) (s : State) : (noteEcho a n w s).pages = s.pages :=
  (congrArg State.pages (noteEcho_only a n w s) :)
@[simp] theorem noteEcho_bootRec (a n : Nat) (w : Option (BitVec 2)) (s : State) : (noteEcho a n w s).bootRec = s.bootRec :=
  (congrArg State.bootRec (noteEcho_only a n w s) :)
@[simp] theorem noteEcho_boot (a n : Nat) (w : Option (BitVec 2)) (s : State) : (noteEcho a n w s).boot = s.boot :=
  (congrArg State.boot (noteEcho_only a n w s) :)
@[simp] theorem noteEcho_flash (a n : Nat) (w : Option (BitVec 2)) (s : State) : (noteEcho a n w s).flash = s.flash :=
  (congrArg State.flash (noteEcho_only a n w s) :)
@[simp] theorem noteEcho_clocks (a n : Nat) (w : Option (BitVec 2)) (s : State) : (noteEcho a n w s).clocks = s.clocks :=
  (congrArg State.clocks (noteEcho_only a n w s) :)
@[simp] theorem noteEcho_power (a n : Nat) (w : Option (BitVec 2)) (s : State) : (noteEcho a n w s).power = s.power :=
  (congrArg State.power (noteEcho_only a n w s) :)
@[simp] theorem noteEcho_thermal (a n : Nat) (w : Option (BitVec 2)) (s : State) : (noteEcho a n w s).thermal = s.thermal :=
  (congrArg State.thermal (noteEcho_only a n w s) :)
@[simp] theorem noteEcho_ageing (a n : Nat) (w : Option (BitVec 2)) (s : State) : (noteEcho a n w s).ageing = s.ageing :=
  (congrArg State.ageing (noteEcho_only a n w s) :)
@[simp] theorem noteEcho_safety (a n : Nat) (w : Option (BitVec 2)) (s : State) : (noteEcho a n w s).safety = s.safety :=
  (congrArg State.safety (noteEcho_only a n w s) :)
@[simp] theorem noteEcho_diag (a n : Nat) (w : Option (BitVec 2)) (s : State) : (noteEcho a n w s).diag = s.diag :=
  (congrArg State.diag (noteEcho_only a n w s) :)
@[simp] theorem noteEcho_book (a n : Nat) (w : Option (BitVec 2)) (s : State) : (noteEcho a n w s).book = s.book :=
  (congrArg State.book (noteEcho_only a n w s) :)
@[simp] theorem noteEcho_queues (a n : Nat) (w : Option (BitVec 2)) (s : State) : (noteEcho a n w s).queues = s.queues :=
  (congrArg State.queues (noteEcho_only a n w s) :)
@[simp] theorem noteEcho_objects (a n : Nat) (w : Option (BitVec 2)) (s : State) : (noteEcho a n w s).objects = s.objects :=
  (congrArg State.objects (noteEcho_only a n w s) :)
@[simp] theorem noteEcho_presses (a n : Nat) (w : Option (BitVec 2)) (s : State) : (noteEcho a n w s).presses = s.presses :=
  (congrArg State.presses (noteEcho_only a n w s) :)
@[simp] theorem noteEcho_failed (a n : Nat) (w : Option (BitVec 2)) (s : State) : (noteEcho a n w s).failed = s.failed :=
  (congrArg State.failed (noteEcho_only a n w s) :)
@[simp] theorem noteEcho_engines (a n : Nat) (w : Option (BitVec 2)) (s : State) : (noteEcho a n w s).engines = s.engines :=
  (congrArg State.engines (noteEcho_only a n w s) :)
@[simp] theorem noteEcho_intake (a n : Nat) (w : Option (BitVec 2)) (s : State) : (noteEcho a n w s).intake = s.intake :=
  (congrArg State.intake (noteEcho_only a n w s) :)
@[simp] theorem noteEcho_codec (a n : Nat) (w : Option (BitVec 2)) (s : State) : (noteEcho a n w s).codec = s.codec :=
  (congrArg State.codec (noteEcho_only a n w s) :)
@[simp] theorem noteEcho_pipes (a n : Nat) (w : Option (BitVec 2)) (s : State) : (noteEcho a n w s).pipes = s.pipes :=
  (congrArg State.pipes (noteEcho_only a n w s) :)
@[simp] theorem noteEcho_mmu (a n : Nat) (w : Option (BitVec 2)) (s : State) : (noteEcho a n w s).mmu = s.mmu :=
  (congrArg State.mmu (noteEcho_only a n w s) :)
@[simp] theorem noteEcho_memctl (a n : Nat) (w : Option (BitVec 2)) (s : State) : (noteEcho a n w s).memctl = s.memctl :=
  (congrArg State.memctl (noteEcho_only a n w s) :)
@[simp] theorem noteEcho_dram (a n : Nat) (w : Option (BitVec 2)) (s : State) : (noteEcho a n w s).dram = s.dram :=
  (congrArg State.dram (noteEcho_only a n w s) :)
@[simp] theorem noteEcho_cellar (a n : Nat) (w : Option (BitVec 2)) (s : State) : (noteEcho a n w s).cellar = s.cellar :=
  (congrArg State.cellar (noteEcho_only a n w s) :)
@[simp] theorem noteEcho_vine (a n : Nat) (w : Option (BitVec 2)) (s : State) : (noteEcho a n w s).vine = s.vine :=
  (congrArg State.vine (noteEcho_only a n w s) :)
@[simp] theorem noteEcho_parcels (a n : Nat) (w : Option (BitVec 2)) (s : State) : (noteEcho a n w s).parcels = s.parcels :=
  (congrArg State.parcels (noteEcho_only a n w s) :)
@[simp] theorem noteEcho_acct (a n : Nat) (w : Option (BitVec 2)) (s : State) : (noteEcho a n w s).acct = s.acct :=
  (congrArg State.acct (noteEcho_only a n w s) :)
@[simp] theorem noteEcho_fw (a n : Nat) (w : Option (BitVec 2)) (s : State) : (noteEcho a n w s).fw = s.fw :=
  (congrArg State.fw (noteEcho_only a n w s) :)
@[simp] theorem noteEcho_heartbeat (a n : Nat) (w : Option (BitVec 2)) (s : State) : (noteEcho a n w s).heartbeat = s.heartbeat :=
  (congrArg State.heartbeat (noteEcho_only a n w s) :)
@[simp] theorem noteEcho_checking (a n : Nat) (w : Option (BitVec 2)) (s : State) : (noteEcho a n w s).checking = s.checking :=
  (congrArg State.checking (noteEcho_only a n w s) :)
@[simp] theorem noteEcho_checkTurn (a n : Nat) (w : Option (BitVec 2)) (s : State) : (noteEcho a n w s).checkTurn = s.checkTurn :=
  (congrArg State.checkTurn (noteEcho_only a n w s) :)
@[simp] theorem noteEcho_lanes (a n : Nat) (w : Option (BitVec 2)) (s : State) : (noteEcho a n w s).lanes = s.lanes :=
  (congrArg State.lanes (noteEcho_only a n w s) :)

/-! ### errorWire -/

/-- The fields that `errorWire` can change. -/
theorem errorWire_only  (s : State) :
    errorWire  s = { s with port := (errorWire  s).port } := by
  unfold errorWire; split
  · rfl
  · split
    · rw [raiseWire_only]
    · split
      · rfl
      · rw [noteEcho_only]
@[simp] theorem errorWire_pending  (s : State) : (errorWire  s).pending = s.pending :=
  (congrArg State.pending (errorWire_only  s) :)
@[simp] theorem errorWire_freeCtr  (s : State) : (errorWire  s).freeCtr = s.freeCtr :=
  (congrArg State.freeCtr (errorWire_only  s) :)
@[simp] theorem errorWire_time  (s : State) : (errorWire  s).time = s.time :=
  (congrArg State.time (errorWire_only  s) :)
@[simp] theorem errorWire_fuses  (s : State) : (errorWire  s).fuses = s.fuses :=
  (congrArg State.fuses (errorWire_only  s) :)
@[simp] theorem errorWire_straps  (s : State) : (errorWire  s).straps = s.straps :=
  (congrArg State.straps (errorWire_only  s) :)
@[simp] theorem errorWire_pins  (s : State) : (errorWire  s).pins = s.pins :=
  (congrArg State.pins (errorWire_only  s) :)
@[simp] theorem errorWire_pages  (s : State) : (errorWire  s).pages = s.pages :=
  (congrArg State.pages (errorWire_only  s) :)
@[simp] theorem errorWire_bootRec  (s : State) : (errorWire  s).bootRec = s.bootRec :=
  (congrArg State.bootRec (errorWire_only  s) :)
@[simp] theorem errorWire_boot  (s : State) : (errorWire  s).boot = s.boot :=
  (congrArg State.boot (errorWire_only  s) :)
@[simp] theorem errorWire_flash  (s : State) : (errorWire  s).flash = s.flash :=
  (congrArg State.flash (errorWire_only  s) :)
@[simp] theorem errorWire_clocks  (s : State) : (errorWire  s).clocks = s.clocks :=
  (congrArg State.clocks (errorWire_only  s) :)
@[simp] theorem errorWire_power  (s : State) : (errorWire  s).power = s.power :=
  (congrArg State.power (errorWire_only  s) :)
@[simp] theorem errorWire_thermal  (s : State) : (errorWire  s).thermal = s.thermal :=
  (congrArg State.thermal (errorWire_only  s) :)
@[simp] theorem errorWire_ageing  (s : State) : (errorWire  s).ageing = s.ageing :=
  (congrArg State.ageing (errorWire_only  s) :)
@[simp] theorem errorWire_safety  (s : State) : (errorWire  s).safety = s.safety :=
  (congrArg State.safety (errorWire_only  s) :)
@[simp] theorem errorWire_diag  (s : State) : (errorWire  s).diag = s.diag :=
  (congrArg State.diag (errorWire_only  s) :)
@[simp] theorem errorWire_book  (s : State) : (errorWire  s).book = s.book :=
  (congrArg State.book (errorWire_only  s) :)
@[simp] theorem errorWire_queues  (s : State) : (errorWire  s).queues = s.queues :=
  (congrArg State.queues (errorWire_only  s) :)
@[simp] theorem errorWire_objects  (s : State) : (errorWire  s).objects = s.objects :=
  (congrArg State.objects (errorWire_only  s) :)
@[simp] theorem errorWire_presses  (s : State) : (errorWire  s).presses = s.presses :=
  (congrArg State.presses (errorWire_only  s) :)
@[simp] theorem errorWire_failed  (s : State) : (errorWire  s).failed = s.failed :=
  (congrArg State.failed (errorWire_only  s) :)
@[simp] theorem errorWire_engines  (s : State) : (errorWire  s).engines = s.engines :=
  (congrArg State.engines (errorWire_only  s) :)
@[simp] theorem errorWire_intake  (s : State) : (errorWire  s).intake = s.intake :=
  (congrArg State.intake (errorWire_only  s) :)
@[simp] theorem errorWire_codec  (s : State) : (errorWire  s).codec = s.codec :=
  (congrArg State.codec (errorWire_only  s) :)
@[simp] theorem errorWire_pipes  (s : State) : (errorWire  s).pipes = s.pipes :=
  (congrArg State.pipes (errorWire_only  s) :)
@[simp] theorem errorWire_mmu  (s : State) : (errorWire  s).mmu = s.mmu :=
  (congrArg State.mmu (errorWire_only  s) :)
@[simp] theorem errorWire_memctl  (s : State) : (errorWire  s).memctl = s.memctl :=
  (congrArg State.memctl (errorWire_only  s) :)
@[simp] theorem errorWire_dram  (s : State) : (errorWire  s).dram = s.dram :=
  (congrArg State.dram (errorWire_only  s) :)
@[simp] theorem errorWire_cellar  (s : State) : (errorWire  s).cellar = s.cellar :=
  (congrArg State.cellar (errorWire_only  s) :)
@[simp] theorem errorWire_vine  (s : State) : (errorWire  s).vine = s.vine :=
  (congrArg State.vine (errorWire_only  s) :)
@[simp] theorem errorWire_parcels  (s : State) : (errorWire  s).parcels = s.parcels :=
  (congrArg State.parcels (errorWire_only  s) :)
@[simp] theorem errorWire_acct  (s : State) : (errorWire  s).acct = s.acct :=
  (congrArg State.acct (errorWire_only  s) :)
@[simp] theorem errorWire_fw  (s : State) : (errorWire  s).fw = s.fw :=
  (congrArg State.fw (errorWire_only  s) :)
@[simp] theorem errorWire_heartbeat  (s : State) : (errorWire  s).heartbeat = s.heartbeat :=
  (congrArg State.heartbeat (errorWire_only  s) :)
@[simp] theorem errorWire_checking  (s : State) : (errorWire  s).checking = s.checking :=
  (congrArg State.checking (errorWire_only  s) :)
@[simp] theorem errorWire_checkTurn  (s : State) : (errorWire  s).checkTurn = s.checkTurn :=
  (congrArg State.checkTurn (errorWire_only  s) :)
@[simp] theorem errorWire_lanes  (s : State) : (errorWire  s).lanes = s.lanes :=
  (congrArg State.lanes (errorWire_only  s) :)

/-! ### hostError -/

/-- The fields that `hostError` can change. -/
theorem hostError_only (c : BitVec 16) (w : Nat) (s : State) :
    hostError c w s = { s with pages := (hostError c w s).pages, diag := (hostError c w s).diag, freeCtr := (hostError c w s).freeCtr, port := (hostError c w s).port } := by
  unfold hostError; dsimp only; rw [errorWire_only, pageError_only]
@[simp] theorem hostError_pending (c : BitVec 16) (w : Nat) (s : State) : (hostError c w s).pending = s.pending :=
  (congrArg State.pending (hostError_only c w s) :)
@[simp] theorem hostError_time (c : BitVec 16) (w : Nat) (s : State) : (hostError c w s).time = s.time :=
  (congrArg State.time (hostError_only c w s) :)
@[simp] theorem hostError_fuses (c : BitVec 16) (w : Nat) (s : State) : (hostError c w s).fuses = s.fuses :=
  (congrArg State.fuses (hostError_only c w s) :)
@[simp] theorem hostError_straps (c : BitVec 16) (w : Nat) (s : State) : (hostError c w s).straps = s.straps :=
  (congrArg State.straps (hostError_only c w s) :)
@[simp] theorem hostError_pins (c : BitVec 16) (w : Nat) (s : State) : (hostError c w s).pins = s.pins :=
  (congrArg State.pins (hostError_only c w s) :)
@[simp] theorem hostError_bootRec (c : BitVec 16) (w : Nat) (s : State) : (hostError c w s).bootRec = s.bootRec :=
  (congrArg State.bootRec (hostError_only c w s) :)
@[simp] theorem hostError_boot (c : BitVec 16) (w : Nat) (s : State) : (hostError c w s).boot = s.boot :=
  (congrArg State.boot (hostError_only c w s) :)
@[simp] theorem hostError_flash (c : BitVec 16) (w : Nat) (s : State) : (hostError c w s).flash = s.flash :=
  (congrArg State.flash (hostError_only c w s) :)
@[simp] theorem hostError_clocks (c : BitVec 16) (w : Nat) (s : State) : (hostError c w s).clocks = s.clocks :=
  (congrArg State.clocks (hostError_only c w s) :)
@[simp] theorem hostError_power (c : BitVec 16) (w : Nat) (s : State) : (hostError c w s).power = s.power :=
  (congrArg State.power (hostError_only c w s) :)
@[simp] theorem hostError_thermal (c : BitVec 16) (w : Nat) (s : State) : (hostError c w s).thermal = s.thermal :=
  (congrArg State.thermal (hostError_only c w s) :)
@[simp] theorem hostError_ageing (c : BitVec 16) (w : Nat) (s : State) : (hostError c w s).ageing = s.ageing :=
  (congrArg State.ageing (hostError_only c w s) :)
@[simp] theorem hostError_safety (c : BitVec 16) (w : Nat) (s : State) : (hostError c w s).safety = s.safety :=
  (congrArg State.safety (hostError_only c w s) :)
@[simp] theorem hostError_book (c : BitVec 16) (w : Nat) (s : State) : (hostError c w s).book = s.book :=
  (congrArg State.book (hostError_only c w s) :)
@[simp] theorem hostError_queues (c : BitVec 16) (w : Nat) (s : State) : (hostError c w s).queues = s.queues :=
  (congrArg State.queues (hostError_only c w s) :)
@[simp] theorem hostError_objects (c : BitVec 16) (w : Nat) (s : State) : (hostError c w s).objects = s.objects :=
  (congrArg State.objects (hostError_only c w s) :)
@[simp] theorem hostError_presses (c : BitVec 16) (w : Nat) (s : State) : (hostError c w s).presses = s.presses :=
  (congrArg State.presses (hostError_only c w s) :)
@[simp] theorem hostError_failed (c : BitVec 16) (w : Nat) (s : State) : (hostError c w s).failed = s.failed :=
  (congrArg State.failed (hostError_only c w s) :)
@[simp] theorem hostError_engines (c : BitVec 16) (w : Nat) (s : State) : (hostError c w s).engines = s.engines :=
  (congrArg State.engines (hostError_only c w s) :)
@[simp] theorem hostError_intake (c : BitVec 16) (w : Nat) (s : State) : (hostError c w s).intake = s.intake :=
  (congrArg State.intake (hostError_only c w s) :)
@[simp] theorem hostError_codec (c : BitVec 16) (w : Nat) (s : State) : (hostError c w s).codec = s.codec :=
  (congrArg State.codec (hostError_only c w s) :)
@[simp] theorem hostError_pipes (c : BitVec 16) (w : Nat) (s : State) : (hostError c w s).pipes = s.pipes :=
  (congrArg State.pipes (hostError_only c w s) :)
@[simp] theorem hostError_mmu (c : BitVec 16) (w : Nat) (s : State) : (hostError c w s).mmu = s.mmu :=
  (congrArg State.mmu (hostError_only c w s) :)
@[simp] theorem hostError_memctl (c : BitVec 16) (w : Nat) (s : State) : (hostError c w s).memctl = s.memctl :=
  (congrArg State.memctl (hostError_only c w s) :)
@[simp] theorem hostError_dram (c : BitVec 16) (w : Nat) (s : State) : (hostError c w s).dram = s.dram :=
  (congrArg State.dram (hostError_only c w s) :)
@[simp] theorem hostError_cellar (c : BitVec 16) (w : Nat) (s : State) : (hostError c w s).cellar = s.cellar :=
  (congrArg State.cellar (hostError_only c w s) :)
@[simp] theorem hostError_vine (c : BitVec 16) (w : Nat) (s : State) : (hostError c w s).vine = s.vine :=
  (congrArg State.vine (hostError_only c w s) :)
@[simp] theorem hostError_parcels (c : BitVec 16) (w : Nat) (s : State) : (hostError c w s).parcels = s.parcels :=
  (congrArg State.parcels (hostError_only c w s) :)
@[simp] theorem hostError_acct (c : BitVec 16) (w : Nat) (s : State) : (hostError c w s).acct = s.acct :=
  (congrArg State.acct (hostError_only c w s) :)
@[simp] theorem hostError_fw (c : BitVec 16) (w : Nat) (s : State) : (hostError c w s).fw = s.fw :=
  (congrArg State.fw (hostError_only c w s) :)
@[simp] theorem hostError_heartbeat (c : BitVec 16) (w : Nat) (s : State) : (hostError c w s).heartbeat = s.heartbeat :=
  (congrArg State.heartbeat (hostError_only c w s) :)
@[simp] theorem hostError_checking (c : BitVec 16) (w : Nat) (s : State) : (hostError c w s).checking = s.checking :=
  (congrArg State.checking (hostError_only c w s) :)
@[simp] theorem hostError_checkTurn (c : BitVec 16) (w : Nat) (s : State) : (hostError c w s).checkTurn = s.checkTurn :=
  (congrArg State.checkTurn (hostError_only c w s) :)
@[simp] theorem hostError_lanes (c : BitVec 16) (w : Nat) (s : State) : (hostError c w s).lanes = s.lanes :=
  (congrArg State.lanes (hostError_only c w s) :)

/-! ### Ends of the file: commands that keep the queue -/

/-- A meaning that leaves the waiting commands alone answers exactly its own next state. -/
theorem answer_keep {f : State → State} {s : State} (h : (f s).pending = s.pending) : answer f s = .next (f s) := by
  unfold answer; rw [← h]

/-- What `answer` gives of any field but the queue. -/
theorem answer_field {α : Type} {f : State → State} {s t : State} (g : State → α)
    (hg : ∀ (u : State) (l : List Instr), g { u with pending := l } = g u) (h : answer f s = .next t) : g t = g (f s) := by
  cases h; exact hg _ _

@[simp] theorem raiseKey_slot (k : Nat) (d : Word) (s : State) :
    vget (raiseKey k d s).safety.slots (Fin.ofNat 134 k) =
      { vget s.safety.slots (Fin.ofNat 134 k) with
        raised := satInc (vget s.safety.slots (Fin.ofNat 134 k)).raised 1
        raisedData := if (vget s.safety.slots (Fin.ofNat 134 k)).raised = 0 then d
          else (vget s.safety.slots (Fin.ofNat 134 k)).raisedData } := by
  simp [raiseKey, State.updSlot]

/-- R703: what an error record holds after a page error. -/
theorem pageError_record (p : Fin 121) (c : BitVec 16) (i : Word) (a : Long) (b : Byte) (s : State) :
    (vget (pageError p c i a b s).pages p).irqError = true ∧
      ((vget s.pages p).errValid = false → (vget (pageError p c i a b s).pages p).errCode = c ∧
        (vget (pageError p c i a b s).pages p).errInfo = i ∧ (vget (pageError p c i a b s).pages p).errAddr = a ∧
        (vget (pageError p c i a b s).pages p).errSrc = b) := by
  have h : (pageError p c i a b s).pages = (s.updPage p fun r =>
      if r.errValid then { r with irqError := true, errLost := satInc r.errLost 1 }
      else { r with irqError := true, errCode := c, errValid := true, errInfo := i, errAddr := a,
                    errTime := s.time, errSrc := b }).pages := by
    unfold pageError; simp
  rw [h]
  simp only [State.updPage, vget_vupd_self]
  constructor
  · split <;> rfl
  · intro hv; simp [hv]

/-- R444: RAISED of a wire rises by 1 on the lead outside the safe state, and no other wire moves. -/
theorem raiseWire_wire (w : BitVec 2) (s : State) (h : s.safety.safe = false) (h0 : s.port.self = 0) :
    vget (raiseWire w s).port.wires w.toFin =
      { vget s.port.wires w.toFin with raised := (vget s.port.wires w.toFin).raised + 1 } := by
  simp [raiseWire, h, isLead, h0]

/-! ### What leaves on the Vine links -/

/-- A state differs from another in its Vine page and the number of the next free value alone. -/
def VineOnly (s t : State) : Prop := t = { s with vine := t.vine, freeCtr := t.freeCtr }

theorem VineOnly.refl (s : State) : VineOnly s s := rfl

theorem VineOnly.trans {s t u : State} (h : VineOnly s t) (g : VineOnly t u) : VineOnly s u := by
  unfold VineOnly at *
  rw [g, h]

theorem foldState_vineOnly {α : Type} (f : α → State → State) (l : List α) (h : ∀ x s, VineOnly s (f x s)) (s : State) :
    VineOnly s (foldState f l s) := by
  induction l generalizing s with
  | nil => exact .refl s
  | cons x r ih => exact (h x s).trans (ih _)

theorem updLink_vineOnly (i : Fin 4) (f : Link → Link) (s : State) : VineOnly s (s.updLink i f) := rfl

theorem transmit_vineOnly (i : Fin 4) (body : List Byte) (s : State) : VineOnly s (transmit i body s) := rfl

theorem bump_vineOnly (s : State) : VineOnly s s.bump := rfl

/-- Sending what waits on a link changes the Vine page alone. -/
theorem pumpLink_vineOnly (n : Nat) (i : Fin 4) (s : State) : VineOnly s (pumpLink n i s) := by
  induction n generalizing s with
  | zero => exact .refl s
  | succ n ih =>
    unfold pumpLink
    dsimp only
    split
    · exact .refl s
    · split
      · exact .refl s
      · split
        · exact ((bump_vineOnly s).trans (transmit_vineOnly ..)).trans (ih _)
        · exact ((updLink_vineOnly i _ s).trans (transmit_vineOnly ..)).trans (ih _)

theorem queueFlit_vineOnly (i : Fin 4) (body : List Byte) (s : State) : VineOnly s (queueFlit i body s) :=
  (updLink_vineOnly i _ s).trans (pumpLink_vineOnly ..)

theorem queueMessage_vineOnly (i : Fin 4) (m : VineMsg) (dest : Nat) (s : State) : VineOnly s (queueMessage i m dest s) :=
  foldState_vineOnly _ _ (fun _ s => (bump_vineOnly s).trans (queueFlit_vineOnly ..)) s

/-- A message that leaves changes the Vine page alone. -/
theorem send_vineOnly (m : VineMsg) (s : State) : VineOnly s (s.send m) := by
  unfold State.send
  split
  · exact .refl s
  · refine .trans (t := s.emit m) rfl (foldState_vineOnly _ _ (fun d s => ?_) _)
    split
    · exact .refl s
    · exact queueMessage_vineOnly ..

theorem sendOn_vineOnly (i : Fin 4) (m : VineMsg) (s : State) : VineOnly s (s.sendOn i m) := queueMessage_vineOnly ..

/-- A link that has no room, or carries nothing, keeps what waits. -/
theorem pumpLink_idle {n : Nat} {i : Fin 4} {s : State} (h : linkCarries s i = false ∨ 128 ≤ (s.link i).replay.length) :
    pumpLink n i s = s := by
  cases n with
  | zero => rfl
  | succ n => simp only [pumpLink]; rw [if_pos (by rcases h with h | h <;> simp [h])]

end Sys2Proof.Machine
end

