-- ==== Sys2Proof/Tests/Slice0.lean ====
section
/-! SUPPORT. Tests of the model: ill-formed commands are refused, small commands give what the spec's tables say, and the
hypotheses of every statement can be met at states written out here. -/

namespace Sys2Proof.Tests

set_option Elab.async false
set_option maxRecDepth 100000

open Sys2Proof.Machine

/-- Straps of the examples. -/
def exStraps : Straps := { bootOrder := 0, refclk50 := false, hostIlv := 0 }

/-- The device with a step of the start as the next one. -/
def atStep (n : Nat) : State := { State.reset with boot := { State.reset.boot with nextStep := n } }

/-- The device after READY, with memory trained and every hart running. -/
def live : State := { State.reset with
  boot := { State.reset.boot with nextStep := 13, ready := true, readySeen := true, hartsReleased := true, hostPortUp := true }
  memctl := { State.reset.memctl with trained := true }
  mmu := { State.reset.mmu with poolPages := 4186112, ttBase := 4186112, spare := 4186112 }
  pins := { safe := false } }

/-- A NOR slot's state word. -/
def withSlot (x : Fin 2) (w : Word) (s : State) : State := s.updNor x fun y => { y with state := w }

/-- A NOR command in progress. -/
def withNor (j : NorJob) (s : State) : State := s.updBoot fun b => { b with norJob := some j }

/-- A change of one PLL, domain or rail of the live device. -/
def livePll (p : Fin 9) (f : Pll → Pll) : State := live.updPll p f
def liveDom (d : Fin 9) (f : Domain → Domain) : State := live.updDom d f
def liveRail (r : Fin 3) (f : AvsRail → AvsRail) : State := live.updRail r f

/-- ARITH on its PLL. -/
def arithOn : State :=
  ((live.updPll 0 fun x => { x with on := true, locked := true }).updDom 0 fun x => { x with src := 2 }).updDom 1
    fun x => { x with src := 2 }

/-- A change of the POWER page. -/
def withPower (f : Power → Power) (s : State) : State := { s with power := f s.power }

/-- PWR_ALERT_N asserted. -/
def alerted (s : State) : State := { s with pins := { s.pins with pwrAlert := true } }

/-- A command of queue 0, of parcel 0, with a sequence number, a KIND and a phase. -/
def withCmd (seq : Word) (kind : Nat) (ph : Phase) (s : State) : State :=
  s.updQueue 0 fun q => { q with
    cfg := rwsReset { q.cfg.live with en := true, size := 256 }
    cmds := q.cmds ++ [{ seq := seq, desc := BitVec.ofNat 8 kind :: List.replicate 63 0, phase := ph }] }

/-- Parcel n active, with press n and queue 0 its own. -/
def withParcel (n : Fin 8) (s : State) : State := s.updParcel n fun p => { p with state := 2 }

/-- Safety mode on. -/
def safetyOn : State := { live with safety := { live.safety with mode := true } }

/-- FLIMIT staged, or waiting for its boundary. -/
def stagedPower (s : State) : State :=
  withPower (fun p => { p with flimit := { p.flimit with staged := { fmin := 120, fmax := 200 } } }) s
def pendingPower (lo hi : BitVec 9) : State :=
  withPower (fun p => { p with flimit := { p.flimit with pending := some { fmin := lo, fmax := hi } } }) live

/-- Device 1 of a system of two. -/
def remote : State := { live with port := { live.port with self := 1, devices := 2 } }

/-- A level recorded for a step of the start. -/
def atLevel (n v : Nat) (s : State) : State := { s with bootRec := setLevel s.bootRec n v }

/-- Step SOURCE waiting for the host's image. -/
def waitsForHost : State := { atStep 4 with
  straps := { exStraps with bootOrder := 3 }, bootRec := { (atStep 4).bootRec with step := 4 } }

/-- A known-answer test that ended with a signature that differs from a word. -/
def katFailed (w : Word) : State :=
  safetyOn.updPress 4 fun p => { p with kat := .ended true, katSig := ~~~w }

/-- A press switched off by its CTRL.EN. -/
def pressOff (s : State) : State := { s with failed := 8 }

/-- A commit of a parcel's or of a queue's page as it stands, waiting. -/
def pendingParcel (n : Fin 8) (s : State) : State :=
  s.updParcel n fun p => { p with cfg := { p.cfg with pending := some p.cfg.live } }
def pendingQueue (q : Fin 256) (s : State) : State :=
  s.updQueue q fun x => { x with cfg := { x.cfg with pending := some x.cfg.live } }

/-- Queue 17 stopped, with nothing submitted. -/
def stoppedQueue : State := live.updQueue 17 fun q => { q with stopped := true, tail := 5, read := 5 }

/-- Device 0 of a row of devices. -/
def rowOf (n : BitVec 7) : State := { live with port := { live.port with devices := n }, vine := { live.vine with cols := n.setWidth 4 } }

/-- Does a step answer a next state with a property? -/
def answersWith (o : Host.Outcome State Fault Refusal) (f : State → Bool) : Bool := match o with
  | .next t => f t
  | _ => false

/-! ### Ill-formed commands -/

/-- One command for each check of well-formedness, with a list of a length that the event does not have. -/
def illFormedExamples : List Instr :=
  [.lpddr6 true [] false [], .vine [], .clockMonitorWindow [], .supplySample [], .avsStep 1 [], .powerMeasure [1] [],
   .thermalSample [], .vintageReading [], .hostRead 0 0 0 63 2, .hostWrite 0 0 0 0 [] .clean,
   .forwardedWriteApply 60 (List.replicate 5 none), .echoApply 1 0 [] none, .odeccPoll [], .flitReceive 0 []]

theorem test_ill_formed_is_not_wf : (illFormedExamples.all fun c => !c.wf) = true := by decide

theorem test_ill_formed_is_refused :
    exec (.lpddr6 true [] false []) .reset = .refused (.illFormed "LPDDR6") ∧
    exec (.vine []) .reset = .refused (.illFormed "VINE") ∧
    exec (.clockMonitorWindow []) .reset = .refused (.illFormed "CLOCK_MONITOR_WINDOW") ∧
    exec (.supplySample []) .reset = .refused (.illFormed "SUPPLY_SAMPLE") ∧
    exec (.avsStep 1 []) .reset = .refused (.illFormed "AVS_STEP") ∧
    exec (.powerMeasure [1] []) .reset = .refused (.illFormed "POWER_MEASURE") ∧
    exec (.thermalSample []) .reset = .refused (.illFormed "THERMAL_SAMPLE") ∧
    exec (.vintageReading []) .reset = .refused (.illFormed "VINTAGE_READING") ∧
    exec (.hostRead 0 0 0 63 2) .reset = .refused (.illFormed "HOST_READ") ∧
    exec (.hostWrite 0 0 0 0 [] .clean) .reset = .refused (.illFormed "HOST_WRITE") ∧
    exec (.forwardedWriteApply 60 (List.replicate 5 none)) .reset = .refused (.illFormed "FORWARDED_WRITE_APPLY") ∧
    exec (.echoApply 1 0 [] none) .reset = .refused (.illFormed "ECHO_APPLY") ∧
    exec (.odeccPoll []) .reset = .refused (.illFormed "ODECC_POLL") ∧
    exec (.flitReceive 0 []) .reset = .refused (.illFormed "FLIT_RECEIVE") := by
  refine ⟨?_, ?_, ?_, ?_, ?_, ?_, ?_, ?_, ?_, ?_, ?_, ?_, ?_, ?_⟩ <;> rfl

/-! ### Small tests, most from the spec's worked examples -/

/-- CRC-32 of the digits 1 to 9: the check value of ISO-HDLC CRC-32. -/
theorem test_crc32_check_value :
    crc32 [0x31, 0x32, 0x33, 0x34, 0x35, 0x36, 0x37, 0x38, 0x39] = 0xCBF43926 := by decide +kernel

/-- SHA-256 of "abc" (FIPS 180-4). -/
theorem test_sha256_abc : (sha256 [0x61, 0x62, 0x63]).take 8 = [0xBA, 0x78, 0x16, 0xBF, 0x8F, 0x01, 0xCF, 0xEA] := by
  decide +kernel

/-- An operand with a format and a zero point. -/
def plain (format : BitVec 4) (zp : BitVec 16) : Operand :=
  { addr := 0, format := format, space := 0, inner := 0, flags := 0, sizes := [], strides := []
    pad := 0, zp := zp, starts := [], incs := [] }

/-- Chapter 2, zero points: K′ = 256, S = 3,431,504, R = 33,168, C = 778. -/
theorem test_zero_point_correction :
    corrected (plain 0 128) (plain 1 3) 256 3431504 33168 778 = 3330720 := by decide +kernel

/-- Chapter 2, the scale entries of groups 0 and 1 and list entry 11 of column 5. -/
theorem test_group_entries :
    fp16.decode (0x00082800 % 65536) = .fin false 1024 (-15) ∧ fp16.decode 0x2400 = .fin false 1024 (-16) ∧
    fp16.decode 0x4370 = .fin false 1904 (-9) := by decide +kernel

/-- Table 2.9: the three additions of column 5, and the output code of −19.5, a tie, which is −20. -/
theorem test_group_accumulation :
    (addTerms false .zero [.fin true 201 (-4), .fin false 307 (-5), .fin true 2737 (-5)]).cmp (.fin true 177 (-1)) = 0 ∧
    outputStage 1 false { scale := 0x3E800000, bias := 0x40280000, zo := 0, lo := 0, hi := 0, clamp := false }
      (.fin true 177 (-1)) = 0xEC := by decide +kernel

/-- R65, R66: 500 exceeds E4M3's largest value, 448. -/
theorem test_overflow_modes :
    toFormat e4m3 false (Val.ofInt 500) = 0x7E ∧ toFormat e4m3 true (Val.ofInt 500) = 0x7F := by decide +kernel

/-- Chapter 11: BASE = 195 is the largest that R440 accepts for 64 devices, 16 queues and one mailbox pair. -/
theorem test_echo_store_base :
    echoBad { live with port := { live.port with devices := 64 } } { queues := 16, mbox := 1, base := 195 } = false ∧
    echoBad { live with port := { live.port with devices := 64 } } { queues := 16, mbox := 1, base := 196 } = true := by
  decide +kernel

/-- Chapter 12, queue 3: TAIL goes from 0xFFFFFFFE to 2 and four commands are submitted. -/
theorem test_submit_across_the_wrap :
    let s := live.updQueue 3 fun q => { q with
      cfg := rwsReset { q.cfg.live with en := true, size := 64 }
      tail := 0xFFFFFFFE, read := 0xFFFFFFFE, nextCork := 0xFFFFFFFE, consumed := 0xFFFFFFFE }
    ((takeSubmit 3 0xFFFFFFFE00000002 s).queue 3).tail = 2 ∧
    (((takeSubmit 3 0xFFFFFFFE00000002 s).queue 3).submitTimes.map fun x => x.1) =
      [0xFFFFFFFE, 0xFFFFFFFF, 0, 1] := by decide +kernel

/-- Chapter 12, at 421 µs: CONSUMED = 3 is accepted when NEXT_CORK = 3. -/
theorem test_consumed_across_the_wrap :
    let s := live.updQueue 3 fun q => { q with
      cfg := rwsReset { q.cfg.live with en := true, size := 64 }
      tail := 3, read := 3, nextCork := 3, consumed := 0xFFFFFFFE }
    ((takeSubmit 3 0x0000000300000004 s).queue 3).consumed = 3 := by decide +kernel

/-- R555: slot 255 is followed by slot 1. -/
theorem test_mailbox_slots : nextSlot 255 = 1 ∧ nextSlot 1 = 2 := by decide

/-- Table 14.2: the last arrival at 1,001,600 ns and LEAD_NS = 7,200 give T_rel = 1,008,800. -/
theorem test_release_time :
    releaseTime { live with
      time := 1001600, vine := { live.vine with cfg := rwsReset { live.vine.cfg.live with leadNs := 7200 } } } = 1008800 := by
  decide +kernel

/-- Table 18.2: after the alert ARITH runs at 100 MHz from FALLBACK and ALERTS.COUNT has risen by 1. -/
theorem test_alert_takes_fallback :
    (takeAlert arithOn).power.arithMhz = 100 ∧ (takeAlert arithOn).power.alerts = arithOn.power.alerts + 1 := by
  decide +kernel

/-- Table 20.9: a second GO replaces the waiting set, and the slice boundary has not applied it. -/
theorem test_superseded_commit :
    let s := live.updParcel 0 fun p => { p with
      cfg := { live := {}, staged := { sliceUs := 20000 }, pending := some { sliceUs := 5000 } } }
    answersWith (exec (.commitGo .host (pgParcel 0)) (withCmd 4 1 .running s)) (fun t =>
      (t.parcel 0).cfg.pending = some { sliceUs := 20000 } && (vget t.pages (pgParcel 0)).superseded) = true := by
  decide +kernel

/-- R219: the first lines of the three zones of a Cask lie in banks 0, 8 and 24. -/
theorem test_cask_zones : caskLine 0 0 = 0 ∧ caskLine 8 0 = 0x180000 ∧ caskLine 24 0 = 0x480000 := by decide +kernel

/-- R420, Table 11.3: with HOST_ILV 1 the channels alternate every 256 bytes. -/
theorem test_window_address : windowAddress 1 1 0x1FF = 0x3FF ∧ windowAddress 1 0 0x100 = 0x200 := by decide

/-- R616: 290 MHz is on ARITH's grid of 1 MHz, and 600 MHz is on FABRIC's grid of 100 MHz. -/
theorem test_frequency_grids : pllFreqOk 0 290000 = true ∧ pllFreqOk 1 600000 = true ∧ pllFreqOk 1 650000 = false := by
  decide

/-- R422: a burst crosses no aligned block of 64 bytes. -/
theorem test_bursts : burstOk 0 64 = true ∧ burstOk 32 33 = false ∧ burstOk 5 0 = false := by decide

/-- A host write to the window SRAM is read back. -/
theorem test_host_write_reads_back :
    answersWith (exec (.hostWrite 0 512 0 3 [some 0xA5, none, some 7] .clean) live) (fun t =>
      t.port.window.readBytes 0x1000003 3 = [0xA5, 0, 7]) = true := by decide +kernel

/-- A word that no row spells leaves the queue as it is: the table gives no row bits. -/
theorem test_no_word_spells_a_command : (State.withFetchWord live 32 0x12345678).pending = [] := by decide

/-- The command at the front of the queue is taken. -/
theorem test_queue_is_first_in_first_out :
    answersWith (step { live with pending := [.arithReturnSwitch, .heartbeat] }) (fun t => t.pending = [.heartbeat]) =
      true := by decide +kernel


/-- R188, R190: a JST12 with 16 slots folds slots 12 to 15 onto presses 0 to 3, and turns change direction with the phase. -/
theorem test_folding :
    hostedSlots 16 12 3 = [3, 15] ∧ hostedSlots 16 12 4 = [4] ∧ foldedSlots 16 12 = [0, 1, 2, 3, 12, 13, 14, 15] ∧
    foldTurns 16 12 3 3 = [(0, 3), (0, 15), (1, 15), (1, 3), (2, 3), (2, 15)] := by decide +kernel

/-- R518: SYNC first; then CTRL, which stands back for three COLLECTIVE flits while some wait. -/
theorem test_link_arbitration :
    nextClass { backlog := [⟨false, [2]⟩, ⟨false, [1]⟩, ⟨false, [0]⟩] } = 0 ∧
    nextClass { backlog := [⟨false, [2]⟩, ⟨false, [1]⟩] } = 1 ∧
    nextClass { backlog := [⟨false, [2]⟩, ⟨false, [1]⟩], ctrlGap := 2 } = 2 ∧
    nextClass { backlog := [⟨false, [1]⟩], ctrlGap := 0 } = 1 := by decide

/-- R133: the earliest cause kills, and of two in one cycle the translation fault. -/
theorem test_first_cause :
    firstCause (some (5, { status := 0x22, data := 1 })) (some (5, { status := 0x20, data := 2 })) =
      some (5, { status := 0x20, data := 2 }) ∧
    firstCause (some (4, { status := 0x22, data := 1 })) (some (5, { status := 0x20, data := 2 })) =
      some (4, { status := 0x22, data := 1 }) := by decide

/-- R301: four RAW10 samples lie in five bytes. -/
theorem test_raw10 : unpackRaw 10 [0xFF, 0x01, 0x02, 0x03, 0xE4] = [0x3FC, 0x005, 0x00A, 0x00F] := by decide +kernel

/-! ### Resets, the start and the boot flash -/

namespace Part01

/-- The hypotheses of `PowerOnResets` can be met. -/
theorem hyps_power_on_resets :
    (∃ (mv : Nat),
      mv < 1500) ∧
    (∃ (mv : Nat),
      1500 ≤ mv ∧ mv < 1710) ∧
    (∃ (mv : Nat),
      1500 ≤ mv ∧ mv < 1710) ∧
    (∃ (mv : Nat),
      1710 ≤ mv) :=
  ⟨⟨1499, by decide +kernel⟩,
   ⟨1500, by decide +kernel⟩,
   ⟨1709, by decide +kernel⟩,
   ⟨1710, by decide +kernel⟩⟩

/-- The hypotheses of `DeviceResets` can be met. -/
theorem hyps_device_resets :
    (∃ (ns : Nat),
      1000 ≤ ns) ∧
    (∃ (ns : Nat),
      1000 ≤ ns) ∧
    (∃ (ns : Nat),
      ns < 1000) ∧
    (∃ (s : State) (who : Writer),
      who ≠ .host ∧ writerActs who s = true ∧ s.boot.halted = false) ∧
    (∃ (s : State) (who : Writer),
      who ≠ .host ∧ writerActs who s = true ∧ s.boot.halted = false) ∧
    (∃ (dev : Bool) (key : Byte),
      ¬ (dev = true ∧ key = 0xA5)) ∧
    (∃ (s : State),
      s.boot.halted = false ∧ s.safety.safe = false ∧ s.boot.nextStep ≠ 3 ∧ s.boot.nextStep ≠ 11 ∧ s.boot.nextStep ≤ 12) ∧
    (∃ (s : State),
      s.boot.halted = false ∧ s.safety.safe = false ∧ s.boot.nextStep ≠ 3 ∧ s.boot.nextStep ≠ 11 ∧ s.boot.nextStep ≤ 12) ∧
    (∃ (s : State),
      s.boot.halted = false ∧ s.safety.safe = false ∧ s.boot.nextStep ≠ 3 ∧ s.boot.nextStep ≠ 11 ∧ s.boot.nextStep ≤ 12) ∧
    (∃ (s : State),
      s.boot.halted = false ∧ s.safety.safe = false ∧ s.boot.nextStep ≠ 3 ∧ s.boot.nextStep ≠ 11 ∧ s.boot.nextStep ≤ 12) ∧
    (∃ (s : State),
      s.boot.halted = false ∧ s.safety.safe = true ∧ s.safety.autoReset ≠ 0) ∧
    (∃ (s : State),
      s.boot.halted = true) :=
  ⟨⟨1000, by decide +kernel⟩,
   ⟨1000, by decide +kernel⟩,
   ⟨999, by decide +kernel⟩,
   ⟨atStep 7, .safetyPair, by decide +kernel⟩,
   ⟨live, .hart 3, by decide +kernel⟩,
   ⟨true, 0xA4, by decide +kernel⟩,
   ⟨atStep 7, by decide +kernel⟩,
   ⟨atStep 1, by decide +kernel⟩,
   ⟨atStep 4, by decide +kernel⟩,
   ⟨atStep 12, by decide +kernel⟩,
   ⟨{ live with safety := { live.safety with safe := true, autoReset := 5 } }, by decide +kernel⟩,
   ⟨haltBoot live, by decide +kernel⟩⟩

/-- The hypotheses of `RomStepsRun` can be met. -/
theorem hyps_rom_steps_run :
    (∃ (s : State),
      StepIsNext 1 s) ∧
    (∃ (s : State),
      StepIsNext 2 s) ∧
    (∃ (s : State),
      StepIsNext 3 s) ∧
    (∃ (s : State),
      StepIsNext 4 s) ∧
    (∃ (s : State),
      StepIsNext 4 s) ∧
    (∃ (s : State),
      StepIsNext 4 s) ∧
    (∃ (s : State),
      StepIsNext 5 s) ∧
    (∃ (s : State),
      StepIsNext 6 s) :=
  ⟨⟨atStep 1, by unfold StepIsNext; decide +kernel⟩,
   ⟨atStep 2, by unfold StepIsNext; decide +kernel⟩,
   ⟨atStep 3, by unfold StepIsNext; decide +kernel⟩,
   ⟨{ atStep 4 with straps := { exStraps with bootOrder := 5 } }, by unfold StepIsNext; decide +kernel⟩,
   ⟨{ atStep 4 with straps := { exStraps with bootOrder := 5 } }, by unfold StepIsNext; decide +kernel⟩,
   ⟨withSlot 0 0xFF000000 (atStep 4), by unfold StepIsNext; decide +kernel⟩,
   ⟨withSlot 0 0xFF000000 (atStep 5), by unfold StepIsNext; decide +kernel⟩,
   ⟨atStep 6, by unfold StepIsNext; decide +kernel⟩⟩

/-- The hypotheses of `FirmwareStepsRun` can be met. -/
theorem hyps_firmware_steps_run :
    (∃ (s : State) (gib : List Nat) (cap : BitVec 2),
      StepIsNext 7 s ∧ gib.length = 16 ∧ populationCode gib = some cap) ∧
    (∃ (s : State) (pass : Bool) (gib : List Nat),
      StepIsNext 7 s ∧ gib.length = 16 ∧ (pass = false ∨ populationCode gib = none)) ∧
    (∃ (s : State) (pass : Bool) (gib : List Nat),
      StepIsNext 7 s ∧ gib.length = 16 ∧ (pass = false ∨ populationCode gib = none)) ∧
    (∃ (s : State),
      StepIsNext 8 s) ∧
    (∃ (s : State),
      StepIsNext 9 s) ∧
    (∃ (s : State) (peers : List (Option Peer)),
      StepIsNext 10 s ∧ peers.length = 4) ∧
    (∃ (s : State) (peers : List (Option Peer)),
      StepIsNext 10 s ∧ peers.length = 4) ∧
    (∃ (s : State),
      StepIsNext 11 s) ∧
    (∃ (s : State),
      StepIsNext 12 s) ∧
    (∃ (s : State),
      StepIsNext 12 s) :=
  ⟨⟨atStep 7, List.replicate 16 8, 1, by unfold StepIsNext; decide +kernel⟩,
   ⟨atStep 7, true, List.replicate 16 3, by unfold StepIsNext; decide +kernel⟩,
   ⟨atLevel 7 2 (atStep 7), false, List.replicate 16 2, by unfold StepIsNext; decide +kernel⟩,
   ⟨atStep 8, by unfold StepIsNext; decide +kernel⟩,
   ⟨atStep 9, by unfold StepIsNext; decide +kernel⟩,
   ⟨atStep 10, [none, some ⟨1, 1⟩, none, some ⟨2, 0⟩], by unfold StepIsNext; decide +kernel⟩,
   ⟨atLevel 10 1 (atStep 10), [none, none, none, none], by unfold StepIsNext; decide +kernel⟩,
   ⟨atStep 11, by unfold StepIsNext; decide +kernel⟩,
   ⟨atStep 12, by unfold StepIsNext; decide +kernel⟩,
   ⟨atLevel 12 1 (atStep 12), by unfold StepIsNext; decide +kernel⟩⟩

/-- The hypotheses of `BootServicesRun` can be met. -/
theorem hyps_boot_services_run :
    (∃ (s : State),
      s.boot.hostImageTaken = true) ∧
    (∃ (s : State),
      s.boot.hostImageTaken = false ∧ ¬ (StepIsNext 4 s ∧ s.bootRec.step = 4 ∧ (bootOrder s).getD s.bootRec.sourcePos 0 = 2)) ∧
    (∃ (s : State),
      StepIsNext 4 s ∧ s.boot.hostImageTaken = false ∧ s.bootRec.step = 4 ∧ (bootOrder s).getD s.bootRec.sourcePos 0 = 2) ∧
    (∃ (s : State),
      s.boot.halted = false ∧ s.boot.nextStep = 4 ∧ (bootOrder s).getD s.bootRec.sourcePos 0 = 3) ∧
    (∃ (s : State),
      firmwareUp s = true) :=
  ⟨⟨{ live with boot := { live.boot with hostImageTaken := true } }, by decide +kernel⟩,
   ⟨live, by unfold StepIsNext; decide +kernel⟩,
   ⟨waitsForHost, by unfold StepIsNext; decide +kernel⟩,
   ⟨{ atStep 4 with straps := { exStraps with bootOrder := 5 } }, by decide +kernel⟩,
   ⟨{ live with bootRec := { live.bootRec with source := 3 } }, by decide +kernel⟩⟩

/-- The hypotheses of `NorCommandsRun` can be met. -/
theorem hyps_nor_commands_run :
    (∃ (s : State) (who : Writer),
      writerActs who s = true) ∧
    (∃ (s : State) (job : NorJob),
      s.boot.norJob = some job ∧ hartsRun s = true ∧ s.flash.norPresent = true) ∧
    (∃ (s : State) (job : NorJob) (ok : Bool),
      s.boot.norJob = some job ∧ hartsRun s = true ∧ (ok = false ∨ s.flash.norPresent = false)) :=
  ⟨⟨live, .host, by decide +kernel⟩,
   ⟨withNor (.erase 1) live, .erase 1, by decide +kernel⟩,
   ⟨withNor (.activate 1) live, .activate 1, false, by decide +kernel⟩⟩

end Part01

/-! ### Clocks, power and heat -/

namespace Part02

/-- The hypotheses of `PllsAndDomainsAct` can be met. -/
theorem hyps_plls_and_domains_act :
    (∃ (s : State) (p : Fin 9),
      (s.pll p).waiting = true) ∧
    (∃ (s : State) (p : Fin 9),
      (s.pll p).waiting = true) ∧
    (∃ (s : State) (p : Fin 9),
      (s.pll p).waiting = false) ∧
    (∃ (s : State) (p : Fin 9),
      (s.pll p).locked = true) ∧
    (∃ (s : State) (p : Fin 9),
      (s.pll p).locked = true) ∧
    (∃ (s : State) (who : Writer),
      who ≠ .host ∧ writerActs who s = true) ∧
    (∃ (s : State) (who : Writer),
      who ≠ .host ∧ writerActs who s = true) ∧
    (∃ (s : State) (who : Writer),
      who ≠ .host ∧ writerActs who s = true) ∧
    (∃ (s : State) (who : Writer),
      who ≠ .host ∧ writerActs who s = true) ∧
    (∃ (s : State) (who : Writer),
      who ≠ .host ∧ writerActs who s = true) ∧
    (∃ (s : State) (who : Writer) (d : Fin 9),
      who ≠ .host ∧ writerActs who s = true ∧ (s.dom d).deepEn = false ∧ deepAllowed s d = true) ∧
    (∃ (s : State) (who : Writer) (d : Fin 9),
      who ≠ .host ∧ writerActs who s = true ∧ (s.dom d).deepEn = false ∧ deepAllowed s d = false ∧ d ≠ 1 ∧ d ≠ 2 ∧ d ≠ 5 ∧ d ≠ 6) ∧
    (∃ (s : State) (who : Writer) (d : Fin 9),
      who ≠ .host ∧ writerActs who s = true ∧ (s.dom d).deepEn = true ∧ (s.dom d).st = 3 ∧ d ≠ 1 ∧ d ≠ 2 ∧ d ≠ 5 ∧ d ≠ 6) :=
  ⟨⟨livePll 3 fun x => { x with waiting := true }, 3, by decide +kernel⟩,
   ⟨livePll 0 fun x => { x with waiting := true }, 0, by decide +kernel⟩,
   ⟨live, 3, by decide +kernel⟩,
   ⟨livePll 8 fun x => { x with locked := true }, 8, by decide +kernel⟩,
   ⟨livePll 0 fun x => { x with locked := true }, 0, by decide +kernel⟩,
   ⟨live, .hart 0, by decide +kernel⟩,
   ⟨liveDom 3 fun x => { x with runEn := true, st := 1 }, .safetyPair, by decide +kernel⟩,
   ⟨live, .hart 0, by decide +kernel⟩,
   ⟨live, .hart 1, by decide +kernel⟩,
   ⟨live, .hart 1, by decide +kernel⟩,
   ⟨liveDom 4 fun x => { x with deepEn := false }, .hart 1, 4, by decide +kernel⟩,
   ⟨live.updLink 0 fun x => { x with wanted := true }, .hart 1, 7, by decide +kernel⟩,
   ⟨liveDom 4 fun x => { x with deepEn := true, st := 3 }, .hart 1, 4, by decide +kernel⟩⟩

/-- The hypotheses of `OtpProgramsOnce` can be met. -/
theorem hyps_otp_programs_once :
    (∃ (s : State) (who : Writer),
      writerActs who s = true ∧ s.safety.safe = false) ∧
    (∃ (s : State) (key : Byte),
      key ≠ 0x5A ∧ s.safety.safe = false) :=
  ⟨⟨live, .host, by decide +kernel⟩,
   ⟨live, 0x5B, by decide +kernel⟩⟩

/-- The hypotheses of `MonitorsAct` can be met. -/
theorem hyps_monitors_act :
    (∃ (l : List Nat),
      l.length = 9) ∧
    (∃ (s : State) (d : Fin 9),
      2 ≤ (s.dom d).fails) ∧
    (∃ (s : State) (d : Fin 9),
      2 ≤ (s.dom d).fails) ∧
    (∃ (s : State) (d : Fin 9),
      (s.dom d).fails < 2) ∧
    (∃ (ns : Nat),
      2000 ≤ ns) ∧
    (∃ (ns : Nat),
      ns < 2000) ∧
    (∃ (l : List Nat),
      l.length = 8) ∧
    (∃ (s : State) (i : Fin 8),
      10 ≤ vget s.power.supplyBad i) ∧
    (∃ (s : State) (i : Fin 8),
      vget s.power.supplyBad i < 10) :=
  ⟨⟨[0,0,0,0,2500,0,0,0,1], by decide +kernel⟩,
   ⟨liveDom 2 fun x => { x with fails := 2 }, 2, by decide +kernel⟩,
   ⟨liveDom 0 fun x => { x with fails := 3 }, 0, by decide +kernel⟩,
   ⟨live, 2, by decide +kernel⟩,
   ⟨2000, by decide +kernel⟩,
   ⟨1999, by decide +kernel⟩,
   ⟨[800, 700, 800, 1800, 500, 750, 500, 800], by decide +kernel⟩,
   ⟨withPower (fun x => { x with supplyBad := Vector.replicate 8 10 }) live, 3, by decide +kernel⟩,
   ⟨live, 3, by decide +kernel⟩⟩

/-- The hypotheses of `PowerAlertRuns` can be met. -/
theorem hyps_power_alert_runs :
    (∃ (s : State),
      s.pins.pwrAlert = false ∧ ((s.pll 0).on = true ∨ (s.dom 0).st = 3)) ∧
    (∃ (s : State),
      s.pins.pwrAlert = false ∧ ((s.pll 0).on = true ∨ (s.dom 0).st = 3)) ∧
    (∃ (s : State),
      s.pins.pwrAlert = false ∧ (s.pll 0).on = false ∧ (s.dom 0).st ≠ 3) ∧
    (∃ (s : State),
      s.pins.pwrAlert = true) ∧
    (∃ (s : State),
      s.pins.pwrAlert = true) ∧
    (∃ (s : State),
      s.pins.pwrAlert = true) ∧
    (∃ (s : State),
      s.power.holding = true ∧ s.pins.pwrAlert = false ∧ s.power.alertHold.toNat * 1000 ≤ elapsed s s.power.holdAt) ∧
    (∃ (s : State),
      s.power.mode = .returning) ∧
    (∃ (s : State) (m : Nat),
      s.power.mode = .slewing m) ∧
    (∃ (s : State),
      s.pins.pwrAlert = true) ∧
    (∃ (s : State),
      s.pins.pwrAlert = false) :=
  ⟨⟨arithOn, by decide +kernel⟩,
   ⟨liveDom 0 fun x => { x with st := 3 }, by decide +kernel⟩,
   ⟨live, by decide +kernel⟩,
   ⟨alerted live, by decide +kernel⟩,
   ⟨alerted (withPower (fun x => { x with mode := .fallback }) live), by decide +kernel⟩,
   ⟨alerted live, by decide +kernel⟩,
   ⟨{ withPower (fun x => { x with mode := .fallback, holding := true }) live with time := 100000000 }, by decide +kernel⟩,
   ⟨(withPower (fun x => { x with mode := .returning }) live).updDom 0 fun x => { x with src := 3 }, by decide +kernel⟩,
   ⟨withPower (fun x => { x with mode := .slewing 200 }) live, 200, by decide +kernel⟩,
   ⟨alerted live, by decide +kernel⟩,
   ⟨live, by decide +kernel⟩⟩

/-- The hypotheses of `VoltageAndFrequencyAreControlled` can be met. -/
theorem hyps_voltage_and_frequency_are_controlled :
    (∃ (s : State) (r : Fin 3) (l : List Nat) (k : Nat),
      l.length = monitorCount r ∧ smallest (validSlacks s r l) = some k ∧ ¬ (r = 0 ∧ s.pins.pwrAlert = true)) ∧
    (∃ (s : State) (r : Fin 3) (l : List Nat) (k : Nat),
      l.length = monitorCount r ∧ smallest (validSlacks s r l) = some k ∧ ¬ (r = 0 ∧ s.pins.pwrAlert = true)) ∧
    (∃ (s : State) (r : Fin 3) (l : List Nat) (k : Nat),
      l.length = monitorCount r ∧ smallest (validSlacks s r l) = some k ∧ ¬ (r = 0 ∧ s.pins.pwrAlert = true)) ∧
    (∃ (s : State) (l : List Nat) (k : Nat),
      l.length = 16 ∧ smallest (validSlacks s 0 l) = some k ∧ s.pins.pwrAlert = true) ∧
    (∃ (s : State) (r : Fin 3),
      (vget s.power.rails r).waiting = true) ∧
    (∃ (s : State) (r : Fin 3),
      (vget s.power.rails r).waiting = true) ∧
    (∃ (s : State) (r : Fin 3),
      (vget s.power.rails r).waiting = true) ∧
    (∃ (s : State) (r : Fin 3),
      (vget s.power.rails r).waiting = true) ∧
    (∃ (s : State) (r : Fin 3),
      (vget s.power.rails r).waiting = false) ∧
    (∃ (s : State),
      s.pins.pwrAlert = true ∧ s.power.flimit.pending = none) ∧
    (∃ (s : State),
      s.pins.pwrAlert = false ∧ s.power.flimit.pending = none ∧ s.power.mode = .normal ∧ (s.dom 0).src = 2) ∧
    (∃ (s : State),
      s.pins.pwrAlert = false ∧ s.power.flimit.pending = none ∧ ¬ (s.power.mode = .normal ∧ (s.dom 0).src = 2)) ∧
    (∃ (s : State) (f : Flimit),
      s.safety.safe = false ∧ s.power.flimit.pending = some f) ∧
    (∃ (s : State) (f : Flimit),
      s.safety.safe = false ∧ s.power.flimit.pending = some f) ∧
    (∃ (mv : List Nat) (ma : List Nat),
      mv.length = 3 ∧ ma.length = 3) ∧
    (∃ (s : State),
      s.power.arithMhz.toNat ≤ s.power.flimit.live.fmin.toNat ∧ 100 * s.power.cap.toNat < s.power.measured.toNat) :=
  ⟨⟨live, 0, [4, 5, 2, 6, 7, 7, 4, 4, 4, 4, 4, 4, 4, 4, 4, 4], 2, by decide +kernel⟩,
   ⟨live, 1, [5, 5, 5, 6, 7, 7], 5, by decide +kernel⟩,
   ⟨live, 2, [3, 5], 3, by decide +kernel⟩,
   ⟨alerted live, [4, 5, 2, 6, 7, 7, 4, 4, 4, 4, 4, 4, 4, 4, 4, 4], 2, by decide +kernel⟩,
   ⟨liveRail 1 fun x => { x with waiting := true, misses := 1 }, 1, by decide +kernel⟩,
   ⟨(liveRail 0 fun x => { x with waiting := true, misses := 1 }).arith (.raising 200), 0, by decide +kernel⟩,
   ⟨liveRail 1 fun x => { x with waiting := true, misses := 2 }, 1, by decide +kernel⟩,
   ⟨liveRail 0 fun x => { x with waiting := true, misses := 1 }, 0, by decide +kernel⟩,
   ⟨live, 0, by decide +kernel⟩,
   ⟨alerted live, by decide +kernel⟩,
   ⟨withPower (fun x => { x with arithMhz := 310 }) arithOn, by decide +kernel⟩,
   ⟨live, by decide +kernel⟩,
   ⟨pendingPower 120 200, ⟨120, 200⟩, by decide +kernel⟩,
   ⟨pendingPower 201 200, ⟨201, 200⟩, by decide +kernel⟩,
   ⟨[800, 800, 800], [1000, 1000, 1000], by decide +kernel⟩,
   ⟨withPower (fun x => { x with measured := 50000 }) live, by decide +kernel⟩⟩

/-- The hypotheses of `HeatAndAgeingAct` can be met. -/
theorem hyps_heat_and_ageing_act :
    (∃ (l : List Int),
      l.length = 32) ∧
    (∃ (l : List Int),
      l.length = 32) ∧
    (∃ (l : List (Nat × Nat)),
      l.length = 48) ∧
    (∃ (l : List (Nat × Nat)),
      l.length = 48) ∧
    (∃ (s : State),
      hartsRun s = true) ∧
    (∃ (s : State) (n : Fin 8),
      barrierOpen s n = true ∧ toppingAllowed s = true) :=
  ⟨⟨List.replicate 32 (-4), by decide +kernel⟩,
   ⟨900 :: List.replicate 31 600, by decide +kernel⟩,
   ⟨List.replicate 48 (1000, 990), by decide +kernel⟩,
   ⟨List.replicate 48 (0, 1990), by decide +kernel⟩,
   ⟨live, by decide +kernel⟩,
   ⟨withCmd 1 6 .running (live.updPress 3 fun x => { x with assigned := some 0 }), 0, by decide +kernel⟩⟩

end Part02

/-! ### Safety and commits -/

namespace Part03

/-- A signature that is the complement of another differs from it. -/
theorem katFailed_ne (w : Word) : ((katFailed w).press 4).katSig ≠ w := by
  intro h
  have e : ~~~w = w := h
  have := congrArg (fun x : Word => x.getLsbD 0) e
  simp at this

/-- The hypotheses of `AlarmsAreRaisedAndDelivered` can be met. -/
theorem hyps_alarms_are_raised_and_delivered :
    (∃ (s : State),
      (s.boot.hartsReleased = false ∨ s.boot.halted = true)) ∧
    (∃ (s : State),
      s.boot.hartsReleased = true ∧ s.boot.halted = false) ∧
    (∃ (s : State),
      nextKey s = none) ∧
    (∃ (s : State) (k : Fin 134),
      nextKey s = some k ∧ (reactsSafe s k.val = false ∨ s.safety.safe = true)) ∧
    (∃ (s : State) (k : Fin 134),
      nextKey s = some k ∧ (reactsSafe s k.val = false ∨ s.safety.safe = true)) ∧
    (∃ (s : State) (k : Fin 134),
      nextKey s = some k ∧ reactsSafe s k.val = true ∧ s.safety.safe = false) ∧
    (∃ (s : State) (k : Fin 134),
      nextKey s = some k ∧ reactsSafe s k.val = true ∧ s.safety.safe = false) ∧
    (∃ (s : State) (who : Writer),
      writerActs who s = true ∧ s.safety.safe = false) ∧
    (∃ (b : Bool) (key : Byte),
      ¬ (b = true ∧ key = 0xC3)) :=
  ⟨⟨State.reset, by decide +kernel⟩,
   ⟨live, by decide +kernel⟩,
   ⟨live, by decide +kernel⟩,
   ⟨raiseKey 0x25 7 live, 0x25, by decide +kernel⟩,
   ⟨{ raiseKey 0 7 live with safety := { (raiseKey 0 7 live).safety with safe := true } }, 0, by decide +kernel⟩,
   ⟨raiseKey 0x4A 7 live, 0x4A, by decide +kernel⟩,
   ⟨raiseKey 0 7 { live with safety := { live.safety with mode := true } }, 0, by decide +kernel⟩,
   ⟨live, .host, by decide +kernel⟩,
   ⟨true, 0xC2, by decide +kernel⟩⟩

/-- The hypotheses of `SafetyRegistersAct` can be met. -/
theorem hyps_safety_registers_act :
    (∃ (s : State),
      hartsRun s = true) ∧
    (∃ (s : State),
      hartsRun s = true ∧ s.boot.readySeen = true) ∧
    (∃ (s : State) (who : Writer),
      writerActs who s = true) ∧
    (∃ (s : State) (who : Writer),
      writerActs who s = true ∧ (s.safety.mode = false ∨ ∀ n : Fin 8, (s.parcel n).state = 0)) ∧
    (∃ (s : State) (who : Writer),
      writerActs who s = true ∧ (s.safety.mode = false ∨ ∀ n : Fin 8, (s.parcel n).state = 0)) ∧
    (∃ (s : State) (who : Writer),
      writerActs who s = true ∧ (s.safety.mode = false ∨ ∀ n : Fin 8, (s.parcel n).state = 0)) ∧
    (∃ (s : State) (who : Writer) (n : Fin 8),
      writerActs who s = true ∧ s.safety.mode = true ∧ (s.parcel n).state ≠ 0) :=
  ⟨⟨live, by decide +kernel⟩,
   ⟨live, by decide +kernel⟩,
   ⟨raiseKey 0x25 7 live, .host, by decide +kernel⟩,
   ⟨live, .host, by decide +kernel⟩,
   ⟨live, .host, by decide +kernel⟩,
   ⟨live, .host, by decide +kernel⟩,
   ⟨withParcel 2 { live with safety := { live.safety with mode := true } }, .host, 2, by decide +kernel⟩⟩

/-- The hypotheses of `KnownAnswerTestsRun` can be met. -/
theorem hyps_known_answer_tests_run :
    (∃ (s : State) (p : Fin 16),
      katCovers s = true ∧ enabled s p = true ∧ arithDeep s = false) ∧
    (∃ (s : State) (p : Fin 16) (full : Bool),
      (s.press p).kat = .running full) ∧
    (∃ (s : State) (p : Fin 16) (full : Bool),
      (s.press p).kat = .ended full ∧ (s.press p).katSig = Config.katExpected full) ∧
    (∃ (s : State) (p : Fin 16) (full : Bool),
      (s.press p).kat = .ended full ∧ (s.press p).katSig ≠ Config.katExpected full) ∧
    (∃ (s : State) (p : Fin 16),
      (∀ full, (s.press p).kat ≠ .running full) ∧ katCovers s = true ∧ enabled s p = true ∧ arithDeep s = false) ∧
    (∃ (s : State) (p : Fin 16) (q : Fin 16),
      p ≠ q ∧ (s.press p).sequencer = none ∧ (s.press q).sequencer = none) :=
  ⟨⟨safetyOn, 4, by decide +kernel⟩,
   ⟨safetyOn.updPress 4 fun p => { p with kat := .running true }, 4, true, by decide +kernel⟩,
   ⟨safetyOn.updPress 4 fun p => { p with kat := .ended true, katSig := Config.katExpected true }, 4, true, by exact ⟨by decide +kernel, rfl⟩⟩,
   ⟨katFailed (Config.katExpected true), 4, true, by exact ⟨by decide +kernel, katFailed_ne _⟩⟩,
   ⟨safetyOn, 4, by decide +kernel⟩,
   ⟨live, 4, 5, by decide +kernel⟩⟩

/-- The hypotheses of `BookAndLogAct` can be met. -/
theorem hyps_book_and_log_act :
    (∃ (s : State) (who : Writer),
      writerActs who s = true ∧ s.book.frozen = false) ∧
    (∃ (s : State) (who : Writer),
      writerActs who s = true) ∧
    (∃ (key : Byte),
      key ≠ 0x96) ∧
    (∃ (s : State),
      nextLogSource s = none) ∧
    (∃ (s : State) (k : Fin 64),
      nextLogSource s = some k) ∧
    (∃ (s : State) (k : Fin 64),
      nextLogSource s = some k) :=
  ⟨⟨live, .host, by decide +kernel⟩,
   ⟨live, .host, by decide +kernel⟩,
   ⟨0x95, by decide +kernel⟩,
   ⟨live, by decide +kernel⟩,
   ⟨logEvent 3 7 live, 3, by decide +kernel⟩,
   ⟨logEvent 3 7 (logEvent 3 8 (logEvent 5 7 live)), 3, by decide +kernel⟩⟩

end Part03

/-! ### Registers -/

namespace Part04

/-- The hypotheses of `CommitsGoCancelApply` can be met. -/
theorem hyps_commits_go_cancel_apply :
    (∃ (s : State) (who : Writer) (p : Fin 121),
      Writes who p.val s ∧ staged p.val = true ∧ mayCommit who p = true) ∧
    (∃ (s : State) (who : Writer) (p : Fin 121),
      Writes who p.val s ∧ staged p.val = true ∧ mayCommit who p = true) ∧
    (∃ (s : State) (who : Writer),
      Writes who 5 s ∧ s.power.flimit.staged ≠ s.power.flimit.live) ∧
    (∃ (s : State) (who : Writer) (p : Fin 121),
      Writes who p.val s ∧ mayCommit who p = true ∧ pagePending s p.val = true) ∧
    (∃ (s : State) (who : Writer),
      Writes who 5 s ∧ s.power.flimit.pending.isSome = true) ∧
    (∃ (s : State) (who : Writer) (p : Fin 121),
      Writes who p.val s ∧ mayCommit who p = true ∧ allocated p.val = true ∧ pagePending s p.val = false) ∧
    (∃ (s : State) (f : Flimit),
      s.safety.safe = false ∧ s.power.flimit.pending = some f ∧ flimitBad f = false) ∧
    (∃ (s : State) (f : Flimit),
      s.safety.safe = false ∧ s.power.flimit.pending = some f ∧ flimitBad f = true) ∧
    (∃ (s : State) (n : Fin 8) (c : ParcelCfg),
      s.safety.safe = false ∧ (s.parcel n).cfg.pending = some c ∧ runsCmd s n (fun x => x.kind = 1) = false) ∧
    (∃ (s : State) (q : Fin 256) (c : QueueCfg),
      s.safety.safe = false ∧ (s.queue q).cfg.pending = some c ∧ queueEmpty (s.queue q) = true) ∧
    (∃ (s : State) (p : Fin 121),
      s.safety.safe = false ∧ allocated p.val = true ∧ offPress s p.val = false ∧ hostCommit p.val = false) ∧
    (∃ (s : State) (p : Fin 121),
      (s.safety.safe = true ∨ pagePending s p.val = false)) :=
  ⟨⟨live, .host, 5, by unfold Writes; decide +kernel⟩,
   ⟨live, .hart 1, 4, by unfold Writes; decide +kernel⟩,
   ⟨stagedPower live, .host, by unfold Writes; decide +kernel⟩,
   ⟨pendingPower 120 200, .host, 5, by unfold Writes; decide +kernel⟩,
   ⟨pendingPower 120 200, .host, by unfold Writes; decide +kernel⟩,
   ⟨live, .host, 5, by unfold Writes; decide +kernel⟩,
   ⟨pendingPower 120 200, { fmin := 120, fmax := 200 }, by decide +kernel⟩,
   ⟨pendingPower 220 200, { fmin := 220, fmax := 200 }, by decide +kernel⟩,
   ⟨pendingParcel 2 live, 2, (live.parcel 2).cfg.live, by decide +kernel⟩,
   ⟨pendingQueue 17 live, 17, (live.queue 17).cfg.live, by decide +kernel⟩,
   ⟨live, pgSafety, by decide +kernel⟩,
   ⟨{ live with safety := { live.safety with safe := true } }, 4, by decide +kernel⟩⟩

/-- The hypotheses of `RegisterWritesAct` can be met. -/
theorem hyps_register_writes_act :
    (∃ (s : State) (who : Writer),
      Writes who 5 s) ∧
    (∃ (s : State) (who : Writer),
      Writes who 5 s) ∧
    (∃ (s : State) (who : Writer) (p : Fin 121),
      who ≠ .host ∧ writerActs who s = true ∧ allocated p.val = true ∧ offPress s p.val = false) ∧
    (∃ (s : State) (p : Fin 121) (w : BitVec 10) (v : Word),
      s.safety.safe = false ∧ allocated p.val = true ∧ offPress s p.val = false ∧ (w = 4 ∨ w = 5 ∧ (vget s.pages p).irqMask = 3) ∧ v = 1 ∨ v = 2) ∧
    (∃ (s : State) (p : Fin 121) (w : BitVec 10) (v : Word),
      s.safety.safe = false ∧ allocated p.val = true ∧ offPress s p.val = false ∧ (w = 4 ∨ w = 5 ∧ (vget s.pages p).irqMask = 3) ∧ v = 1 ∨ v = 2) ∧
    (∃ (pg : BitVec 10),
      allocated pg.toNat = false) ∧
    (∃ (s : State) (who : Writer) (n : Fin 16),
      enabled s n = false ∧ (who = .host → s.safety.safe = false)) ∧
    (∃ (s : State) (who : Writer) (p : Fin 121),
      Writes who p.val s ∧ allocated p.val = true ∧ offPress s p.val = false) :=
  ⟨⟨live, .host, by unfold Writes; decide +kernel⟩,
   ⟨live, .hart 0, by unfold Writes; decide +kernel⟩,
   ⟨live, .hart 0, 3, by decide +kernel⟩,
   ⟨live, pgPower, 4, 1, by decide +kernel⟩,
   ⟨live.updPage pgHostPort fun r => { r with irqMask := 3 }, pgHostPort, 5, 2, by decide +kernel⟩,
   ⟨121, by decide +kernel⟩,
   ⟨pressOff live, .hart 0, 3, by decide +kernel⟩,
   ⟨pageError pgCodec 5 4 3 2 live, .host, pgCodec, by unfold Writes; decide +kernel⟩⟩

/-- The hypotheses of `CountersLatchAndClear` can be met. -/
theorem hyps_counters_latch_and_clear :
    (∃ (s : State) (pg : BitVec 10) (w : BitVec 10) (x : Word),
      highHalf s pg.toNat w.toNat = some x) ∧
    (∃ (s : State) (pg : BitVec 10) (w : BitVec 10) (x : Word),
      highHalf s pg.toNat w.toNat = some x) ∧
    (∃ (s : State) (pg : BitVec 10) (w : BitVec 10),
      highHalf s pg.toNat w.toNat = none) ∧
    (∃ (s : State) (p : Fin 16),
      enabled s p = true) ∧
    (∃ (s : State) (who : Writer) (p : Fin 16),
      Writes who (20 + p.val) s ∧ enabled s p = true) ∧
    (∃ (s : State) (who : Writer) (e : Fin 6),
      Writes who (52 + e.val) s) ∧
    (∃ (s : State) (who : Writer),
      Writes who 88 s) ∧
    (∃ (who : Writer),
      who ≠ .host) ∧
    (∃ (s : State) (who : Writer),
      Writes who 56 s) ∧
    (∃ (s : State) (who : Writer),
      Writes who 56 s) :=
  ⟨⟨live.updPress 15 fun p => { p with busy := 0x500000003 }, 35, 0x12, 5, by decide +kernel⟩,
   ⟨live, 2, 0x24, (live.fuses.deviceId >>> 32).setWidth 32, by decide +kernel⟩,
   ⟨live, 35, 0x13, by decide +kernel⟩,
   ⟨live.updPress 15 fun p => { p with busy := 0x500000003 }, 15, by decide +kernel⟩,
   ⟨live.updPress 15 fun p => { p with busy := 0x500000003 }, .host, 15, by unfold Writes; decide +kernel⟩,
   ⟨live, .hart 0, 5, by unfold Writes; decide +kernel⟩,
   ⟨live, .host, by unfold Writes; decide +kernel⟩,
   ⟨.safetyPair, by decide +kernel⟩,
   ⟨live, .host, by unfold Writes; decide +kernel⟩,
   ⟨live, .host, by unfold Writes; decide +kernel⟩⟩

/-- The hypotheses of `FailAckResumeAct` can be met. -/
theorem hyps_fail_ack_resume_act :
    (∃ (s : State),
      hartsRun s = true) ∧
    (∃ (s : State),
      s.safety.safe = false) ∧
    (∃ (s : State),
      s.safety.safe = false) ∧
    (∃ (s : State) (q : Fin 256) (x : Queue),
      s.safety.safe = false ∧ x = (takeSubmits s.port.observer.length q s).queue q ∧ x.stopped = true ∧ x.resume = none) ∧
    (∃ (s : State),
      s.safety.safe = true) :=
  ⟨⟨live, by decide +kernel⟩,
   ⟨live, by decide +kernel⟩,
   ⟨live, by decide +kernel⟩,
   ⟨stoppedQueue, 17, (takeSubmits stoppedQueue.port.observer.length 17 stoppedQueue).queue 17, by decide +kernel⟩,
   ⟨{ live with safety := { live.safety with safe := true } }, by decide +kernel⟩⟩

end Part04

/-! ### The host port -/

namespace Part05

/-- The lead of two devices. -/
def ofTwo : State := { live with port := { live.port with devices := 2 } }

/-- The lead of two with its forward queue full. -/
def fullForward : State := { ofTwo with port := { ofTwo.port with forward := List.replicate 4096 ⟨1, 0, []⟩ } }

/-- A lead whose channels check link ECC on writes. -/
def linkChecked : State := live.updHostChannel 0 fun c => { c with modeRegs := [(22, 0x30)] }

/-- The hypotheses of `WindowAddressesAreDistinct` can be met. -/
theorem hyps_window_addresses_are_distinct :
    (∃ (ilv : BitVec 2) (ch : Fin 2) (ch' : Fin 2) (row : BitVec 17) (row' : BitVec 17) (bank : BitVec 4) (bank' : BitVec 4) (col : BitVec 11) (col' : BitVec 11),
      windowAddress ilv ch (channelOffset row bank col.toNat) = windowAddress ilv ch' (channelOffset row' bank' col'.toNat)) :=
  ⟨3, 1, 1, 0x1FFFF, 0x1FFFF, 15, 15, 2047, 2047, by decide +kernel⟩

/-- The hypotheses of `HostReadsWhatItWrote` can be met. -/
theorem hyps_host_reads_what_it_wrote :
    (∃ (s : State) (ch : Fin 2) (row : BitVec 17) (bank : BitVec 4) (col : BitVec 11) (data : List Byte) (ecc : LinkEcc),
      HostReaches s ch ecc ∧ 0 < s.port.devices.toNat ∧ ¬ 0 ∈ s.port.lost ∧ slotOf (hostWindow s ch row bank col) = 0 ∧ 0x1000000 ≤ hostWindow s ch row bank col ∧ hostWindow s ch row bank col + data.length ≤ 0x2800000 ∧ burstOk col.toNat data.length = true) ∧
    (∃ (s : State) (ch : Fin 2) (row : BitVec 17) (bank : BitVec 4) (col : BitVec 11) (data : List Byte) (ecc : LinkEcc),
      HostReaches s ch ecc ∧ 0 < s.port.devices.toNat ∧ ¬ 0 ∈ s.port.lost ∧ slotOf (hostWindow s ch row bank col) = 0 ∧ 0x1000000 ≤ hostWindow s ch row bank col ∧ hostWindow s ch row bank col + data.length ≤ 0x2800000 ∧ burstOk col.toNat data.length = true) ∧
    (∃ (s : State) (ch : Fin 2) (col : BitVec 11) (data : List (Option Byte)),
      portAnswers s ch = true ∧ writeEcc s ch = true ∧ burstOk col.toNat data.length = true) :=
  ⟨⟨live, 0, 512, 0, 0, [0xA5], .clean, by unfold HostReaches; decide +kernel⟩,
   ⟨live, 0, 1279, 15, 1984, List.replicate 64 7, .clean, by unfold HostReaches; decide +kernel⟩,
   ⟨linkChecked, 0, 0, [some 0xA5], by decide +kernel⟩⟩

/-- The hypotheses of `ReadsOfNothingAndForwardedWrites` can be met. -/
theorem hyps_reads_of_nothing_and_forwarded_writes :
    (∃ (s : State) (ch : Fin 2) (row : BitVec 17) (bank : BitVec 4) (col : BitVec 11) (n : Nat),
      portAnswers s ch = true ∧ slotAbsent s (slotOf (hostWindow s ch row bank col)) = true ∧ burstOk col.toNat n = true) ∧
    (∃ (s : State) (ch : Fin 2) (row : BitVec 17) (bank : BitVec 4) (col : BitVec 11),
      portAnswers s ch = true ∧ slotAbsent s 0 = false ∧ hostWindow s ch row bank col < 0x400000 ∧ hostWindow s ch row bank col % 4 = 0 ∧ allocated (hostWindow s ch row bank col / 4096) = true ∧ burstOk col.toNat 4 = true) ∧
    (∃ (s : State) (ch : Fin 2) (row : BitVec 17) (bank : BitVec 4) (col : BitVec 11),
      portAnswers s ch = true ∧ slotAbsent s 0 = false ∧ hostWindow s ch row bank col < 0x400000 ∧ hostWindow s ch row bank col % 4 = 0 ∧ allocated (hostWindow s ch row bank col / 4096) = true ∧ burstOk col.toNat 4 = true) ∧
    (∃ (s : State) (ch : Fin 2) (row : BitVec 17) (bank : BitVec 4) (col : BitVec 11) (n : Nat),
      portAnswers s ch = true ∧ slotAbsent s (slotOf (hostWindow s ch row bank col)) = false ∧ slotOf (hostWindow s ch row bank col) ≠ 0 ∧ burstOk col.toNat n = true) ∧
    (∃ (s : State) (ch : Fin 2) (row : BitVec 17) (bank : BitVec 4) (col : BitVec 11) (n : Nat),
      portAnswers s ch = true ∧ slotAbsent s (slotOf (hostWindow s ch row bank col)) = false ∧ slotOf (hostWindow s ch row bank col) ≠ 0 ∧ burstOk col.toNat n = true) ∧
    (∃ (s : State) (ch : Fin 2) (col : BitVec 11) (n : Nat),
      burstOk col.toNat n = true ∧ (vget s.port.channels ch).asleep = true) ∧
    (∃ (s : State) (ch : Fin 2) (row : BitVec 17) (bank : BitVec 4) (col : BitVec 11) (data : List Byte) (ecc : LinkEcc) (q : Fin 256),
      HostReaches s ch ecc ∧ slotAbsent s 0 = false ∧ hostWindow s ch row bank col = ringBase q ∧ data.length = 8 ∧ burstOk col.toNat 8 = true) ∧
    (∃ (s : State) (ch : Fin 2) (row : BitVec 17) (bank : BitVec 4) (col : BitVec 11) (data : List (Option Byte)),
      HostReaches s ch .clean ∧ slotAbsent s (slotOf (hostWindow s ch row bank col)) = false ∧ slotOf (hostWindow s ch row bank col) ≠ 0 ∧ burstOk col.toNat data.length = true) ∧
    (∃ (s : State) (ch : Fin 2) (row : BitVec 17) (bank : BitVec 4) (col : BitVec 11) (data : List (Option Byte)),
      HostReaches s ch .clean ∧ slotAbsent s (slotOf (hostWindow s ch row bank col)) = false ∧ slotOf (hostWindow s ch row bank col) ≠ 0 ∧ burstOk col.toNat data.length = true) ∧
    (∃ (s : State) (off : BitVec 27) (data : List Byte),
      isLead s = false ∧ s.safety.safe = false ∧ 0x1000000 ≤ off.toNat ∧ off.toNat + data.length ≤ 0x2800000 ∧ burstOk off.toNat data.length = true) ∧
    (∃ (s : State) (off : BitVec 27) (data : List Byte),
      isLead s = false ∧ s.safety.safe = false ∧ 0x1000000 ≤ off.toNat ∧ off.toNat + data.length ≤ 0x2800000 ∧ burstOk off.toNat data.length = true) ∧
    (∃ (s : State) (off : BitVec 27) (data : List Byte),
      isLead s = false ∧ s.safety.safe = true ∧ 0x1000000 ≤ off.toNat ∧ off.toNat < 0x2800000 ∧ burstOk off.toNat data.length = true) :=
  ⟨⟨live, 0, 4096, 0, 0, 32, by decide +kernel⟩,
   ⟨live, 0, 0, 0, 4, by decide +kernel⟩,
   ⟨live, 0, 15, 1, 2044, by decide +kernel⟩,
   ⟨ofTwo, 0, 4096, 0, 0, 64, by decide +kernel⟩,
   ⟨ofTwo, 0, 8191, 15, 2047, 1, by decide +kernel⟩,
   ⟨live.updHostChannel 1 fun c => { c with asleep := true }, 1, 0, 1, by decide +kernel⟩,
   ⟨live, 0, 447, 0, 0, [1, 2, 3, 4, 5, 6, 7, 8], .clean, 255, by unfold HostReaches; decide +kernel⟩,
   ⟨ofTwo, 0, 4096, 0, 0, [some 1], by unfold HostReaches; decide +kernel⟩,
   ⟨fullForward, 0, 4096, 0, 0, [some 1], by unfold HostReaches; decide +kernel⟩,
   ⟨remote, 0x1000000, [0xA5], by decide +kernel⟩,
   ⟨remote, 0x27FFFC0, List.replicate 64 7, by decide +kernel⟩,
   ⟨{ remote with safety := { live.safety with safe := true } }, 0x27FFFFF, [5], by decide +kernel⟩⟩

/-- The hypotheses of `ChannelCommandsAct` can be met. -/
theorem hyps_channel_commands_act :
    (∃ (s : State) (ch : Fin 2) (mr : Byte),
      portAnswers s ch = true ∧ modeReadOnly mr = false) ∧
    (∃ (mr : Byte),
      modeReadOnly mr = true) ∧
    (∃ (mr : Byte),
      modeReadOnly mr = true) ∧
    (∃ (s : State) (ch : Fin 2),
      portAnswers s ch = true) ∧
    (∃ (s : State) (ch : Fin 2),
      portAnswers s ch = true) ∧
    (∃ (s : State) (ch : Fin 2) (rate : BitVec 14),
      portAnswers s ch = true ∧ 3200 ≤ rate.toNat ∧ rate.toNat ≤ 8533) ∧
    (∃ (s : State) (ch : Fin 2) (rate : BitVec 14),
      portAnswers s ch = true ∧ 3200 ≤ rate.toNat ∧ rate.toNat ≤ 8533) ∧
    (∃ (s : State) (ch : Fin 2),
      portAnswers s ch = true) ∧
    (∃ (k : TrainingKind),
      k = .commandAddress ∨ k = .wckToCk ∨ k = .wck) ∧
    (∃ (s : State),
      s.boot.hostPortUp = true) ∧
    (∃ (s : State),
      s.boot.hostPortUp = true) ∧
    (∃ (s : State),
      s.boot.hostPortUp = false ∧ isLead s = true) :=
  ⟨⟨live, 1, 3, by decide +kernel⟩,
   ⟨4, by decide +kernel⟩,
   ⟨8, by decide +kernel⟩,
   ⟨live, 1, by decide +kernel⟩,
   ⟨live, 0, by decide +kernel⟩,
   ⟨live, 1, 3200, by decide +kernel⟩,
   ⟨live, 1, 8533, by decide +kernel⟩,
   ⟨live, 1, by decide +kernel⟩,
   ⟨.wck, by decide +kernel⟩,
   ⟨live, by decide +kernel⟩,
   ⟨live, by decide +kernel⟩,
   ⟨State.reset, by decide +kernel⟩⟩

/-- The hypotheses of `EchoesMove` can be met. -/
theorem hyps_echoes_move :
    (∃ (s : State) (u : Nat) (event : Option (BitVec 2)) (rest : List (Nat × Option (BitVec 2))),
      isLead s = false ∧ 1 < s.port.devices.toNat ∧ s.port.pushes = (u, event) :: rest ∧ u < 2 ^ 22) ∧
    (∃ (s : State) (unit : BitVec 22),
      isLead s = false ∧ 1 < s.port.devices.toNat ∧ s.port.pushes = [] ∧ unitChanged s unit.toNat = true) ∧
    (∃ (s : State) (unit : BitVec 22),
      (isLead s = true ∨ (s.port.pushes = [] ∧ unitChanged s unit.toNat = false) ∨ (s.port.pushes ≠ [] ∧ (s.port.pushes.head?.map fun x => x.1) ≠ some unit.toNat))) ∧
    (∃ (s : State) (unit : BitVec 22),
      (isLead s = true ∨ (s.port.pushes = [] ∧ unitChanged s unit.toNat = false) ∨ (s.port.pushes ≠ [] ∧ (s.port.pushes.head?.map fun x => x.1) ≠ some unit.toNat))) ∧
    (∃ (s : State) (dev : Fin 64) (unit : BitVec 22) (data : List Byte) (a : Nat),
      data.length = 32 ∧ isLead s = true ∧ dev ≠ 0 ∧ dev.val < s.port.devices.toNat ∧ echoAddress s dev.val (unit.toNat * 32) = some a) ∧
    (∃ (s : State) (dev : Fin 64) (unit : BitVec 22) (data : List Byte),
      data.length = 32 ∧ (isLead s = false ∨ dev = 0 ∨ s.port.devices.toNat ≤ dev.val ∨ echoAddress s dev.val (unit.toNat * 32) = none)) ∧
    (∃ (s : State) (dev : Fin 64) (unit : BitVec 22) (data : List Byte),
      data.length = 32 ∧ (isLead s = false ∨ dev = 0 ∨ s.port.devices.toNat ≤ dev.val ∨ echoAddress s dev.val (unit.toNat * 32) = none)) :=
  ⟨⟨{ remote with port := { remote.port with pushes := [(5, some 2), (6, none)] } }, 5, some 2, [(6, none)], by decide +kernel⟩,
   ⟨remote, 0, by decide +kernel⟩,
   ⟨live, 0, by decide +kernel⟩,
   ⟨{ remote with port := { remote.port with pushes := [(5, some 2), (6, none)] } }, 6, by decide +kernel⟩,
   ⟨ofTwo, 1, 5, List.replicate 32 3, 16777376, by decide +kernel⟩,
   ⟨ofTwo, 0, 5, List.replicate 32 3, by decide +kernel⟩,
   ⟨ofTwo, 2, 5, List.replicate 32 3, by decide +kernel⟩⟩

end Part05

/-! ### Queues and commands -/

namespace Part06

def subm (w : Long) (en : Bool) : State :=
  let s := live.updQueue 5 fun q => { q with cfg := rwsReset { q.cfg.live with en := en, size := 256 }, nextCork := 2, read := 3, tail := 3 }
  { s with port := { s.port with observer := [.submit 5 w] } }

/-- Queue 0 with one submitted descriptor in its ring. -/
def ringed (desc : List Byte) : State :=
  (live.updQueue 0 fun q => { q with cfg := rwsReset { q.cfg.live with en := true, size := 256 }, tail := 1 }).updWindow
    fun m => m.writeBytes (ringBase 0 + 64) desc

def markerDesc : List Byte := let d := (8 : Byte) :: List.replicate 59 0; d ++ leBytes 4 (crc32 d).toNat

def noHealth : ReadHealth := ⟨[], 0, [], 0⟩

/-- The stop of a step that failed. -/
def failStop (e : Option Stop) : Stop := e.getD ⟨0, 0, false⟩

def c8 : Cmd := { seq := 4, desc := 8 :: List.replicate 63 0, phase := .checked }

/-- A command of a KIND with TARGET 4, checked. -/
def chk (k : Byte) : Cmd := { c8 with desc := k :: (List.replicate 11 0 ++ [4] ++ List.replicate 51 0) }

def withC (c : Cmd) : State := (live.updQueue 0 fun q => { q with cfg := rwsReset { q.cfg.live with en := true, size := 256 }, nextCork := 4, read := 5, tail := 5, cmds := [c] }).updParcel 0 fun p => { p with state := 2, presses := 4 }

/-- The same with press 2 on. -/
def withP (c : Cmd) : State := (withC c).updPress 2 fun x => { x with en := true }

def kst (k : Byte) : Cmd := { c8 with desc := k :: (List.replicate 11 0 ++ [5] ++ List.replicate 51 0), phase := .started }

def anObj (h : BitVec 24) : Obj := { base := 0, length := 16384, parcel := 0, holds := h, releasePending := false, poisoned := false }

def withObj (h : BitVec 24) (s : State) : State := { s with objects := [(3, anObj h), (5, anObj h)] }

/-- A compressed copy. -/
def packed : Cmd := { kst 4 with operands := [noOperand, { noOperand with flags := 0xC0 }] }

/-- A copy from memory that is not mapped. -/
def badCopy : Cmd := { kst 4 with operands := [{ noOperand with sizes := [1, 1, 1, 1], space := 2 }, { noOperand with sizes := [1, 1, 1, 1] }] }

/-- Press 0 in the middle of a compressed DMA, which holds lane 0. -/
def laneBusy (s : State) : State := s.updPress 0 fun x => { x with sequencer := some { queue := 0, seq := 4, twinOf := none, index := 0, ended := false, waiting := false, stopped := false, point := 0, passedPoint := false, jobs := [{ src := noOperand, dst := { noOperand with flags := 0xC0 }, rows := 1, depth := 0, counts := [], counter := 0, next := 1, total := 2 }], children := 0, drains := [] } }

def seqr (i : Nat) : Sequencer := { queue := 0, seq := 4, twinOf := none, index := i, ended := false, waiting := false, stopped := false, point := 0, passedPoint := false, jobs := [], children := 0, drains := [] }

def onPress (p : Fin 16) (k : Sequencer) (s : State) : State := s.updPress p fun x => { x with sequencer := some k, en := true }

def kc (ph : Phase) : State := (onPress 2 (seqr 0) (withC { kst 1 with phase := ph })).updQueue 0 fun q => { q with cfg := rwsReset { q.cfg.live with continuePolicy := true } }

/-- The hypotheses of `CommandsAreSubmittedAndChecked` can be met. -/
theorem hyps_commands_are_submitted_and_checked :
    (∃ (s : State) (q : Fin 256) (w : Long),
      s.safety.safe = false ∧ s.port.observer.find? (isSubmit q) = some (.submit q w) ∧ (s.queue q).cfg.live.en = true ∧ (w.setWidth 32 - (s.queue q).tail).toNat < 2 ^ 31 ∧ (w.setWidth 32 - (s.queue q).read).toNat ≤ (s.queue q).cfg.live.size.toNat ∧ (((w >>> 32).setWidth 32 : Word) - (s.queue q).consumed).toNat ≤ ((s.queue q).nextCork - (s.queue q).consumed).toNat) ∧
    (∃ (s : State) (q : Fin 256) (w : Long),
      s.safety.safe = false ∧ s.port.observer.find? (isSubmit q) = some (.submit q w) ∧ (s.queue q).cfg.live.en = true ∧ (w.setWidth 32 - (s.queue q).tail).toNat < 2 ^ 31 ∧ (w.setWidth 32 - (s.queue q).read).toNat ≤ (s.queue q).cfg.live.size.toNat ∧ (((w >>> 32).setWidth 32 : Word) - (s.queue q).consumed).toNat ≤ ((s.queue q).nextCork - (s.queue q).consumed).toNat) ∧
    (∃ (s : State) (q : Fin 256) (w : Long),
      s.safety.safe = false ∧ s.port.observer.find? (isSubmit q) = some (.submit q w) ∧ ((s.queue q).cfg.live.en = false ∨ w.setWidth 32 ≠ (s.queue q).tail ∧ (2 ^ 31 ≤ (w.setWidth 32 - (s.queue q).tail).toNat ∨ (s.queue q).cfg.live.size.toNat < (w.setWidth 32 - (s.queue q).read).toNat))) ∧
    (∃ (s : State) (q : Fin 256) (w : Long),
      s.safety.safe = false ∧ s.port.observer.find? (isSubmit q) = some (.submit q w) ∧ ((s.queue q).cfg.live.en = false ∨ w.setWidth 32 ≠ (s.queue q).tail ∧ (2 ^ 31 ≤ (w.setWidth 32 - (s.queue q).tail).toNat ∨ (s.queue q).cfg.live.size.toNat < (w.setWidth 32 - (s.queue q).read).toNat))) ∧
    (∃ (s : State) (q : Fin 256) (w : Long),
      s.safety.safe = false ∧ s.port.observer.find? (isSubmit q) = some (.submit q w) ∧ (s.queue q).cfg.live.en = true ∧ ((s.queue q).nextCork - (s.queue q).consumed).toNat < (((w >>> 32).setWidth 32 : Word) - (s.queue q).consumed).toNat) ∧
    (∃ (s : State) (q : Fin 256),
      (s.safety.safe = true ∨ s.port.observer.find? (isSubmit q) = none)) ∧
    (∃ (s : State) (q : Fin 256) (c : Cmd),
      s.safety.safe = false ∧ (s.queue q).cfg.live.en = true ∧ (s.queue q).stopped = false ∧ (fillChecks s).checking.contains q = true ∧ checkCommand (fillChecks s) q (readCmd q (fillChecks s)) = .ok c) ∧
    (∃ (s : State) (q : Fin 256) (e : Stop),
      s.safety.safe = false ∧ (s.queue q).cfg.live.en = true ∧ (s.queue q).stopped = false ∧ (fillChecks s).checking.contains q = true ∧ checkCommand (fillChecks s) q (readCmd q (fillChecks s)) = .error e) ∧
    (∃ (s : State) (q : Fin 256),
      s.safety.safe = false ∧ (s.queue q).cfg.live.en = true ∧ (s.queue q).stopped = false ∧ (fillChecks s).checking.contains q = false) :=
  ⟨⟨subm 0x0000000200000103 true, 5, 0x0000000200000103, by decide +kernel⟩,
   ⟨subm 0x0000000000000003 true, 5, 0x0000000000000003, by decide +kernel⟩,
   ⟨subm 0x0000000000000003 false, 5, 0x0000000000000003, by decide +kernel⟩,
   ⟨subm 0x0000000200000104 true, 5, 0x0000000200000104, by decide +kernel⟩,
   ⟨subm 0x0000000300000003 true, 5, 0x0000000300000003, by decide +kernel⟩,
   ⟨live, 5, by decide +kernel⟩,
   ⟨ringed markerDesc, 0, { readCmd 0 (ringed markerDesc) with holding := false }, by decide +kernel⟩,
   ⟨ringed [], 0, { status := 0x10, data := (crc32 (List.replicate 60 0)).setWidth 64 }, by decide +kernel⟩,
   ⟨withC c8, 0, by decide +kernel⟩⟩

/-- The hypotheses of `CommandsStartAndEnd` can be met. -/
theorem hyps_commands_start_and_end :
    (∃ (s : State) (q : Fin 256) (c : Cmd),
      startsNext s q = some c ∧ failedNeed s q c = none ∧ c.kind ≠ 1 ∧ c.kind ≠ 2 ∧ c.kind ≠ 5 ∧ c.kind ≠ 6) ∧
    (∃ (s : State) (q : Fin 256) (c : Cmd),
      startsNext s q = some c ∧ s.cmd q c.seq = some c ∧ failedNeed s q c = none ∧ c.kind = 1) ∧
    (∃ (s : State) (q : Fin 256) (c : Cmd),
      startsNext s q = some c ∧ s.cmd q c.seq = some c ∧ failedNeed s q c = none ∧ c.kind = 1) ∧
    (∃ (s : State) (q : Fin 256) (c : Cmd),
      startsNext s q = some c ∧ s.cmd q c.seq = some c ∧ failedNeed s q c = none ∧ c.kind = 1) ∧
    (∃ (s : State) (q : Fin 256) (c : Cmd),
      startsNext s q = some c ∧ failedNeed s q c = none ∧ c.kind = 2) ∧
    (∃ (s : State) (q : Fin 256) (c : Cmd),
      startsNext s q = some c ∧ failedNeed s q c = none ∧ c.kind = 5) ∧
    (∃ (s : State) (q : Fin 256) (c : Cmd) (g : Word),
      startsNext s q = some c ∧ failedNeed s q c = none ∧ c.kind = 6 ∧ g = (lookupKey s.vine.generations (c.target % 65536)).getD 0) ∧
    (∃ (s : State) (q : Fin 256) (c : Cmd) (e : Stop),
      startsNext s q = some c ∧ s.cmd q c.seq = some c ∧ failedNeed s q c = some e) ∧
    (∃ (s : State) (q : Fin 256),
      startsNext s q = none) ∧
    (∃ (s : State) (q : Fin 256) (seq : Word) (c : Cmd) (st : Byte) (data : Long),
      s.safety.safe = false ∧ s.cmd q seq = some c ∧ c.phase = .written st data) ∧
    (∃ (s : State) (q : Fin 256) (c : Cmd) (st : Byte) (data : Long),
      s.safety.safe = false ∧ ((s.queue q).nextCork - (s.queue q).consumed).toNat < 128 ∧ s.cmd q (s.queue q).nextCork = some c ∧ c.phase = .ended st data) ∧
    (∃ (s : State) (q : Fin 256),
      (s.safety.safe = true ∨ 128 ≤ ((s.queue q).nextCork - (s.queue q).consumed).toNat ∨ s.cmd q (s.queue q).nextCork = none)) :=
  ⟨⟨withC c8, 0, c8, by decide +kernel⟩,
   ⟨withP (chk 1), 0, chk 1, by decide +kernel⟩,
   ⟨withP { chk 1 with phase := .requeued, requeued := true }, 0, { chk 1 with phase := .requeued, requeued := true }, by decide +kernel⟩,
   ⟨withP { chk 1 with phase := .suspended 3 }, 0, { chk 1 with phase := .suspended 3 }, by decide +kernel⟩,
   ⟨withC (chk 2), 0, chk 2, by decide +kernel⟩,
   ⟨withC (chk 5), 0, chk 5, by decide +kernel⟩,
   ⟨withC (chk 6), 0, chk 6, 0, by decide +kernel⟩,
   ⟨{ withP (chk 1) with failed := 4 }, 0, chk 1, failStop (failedNeed { withP (chk 1) with failed := 4 } 0 (chk 1)), by decide +kernel⟩,
   ⟨live, 0, by decide +kernel⟩,
   ⟨withC { c8 with phase := .written 0 7 }, 0, 4, { c8 with phase := .written 0 7 }, 0, 7, by decide +kernel⟩,
   ⟨withC { c8 with phase := .ended 0 7 }, 0, { c8 with phase := .ended 0 7 }, 0, 7, by decide +kernel⟩,
   ⟨live, 0, by decide +kernel⟩⟩

/-- The hypotheses of `CommandKindsAct` can be met. -/
theorem hyps_command_kinds_act :
    (∃ (s : State) (q : Fin 256) (seq : Word) (c : Cmd),
      startedOf s q seq 1 = some c) ∧
    (∃ (s : State) (q : Fin 256) (seq : Word) (c : Cmd),
      startedOf s q seq 3 = some c) ∧
    (∃ (s : State) (q : Fin 256) (seq : Word) (c : Cmd),
      startedOf s q seq 4 = some c ∧ ((compressEnds (opAt c.operands 0) (opAt c.operands 1)).isSome = false ∨ laneHeld s (queueLane q) = false) ∧ (copied s q c).2 = none) ∧
    (∃ (s : State) (q : Fin 256) (seq : Word) (c : Cmd) (e : Stop),
      startedOf s q seq 4 = some c ∧ ((compressEnds (opAt c.operands 0) (opAt c.operands 1)).isSome = false ∨ laneHeld s (queueLane q) = false) ∧ (copied s q c).2 = some e ∧ e.held = false) ∧
    (∃ (s : State) (q : Fin 256) (seq : Word) (c : Cmd),
      startedOf s q seq 4 = some c ∧ (compressEnds (opAt c.operands 0) (opAt c.operands 1)).isSome = true ∧ laneHeld s (queueLane q) = true) ∧
    (∃ (s : State) (q : Fin 256) (seq : Word) (c : Cmd),
      startedOf s q seq 8 = some c) ∧
    (∃ (s : State) (q : Fin 256) (seq : Word) (c : Cmd) (o : Obj),
      startedOf s q seq 7 = some c ∧ s.object (c.target % 65536) = some o ∧ o.parcel = s.parcelOf q ∧ o.releasePending = false ∧ o.holds ≠ 0) ∧
    (∃ (s : State) (q : Fin 256) (seq : Word) (c : Cmd) (o : Obj),
      startedOf s q seq 7 = some c ∧ s.object (c.target % 65536) = some o ∧ o.parcel = s.parcelOf q ∧ o.releasePending = false ∧ o.holds = 0) ∧
    (∃ (s : State) (q : Fin 256) (seq : Word) (c : Cmd),
      startedOf s q seq 7 = some c ∧ objectUsable s (s.parcelOf q) (c.target % 65536) = false) :=
  ⟨⟨withC (kst 1), 0, 4, kst 1, by decide +kernel⟩,
   ⟨withC (kst 3), 0, 4, kst 3, by decide +kernel⟩,
   ⟨withC (kst 4), 0, 4, kst 4, by decide +kernel⟩,
   ⟨withC badCopy, 0, 4, badCopy, failStop (copied (withC badCopy) 0 badCopy).2, by decide +kernel⟩,
   ⟨laneBusy (withC packed), 0, 4, packed, by decide +kernel⟩,
   ⟨withC (kst 8), 0, 4, kst 8, by decide +kernel⟩,
   ⟨withObj 1 (withC (kst 7)), 0, 4, kst 7, anObj 1, by decide +kernel⟩,
   ⟨withObj 0 (withC (kst 7)), 0, 4, kst 7, anObj 0, by decide +kernel⟩,
   ⟨withC (kst 7), 0, 4, kst 7, by decide +kernel⟩⟩

/-- The hypotheses of `KilledCommandsEnd` can be met. -/
theorem hyps_killed_commands_end :
    (∃ (s : State) (q : Fin 256) (seq : Word) (c : Cmd) (st : Byte) (data : Long),
      s.safety.safe = false ∧ s.cmd q seq = some c ∧ c.phase = .killing st data) ∧
    (∃ (s : State) (q : Fin 256) (seq : Word) (c : Cmd),
      s.safety.safe = false ∧ s.cmd q seq = some c ∧ c.phase = .killingRequeue) ∧
    (∃ (s : State) (q : Fin 256) (seq : Word) (c : Cmd) (st : Byte) (data : Long),
      s.safety.safe = true ∧ s.cmd q seq = some c ∧ (c.phase = .killing st data ∨ c.phase = .killingRequeue)) :=
  ⟨⟨kc (.killing 0x24 9), 0, 4, { kst 1 with phase := .killing 0x24 9 }, 0x24, 9, by decide +kernel⟩,
   ⟨kc .killingRequeue, 0, 4, { kst 1 with phase := .killingRequeue }, by decide +kernel⟩,
   ⟨{ kc .killingRequeue with safety := { live.safety with safe := true } }, 0, 4, { kst 1 with phase := .killingRequeue }, 0, 0, by decide +kernel⟩⟩

end Part06

/-! ### The press -/

namespace Part07

/-- R190: where no swap of a folded program is due, an instruction issues in the device as it is. -/
theorem issues_unfolded {s : State} {p : Fin 16} {op : Nat} {c : Cmd} {k : Sequencer} {i : PressInstr}
    (h : issueOf s p op = some (c, k, i)) (e : swapsDue c p k = []) : issuing s p op = some ((c, k, i), s) := by
  simp [issuing, h, e]

def pin (op : Byte) (arg : List Byte) (counts : List Nat) : PressInstr := { opcode := op, iflags := 0, opa := 0, opb := 0, opout := 0, opqp := 0, mrows := 1, depth := counts.length, kdepth := 0, counts := counts, arg := arg, arg2 := [7] }

def pcmd (i : PressInstr) (r : Bool) : Cmd := { seq := 4, desc := 1 :: (List.replicate 11 0 ++ [4] ++ List.replicate 51 0), phase := .running, streams := [(2, [i])], rackRequested := r }

def sqr : Sequencer := { queue := 0, seq := 4, twinOf := none, index := 0, ended := false, waiting := false, stopped := false, point := 0, passedPoint := false, jobs := [], children := 0, drains := [] }

def withC (c : Cmd) : State := (live.updQueue 0 fun q => { q with cfg := rwsReset { q.cfg.live with en := true, size := 256 }, nextCork := 4, read := 5, tail := 5, cmds := [c] }).updParcel 0 fun p => { p with state := 2, presses := 0x0C }

def onP (k : Sequencer) (s : State) : State := s.updPress 2 fun x => { x with sequencer := some k, en := true }

def ps (i : PressInstr) (r : Bool := false) (k : Sequencer := sqr) : State := onP k (withC (pcmd i r))

def st0 : Stalls := { weight := 1, drain := 2, operand := 3 }

def noHealth : ReadHealth := ⟨[], 0, [], 0⟩

def mulI : PressInstr := pin 1 [] [0]

def mulC : Cmd := pcmd mulI false

/-- The run of a MATMUL of the examples. -/
def runOf (s : State) (c : Cmd) : NestRun := runMatmul s (pressCx s 0 2) c.operands mulI (s.press 2)

def op0 : Operand := { addr := 0x100, format := 0, space := 0, inner := 0, flags := 0, sizes := [0, 0, 0, 0], strides := [0, 0, 0], pad := 0, zp := 0, starts := [], incs := [] }

def badW : Operand := { op0 with addr := 0x7FFFFF, sizes := [1, 1, 1, 1] }

def badI : PressInstr := pin 1 [] [1]

def badC (i : PressInstr) : Cmd := { pcmd i false with operands := [badW] }

def mErr (i : PressInstr) : State := onP sqr (withC (badC i))

def badRun : NestRun := runMatmul (mErr badI) (pressCx (mErr badI) 0 2) (badC badI).operands badI ((mErr badI).press 2)

def theCause (n : NestRun) : Cause := n.cause.getD (0, ⟨0, 0, false⟩)

def eltI : PressInstr := pin 2 [] [0]

def badE : PressInstr := pin 2 [] [1]

def errOf {α : Type} (x : Except Stop α) : Stop := match x with
  | .error e => e
  | .ok _ => { status := 0, data := 0 }

def tileOf (x : Except Stop Tile) : Tile := match x with
  | .error _ => { codes := [], index := [], scales := [], outliers := [] }
  | .ok w => w

def ot : OutTile := { writes := [(128, [1, 2, 3])], crc := 5 }

def sd (l : List OutTile) : Sequencer := { sqr with index := 1, drains := l }

def tw (s : State) : State := (s.updPress 2 fun x => { x with twin := true, twinPeer := 3 }).updPress 3 fun x => { x with twin := true, twinRole := true, twinPeer := 2, sequencer := some { sqr with twinOf := some 2 } }

def dmaI : PressInstr := pin 3 [5] [1]

def waitI : PressInstr := pin 4 [5, 0, 0, 0, 1] []

def wait0 : PressInstr := pin 4 [5] []

def wsq : Sequencer := { sqr with waiting := true }

def jb : DmaJob := { src := op0, dst := op0, rows := 0, depth := 1, counts := [2], counter := 5, next := 0, total := 2 }

/-- The state in which an iteration of a transfer is counted. -/
def counted (i : PressInstr) (j : DmaJob) : State :=
  let k : Sequencer := { sqr with jobs := [j] }
  let s := ps i false k
  match countArrival (dmaCx s 2 k) 2 j (moved s 2 k j).1 with
  | .ok u => u
  | .error _ => s

def jbad : DmaJob := { jb with src := badW, rows := 1 }

def ej : EngineJob := { queue := 0, seq := 4, press := some 2, counter := 7, parcel := 0, twinned := false, operands := [], params := [] }

def crcd (l : List Byte) : List Byte := l ++ leBytes 4 (crc32 l).toNat

def childD : List Byte := crcd ([2] ++ List.replicate 11 0 ++ [2, 0, 0, 0, 0, 1, 0, 0, 0, 0, 0, 0, 32, 0, 0, 0, 0, 2, 0, 0, 0, 0, 0, 0, 3] ++ List.replicate 23 0)

def childB : List Byte := [3] ++ List.replicate 15 0 ++ [1] ++ List.replicate 15 0

def childO : List Byte := [0, 0, 0, 0, 0, 0x20, 0, 0, 1, 0, 1, 0, 1, 0, 1, 0] ++ List.replicate 48 0

def withChild (s : State) : State := { s with
  dram := ((s.dram.writeBytes 0 childD).writeBytes 0x100 childB).writeBytes 0x200 (childO ++ childO ++ childO)
  mmu := { s.mmu with table := [(0, { valid := true, read := true, exec := true, owner := 0, ppn := 0 })] } }

def engI : PressInstr := pin 5 [] []

def childS : State := withChild (ps engI)

/-- The same with engine 2's list of the parcel full. -/
def fullS : State := childS.updEngine 2 fun e => { e with waiting := List.replicate 64 ej }

/-- The hypotheses of `PressRunsMatrixWork` can be met. -/
theorem hyps_press_runs_matrix_work :
    (∃ (s : State) (u : State) (p : Fin 16) (c : Cmd) (k : Sequencer) (i : PressInstr) (n : NestRun),
      issuing s p 1 = some ((c, k, i), u) ∧ k.drains = [] ∧ twinOfPress u p ≠ some p ∧ runMatmul u (pressCx u k.queue p) c.operands i (u.press p) = n ∧ n.cause = none) ∧
    (∃ (s : State) (u : State) (p : Fin 16) (c : Cmd) (k : Sequencer) (i : PressInstr) (n : NestRun) (e : Cause),
      issuing s p 1 = some ((c, k, i), u) ∧ k.drains = [] ∧ c.kind = 1 ∧ runMatmul u (pressCx u k.queue p) c.operands i (u.press p) = n ∧ n.cause = some e ∧ e.2.held = false) ∧
    (∃ (s : State) (u : State) (p : Fin 16) (c : Cmd) (k : Sequencer) (i : PressInstr) (l : List OutTile),
      issuing s p 2 = some ((c, k, i), u) ∧ k.drains = [] ∧ twinOfPress u p ≠ some p ∧ runEltwise u (pressCx u k.queue p) c.operands i = .ok l) ∧
    (∃ (s : State) (u : State) (p : Fin 16) (c : Cmd) (k : Sequencer) (i : PressInstr) (e : Stop),
      issuing s p 2 = some ((c, k, i), u) ∧ k.drains = [] ∧ c.kind = 1 ∧ runEltwise u (pressCx u k.queue p) c.operands i = .error e ∧ e.held = false) ∧
    (∃ (s : State) (u : State) (p : Fin 16) (c : Cmd) (k : Sequencer) (i : PressInstr) (w : Tile),
      issuing s p 1 = some ((c, k, i), u) ∧ (u.press p).shadow = none ∧ loadWaits c p k i = false ∧ loadTile u (pressCx u k.queue p) c.operands i (List.replicate i.depth 0) = .ok w) ∧
    (∃ (s : State) (u : State) (p : Fin 16) (c : Cmd) (k : Sequencer) (i : PressInstr) (e : Stop),
      issuing s p 1 = some ((c, k, i), u) ∧ (u.press p).shadow = none ∧ loadWaits c p k i = false ∧ c.kind = 1 ∧ loadTile u (pressCx u k.queue p) c.operands i (List.replicate i.depth 0) = .error e ∧ e.held = false) ∧
    (∃ (k : Sequencer),
      k.drains ≠ []) ∧
    (∃ (s : State) (p : Fin 16) (c : Cmd) (k : Sequencer) (w : OutTile) (rest : List OutTile),
      runningOn s p = some (c, k) ∧ k.drains = w :: rest ∧ twinOfPress s p = none) ∧
    (∃ (s : State) (p : Fin 16) (c : Cmd) (k : Sequencer) (w : OutTile) (rest : List OutTile),
      runningOn s p = some (c, k) ∧ k.drains = w :: rest ∧ twinOfPress s p = none) ∧
    (∃ (s : State) (p : Fin 16) (q : Fin 16) (c : Cmd) (k : Sequencer) (w : OutTile) (rest : List OutTile) (x : Word),
      c.kind = 1 ∧ runningOn s p = some (c, k) ∧ k.drains = w :: rest ∧ twinOfPress s p = some q ∧ q ≠ p ∧ x ≠ w.crc) ∧
    (∃ (s : State) (p : Fin 16) (q : Fin 16) (c : Cmd) (k : Sequencer) (w : OutTile) (rest : List OutTile) (x : Option Word),
      runningOn s p = some (c, k) ∧ k.drains = w :: rest ∧ twinOfPress s p = some q ∧ q ≠ p ∧ x.getD w.crc = w.crc) ∧
    (∃ (s : State) (p : Fin 16),
      (runningOn s p = none ∨ ∃ c k, runningOn s p = some (c, k) ∧ k.drains = [])) :=
  ⟨⟨ps mulI, ps mulI, 2, mulC, sqr, mulI, runOf (ps mulI) mulC, by exact ⟨issues_unfolded (by decide +kernel) (by decide +kernel), by decide +kernel, by decide +kernel, rfl, by decide +kernel⟩⟩,
   ⟨mErr badI, mErr badI, 2, badC badI, sqr, badI, badRun, theCause badRun, by exact ⟨issues_unfolded (by decide +kernel) (by decide +kernel), by decide +kernel, by decide +kernel, rfl, by decide +kernel, by decide +kernel⟩⟩,
   ⟨ps eltI, ps eltI, 2, pcmd eltI false, sqr, eltI, [], by exact ⟨issues_unfolded (by decide +kernel) (by decide +kernel), by decide +kernel, by decide +kernel, by decide +kernel⟩⟩,
   ⟨mErr badE, mErr badE, 2, badC badE, sqr, badE, errOf (runEltwise (mErr badE) (pressCx (mErr badE) 0 2) [badW] badE), by exact ⟨issues_unfolded (by decide +kernel) (by decide +kernel), by decide +kernel, by decide +kernel, rfl, by decide +kernel⟩⟩,
   ⟨ps (pin 1 [] []), ps (pin 1 [] []), 2, pcmd (pin 1 [] []) false, sqr, pin 1 [] [], tileOf (loadTile (ps (pin 1 [] [])) (pressCx (ps (pin 1 [] [])) 0 2) [] (pin 1 [] []) []), by exact ⟨issues_unfolded (by decide +kernel) (by decide +kernel), by decide +kernel, by decide +kernel, by decide +kernel⟩⟩,
   ⟨mErr badI, mErr badI, 2, badC badI, sqr, badI, errOf (loadTile (mErr badI) (pressCx (mErr badI) 0 2) [badW] badI [0]), by exact ⟨issues_unfolded (by decide +kernel) (by decide +kernel), by decide +kernel, by decide +kernel, by decide +kernel, rfl, by decide +kernel⟩⟩,
   ⟨sd [ot], by decide +kernel⟩,
   ⟨ps mulI false (sd [ot]), 2, mulC, sd [ot], ot, [], by decide +kernel⟩,
   ⟨ps mulI false (sd [ot, ot]), 2, mulC, sd [ot, ot], ot, [ot], by decide +kernel⟩,
   ⟨tw (ps mulI false (sd [ot])), 2, 3, mulC, sd [ot], ot, [], 6, by decide +kernel⟩,
   ⟨tw (ps mulI false (sd [ot])), 2, 3, mulC, sd [ot], ot, [], none, by decide +kernel⟩,
   ⟨live, 2, by exact .inl (by decide +kernel)⟩⟩

/-- The hypotheses of `SequencerInstructionsAct` can be met. -/
theorem hyps_sequencer_instructions_act :
    (∃ (s : State) (u : State) (p : Fin 16) (c : Cmd) (k : Sequencer) (i : PressInstr),
      issuing s p 3 = some ((c, k, i), u) ∧ twinOfPress u p ≠ some p) ∧
    (∃ (s : State) (u : State) (p : Fin 16) (c : Cmd) (k : Sequencer) (i : PressInstr),
      issuing s p 4 = some ((c, k, i), u) ∧ twinOfPress u p ≠ some p) ∧
    (∃ (s : State) (u : State) (p : Fin 16) (c : Cmd) (k : Sequencer) (i : PressInstr),
      issuing s p 4 = some ((c, k, i), u) ∧ twinOfPress u p ≠ some p) ∧
    (∃ (s : State) (p : Fin 16) (c : Cmd) (k : Sequencer) (i : PressInstr),
      heldWait s p = some (k, i) ∧ runningOn s p = some (c, k) ∧ reached s p i = true ∧ twinOfPress s p ≠ some p) ∧
    (∃ (s : State) (p : Fin 16),
      (heldWait s p = none ∨ ∃ k i, heldWait s p = some (k, i) ∧ reached s p i = false)) ∧
    (∃ (s : State) (p : Fin 16) (c : Cmd) (k : Sequencer) (i : PressInstr),
      heldWait s p = some (k, i) ∧ runningOn s p = some (c, k) ∧ c.kind = 1 ∧ twinOfPress s p ≠ some p) ∧
    (∃ (s : State) (p : Fin 16),
      heldWait s p = none) ∧
    (∃ (s : State) (u : State) (p : Fin 16) (c : Cmd) (k : Sequencer) (i : PressInstr),
      issuing s p 6 = some ((c, k, i), u) ∧ twinOfPress u p ≠ some p) ∧
    (∃ (s : State) (u : State) (p : Fin 16) (c : Cmd) (k : Sequencer) (i : PressInstr),
      issuing s p 6 = some ((c, k, i), u) ∧ twinOfPress u p ≠ some p) ∧
    (∃ (s : State) (u : State) (p : Fin 16) (c : Cmd) (k : Sequencer) (i : PressInstr),
      issuing s p 0x0F = some ((c, k, i), u) ∧ twinOfPress u p ≠ some p) ∧
    (∃ (s : State) (u : State) (p : Fin 16) (c : Cmd) (k : Sequencer) (i : PressInstr) (d : List Byte) (e : Fin 6) (ops : List Operand) (block : List Byte),
      issuing s p 5 = some ((c, k, i), u) ∧ twinOfPress u p ≠ some p ∧ frontRead u k.queue (fieldNat i.arg 0 5 % 2 ^ 38) 64 = .ok d ∧ checkChild d = none ∧ e = Fin.ofNat 6 (fieldNat d 12 4 % 256) ∧ listFull u e (u.parcelOf k.queue) = false ∧ readChild u k.queue e.val { seq := k.seq, desc := d, phase := .checked } = .ok (ops, block)) ∧
    (∃ (s : State) (u : State) (p : Fin 16) (c : Cmd) (k : Sequencer) (i : PressInstr) (d : List Byte) (e : Fin 6) (x : Stop),
      issuing s p 5 = some ((c, k, i), u) ∧ c.kind = 1 ∧ x.held = false ∧ e = Fin.ofNat 6 (fieldNat d 12 4 % 256) ∧ (frontRead u k.queue (fieldNat i.arg 0 5 % 2 ^ 38) 64 = .error x ∨ frontRead u k.queue (fieldNat i.arg 0 5 % 2 ^ 38) 64 = .ok d ∧ (checkChild d = some x ∨ checkChild d = none ∧ listFull u e (u.parcelOf k.queue) = false ∧ readChild u k.queue e.val { seq := k.seq, desc := d, phase := .checked } = .error x))) ∧
    (∃ (s : State) (u : State) (p : Fin 16) (c : Cmd) (k : Sequencer) (i : PressInstr) (d : List Byte),
      issuing s p 5 = some ((c, k, i), u) ∧ frontRead u k.queue (fieldNat i.arg 0 5 % 2 ^ 38) 64 = .ok d ∧ checkChild d = none ∧ listFull u (Fin.ofNat 6 (fieldNat d 12 4 % 256)) (u.parcelOf k.queue) = true) :=
  ⟨⟨tw (ps dmaI), tw (ps dmaI), 2, pcmd dmaI false, sqr, dmaI, by exact ⟨issues_unfolded (by decide +kernel) (by decide +kernel), by decide +kernel⟩⟩,
   ⟨ps waitI, ps waitI, 2, pcmd waitI false, sqr, waitI, by exact ⟨issues_unfolded (by decide +kernel) (by decide +kernel), by decide +kernel⟩⟩,
   ⟨ps wait0, ps wait0, 2, pcmd wait0 false, sqr, wait0, by exact ⟨issues_unfolded (by decide +kernel) (by decide +kernel), by decide +kernel⟩⟩,
   ⟨ps wait0 false wsq, 2, pcmd wait0 false, wsq, wait0, by decide +kernel⟩,
   ⟨live, 2, by exact .inl (by decide +kernel)⟩,
   ⟨ps waitI false wsq, 2, pcmd waitI false, wsq, waitI, by decide +kernel⟩,
   ⟨live, 2, by decide +kernel⟩,
   ⟨ps (pin 6 [5] []), ps (pin 6 [5] []), 2, pcmd (pin 6 [5] []) false, sqr, pin 6 [5] [], by exact ⟨issues_unfolded (by decide +kernel) (by decide +kernel), by decide +kernel⟩⟩,
   ⟨ps (pin 6 [5] []) true, ps (pin 6 [5] []) true, 2, pcmd (pin 6 [5] []) true, sqr, pin 6 [5] [], by exact ⟨issues_unfolded (by decide +kernel) (by decide +kernel), by decide +kernel⟩⟩,
   ⟨ps (pin 15 [] []), ps (pin 15 [] []), 2, pcmd (pin 15 [] []) false, sqr, pin 15 [] [], by exact ⟨issues_unfolded (by decide +kernel) (by decide +kernel), by decide +kernel⟩⟩,
   ⟨childS, childS, 2, pcmd engI false, sqr, engI, childD, 2, List.replicate 3 (parseOperand [0, 0, 0, 0] childO), childB, by exact ⟨issues_unfolded (by decide +kernel) (by decide +kernel), by decide +kernel, by decide +kernel, by decide +kernel, by decide +kernel, by decide +kernel, by decide +kernel⟩⟩,
   ⟨ps engI, ps engI, 2, pcmd engI false, sqr, engI, [], 0, errOf (frontRead (ps engI) 0 0 64), by exact ⟨issues_unfolded (by decide +kernel) (by decide +kernel), by decide +kernel, by decide +kernel, by decide +kernel, .inl rfl⟩⟩,
   ⟨fullS, fullS, 2, pcmd engI false, sqr, engI, childD, by exact ⟨issues_unfolded (by decide +kernel) (by decide +kernel), by decide +kernel, by decide +kernel, by decide +kernel⟩⟩⟩

/-- The hypotheses of `TransfersAndChildrenSignal` can be met. -/
theorem hyps_transfers_and_children_signal :
    (∃ (s : State) (u : State) (p : Fin 16) (n : Nat) (c : Cmd) (k : Sequencer) (j : DmaJob),
      runningOn s p = some (c, k) ∧ k.jobs[n]? = some j ∧ (j.compresses && j.next = 0 && laneHeld s (pressLane p)) = false ∧ (moved s p k j).2 = none ∧ countArrival (dmaCx s p k) p j (moved s p k j).1 = .ok u) ∧
    (∃ (s : State) (u : State) (p : Fin 16) (n : Nat) (c : Cmd) (k : Sequencer) (j : DmaJob),
      runningOn s p = some (c, k) ∧ k.jobs[n]? = some j ∧ (j.compresses && j.next = 0 && laneHeld s (pressLane p)) = false ∧ (moved s p k j).2 = none ∧ countArrival (dmaCx s p k) p j (moved s p k j).1 = .ok u) ∧
    (∃ (s : State) (p : Fin 16) (n : Nat) (c : Cmd) (k : Sequencer) (j : DmaJob) (e : Stop),
      c.kind = 1 ∧ runningOn s p = some (c, k) ∧ k.jobs[n]? = some j ∧ (j.compresses && j.next = 0 && laneHeld s (pressLane p)) = false ∧ ((moved s p k j).2 = some e ∨ (moved s p k j).2 = none ∧ countArrival (dmaCx s p k) p j (moved s p k j).1 = .error e) ∧ e.held = false) ∧
    (∃ (s : State) (p : Fin 16) (n : Nat),
      (runningOn s p = none ∨ ∃ c k, runningOn s p = some (c, k) ∧ (k.jobs[n]? = none ∨ ∃ j, k.jobs[n]? = some j ∧ j.compresses = true ∧ j.next = 0 ∧ laneHeld s (pressLane p) = true))) ∧
    (∃ (s : State) (e : Fin 5) (j : EngineJob) (rest : List EngineJob) (p : Fin 16),
      (s.engine (Fin.ofNat 6 e.val)).done = j :: rest ∧ j.press = some p) ∧
    (∃ (s : State) (e : Fin 5),
      (s.engine (Fin.ofNat 6 e.val)).done = []) :=
  ⟨⟨ps dmaI false { sqr with jobs := [jb] }, counted dmaI jb, 2, 0, pcmd dmaI false, { sqr with jobs := [jb] }, jb, by exact ⟨by decide +kernel, by decide +kernel, by decide +kernel, by decide +kernel, rfl⟩⟩,
   ⟨ps dmaI false { sqr with jobs := [{ jb with next := 1 }] }, counted dmaI { jb with next := 1 }, 2, 0, pcmd dmaI false, { sqr with jobs := [{ jb with next := 1 }] }, { jb with next := 1 }, by exact ⟨by decide +kernel, by decide +kernel, by decide +kernel, by decide +kernel, rfl⟩⟩,
   ⟨ps dmaI false { sqr with jobs := [jbad] }, 2, 0, pcmd dmaI false, { sqr with jobs := [jbad] }, jbad, ((moved (ps dmaI false { sqr with jobs := [jbad] }) 2 { sqr with jobs := [jbad] } jbad).2).getD { status := 0, data := 0}, by decide +kernel⟩,
   ⟨live, 2, 0, by exact .inl (by decide +kernel)⟩,
   ⟨(ps (pin 5 [] []) false { sqr with children := 1 }).updEngine 3 fun e => { e with done := [ej, ej] }, 3, ej, [ej], 2, by decide +kernel⟩,
   ⟨live, 3, by decide +kernel⟩⟩

/-- The hypotheses of `SleepAndScrubAct` can be met. -/
theorem hyps_sleep_and_scrub_act :
    (∃ (s : State) (p : Fin 16),
      enabled s p = true ∧ (s.press p).sequencer = none ∧ (s.press p).mode = .idle ∧ (vget s.clocks.doms 0).sleepEn = true) ∧
    (∃ (s : State) (p : Fin 16),
      (enabled s p = false ∨ (s.press p).sequencer ≠ none ∨ (s.press p).mode ≠ .idle ∨ (vget s.clocks.doms 0).sleepEn = false)) ∧
    (∃ (s : State) (e : Fin 6),
      (s.engine e).waiting = [] ∧ (s.engine e).done = [] ∧ (e = 5 → compressorWorks s = false)) ∧
    (∃ (s : State) (e : Fin 6),
      (s.engine e).waiting = [] ∧ (s.engine e).done = [] ∧ (e = 5 → compressorWorks s = false)) ∧
    (∃ (s : State) (e : Fin 6),
      ((s.engine e).waiting ≠ [] ∨ (s.engine e).done ≠ [] ∨ e = 5 ∧ compressorWorks s = true)) ∧
    (∃ (s : State) (r : EccResult),
      s.safety.safe = false ∧ r ≠ .uncorrectable) ∧
    (∃ (s : State),
      s.safety.safe = false) ∧
    (∃ (s : State) (r : EccResult),
      s.safety.safe = false ∧ r ≠ .uncorrectable) ∧
    (∃ (s : State),
      s.safety.safe = false) ∧
    (∃ (s : State),
      s.safety.safe = true) ∧
    (∃ (s : State) (q : Fin 256) (seq : Word) (c : Cmd),
      s.cmd q seq = some c ∧ c.phase.killable = true ∧ c.kind = 1 ∧ (∀ k, c.phase ≠ .suspended k)) ∧
    (∃ (s : State) (q : Fin 256) (seq : Word) (c : Cmd),
      s.safety.safe = false ∧ s.cmd q seq = some c ∧ c.phase.killable = true ∧ c.kind ≠ 1) :=
  ⟨⟨(live.updDom 0 fun d => { d with sleepEn := true }), 5, by decide +kernel⟩,
   ⟨{ live with failed := 16 }, 4, by decide +kernel⟩,
   ⟨live, 4, by decide +kernel⟩,
   ⟨live, 5, by decide +kernel⟩,
   ⟨live.updEngine 2 fun e => { e with waiting := [ej] }, 2, by decide +kernel⟩,
   ⟨live.updPress 5 fun x => { x with scrubLine := vset x.scrubLine 31 1535 }, .corrected, by decide +kernel⟩,
   ⟨live.updPress 5 fun x => { x with scrubLine := vset x.scrubLine 31 1535 }, by decide +kernel⟩,
   ⟨live, .clean, by decide +kernel⟩,
   ⟨live, by decide +kernel⟩,
   ⟨{ live with safety := { live.safety with safe := true } }, by decide +kernel⟩,
   ⟨ps wait0, 0, 4, pcmd wait0 false, by exact ⟨by decide +kernel, by decide +kernel, by decide +kernel, fun _ h => by cases h⟩⟩,
   ⟨withC { pcmd wait0 false with desc := 2 :: List.replicate 63 0 }, 0, 4, { pcmd wait0 false with desc := 2 :: List.replicate 63 0 }, by decide +kernel⟩⟩

end Part07

/-! ### Engines, Intake and codec -/

namespace Part08

def ej0 (tw : Bool) (p : Option (Fin 16)) : EngineJob := { queue := 0, seq := 4, press := p, counter := 7, parcel := 0, twinned := tw, operands := [], params := [] }

def cE (k : Byte) (tg : Byte) : Cmd := { seq := 4, desc := k :: (List.replicate 11 0 ++ [tg] ++ List.replicate 51 0), phase := .running }

def withE (c : Cmd) (e : Fin 6) (j : EngineJob) : State := (live.updQueue 0 fun q => { q with cfg := rwsReset { q.cfg.live with en := true, size := 256 }, nextCork := 4, read := 5, tail := 5, cmds := [c] }).updEngine e fun x => { x with waiting := [j] }

def noHealth : ReadHealth := ⟨[], 0, [], 0⟩

def stopOf (x : EngineRun) : Stop := x.2.getD { status := 0, data := 0 }

def ejp : EngineJob := { ej0 false none with params := List.replicate 16 0 ++ [1] }

def lkS : State := withE (cE 2 3) 3 ejp

def ejb : EngineJob := { ej0 false none with params := List.replicate 16 0 ++ [1] ++ List.replicate 15 0, operands := [{ noOperand with space := 2 }] }

def stm : Stream := { function := 1, width := 16, height := 16, depth := 8, fpsCenti := 30, reservation := 5, closing := false }

def withCo (f : Byte) : State := let s := withE (cE 5 f) 0 (ej0 false none); { s with codec := { s.codec with streams := [(0, stm)], encCores := #v[some (0, 4), none, none, none] } }

def noStream (f : Byte) : State := let s := withCo f; { s with codec := { s.codec with streams := [] } }

/-- The hypotheses of `IntakeAndCodecRun` can be met. -/
theorem hyps_intake_and_codec_run :
    (∃ (s : State) (m : Bool) (j : EngineJob),
      s.safety.safe = false ∧ nextJob (s.engine 4) = some j ∧ (m && j.twinned) = false ∧ (batchOf s j).2.2 = none) ∧
    (∃ (s : State) (m : Bool) (j : EngineJob),
      s.safety.safe = false ∧ nextJob (s.engine 4) = some j ∧ (m && j.twinned) = true ∧ (batchOf s j).2.2 = none) ∧
    (∃ (s : State) (j : EngineJob) (e : Stop),
      s.safety.safe = false ∧ nextJob (s.engine 4) = some j ∧ (batchOf s j).2.2 = some e) ∧
    (∃ (s : State),
      (s.safety.safe = true ∨ nextJob (s.engine 4) = none)) :=
  ⟨⟨withE (cE 2 4) 4 (ej0 false none), false, ej0 false none, by decide +kernel⟩,
   ⟨withE (cE 2 4) 4 (ej0 true none), true, ej0 true none, by decide +kernel⟩,
   ⟨withE (cE 2 4) 4 ejb, ejb, (batchOf (withE (cE 2 4) 4 ejb) ejb).2.2.getD ⟨0, 0, false⟩, by decide +kernel⟩,
   ⟨live, by decide +kernel⟩⟩

/-- The hypotheses of what each engine does can be met. -/
theorem hyps_engine_acts :
    (∃ (s : State) (j : EngineJob) (ws : List (Loc × List Byte)), s.safety.safe = false ∧ nextJob (s.engine 0) = some j ∧ windowRun (engineCx 0 j) j.operands j.params s = (ws, none) ∧
      (false && j.twinned) = false) ∧
    (∃ (s : State) (j : EngineJob) (ws : List (Loc × List Byte)), s.safety.safe = false ∧ nextJob (s.engine 1) = some j ∧ detectRun (engineCx 1 j) j.operands j.params s = (ws, none) ∧
      (false && j.twinned) = false) ∧
    (∃ (s : State) (j : EngineJob) (ws : List (Loc × List Byte)), s.safety.safe = false ∧ nextJob (s.engine 2) = some j ∧ foldRun (engineCx 2 j) j.operands j.params s = (ws, none) ∧
      (false && j.twinned) = false) ∧
    (∃ (s : State) (j : EngineJob) (ws : List (Loc × List Byte)), s.safety.safe = false ∧ nextJob (s.engine 3) = some j ∧ lookupRun (engineCx 3 j) j.operands j.params s = (ws, none) ∧
      (false && j.twinned) = false) ∧
    (∃ (s : State) (j : EngineJob) (ws : List (Loc × List Byte)), s.safety.safe = false ∧ nextJob (s.engine 3) = some j ∧ lookupRun (engineCx 3 j) j.operands j.params s = (ws, none) ∧
      (true && j.twinned) = true) ∧
    (∃ (s : State) (j : EngineJob) (ws : List (Loc × List Byte)), s.safety.safe = false ∧ nextJob (s.engine 2) = some j ∧ foldRun (engineCx 2 j) j.operands j.params s = (ws, none) ∧
      (true && j.twinned) = true) ∧
    (∃ (s : State) (j : EngineJob) (ws : List (Loc × List Byte)), s.safety.safe = false ∧ nextJob (s.engine 1) = some j ∧ detectRun (engineCx 1 j) j.operands j.params s = (ws, none) ∧
      (true && j.twinned) = true) ∧
    (∃ (s : State) (j : EngineJob) (ws : List (Loc × List Byte)), s.safety.safe = false ∧ nextJob (s.engine 0) = some j ∧ windowRun (engineCx 0 j) j.operands j.params s = (ws, none) ∧
      (true && j.twinned) = true) ∧
    (∃ (s : State) (j : EngineJob) (ws : List (Loc × List Byte)) (x : Stop), s.safety.safe = false ∧ nextJob (s.engine 3) = some j ∧ lookupRun (engineCx 3 j) j.operands j.params s = (ws, some x) ∧
      x.held = false) ∧
    (∃ s : State, nextJob (s.engine 3) = none) :=
  ⟨⟨withE (cE 2 0) 0 (ej0 false none), ej0 false none, [], by decide +kernel⟩,
   ⟨withE (cE 2 1) 1 (ej0 false none), ej0 false none, [], by decide +kernel⟩,
   ⟨withE (cE 2 2) 2 (ej0 false (some 3)), ej0 false (some 3), [], by decide +kernel⟩,
   ⟨withE (cE 2 3) 3 (ej0 true none), ej0 true none, [], by decide +kernel⟩,
   ⟨withE (cE 2 3) 3 (ej0 true none), ej0 true none, [], by decide +kernel⟩,
   ⟨withE (cE 2 2) 2 (ej0 true none), ej0 true none, [], by decide +kernel⟩,
   ⟨withE (cE 2 1) 1 (ej0 true none), ej0 true none, [], by decide +kernel⟩,
   ⟨withE (cE 2 0) 0 (ej0 true none), ej0 true none, [], by decide +kernel⟩,
   ⟨lkS, ejp, (lookupRun (engineCx 3 ejp) [] ejp.params lkS).1, stopOf (lookupRun (engineCx 3 ejp) [] ejp.params lkS), by decide +kernel⟩,
   ⟨live, by decide +kernel⟩⟩

/-- The hypotheses of what each codec function does can be met. -/
theorem hyps_codec_acts :
    (∃ (s : State) (c : Cmd) (st : Stream), s.safety.safe = false ∧ s.cmd 0 4 = some c ∧ c.kind = 5 ∧ c.target = 1 ∧ onCore s 0 4 = true ∧
      lookupKey s.codec.streams (fieldNat c.params 0 1) = some st) ∧
    (∃ (s : State) (c : Cmd) (st : Stream), s.safety.safe = false ∧ s.cmd 0 4 = some c ∧ c.kind = 5 ∧ c.target = 2 ∧ onCore s 0 4 = true ∧
      lookupKey s.codec.streams (fieldNat c.params 0 1) = some st) ∧
    (∃ (s : State) (c : Cmd) (st : Stream), s.safety.safe = false ∧ s.cmd 0 4 = some c ∧ c.kind = 5 ∧ c.target = 3 ∧ onCore s 0 4 = true ∧
      lookupKey s.codec.streams (fieldNat c.params 0 1) = some st) ∧
    (∃ (s : State) (c : Cmd) (st : Stream), s.safety.safe = false ∧ s.cmd 0 4 = some c ∧ c.kind = 5 ∧ c.target = 4 ∧ onCore s 0 4 = true ∧
      lookupKey s.codec.streams (fieldNat c.params 0 1) = some st) ∧
    (∃ (s : State) (c : Cmd), s.safety.safe = false ∧ s.cmd 0 4 = some c ∧ c.kind = 5 ∧ c.target = 1 ∧ onCore s 0 4 = true ∧
      lookupKey s.codec.streams (fieldNat c.params 0 1) = none) ∧
    (∃ (s : State) (c : Cmd), s.safety.safe = false ∧ s.cmd 0 4 = some c ∧ c.kind = 5 ∧ c.target = 2 ∧ onCore s 0 4 = true ∧
      lookupKey s.codec.streams (fieldNat c.params 0 1) = none) ∧
    (∃ (s : State) (c : Cmd), s.safety.safe = false ∧ s.cmd 0 4 = some c ∧ c.kind = 5 ∧ c.target = 3 ∧ onCore s 0 4 = true ∧
      lookupKey s.codec.streams (fieldNat c.params 0 1) = none) ∧
    (∃ (s : State) (c : Cmd), s.safety.safe = false ∧ s.cmd 0 4 = some c ∧ c.kind = 5 ∧ c.target = 4 ∧ onCore s 0 4 = true ∧
      lookupKey s.codec.streams (fieldNat c.params 0 1) = none) ∧
    (∃ s : State, onCore s 0 4 = false) :=
  ⟨⟨withCo 1, cE 5 1, stm, by decide +kernel⟩,
   ⟨withCo 2, cE 5 2, stm, by decide +kernel⟩,
   ⟨withCo 3, cE 5 3, stm, by decide +kernel⟩,
   ⟨withCo 4, cE 5 4, stm, by decide +kernel⟩,
   ⟨noStream 1, cE 5 1, by decide +kernel⟩,
   ⟨noStream 2, cE 5 2, by decide +kernel⟩,
   ⟨noStream 3, cE 5 3, by decide +kernel⟩,
   ⟨noStream 4, cE 5 4, by decide +kernel⟩,
   ⟨live, by decide +kernel⟩⟩

end Part08

/-! ### Memory -/

namespace Part09

def cR : Cmd := { seq := 4, desc := 1 :: (List.replicate 11 0 ++ [4] ++ List.replicate 51 0), phase := .running }

def withT (e : TtEntry) : State := let s := live.updQueue 0 fun q => { q with cfg := rwsReset { q.cfg.live with en := true, size := 256 }, nextCork := 4, read := 5, tail := 5, cmds := [cR] }
  { s with mmu := { s.mmu with table := [(5, e)] }, memctl := { s.memctl with inlineEcc := true } }

def te : TtEntry := { valid := true, read := true, owner := 0, ppn := 7 }

def noHealth : ReadHealth := ⟨[], 0, [], 0⟩

def mig : State := let s := withT te; { s with mmu := { s.mmu with poolPages := 1, retired := [7] }, dram := s.dram.writeBytes 0x1C008 [1, 2, 3] }

/-- A pool of one page gives that page. -/
theorem freePage_mig : freePage mig = some 0 := by
  have h : mig.mmu.poolPages = 1 := rfl
  have f : pageFree mig 0 = true := by decide +kernel
  simp [freePage, h, f, Nat.mod_one]

/-- A pool with no page. -/
def noPool : State := { mig with mmu := { mig.mmu with poolPages := 0 } }

/-- An empty pool gives no page. -/
theorem freePage_noPool : freePage noPool = none := by
  have h : noPool.mmu.poolPages = 0 := rfl
  simp [freePage, h]

/-- The hypotheses of `MemoryFaultsKill` can be met. -/
theorem hyps_memory_faults_kill :
    (∃ (s : State) (q : Fin 256) (va : BitVec 38) (acc : Access) (pa : Nat),
      s.safety.safe = false ∧ translate s (s.parcelOf q) acc va.toNat = .ok pa) ∧
    (∃ (s : State) (q : Fin 256) (va : BitVec 38) (acc : Access) (cause : Nat),
      translate s (s.parcelOf q) acc va.toNat = .error cause) ∧
    (∃ (s : State) (q : Fin 256) (va : BitVec 38) (acc : Access) (cause : Nat),
      s.safety.safe = false ∧ translate s (s.parcelOf q) acc va.toNat = .error cause ∧ cause ≠ causeHeld) ∧
    (∃ (s : State) (q : Fin 256) (va : BitVec 38) (acc : Access),
      ((∃ pa, translate s (s.parcelOf q) acc va.toNat = .ok pa) ∨ translate s (s.parcelOf q) acc va.toNat = .error causeHeld)) ∧
    (∃ (s : State),
      s.memctl.trained = true ∧ s.memctl.inlineEcc = true ∧ s.safety.safe = false) ∧
    (∃ (s : State),
      s.memctl.trained = true ∧ s.memctl.inlineEcc = true ∧ s.safety.safe = false) ∧
    (∃ (s : State),
      (s.memctl.trained = false ∨ s.memctl.inlineEcc = false ∨ s.safety.safe = true)) :=
  ⟨⟨withT te, 0, 0x14008, .read, 0x1C008, by decide +kernel⟩,
   ⟨withT te, 0, 0x14008, .write, 2, by decide +kernel⟩,
   ⟨withT te, 0, 0x14008, .write, 2, by decide +kernel⟩,
   ⟨withT te, 0, 0x14008, .read, by exact .inl ⟨0x1C008, by decide +kernel⟩⟩,
   ⟨withT te, by decide +kernel⟩,
   ⟨withT te, by decide +kernel⟩,
   ⟨live, by decide +kernel⟩⟩

/-- The hypotheses of `MemoryIsMaintained` can be met. -/
theorem hyps_memory_is_maintained :
    (∃ (s : State) (counts : List Nat),
      hartsRun s = true ∧ counts.length = 16) ∧
    (∃ (s : State) (counts : List Nat),
      hartsRun s = false ∧ counts.length = 16) ∧
    (∃ (s : State) (ch : Fin 16),
      s.memctl.trained = true ∧ s.safety.safe = false ∧ (vget s.memctl.channels ch).retraining = false) ∧
    (∃ (s : State) (ch : Fin 16),
      s.memctl.trained = true ∧ s.safety.safe = false ∧ (vget s.memctl.channels ch).retraining = false) ∧
    (∃ (s : State) (ch : Fin 16),
      s.memctl.trained = true ∧ s.safety.safe = false ∧ (vget s.memctl.channels ch).retraining = false) ∧
    (∃ (s : State) (ch : Fin 16),
      (s.memctl.trained = false ∨ s.safety.safe = true ∨ (vget s.memctl.channels ch).retraining = true)) ∧
    (∃ (s : State) (ch : Fin 16),
      (vget s.memctl.channels ch).retraining = true) ∧
    (∃ (s : State) (ch : Fin 16),
      (vget s.memctl.channels ch).retraining = false) ∧
    (∃ (s : State),
      s.memctl.trained = true ∧ hartsRun s = true) ∧
    (∃ (s : State),
      (s.memctl.trained = false ∨ hartsRun s = false)) ∧
    (∃ (s : State),
      s.memctl.trained = true) ∧
    (∃ (s : State),
      s.memctl.trained = false) ∧
    (∃ (s : State) (vpn : BitVec 24) (e : TtEntry) (new : Nat),
      e = ttEntry s vpn.toNat ∧ e.valid = true ∧ e.retired = false ∧ s.mmu.retired.contains e.ppn.toNat = true ∧ s.safety.safe = false ∧ freePage s = some new) ∧
    (∃ (s : State) (vpn : BitVec 24) (e : TtEntry),
      e = ttEntry s vpn.toNat ∧ e.valid = true ∧ e.retired = false ∧ s.mmu.retired.contains e.ppn.toNat = true ∧ s.safety.safe = false ∧ freePage s = none) ∧
    (∃ (s : State) (vpn : BitVec 24),
      ((ttEntry s vpn.toNat).valid = false ∨ (ttEntry s vpn.toNat).retired = true ∨ s.mmu.retired.contains (ttEntry s vpn.toNat).ppn.toNat = false ∨ s.safety.safe = true)) :=
  ⟨⟨live, List.replicate 16 3, by decide +kernel⟩,
   ⟨State.reset, List.replicate 16 3, by decide +kernel⟩,
   ⟨live, 15, by decide +kernel⟩,
   ⟨live.updChannel 15 fun c => { c with marginMin := 4 }, 15, by decide +kernel⟩,
   ⟨live.updChannel 15 fun c => { c with marginMin := 4 }, 15, by decide +kernel⟩,
   ⟨State.reset, 15, by decide +kernel⟩,
   ⟨live.updChannel 15 fun c => { c with retraining := true }, 15, by decide +kernel⟩,
   ⟨live, 15, by decide +kernel⟩,
   ⟨live, by decide +kernel⟩,
   ⟨State.reset, by decide +kernel⟩,
   ⟨live, by decide +kernel⟩,
   ⟨State.reset, by decide +kernel⟩,
   ⟨mig, 5, te, 0, by exact ⟨by decide +kernel, by decide +kernel, by decide +kernel, by decide +kernel, by decide +kernel, freePage_mig⟩⟩,
   ⟨noPool, 5, te, by exact ⟨by decide +kernel, by decide +kernel, by decide +kernel, by decide +kernel, by decide +kernel, freePage_noPool⟩⟩,
   ⟨live, 5, by decide +kernel⟩⟩

end Part09

/-! ### Time slices and switches -/

namespace Part10

def cA (ph : Phase) : Cmd := { seq := 4, desc := 1 :: (List.replicate 11 0 ++ [4] ++ List.replicate 51 0), phase := ph }

def cB : Cmd := { seq := 9, desc := [1, 0, 7, 0] ++ (List.replicate 8 0 ++ [4] ++ List.replicate 51 0), phase := .checked }

def sqA : Sequencer := { queue := 0, seq := 4, twinOf := none, index := 0, ended := true, waiting := false, stopped := false, point := 0, passedPoint := false, jobs := [], children := 0, drains := [] }

def qOn (q : Fin 256) (c : Cmd) (s : State) : State := s.updQueue q fun q => { q with cfg := rwsReset { q.cfg.live with en := true, size := 256 }, nextCork := c.seq, read := c.seq + 1, tail := c.seq + 1, cmds := [c] }

/-- Command 4 of queue 0 on press 2, its context the holder of parcel 0, at the end of its slice. -/
def held (s : State) : State := { (s.updPress 2 fun x => { x with sequencer := some sqA, en := true, assigned := some 0 }).updParcel 0 fun p => { p with state := 2, presses := 4, holder := some 0, saveSlots := 2, saveFree := 2 } with time := 10000000 }

def noHealth : ReadHealth := ⟨[], 0, [], 0⟩

def both : State := held (qOn 1 cB (qOn 0 (cA .running) live))

/-- The same with RACK as the policy, and with or without a rack map. -/
def racked (m : Option (List Byte)) : State := (held (qOn 1 cB (qOn 0 { cA .running with rackMap := m } live))).updParcel 0 fun p => { p with cfg := rwsReset { p.cfg.live with rack := true } }

def cK : Cmd := { cA .running with rackRequested := true, rackSlot := some 0 }

/-- A command whose press still runs when its RACK_WAIT has ended. -/
def lateRack : State := (held (qOn 0 cK live)).updPress 2 fun x => { x with sequencer := some { sqA with ended := false } }

def outcome {α : Type} (x : Except Stop α) : Stop := match x with
  | .error e => e
  | .ok _ => ⟨0, 0, false⟩

/-- Command 4 in a switch, its ranges none, over a save area whose pages are retired. -/
def cL (ph : Phase) : Cmd := { cA ph with saveLive := true }

def noArea (ph : Phase) : State :=
  let s := held (qOn 0 (cL ph) live)
  { s with mmu := { s.mmu with table := [(416, { valid := true, retired := true, owner := 0 })] } }

/-- A command with a REFILL range that is not mapped. -/
def cF : Cmd := { cA (.restoring 0) with savedPoints := [(2, 0)], rackMap := some (List.replicate 36 0 ++ [1] ++ List.replicate 2027 0 ++ [2, 0, 0, 0] ++ leBytes 4 0 ++ leBytes 4 128 ++ leBytes 4 5) }

def area : State := let s := held (qOn 0 (cL (.restoring 0)) live); { s with mmu := { s.mmu with table := [(0, { valid := true, owner := 0, ppn := 7 })] } }

def clr (b : Bool) : State := (live.updPair 3 fun x => { x with job := some (if b then .creating 5 2 {} else .destroying 5 2) }).updPress 6 fun x => { x with assigned := some 2, cask := Mem.empty.writeBytes 3 [1, 2], arrive := Vector.replicate 64 3 }

/-- The hypotheses of `SlicesPreempt` can be met. -/
theorem hyps_slices_preempt :
    (∃ (s : State) (n : Fin 8) (old : BitVec 16),
      (s.parcel n).holder = some old ∧ s.safety.safe = false ∧ sliceOver s n = true ∧ blockedCmds s n old = []) ∧
    (∃ (s : State) (n : Fin 8) (old : BitVec 16) (r : Fin 256) (d : Cmd) (rest : List (Fin 256 × Cmd)),
      (s.parcel n).holder = some old ∧ s.safety.safe = false ∧ sliceOver s n = true ∧ blockedCmds s n old = (r, d) :: rest ∧ protectedOn s n (wantedBy s n d.context ((r, d) :: rest)) = false) ∧
    (∃ (s : State) (q : Fin 256) (seq : Word) (c : Cmd) (n : Fin 8) (old : BitVec 16) (r : Fin 256) (d : Cmd) (rest : List (Fin 256 × Cmd)),
      (s.parcel n).holder = some old ∧ s.safety.safe = false ∧ sliceOver s n = true ∧ blockedCmds s n old = (r, d) :: rest ∧ protectedOn s n (wantedBy s n d.context ((r, d) :: rest)) = false ∧ victims s n old (wantedBy s n d.context ((r, d) :: rest)) = [(q, seq)] ∧ s.parcelOf q = n ∧ s.cmd q seq = some c ∧ preemptable c = true) ∧
    (∃ (s : State) (q : Fin 256) (seq : Word) (c : Cmd) (n : Fin 8) (old : BitVec 16) (r : Fin 256) (d : Cmd) (rest : List (Fin 256 × Cmd)),
      (s.parcel n).holder = some old ∧ s.safety.safe = false ∧ sliceOver s n = true ∧ blockedCmds s n old = (r, d) :: rest ∧ protectedOn s n (wantedBy s n d.context ((r, d) :: rest)) = false ∧ victims s n old (wantedBy s n d.context ((r, d) :: rest)) = [(q, seq)] ∧ s.parcelOf q = n ∧ s.cmd q seq = some c ∧ preemptable c = true) ∧
    (∃ (s : State) (q : Fin 256) (seq : Word) (c : Cmd) (n : Fin 8) (old : BitVec 16) (r : Fin 256) (d : Cmd) (rest : List (Fin 256 × Cmd)),
      (s.parcel n).holder = some old ∧ s.safety.safe = false ∧ sliceOver s n = true ∧ blockedCmds s n old = (r, d) :: rest ∧ protectedOn s n (wantedBy s n d.context ((r, d) :: rest)) = false ∧ victims s n old (wantedBy s n d.context ((r, d) :: rest)) = [(q, seq)] ∧ s.parcelOf q = n ∧ s.cmd q seq = some c ∧ preemptable c = true) ∧
    (∃ (s : State) (n : Fin 8),
      ((s.parcel n).holder = none ∨ s.safety.safe = true ∨ sliceOver s n = false ∨ ∃ old r d rest, (s.parcel n).holder = some old ∧ blockedCmds s n old = (r, d) :: rest ∧ protectedOn s n (wantedBy s n d.context ((r, d) :: rest)) = true)) ∧
    (∃ (s : State) (q : Fin 256) (seq : Word) (c : Cmd) (k : Nat),
      s.safety.safe = false ∧ s.cmd q seq = some c ∧ c.rackSlot = some k ∧ c.rackRequested = true ∧ allStopped s q c = true) ∧
    (∃ (s : State) (q : Fin 256) (seq : Word),
      (s.safety.safe = true ∨ ∀ c, s.cmd q seq = some c → c.rackSlot = none ∨ c.rackRequested = false ∨ allStopped s q c = false)) ∧
    (∃ (s : State) (q : Fin 256) (seq : Word) (c : Cmd),
      s.safety.safe = false ∧ s.cmd q seq = some c ∧ c.kind = 1 ∧ c.requeued = false ∧ c.rackRequested = true ∧ c.phase.runs = true ∧ allStopped s q c = false ∧ c.rackBy.toNat ≤ s.time.toNat) ∧
    (∃ (s : State) (q : Fin 256) (seq : Word),
      (s.safety.safe = true ∨ ∀ c, s.cmd q seq = some c → c.rackRequested = false ∨ c.phase.runs = false ∨ allStopped s q c = true ∨ s.time.toNat < c.rackBy.toNat)) :=
  ⟨⟨held (qOn 0 (cA .running) live), 0, 0, by decide +kernel⟩,
   ⟨both, 0, 0, 1, cB, [], by decide +kernel⟩,
   ⟨both, 0, 4, cA .running, 0, 0, 1, cB, [], by decide +kernel⟩,
   ⟨racked (some []), 0, 4, { cA .running with rackMap := some [] }, 0, 0, 1, cB, [], by decide +kernel⟩,
   ⟨racked none, 0, 4, cA .running, 0, 0, 1, cB, [], by decide +kernel⟩,
   ⟨live, 0, by exact .inl (by decide +kernel)⟩,
   ⟨held (qOn 0 cK live), 0, 4, cK, 0, by decide +kernel⟩,
   ⟨live, 0, 4, by exact .inr fun c h => by cases h⟩,
   ⟨lateRack, 0, 4, cK, by decide +kernel⟩,
   ⟨live, 0, 4, by exact .inr fun c h => by cases h⟩⟩

/-- The hypotheses of `SwitchesComplete` can be met. -/
theorem hyps_switches_complete :
    (∃ (s : State) (u : State) (q : Fin 256) (seq : Word) (c : Cmd) (k : Nat),
      s.safety.safe = false ∧ s.cmd q seq = some c ∧ c.phase = .saving k ∧ overPresses (savePress c (s.parcelOf q) k) (pressesOf s q seq) s.bump = .ok u) ∧
    (∃ (s : State) (q : Fin 256) (seq : Word) (c : Cmd) (k : Nat) (x : Stop),
      s.safety.safe = false ∧ s.cmd q seq = some c ∧ c.kind = 1 ∧ c.phase = .saving k ∧ overPresses (savePress c (s.parcelOf q) k) (pressesOf s q seq) s.bump = .error x) ∧
    (∃ (s : State) (u : State) (v : State) (q : Fin 256) (seq : Word) (c : Cmd) (k : Nat),
      s.safety.safe = false ∧ s.cmd q seq = some c ∧ c.phase = .restoring k ∧ overPresses (restorePress c (s.parcelOf q) k) (pressesOf s q seq) s = .ok u ∧ foldStop (fun s g => refillRange (s.parcelOf q) q g.1 s g.2) (refillList c) u = .ok v) ∧
    (∃ (s : State) (q : Fin 256) (seq : Word) (c : Cmd) (k : Nat) (x : Stop),
      s.safety.safe = false ∧ s.cmd q seq = some c ∧ c.kind = 1 ∧ c.phase = .restoring k ∧ overPresses (restorePress c (s.parcelOf q) k) (pressesOf s q seq) s = .error x) ∧
    (∃ (s : State) (u : State) (q : Fin 256) (seq : Word) (c : Cmd) (k : Nat) (x : Stop),
      s.safety.safe = false ∧ s.cmd q seq = some c ∧ c.kind = 1 ∧ c.phase = .restoring k ∧ overPresses (restorePress c (s.parcelOf q) k) (pressesOf s q seq) s = .ok u ∧ foldStop (fun s g => refillRange (s.parcelOf q) q g.1 s g.2) (refillList c) u = .error x) ∧
    (∃ (s : State) (q : Fin 256) (seq : Word) (c : Cmd) (k : Nat) (offset : Nat) (va : Nat) (pa : Nat),
      s.safety.safe = false ∧ s.cmd q seq = some c ∧ c.kind = 1 ∧ c.phase = .restoring k ∧ va = (s.parcel (s.parcelOf q)).saveVpn.toNat * 16384 + k * ((parcelPresses s (s.parcelOf q)).length * recordBytes) + offset % max ((parcelPresses s (s.parcelOf q)).length * recordBytes) 1 ∧ saveParts s .read 1 va 1 = .ok [(pa, 1)]) ∧
    (∃ (s : State) (q : Fin 256) (seq : Word),
      (s.safety.safe = true ∨ ∀ c, s.cmd q seq = some c → ∀ k, c.phase ≠ .saving k ∧ c.phase ≠ .restoring k)) :=
  ⟨⟨qOn 0 (cA (.saving 0)) live, (qOn 0 (cA (.saving 0)) live).bump, 0, 4, cA (.saving 0), 0, by exact ⟨by decide +kernel, by decide +kernel, by decide +kernel, rfl⟩⟩,
   ⟨noArea (.saving 0), 0, 4, cL (.saving 0), 0, outcome (overPresses (savePress (cL (.saving 0)) 0 0) [2] (noArea (.saving 0)).bump), by exact ⟨by decide +kernel, by decide +kernel, by decide +kernel, by decide +kernel, rfl⟩⟩,
   ⟨qOn 0 (cA (.restoring 0)) live, qOn 0 (cA (.restoring 0)) live, qOn 0 (cA (.restoring 0)) live, 0, 4, cA (.restoring 0), 0, by exact ⟨by decide +kernel, by decide +kernel, by decide +kernel, rfl, rfl⟩⟩,
   ⟨noArea (.restoring 0), 0, 4, cL (.restoring 0), 0, outcome (overPresses (restorePress (cL (.restoring 0)) 0 0) [2] (noArea (.restoring 0))), by exact ⟨by decide +kernel, by decide +kernel, by decide +kernel, by decide +kernel, rfl⟩⟩,
   ⟨qOn 0 cF live, qOn 0 cF live, 0, 4, cF, 0, outcome (foldStop (fun s g => refillRange 0 0 g.1 s g.2) (refillList cF) (qOn 0 cF live)), by exact ⟨by decide +kernel, by decide +kernel, by decide +kernel, by decide +kernel, rfl, rfl⟩⟩,
   ⟨area, 0, 4, cL (.restoring 0), 0, 9, 9, 114697, by decide +kernel⟩,
   ⟨live, 0, 4, by exact .inr fun c h => by cases h⟩⟩

/-- The hypotheses of `ClearingEnds` can be met. -/
theorem hyps_clearing_ends :
    (∃ (s : State) (n : Fin 8) (p : Fin 8) (seq : Word) (policy : ParcelCfg),
      firmwareUp s = true ∧ clearingJob s n = some (p, seq, some policy)) ∧
    (∃ (s : State) (n : Fin 8) (p : Fin 8) (seq : Word),
      firmwareUp s = true ∧ clearingJob s n = some (p, seq, none)) ∧
    (∃ (s : State) (n : Fin 8),
      (firmwareUp s = false ∨ clearingJob s n = none)) :=
  ⟨⟨clr true, 2, 3, 5, {}, by decide +kernel⟩,
   ⟨clr false, 2, 3, 5, by decide +kernel⟩,
   ⟨live, 2, by decide +kernel⟩⟩

end Part10

/-! ### Mailbox requests -/

namespace Part11

/-- A request of a TYPE waits on pair 2. -/
def asked (typ : Nat) (payload : List Byte) (s : State) : State :=
  (s.updWindow fun m => m.writeBytes (inArea 2 + 256) (message 0 typ 7 payload)).updPair 2 fun x => { x with inTail := 1 }

def z (n : Nat) : List Byte := List.replicate n 0

def word (w : Long) (s : State) : State := { s with port := { s.port with observer := [.mailbox 2 w] } }

def ofTwoM : State := { live with port := { live.port with devices := 2 } }

def noHealth : ReadHealth := ⟨[], 0, [], 0⟩

/-- An out-area that was full, one message held back, and room for it now. -/
def heldBack : State := (word 0x0000000100000000 live).updPair 2 fun x => { x with outTail := 255, outConsumed := 0, held := [(false, leBytes 2 0x4001 ++ z 6)] }

def small : State := { live with mmu := { live.mmu with poolPages := 0 } }

def createB : List Byte := [3, 0, 0, 0, 3, 0, 1, 0, 0, 0, 0, 0, 0, 0, 0, 0, 0, 0] ++ leBytes 4 500 ++ leBytes 4 100 ++ z 6

/-- A domain in deep sleep. -/
def deep (d : Fin 9) (s : State) : State := s.updDom d fun x => { x with deepEn := true, st := 3 }

def act3 (s : State) : State := s.updParcel 3 fun p => { p with state := 2 }

def obj (n : Fin 8) : Obj := { base := 0, length := 16384, parcel := n, holds := 1, releasePending := false, poisoned := true }

def withObjs (s : State) : State := { s with objects := [(0, obj 3), (1, obj 4)] }

def queue9 (s : State) : State := s.updQueue 9 fun q => { q with cfg := rwsReset { q.cfg.live with en := true, size := 256, parcel := 3 } }

def carve (s : State) : State := { s with mmu := { s.mmu with carves := vset s.mmu.carves 3 (rwsReset { base := 0, size := 1 }) } }

def stm : Stream := { function := 1, width := 16, height := 16, depth := 8, fpsCenti := 30, reservation := 5, closing := false }

def withStm (s : State) : State := { s with codec := { s.codec with streams := [(4, stm)] } }

def cC : Cmd := { seq := 4, desc := 5 :: z 63, phase := .running, params := [4], holding := true }

def cP : Cmd := { seq := 4, desc := 1 :: (List.replicate 11 0 ++ [0, 128] ++ List.replicate 50 0), phase := .running }

def onPress15 (s : State) : State := (s.updPress 15 fun x => { x with sequencer := some { queue := 0, seq := 4, twinOf := none, index := 0, ended := false, waiting := false, stopped := false, point := 0, passedPoint := false, jobs := [], children := 0, drains := [] } }).updQueue 0 fun q => { q with cfg := rwsReset { q.cfg.live with en := true, size := 256 }, nextCork := 4, read := 5, tail := 5, cmds := [cP] }

def obj64 : Obj := { obj 3 with length := 64 }

def mods : State := { live with objects := [(0, obj64), (1, { obj64 with base := 64 })] }

def mx : Mux := { dev := 0, parcel := 3, queue := 9 }

def withMx (m : Mux) (s : State) : State := queue9 { s with fw := { s.fw with muxes := [(5, m)] } }

def desc64 : List Byte := (List.range 64).map fun i => BitVec.ofNat 8 (i + 1)

def ld (s : State) : State := { s with fw := { s.fw with loaded := some [1, 2] } }

def sw : State := (ld live).updPair 2 fun x => { x with job := some (.swapping 5) }

def sgn : State := { (withObjs live).updPair 2 fun x => { x with job := some (.signing 5 0 3 [1, 2]) } with fw := { ((withObjs live).updPair 2 fun x => { x with job := some (.signing 5 0 3 [1, 2]) }).fw with signing := [2] } }

/-- The hypotheses of `MailboxesAreRead` can be met. -/
theorem hyps_mailboxes_are_read :
    (∃ (s : State) (p : Fin 8) (w : Long),
      firmwareUp s = true ∧ s.port.observer.find? (isMailbox p) = some (.mailbox p w) ∧ (w.setWidth 32 - (s.pair p).inTail).toNat < 2 ^ 31 ∧ (w.setWidth 32 - (s.pair p).inRead).toNat ≤ 255 ∧ (((w >>> 32).setWidth 32 : Word) - (s.pair p).outConsumed).toNat ≤ ((s.pair p).outTail - (s.pair p).outConsumed).toNat) ∧
    (∃ (s : State) (p : Fin 8) (w : Long),
      firmwareUp s = true ∧ s.port.observer.find? (isMailbox p) = some (.mailbox p w) ∧ (w.setWidth 32 - (s.pair p).inTail).toNat < 2 ^ 31 ∧ (w.setWidth 32 - (s.pair p).inRead).toNat ≤ 255 ∧ (((w >>> 32).setWidth 32 : Word) - (s.pair p).outConsumed).toNat ≤ ((s.pair p).outTail - (s.pair p).outConsumed).toNat) ∧
    (∃ (s : State) (p : Fin 8) (w : Long),
      firmwareUp s = true ∧ s.port.observer.find? (isMailbox p) = some (.mailbox p w) ∧ w.setWidth 32 ≠ (s.pair p).inTail ∧ (2 ^ 31 ≤ (w.setWidth 32 - (s.pair p).inTail).toNat ∨ 255 < (w.setWidth 32 - (s.pair p).inRead).toNat) ∧ (((w >>> 32).setWidth 32 : Word) - (s.pair p).outConsumed).toNat ≤ ((s.pair p).outTail - (s.pair p).outConsumed).toNat) ∧
    (∃ (s : State) (p : Fin 8) (w : Long),
      firmwareUp s = true ∧ s.port.observer.find? (isMailbox p) = some (.mailbox p w) ∧ (w.setWidth 32 - (s.pair p).inTail).toNat < 2 ^ 31 ∧ (w.setWidth 32 - (s.pair p).inRead).toNat ≤ 255 ∧ ((s.pair p).outTail - (s.pair p).outConsumed).toNat < (((w >>> 32).setWidth 32 : Word) - (s.pair p).outConsumed).toNat) ∧
    (∃ (s : State) (p : Fin 8),
      (firmwareUp s = false ∨ s.port.observer.find? (isMailbox p) = none)) ∧
    (∃ (s : State) (p : Fin 8) (c : Word) (kind : Bool) (body : List Byte),
      firmwareUp s = true ∧ s.port.observer.find? (isMailbox p) = some (.mailbox p (BitVec.ofNat 64 ((s.pair p).inTail.toNat + c.toNat * 2 ^ 32))) ∧ (s.pair p).inTail = (s.pair p).inRead ∧ (s.pair p).held = [(kind, body)] ∧ 1 ≤ (s.pair p).outSlot ∧ (s.pair p).outSlot ≤ 255 ∧ body.length ≤ 242 ∧ (c - (s.pair p).outConsumed).toNat ≤ ((s.pair p).outTail - (s.pair p).outConsumed).toNat ∧ ((s.pair p).outTail - c).toNat < 255) ∧
    (∃ (s : State) (p : Fin 8) (raw : List Byte),
      firmwareUp s = true ∧ s.port.observer = [.mailbox p (BitVec.ofNat 64 (((s.pair p).inRead + 1).toNat + (s.pair p).outConsumed.toNat * 2 ^ 32))] ∧ (s.pair p).inTail = (s.pair p).inRead ∧ (s.pair p).job = none ∧ swapPending s = false ∧ OutReady p s ∧ raw = s.port.window.readBytes (inArea p + 256 * (s.pair p).inSlot) 256 ∧ requestCheck s.fw.minor raw ≠ 0) ∧
    (∃ (s : State) (p : Fin 8),
      Requested 0x01 p s) ∧
    (∃ (s : State) (p : Fin 8) (raw : List Byte),
      nextRequest p s = some raw ∧ requestCheck s.fw.minor raw = 0 ∧ fieldNat raw 2 2 = 1 ∧ outRoom s p = false ∧ (s.pair p).held = []) ∧
    (∃ (s : State) (p : Fin 8) (x : Nat × Instr),
      x ∈ [(0x01, Instr.hello p), (0x10, .parcelCreate p), (0x11, .parcelDestroy p), (0x20, .queueCreate p), (0x21, .queueDestroy p), (0x30, .objectCreate p), (0x31, .objectClearPoison p), (0x48, .echoSet p), (0x50, .streamOpen p), (0x51, .streamClose p), (0x58, .pipeCommit p), (0x60, .pressFail p), (0x68, .linkRetrain p), (0x70, .collective p), (0x78, .muxOpen p), (0x79, .muxSubmit p), (0x7A, .muxClose p), (0x80, .fwLoad p), (0x81, .fwSwap p), (0x90, .attest p)] ∧ Unread x.1 p s) ∧
    (∃ (s : State) (p : Fin 8),
      Unread 0x40 p s) :=
  ⟨⟨word 1 live, 2, 1, by decide +kernel⟩,
   ⟨word 255 live, 2, 255, by decide +kernel⟩,
   ⟨word 256 live, 2, 256, by decide +kernel⟩,
   ⟨word 0x0000000100000001 live, 2, 0x0000000100000001, by decide +kernel⟩,
   ⟨live, 2, by decide +kernel⟩,
   ⟨heldBack, 2, 1, false, leBytes 2 0x4001 ++ z 6, by decide +kernel⟩,
   ⟨word 1 live, 2, z 256, by unfold OutReady; decide +kernel⟩,
   ⟨asked 1 [] live, 2, by unfold Requested OutReady; decide +kernel⟩,
   ⟨(asked 1 [] live).updPair 2 fun x => { x with outTail := 255 }, 2, message 0 1 7 [] ++ z 240, by decide +kernel⟩,
   ⟨live, 2, (0x90, .attest 2), by unfold Unread; decide +kernel⟩,
   ⟨live, 2, by unfold Unread; decide +kernel⟩⟩

/-- The hypotheses of `SetupRequestsAct` can be met. -/
theorem hyps_setup_requests_act :
    (∃ (s : State) (p : Fin 8),
      Requested 0x10 p s ∧ createCheck s (requestOf p s) = 0 ∧ Awake s (createWork (requestOf p s) s)) ∧
    (∃ (s : State) (p : Fin 8),
      Requested 0x10 p s ∧ ¬ Awake s (createWork (requestOf p s) s)) ∧
    (∃ (s : State) (p : Fin 8),
      Requested 0x10 p s ∧ createCheck s (requestOf p s) ≠ 0) ∧
    (∃ (s : State) (p : Fin 8),
      Requested 0x11 p s) ∧
    (∃ (s : State) (p : Fin 8),
      Requested 0x11 p s) ∧
    (∃ (s : State) (p : Fin 8) (q : Fin 256) (f : Word),
      Requested 0x20 p s ∧ queueCheck s (requestOf p s) = 0 ∧ q = reqQueue (requestOf p s) ∧ f = BitVec.ofNat 32 (fieldNat (requestOf p s) 24 4)) ∧
    (∃ (s : State) (p : Fin 8),
      Requested 0x20 p s ∧ queueCheck s (requestOf p s) ≠ 0) ∧
    (∃ (s : State) (p : Fin 8) (q : Fin 256),
      Requested 0x21 p s ∧ q = reqQueue (requestOf p s)) ∧
    (∃ (s : State) (p : Fin 8) (q : Fin 256),
      Requested 0x21 p s ∧ q = reqQueue (requestOf p s)) ∧
    (∃ (s : State) (p : Fin 8),
      Requested 0x30 p s) ∧
    (∃ (s : State) (p : Fin 8),
      Requested 0x30 p s) ∧
    (∃ (s : State) (p : Fin 8),
      Requested 0x31 p s) ∧
    (∃ (s : State) (p : Fin 8),
      Requested 0x31 p s) ∧
    (∃ (s : State) (p : Fin 8),
      Requested 0x31 p s) :=
  ⟨⟨asked 0x10 createB small, 2, by unfold Requested OutReady Awake; decide +kernel⟩,
   ⟨asked 0x10 createB (deep 3 small), 2, by unfold Requested OutReady Awake; decide +kernel⟩,
   ⟨asked 0x10 (z 32) small, 2, by unfold Requested OutReady; decide +kernel⟩,
   ⟨asked 0x11 [3, 0, 0, 0] (withObjs (act3 live)), 2, by unfold Requested OutReady; decide +kernel⟩,
   ⟨asked 0x11 [3, 0, 0, 0] live, 2, by unfold Requested OutReady; decide +kernel⟩,
   ⟨asked 0x20 ([9, 3, 0, 1, 5, 0, 0, 0, 7, 0, 0, 0]) (act3 live), 2, 9, 7, by unfold Requested OutReady; decide +kernel⟩,
   ⟨asked 0x20 ([9, 3, 0, 1, 5, 0, 0, 0, 7, 0, 0, 0]) live, 2, by unfold Requested OutReady; decide +kernel⟩,
   ⟨asked 0x21 [9, 0, 0, 0] (queue9 (act3 live)), 2, 9, by unfold Requested OutReady; decide +kernel⟩,
   ⟨asked 0x21 [9, 0, 0, 0] live, 2, 9, by unfold Requested OutReady; decide +kernel⟩,
   ⟨asked 0x30 ([3] ++ z 7 ++ leBytes 8 64 ++ leBytes 8 128) (withObjs (carve (act3 live))), 2, by unfold Requested OutReady; decide +kernel⟩,
   ⟨asked 0x30 ([3] ++ z 7 ++ leBytes 8 64 ++ leBytes 8 128) live, 2, by unfold Requested OutReady; decide +kernel⟩,
   ⟨asked 0x31 [1, 0, 4, 0] (withObjs live), 2, by unfold Requested OutReady; decide +kernel⟩,
   ⟨asked 0x31 [1, 0, 3, 0] (withObjs live), 2, by unfold Requested OutReady; decide +kernel⟩,
   ⟨asked 0x31 [1, 0, 8, 0] (withObjs live), 2, by unfold Requested OutReady; decide +kernel⟩⟩

/-- The hypotheses of `StreamRequestsAct` can be met. -/
theorem hyps_stream_requests_act :
    (∃ (s : State) (p : Fin 8),
      Requested 0x48 p s ∧ s.safety.safe = false ∧ isLead s = true ∧ fieldNat (requestOf p s) 16 2 ≤ 256 ∧ fieldNat (requestOf p s) 18 1 ≤ 8 ∧ fieldNat (requestOf p s) 20 2 ≤ 383 ∧ echoBad s (reqEcho (requestOf p s)) = false ∧ (∀ q : Fin 8, (s.pair q).job = none)) ∧
    (∃ (s : State) (p : Fin 8),
      Requested 0x48 p s) ∧
    (∃ (s : State) (p : Fin 8),
      Requested 0x48 p s) ∧
    (∃ (s : State) (p : Fin 8) (d : Nat) (w : Nat) (h : Nat) (fps : Nat),
      Requested 0x50 p s ∧ d = fieldNat (requestOf p s) 17 1 ∧ w = fieldNat (requestOf p s) 18 2 ∧ h = fieldNat (requestOf p s) 20 2 ∧ fps = fieldNat (requestOf p s) 22 2 ∧ streamCheck s (requestOf p s) = 0 ∧ Awake s (streamWork (requestOf p s) s)) ∧
    (∃ (s : State) (p : Fin 8),
      Requested 0x50 p s ∧ ¬ Awake s (streamWork (requestOf p s) s)) ∧
    (∃ (s : State) (p : Fin 8),
      Requested 0x50 p s ∧ streamCheck s (requestOf p s) ≠ 0) ∧
    (∃ (s : State) (p : Fin 8) (n : Nat),
      Requested 0x51 p s ∧ n = fieldNat (requestOf p s) 16 1) ∧
    (∃ (s : State) (p : Fin 8) (n : Nat),
      Requested 0x51 p s ∧ n = fieldNat (requestOf p s) 16 1) ∧
    (∃ (s : State) (p : Fin 8) (n : Nat),
      Requested 0x51 p s ∧ n = fieldNat (requestOf p s) 16 1) ∧
    (∃ (s : State) (p : Fin 8) (n : Fin 16) (r : Nat),
      Requested 0x58 p s ∧ fieldNat (requestOf p s) 16 1 = n.val ∧ r = pipeReservation s (s.pipe n).cfg.staged) ∧
    (∃ (s : State) (p : Fin 8),
      Requested 0x58 p s ∧ 15 < fieldNat (requestOf p s) 16 1) :=
  ⟨⟨asked 0x48 ([16, 0, 2, 0, 1, 0] ++ z 34) live, 2, by unfold Requested OutReady; decide +kernel⟩,
   ⟨asked 0x48 ([1, 1, 2, 0, 1, 0] ++ z 34) live, 2, by unfold Requested OutReady; decide +kernel⟩,
   ⟨asked 0x48 ([16, 0, 2, 0, 1, 0] ++ z 34) remote, 2, by unfold Requested OutReady; decide +kernel⟩,
   ⟨asked 0x50 [1, 8, 64, 0, 64, 0, 184, 11] live, 2, 8, 64, 64, 3000, by unfold Requested OutReady Awake; decide +kernel⟩,
   ⟨asked 0x50 [1, 8, 64, 0, 64, 0, 184, 11] (deep 4 live), 2, by unfold Requested OutReady Awake; decide +kernel⟩,
   ⟨asked 0x50 [9, 8, 64, 0, 64, 0, 184, 11] live, 2, by unfold Requested OutReady; decide +kernel⟩,
   ⟨asked 0x51 [4, 0, 0, 0] (withStm live), 2, 4, by unfold Requested OutReady; decide +kernel⟩,
   ⟨asked 0x51 [4, 0, 0, 0] live, 2, 4, by unfold Requested OutReady; decide +kernel⟩,
   ⟨asked 0x51 [4, 0, 0, 0] (withStm (live.updQueue 0 fun q => { q with cmds := [cC] })), 2, 4, by unfold Requested OutReady; decide +kernel⟩,
   ⟨asked 0x58 [15, 0, 0, 0] live, 2, 15, pipeReservation live (live.pipe 15).cfg.staged, by unfold Requested OutReady; exact ⟨by decide +kernel, by decide +kernel, rfl⟩⟩,
   ⟨asked 0x58 [16, 0, 0, 0] live, 2, by unfold Requested OutReady; decide +kernel⟩⟩

/-- The hypotheses of `UnitRequestsAct` can be met. -/
theorem hyps_unit_requests_act :
    (∃ (s : State) (p : Fin 8) (k : Fin 16),
      Requested 0x60 p s ∧ fieldNat (requestOf p s) 16 1 = k.val) ∧
    (∃ (s : State) (p : Fin 8) (k : Fin 16),
      Requested 0x60 p s ∧ fieldNat (requestOf p s) 16 1 = k.val) ∧
    (∃ (s : State) (p : Fin 8),
      Requested 0x60 p s ∧ 15 < fieldNat (requestOf p s) 16 1) ∧
    (∃ (s : State) (p : Fin 8) (i : Fin 4),
      Requested 0x68 p s ∧ fieldNat (requestOf p s) 16 1 = i.val ∧ Awake s (retrainWork (requestOf p s) s)) ∧
    (∃ (s : State) (p : Fin 8) (i : Fin 4),
      Requested 0x68 p s ∧ fieldNat (requestOf p s) 16 1 = i.val ∧ Awake s (retrainWork (requestOf p s) s)) ∧
    (∃ (s : State) (p : Fin 8) (i : Fin 4),
      Requested 0x68 p s ∧ fieldNat (requestOf p s) 16 1 = i.val ∧ Awake s (retrainWork (requestOf p s) s)) ∧
    (∃ (s : State) (p : Fin 8),
      Requested 0x68 p s ∧ ¬ Awake s (retrainWork (requestOf p s) s)) ∧
    (∃ (s : State) (p : Fin 8),
      Requested 0x68 p s ∧ 3 < fieldNat (requestOf p s) 16 1) ∧
    (∃ (s : State) (p : Fin 8) (b : List Byte) (m : List Byte) (src : List Named) (dst : List Named),
      Requested 0x40 p s ∧ b = requestOf p s ∧ translateRanges b ∧ translateObjects s b = some (src, dst) ∧ m = moduleOf s (src.map fun x => x.2)) ∧
    (∃ (s : State) (p : Fin 8),
      Requested 0x40 p s) ∧
    (∃ (s : State) (p : Fin 8),
      Requested 0x40 p s) ∧
    (∃ (s : State) (p : Fin 8),
      Requested 0x70 p s) ∧
    (∃ (s : State) (p : Fin 8),
      Requested 0x70 p s) ∧
    (∃ (s : State) (p : Fin 8),
      Requested 0x70 p s) ∧
    (∃ (s : State) (p : Fin 8),
      Requested 0x78 p s) ∧
    (∃ (s : State) (p : Fin 8),
      Requested 0x78 p s) ∧
    (∃ (s : State) (p : Fin 8) (m : Mux),
      Requested 0x79 p s ∧ muxStreamCheck s (fieldNat (requestOf p s) 16 2) = 0 ∧ lookupKey s.fw.muxes (fieldNat (requestOf p s) 16 2) = some m ∧ s.fw.muxWaiting = []) ∧
    (∃ (s : State) (p : Fin 8) (m : Mux),
      Requested 0x79 p s ∧ muxStreamCheck s (fieldNat (requestOf p s) 16 2) = 0 ∧ lookupKey s.fw.muxes (fieldNat (requestOf p s) 16 2) = some m ∧ s.fw.muxWaiting = []) ∧
    (∃ (s : State) (p : Fin 8) (m : Mux),
      Requested 0x79 p s ∧ muxStreamCheck s (fieldNat (requestOf p s) 16 2) = 0 ∧ lookupKey s.fw.muxes (fieldNat (requestOf p s) 16 2) = some m ∧ s.fw.muxWaiting = []) ∧
    (∃ (s : State) (p : Fin 8),
      Requested 0x79 p s ∧ muxStreamCheck s (fieldNat (requestOf p s) 16 2) ≠ 0) ∧
    (∃ (s : State) (p : Fin 8) (id : Nat),
      Requested 0x7A p s ∧ id = fieldNat (requestOf p s) 16 2) ∧
    (∃ (s : State) (p : Fin 8) (id : Nat),
      Requested 0x7A p s ∧ id = fieldNat (requestOf p s) 16 2) :=
  ⟨⟨asked 0x60 [15, 0, 0, 0] live, 2, 15, by unfold Requested OutReady; decide +kernel⟩,
   ⟨asked 0x60 [15, 0, 0, 0] (onPress15 live), 2, 15, by unfold Requested OutReady; decide +kernel⟩,
   ⟨asked 0x60 [16, 0, 0, 0] live, 2, by unfold Requested OutReady; decide +kernel⟩,
   ⟨asked 0x68 [3, 0, 0, 0] (live.updLink 3 fun l => { l with state := 2 }), 2, 3, by unfold Requested OutReady Awake; decide +kernel⟩,
   ⟨asked 0x68 [3, 0, 0, 0] live, 2, 3, by unfold Requested OutReady Awake; decide +kernel⟩,
   ⟨asked 0x68 [3, 0, 0, 0] (live.updLink 3 fun l => { l with state := 1 }), 2, 3, by unfold Requested OutReady Awake; decide +kernel⟩,
   ⟨asked 0x68 [3, 0, 0, 0] (deep 8 live), 2, by unfold Requested OutReady Awake; decide +kernel⟩,
   ⟨asked 0x68 [4, 0, 0, 0] live, 2, by unfold Requested OutReady; decide +kernel⟩,
   ⟨asked 0x40 [3, 0, 1, 1, 0, 0, 0, 0, 0, 0, 1, 0] mods, 2, requestOf 2 (asked 0x40 [3, 0, 1, 1, 0, 0, 0, 0, 0, 0, 1, 0] mods), moduleOf (asked 0x40 [3, 0, 1, 1, 0, 0, 0, 0, 0, 0, 1, 0] mods) [obj64], [(0, obj64)], [(1, { obj64 with base := 64 })], by unfold Requested OutReady translateRanges; exact ⟨by decide +kernel, rfl, by decide +kernel, by decide +kernel, rfl⟩⟩,
   ⟨asked 0x40 [3, 0, 1, 1, 0, 0, 0, 0, 0, 0, 1, 0] live, 2, by unfold Requested OutReady; decide +kernel⟩,
   ⟨asked 0x40 [3, 0, 0, 1, 0, 0, 0, 0, 0, 0, 1, 0] live, 2, by unfold Requested OutReady; decide +kernel⟩,
   ⟨asked 0x70 ([0, 0, 3, 0] ++ z 12 ++ [0, 0, 1, 0] ++ z 4) { live with objects := [(0, obj 3), (1, { obj 3 with base := 16384 })] }, 2, by unfold Requested OutReady; decide +kernel⟩,
   ⟨asked 0x70 ([0, 0, 3, 0] ++ z 12 ++ [0, 0, 1, 0] ++ z 4) { ofTwoM with objects := [(0, obj 3), (1, { obj 3 with base := 16384 })] }, 2, by unfold Requested OutReady; decide +kernel⟩,
   ⟨asked 0x70 ([0, 0, 3, 0] ++ z 12 ++ [0, 0, 1, 0] ++ z 4) live, 2, by unfold Requested OutReady; decide +kernel⟩,
   ⟨asked 0x78 [0, 3, 9, 0] (queue9 (act3 live)), 2, by unfold Requested OutReady; decide +kernel⟩,
   ⟨asked 0x78 [0, 3, 9, 0] live, 2, by unfold Requested OutReady; decide +kernel⟩,
   ⟨asked 0x79 ([5, 0] ++ z 6 ++ desc64) (withMx mx live), 2, mx, by unfold Requested OutReady; decide +kernel⟩,
   ⟨asked 0x79 ([5, 0] ++ z 6 ++ desc64) (withMx { mx with dev := 1 } ofTwoM), 2, { mx with dev := 1 }, by unfold Requested OutReady; decide +kernel⟩,
   ⟨asked 0x79 ([5, 0] ++ z 6 ++ desc64) ((withMx mx live).updQueue 9 fun q => { q with tail := 256 }), 2, mx, by unfold Requested OutReady; decide +kernel⟩,
   ⟨asked 0x79 ([5, 0] ++ z 6 ++ desc64) live, 2, by unfold Requested OutReady; decide +kernel⟩,
   ⟨asked 0x7A [5, 0, 0, 0] (withMx mx live), 2, 5, by unfold Requested OutReady; decide +kernel⟩,
   ⟨asked 0x7A [5, 0, 0, 0] live, 2, 5, by unfold Requested OutReady; decide +kernel⟩⟩

/-- The hypotheses of `UpdateAndAttestAct` can be met. -/
theorem hyps_update_and_attest_act :
    (∃ (s : State) (p : Fin 8) (img : List Byte),
      Requested 0x80 p s ∧ fieldNat (requestOf p s) 20 4 ≤ 1048576 ∧ fieldNat (requestOf p s) 16 4 + fieldNat (requestOf p s) 20 4 ≤ stagingSize ∧ img = s.port.window.readBytes (stagingBase + fieldNat (requestOf p s) 16 4) (fieldNat (requestOf p s) 20 4)) ∧
    (∃ (s : State) (p : Fin 8),
      Requested 0x80 p s ∧ (1048576 < fieldNat (requestOf p s) 20 4 ∨ stagingSize < fieldNat (requestOf p s) 16 4 + fieldNat (requestOf p s) 20 4)) ∧
    (∃ (s : State) (p : Fin 8),
      Requested 0x81 p s) ∧
    (∃ (s : State) (p : Fin 8),
      Requested 0x81 p s) ∧
    (∃ (s : State) (p : Fin 8) (seq : Word) (img : List Byte),
      firmwareUp s = true ∧ swapJob s = some (p, seq) ∧ s.fw.loaded = some img ∧ swapReady s p = true ∧ OutReady p s ∧ (s.pair p).inTail = (s.pair p).inRead) ∧
    (∃ (s : State) (p : Fin 8) (seq : Word) (img : List Byte),
      firmwareUp s = true ∧ swapJob s = some (p, seq) ∧ s.fw.loaded = some img ∧ swapReady s p = true ∧ OutReady p s ∧ (s.pair p).inTail = (s.pair p).inRead) ∧
    (∃ (s : State),
      (firmwareUp s = false ∨ s.fw.loaded = none ∨ ∀ p seq, swapJob s = some (p, seq) → swapReady s p = false)) ∧
    (∃ (s : State) (p : Fin 8),
      Requested 0x90 p s) ∧
    (∃ (s : State) (p : Fin 8),
      Requested 0x90 p s) ∧
    (∃ (s : State) (p : Fin 8),
      Requested 0x90 p s) ∧
    (∃ (s : State) (p : Fin 8),
      Requested 0x90 p s) ∧
    (∃ (s : State) (p : Fin 8) (n : Fin 8) (seq : Word) (h : Nat) (l : List Byte),
      firmwareUp s = true ∧ signingJob s = some (p, seq, h, n, l) ∧ OutReady p s ∧ (s.pair p).inTail = (s.pair p).inRead) ∧
    (∃ (s : State) (p : Fin 8) (n : Fin 8) (seq : Word) (h : Nat) (l : List Byte),
      firmwareUp s = true ∧ signingJob s = some (p, seq, h, n, l) ∧ OutReady p s ∧ (s.pair p).inTail = (s.pair p).inRead) ∧
    (∃ (s : State),
      (firmwareUp s = false ∨ signingJob s = none)) :=
  ⟨⟨asked 0x80 (leBytes 4 64 ++ leBytes 4 128) live, 2, z 128, by unfold Requested OutReady; decide +kernel⟩,
   ⟨asked 0x80 (leBytes 4 64 ++ leBytes 4 1048577) live, 2, by unfold Requested OutReady; decide +kernel⟩,
   ⟨asked 0x81 [] (ld live), 2, by unfold Requested OutReady; decide +kernel⟩,
   ⟨asked 0x81 [] live, 2, by unfold Requested OutReady; decide +kernel⟩,
   ⟨sw, 2, 5, [1, 2], by unfold OutReady; decide +kernel⟩,
   ⟨sw, 2, 5, [1, 2], by unfold OutReady; decide +kernel⟩,
   ⟨live, by decide +kernel⟩,
   ⟨asked 0x90 (z 32 ++ [0, 0, 3, 0]) (withObjs live), 2, by unfold Requested OutReady; decide +kernel⟩,
   ⟨asked 0x90 (z 32 ++ [0, 0, 8, 0]) (withObjs live), 2, by unfold Requested OutReady; decide +kernel⟩,
   ⟨asked 0x90 (z 32 ++ [0, 0, 4, 0]) (withObjs live), 2, by unfold Requested OutReady; decide +kernel⟩,
   ⟨asked 0x90 (z 32 ++ [0, 0, 3, 0]) mods, 2, by unfold Requested OutReady; decide +kernel⟩,
   ⟨sgn, 2, 3, 5, 0, [1, 2], by unfold OutReady; decide +kernel⟩,
   ⟨{ sgn with objects := [] }, 2, 3, 5, 0, [1, 2], by unfold OutReady; decide +kernel⟩,
   ⟨live, by decide +kernel⟩⟩

end Part11

/-! ### Vine -/

namespace Part12

def up (i : Fin 4) (s : State) : State := s.updLink i fun l => { l with state := 2 }

def flitOf (cls dest : Byte) (n : Nat) : List Byte := let h := [cls, 0, dest, 0] ++ leBytes 4 n ++ List.replicate 244 0; h ++ leBytes 4 (crc32 h).toNat

def resent : State := (up 3 live).updLink 3 fun l => { l with replay := [(4, [1]), (5, [2])], txNext := 6, consecutive := 14 }

def tired : State := (up 3 live).updLink 3 fun l => { l with replay := [(4, [1]), (5, [2])], txNext := 6, consecutive := 16 }

def training (n : Nat) : State := live.updLink 3 fun l => { l with state := 1, failedRetrains := n, replay := [(4, [1])] }

def disc (cols : Nat) (p : Bool) (s : State) : State := { s with vine := { s.vine with probing := p, foundCols := cols } }

def lateProbe : State := { up 0 live with vine := { (up 0 live).vine with probeFault := some (0, 1) }, time := 1000000000000 }

def vineOf (f : Vine → Vine) (s : State) : State := { s with vine := f s.vine }

def cB6 (ph : Phase) : Cmd := { seq := 4, desc := 6 :: (List.replicate 11 0 ++ [4] ++ List.replicate 51 0), phase := ph }

def bar (tr : Option Long) : Barrier := { ident := 4, gen := 2, arrivedAt := 3, tRel := tr, queue := 0, seq := 4 }

def bq (ph : Phase) (tr : Option Long) : State :=
  let s := live.updQueue 0 fun q => { q with cfg := rwsReset { q.cfg.live with en := true, size := 256, continuePolicy := true }, nextCork := 4, read := 5, tail := 5, cmds := [cB6 ph] }
  { s with time := 50, vine := { s.vine with barriers := [bar tr], generations := [(4, 3)] } }

def ofThree (s : State) : State := { s with port := { s.port with devices := 3 } }

def co : Coll := { pair := 2, op := 0, format := 0, parcel := 3, seq := 1, count := 1, inHandle := 0, outHandle := 1, started := 0 }

def obj (n : Fin 8) (b : Nat) : Obj := { base := b, length := 16384, parcel := n, holds := 1, releasePending := false, poisoned := true }

def coS : State := let s := live.updPair 2 fun x => { x with job := some (.collective 9) }
  { s with port := { s.port with devices := 2 }, fw := { s.fw with colls := [co] }, objects := [(0, obj 3 0), (1, obj 3 16384)] }

/-- The hypotheses of `LinksCarryFlits` can be met. -/
theorem hyps_links_carry_flits :
    (∃ (s : State) (i : Fin 4) (f : List Byte),
      linkCarries s i = true ∧ f.length = 256 ∧ BitVec.ofNat 32 (fieldNat f 252 4) = crc32 (f.take 252) ∧ BitVec.ofNat 32 (fieldNat f 4 4) = (s.link i).rxNext) ∧
    (∃ (s : State) (i : Fin 4) (f : List Byte),
      linkCarries s i = true ∧ f.length = 256 ∧ BitVec.ofNat 32 (fieldNat f 252 4) = crc32 (f.take 252) ∧ BitVec.ofNat 32 (fieldNat f 4 4) = (s.link i).rxNext) ∧
    (∃ (s : State) (i : Fin 4) (f : List Byte),
      linkCarries s i = true ∧ f.length = 256 ∧ BitVec.ofNat 32 (fieldNat f 252 4) = crc32 (f.take 252) ∧ BitVec.ofNat 32 (fieldNat f 4 4) = (s.link i).rxNext) ∧
    (∃ (s : State) (i : Fin 4) (f : List Byte),
      linkCarries s i = true ∧ f.length = 256 ∧ BitVec.ofNat 32 (fieldNat f 252 4) ≠ crc32 (f.take 252)) ∧
    (∃ (s : State) (i : Fin 4) (f : List Byte),
      linkCarries s i = true ∧ f.length = 256 ∧ BitVec.ofNat 32 (fieldNat f 252 4) = crc32 (f.take 252) ∧ BitVec.ofNat 32 (fieldNat f 4 4) ≠ (s.link i).rxNext) ∧
    (∃ (s : State) (i : Fin 4) (f : List Byte),
      linkCarries s i = true ∧ f.length = 256 ∧ BitVec.ofNat 32 (fieldNat f 252 4) = crc32 (f.take 252) ∧ BitVec.ofNat 32 (fieldNat f 4 4) ≠ (s.link i).rxNext) ∧
    (∃ (s : State) (i : Fin 4) (f : List Byte),
      linkCarries s i = false ∧ f.length = 256) ∧
    (∃ (s : State) (i : Fin 4) (n : Word) (kept : List (Word × List Byte)),
      linkCarries s i = true ∧ (acceptAck (n - 1) (s.link i)).consecutive < 16 ∧ kept = (s.link i).replay.filter (fun f => earlier (n - 1) f.1)) ∧
    (∃ (s : State) (i : Fin 4) (n : Word),
      linkCarries s i = true ∧ 16 ≤ (acceptAck (n - 1) (s.link i)).consecutive) ∧
    (∃ (s : State) (i : Fin 4),
      (s.link i).state = 2) ∧
    (∃ (s : State) (i : Fin 4),
      (s.link i).state ≠ 2) ∧
    (∃ (s : State) (d : Fin 64) (i : Fin 4),
      d.val = self s ∧ (s.link i).state = 1) ∧
    (∃ (s : State) (d : Fin 64) (i : Fin 4),
      d.val = self s ∧ (s.link i).state = 1) ∧
    (∃ (s : State) (d : Fin 64) (i : Fin 4),
      d.val = self s ∧ (s.link i).state = 1) ∧
    (∃ (s : State) (d : Fin 64),
      d.val ≠ self s ∧ d.val < s.port.devices.toNat) ∧
    (∃ (s : State) (d : Fin 64),
      d.val ≠ self s ∧ d.val < s.port.devices.toNat) ∧
    (∃ (s : State) (d : Fin 64) (i : Fin 4) (ok : Bool),
      ((d.val = self s ∧ (s.link i).state ≠ 1) ∨ (d.val ≠ self s ∧ (ok = true ∨ s.port.devices.toNat ≤ d.val)))) ∧
    (∃ (s : State) (d : Fin 64) (i : Fin 4) (ok : Bool),
      ((d.val = self s ∧ (s.link i).state ≠ 1) ∨ (d.val ≠ self s ∧ (ok = true ∨ s.port.devices.toNat ≤ d.val)))) :=
  ⟨⟨up 3 live, 3, flitOf 3 0 0, by decide +kernel⟩,
   ⟨up 3 live, 3, flitOf 1 0 0, by decide +kernel⟩,
   ⟨up 0 (up 3 (rowOf 4)), 3, flitOf 1 1 0, by decide +kernel⟩,
   ⟨up 3 live, 3, List.replicate 255 0 ++ [9], by decide +kernel⟩,
   ⟨up 3 live, 3, flitOf 1 0 7, by decide +kernel⟩,
   ⟨(up 3 live).updLink 3 fun l => { l with rejecting := true }, 3, flitOf 1 0 7, by decide +kernel⟩,
   ⟨live, 3, flitOf 1 0 0, by decide +kernel⟩,
   ⟨resent, 3, 5, [(5, [2])], by decide +kernel⟩,
   ⟨tired, 3, 4, by decide +kernel⟩,
   ⟨up 3 live, 3, by decide +kernel⟩,
   ⟨live, 3, by decide +kernel⟩,
   ⟨training 2, 0, 3, by decide +kernel⟩,
   ⟨training 2, 0, 3, by decide +kernel⟩,
   ⟨training 1, 0, 3, by decide +kernel⟩,
   ⟨rowOf 4, 1, by decide +kernel⟩,
   ⟨remote, 0, by decide +kernel⟩,
   ⟨live, 0, 3, true, by decide +kernel⟩,
   ⟨rowOf 4, 1, 0, true, by decide +kernel⟩⟩

/-- The hypotheses of `DiscoveryNumbersDevices` can be met. -/
theorem hyps_discovery_numbers_devices :
    (∃ (s : State),
      discovering s = true ∧ (s.vine.probeFault = none ∨ waitOver s = false) ∧ hasPartner s 2 = hasPartner s 3) ∧
    (∃ (s : State),
      discovering s = true ∧ (s.vine.probeFault = none ∨ waitOver s = false) ∧ hasPartner s 2 ≠ hasPartner s 3) ∧
    (∃ (s : State),
      discovering s = true ∧ (s.vine.probeFault = none ∨ waitOver s = false) ∧ hasPartner s 2 ≠ hasPartner s 3) ∧
    (∃ (s : State) (x : Fin 4 × Nat),
      discovering s = true ∧ s.vine.probeFault = some x ∧ waitOver s = true) ∧
    (∃ (s : State),
      discovering s = false) ∧
    (∃ (s : State) (c : Nat),
      probeAwaited s 0 ∧ 2 ≤ c ∧ c ≤ 8) ∧
    (∃ (s : State) (c : Nat),
      probeAwaited s 0 ∧ 2 ≤ c ∧ c ≤ 8) ∧
    (∃ (s : State) (r : Nat),
      probeAwaited s 2 ∧ 2 ≤ s.vine.foundCols ∧ s.vine.foundCols ≤ 8 ∧ 1 ≤ r ∧ r ≤ s.vine.foundCols) ∧
    (∃ (s : State) (r : Nat),
      probeAwaited s 2 ∧ 2 ≤ s.vine.foundCols ∧ s.vine.foundCols ≤ 8 ∧ 1 ≤ r ∧ r ≤ s.vine.foundCols) ∧
    (∃ (s : State) (i : Fin 4) (j : Fin 4),
      probeAwaited s i ∧ j ≠ i + 1) ∧
    (∃ (s : State) (n : Nat),
      probeAwaited s 0 ∧ (n < 2 ∨ 8 < n)) ∧
    (∃ (s : State) (n : Nat),
      probeAwaited s 0 ∧ (n < 2 ∨ 8 < n)) ∧
    (∃ (s : State) (n : Nat),
      probeAwaited s 2 ∧ (n = 0 ∨ s.vine.foundCols < n ∨ 64 < n * s.vine.foundCols)) ∧
    (∃ (s : State) (n : Nat),
      probeAwaited s 2 ∧ (n = 0 ∨ s.vine.foundCols < n ∨ 64 < n * s.vine.foundCols)) ∧
    (∃ (s : State) (i : Fin 4),
      ¬ probeAwaited s i) ∧
    (∃ (s : State) (i : Fin 4),
      probeAwaited s i) ∧
    (∃ (s : State) (i : Fin 4),
      ¬ probeAwaited s i) :=
  ⟨⟨up 0 live, by decide +kernel⟩,
   ⟨up 2 (up 0 live), by decide +kernel⟩,
   ⟨up 3 (up 0 live), by decide +kernel⟩,
   ⟨lateProbe, (0, 1), by decide +kernel⟩,
   ⟨remote, by decide +kernel⟩,
   ⟨disc 0 true (up 0 live), 2, by unfold probeAwaited; decide +kernel⟩,
   ⟨disc 0 true (up 2 (up 3 (up 0 live))), 8, by unfold probeAwaited; decide +kernel⟩,
   ⟨disc 8 true (up 0 live), 8, by unfold probeAwaited; decide +kernel⟩,
   ⟨disc 2 true (up 0 live), 1, by unfold probeAwaited; decide +kernel⟩,
   ⟨disc 2 true (up 0 live), 2, 2, by unfold probeAwaited; decide +kernel⟩,
   ⟨disc 0 true (up 0 live), 1, by unfold probeAwaited; decide +kernel⟩,
   ⟨disc 0 true (up 0 live), 9, by unfold probeAwaited; decide +kernel⟩,
   ⟨disc 2 true (up 0 live), 0, by unfold probeAwaited; decide +kernel⟩,
   ⟨disc 2 true (up 0 live), 3, by unfold probeAwaited; decide +kernel⟩,
   ⟨live, 0, by unfold probeAwaited; decide +kernel⟩,
   ⟨disc 0 true (up 0 live), 0, by unfold probeAwaited; decide +kernel⟩,
   ⟨live, 0, by unfold probeAwaited; decide +kernel⟩⟩

/-- The hypotheses of `TimeIsSynchronised` can be met. -/
theorem hyps_time_is_synchronised :
    (∃ (s : State),
      s.pending = [] ∧ dueBarriers (advanceTime s) = []) ∧
    (∃ (s : State),
      s.pending = [] ∧ dueBarriers (advanceTime s) = []) ∧
    (∃ (s : State),
      s.pending = [] ∧ dueBarriers (advanceTime s) = []) ∧
    (∃ (s : State),
      s.pending = [] ∧ dueBarriers (advanceTime s) = []) ∧
    (∃ (s : State),
      s.pending = []) ∧
    (∃ (s : State),
      isLead s = true ∧ 1 < s.port.devices.toNat) ∧
    (∃ (s : State),
      (isLead s = false ∨ s.port.devices.toNat ≤ 1)) ∧
    (∃ (s : State) (l : Long) (ns : Nat) (d : Int),
      isLead s = false ∧ d = (l + BitVec.ofNat 64 (wholeDelay s ns) - s.time).toInt ∧ (s.vine.synced = false ∨ s.vine.cfg.live.commonRefclk = true) ∧ 0 ≤ d) ∧
    (∃ (s : State) (l : Long) (ns : Nat) (d : Int),
      isLead s = false ∧ d = (l + BitVec.ofNat 64 (wholeDelay s ns) - s.time).toInt ∧ (s.vine.synced = false ∨ s.vine.cfg.live.commonRefclk = true) ∧ d < 0) ∧
    (∃ (s : State) (l : Long) (ns : Nat) (d : Int),
      isLead s = false ∧ d = (l + BitVec.ofNat 64 (wholeDelay s ns) - s.time).toInt ∧ s.vine.synced = true ∧ s.vine.cfg.live.commonRefclk = false) ∧
    (∃ (s : State) (l : Long) (ns : Nat) (d : Int),
      isLead s = false ∧ d = (l + BitVec.ofNat 64 (wholeDelay s ns) - s.time).toInt ∧ s.vine.synced = true ∧ s.vine.cfg.live.commonRefclk = false) ∧
    (∃ (s : State),
      isLead s = true) :=
  ⟨⟨live, by decide +kernel⟩,
   ⟨vineOf (fun v => { v with hold := 40 }) live, by decide +kernel⟩,
   ⟨vineOf (fun v => { v with correction := 80, edges := 63 }) live, by decide +kernel⟩,
   ⟨vineOf (fun v => { v with correction := -40, edges := 63 }) live, by decide +kernel⟩,
   ⟨live, by decide +kernel⟩,
   ⟨{ live with port := { live.port with devices := 2 } }, by decide +kernel⟩,
   ⟨remote, by decide +kernel⟩,
   ⟨remote, 100, 30, 140, by decide +kernel⟩,
   ⟨{ remote with time := 1000 }, 100, 30, -860, by decide +kernel⟩,
   ⟨vineOf (fun v => { v with synced := true }) { remote with time := 1000 }, 100, 30, -860, by decide +kernel⟩,
   ⟨vineOf (fun v => { v with synced := true }) { remote with time := 10 }, 100, 30, 130, by decide +kernel⟩,
   ⟨live, by decide +kernel⟩⟩

/-- The hypotheses of `BarriersRelease` can be met. -/
theorem hyps_barriers_release :
    (∃ (s : State) (q : Fin 256) (seq : Word) (c : Cmd) (b : Barrier),
      startedOf s q seq 6 = some c ∧ s.vine.barriers.find? (fun b => b.queue = q && b.seq = seq) = some b ∧ s.vine.aborted.contains (b.ident.toNat, b.gen) = false) ∧
    (∃ (s : State) (q : Fin 256) (seq : Word) (c : Cmd) (b : Barrier),
      startedOf s q seq 6 = some c ∧ s.vine.barriers.find? (fun b => b.queue = q && b.seq = seq) = some b ∧ s.vine.aborted.contains (b.ident.toNat, b.gen) = false) ∧
    (∃ (s : State) (q : Fin 256) (seq : Word) (c : Cmd) (b : Barrier),
      startedOf s q seq 6 = some c ∧ s.vine.barriers.find? (fun b => b.queue = q && b.seq = seq) = some b ∧ s.vine.aborted.contains (b.ident.toNat, b.gen) = false) ∧
    (∃ (s : State) (q : Fin 256) (seq : Word) (c : Cmd) (b : Barrier),
      startedOf s q seq 6 = some c ∧ s.vine.barriers.find? (fun b => b.queue = q && b.seq = seq) = some b ∧ s.vine.aborted.contains (b.ident.toNat, b.gen) = true) ∧
    (∃ (s : State) (q : Fin 256) (seq : Word),
      (startedOf s q seq 6 = none ∨ s.vine.barriers.find? (fun b => b.queue = q && b.seq = seq) = none)) ∧
    (∃ (s : State) (dev : Fin 64),
      isLead s = true ∧ s.safety.safe = false ∧ dev.val ≠ self s ∧ dev.val < s.port.devices.toNat) ∧
    (∃ (s : State) (dev : Fin 64),
      (isLead s = false ∨ s.safety.safe = true ∨ dev.val = self s ∨ s.port.devices.toNat ≤ dev.val)) ∧
    (∃ (s : State) (i : BitVec 16) (g : Word) (tr : Long) (b : Barrier),
      s.safety.safe = false ∧ s.vine.entry i g = some b ∧ ¬ tr < s.time) ∧
    (∃ (s : State) (i : BitVec 16) (g : Word) (tr : Long) (b : Barrier),
      s.safety.safe = false ∧ s.vine.entry i g = some b ∧ tr < s.time) ∧
    (∃ (s : State) (i : BitVec 16) (g : Word),
      (s.safety.safe = true ∨ s.vine.entry i g = none)) ∧
    (∃ (s : State) (i : BitVec 16) (b : Barrier),
      (dueBarriers s).find? (fun b => b.ident = i) = some b) ∧
    (∃ (s : State) (i : BitVec 16),
      (dueBarriers s).find? (fun b => b.ident = i) = none) ∧
    (∃ (s : State) (i : BitVec 16) (b : Barrier),
      s.safety.safe = false ∧ s.vine.barriers.find? (fun b => b.ident = i && overdue s b) = some b) ∧
    (∃ (s : State) (i : BitVec 16),
      (s.safety.safe = true ∨ s.vine.barriers.find? (fun b => b.ident = i && overdue s b) = none)) ∧
    (∃ (s : State) (i : BitVec 16) (g : Word) (b : Barrier),
      s.safety.safe = false ∧ s.vine.entry i g = some b) ∧
    (∃ (s : State) (i : BitVec 16) (g : Word) (next : Word),
      s.safety.safe = false ∧ s.vine.entry i g = none ∧ next = (lookupKey s.vine.generations i.toNat).getD 0 ∧ (g = next ∨ earlier next g = true) ∧ s.vine.aborted.contains (i.toNat, g) = false) ∧
    (∃ (s : State) (i : BitVec 16) (g : Word) (next : Word),
      s.safety.safe = false ∧ s.vine.entry i g = none ∧ next = (lookupKey s.vine.generations i.toNat).getD 0 ∧ (g = next ∨ earlier next g = true) ∧ s.vine.aborted.contains (i.toNat, g) = false) ∧
    (∃ (s : State) (i : BitVec 16) (g : Word) (next : Word),
      next = (lookupKey s.vine.generations i.toNat).getD 0 ∧ (s.safety.safe = true ∨ (s.vine.entry i g = none ∧ ((g ≠ next ∧ earlier next g = false) ∨ s.vine.aborted.contains (i.toNat, g) = true)))) :=
  ⟨⟨bq .started none, 0, 4, cB6 .started, bar none, by decide +kernel⟩,
   ⟨ofThree (bq .started none), 0, 4, cB6 .started, bar none, by decide +kernel⟩,
   ⟨{ bq .started none with port := remote.port }, 0, 4, cB6 .started, bar none, by decide +kernel⟩,
   ⟨vineOf (fun v => { v with aborted := [(4, 2)] }) (bq .started none), 0, 4, cB6 .started, bar none, by decide +kernel⟩,
   ⟨live, 0, 4, by decide +kernel⟩,
   ⟨ofThree live, 1, by decide +kernel⟩,
   ⟨live, 1, by decide +kernel⟩,
   ⟨bq .running none, 4, 2, 50, bar none, by decide +kernel⟩,
   ⟨bq .running none, 4, 2, 49, bar none, by decide +kernel⟩,
   ⟨live, 4, 2, by decide +kernel⟩,
   ⟨bq .running (some 50), 4, bar (some 50), by decide +kernel⟩,
   ⟨bq .running (some 51), 4, by decide +kernel⟩,
   ⟨{ ofThree (bq .running none) with time := 1000000000000 }, 4, bar none, by decide +kernel⟩,
   ⟨bq .running none, 4, by decide +kernel⟩,
   ⟨bq .running none, 4, 2, bar none, by decide +kernel⟩,
   ⟨bq .running none, 4, 3, 3, by decide +kernel⟩,
   ⟨bq .running none, 4, 9, 3, by decide +kernel⟩,
   ⟨bq .running none, 4, 1, 3, by decide +kernel⟩⟩

/-- The hypotheses of `CollectivesEnd` can be met. -/
theorem hyps_collectives_end :
    (∃ (s : State) (inputs : List (List Byte)) (c : Coll) (rest : List Coll) (seq : Word),
      s.fw.colls = c :: rest ∧ firmwareUp s = true ∧ s.safety.safe = false ∧ inputs.length + 1 = s.port.devices.toNat ∧ inputs.any (fun l => decide (l.length ≠ collBytes c.format.toNat c.count)) = false ∧ (s.pair c.pair).job = some (.collective seq) ∧ OutReady c.pair s ∧ (s.pair c.pair).inTail = (s.pair c.pair).inRead) ∧
    (∃ (s : State) (inputs : List (List Byte)),
      (s.fw.colls = [] ∨ firmwareUp s = false ∨ s.safety.safe = true ∨ inputs.length + 1 ≠ s.port.devices.toNat ∨ ∃ c rest, s.fw.colls = c :: rest ∧ inputs.any (fun l => decide (l.length ≠ collBytes c.format.toNat c.count)) = true)) ∧
    (∃ (s : State) (c : Coll) (rest : List Coll) (seq : Word),
      s.fw.colls = c :: rest ∧ firmwareUp s = true ∧ (s.pair c.pair).job = some (.collective seq) ∧ OutReady c.pair s ∧ (s.pair c.pair).inTail = (s.pair c.pair).inRead) ∧
    (∃ (s : State),
      (s.fw.colls = [] ∨ firmwareUp s = false)) :=
  ⟨⟨coS, [[1, 0, 0, 0]], co, [], 9, by unfold OutReady; decide +kernel⟩,
   ⟨live, [], by exact .inl (by decide +kernel)⟩,
   ⟨coS, co, [], 9, by unfold OutReady; decide +kernel⟩,
   ⟨live, by decide +kernel⟩⟩

end Part12

/-! ### Camera -/

namespace Part13

def cap : CaptureRef := { queue := 0, seq := 4, parcel := 0, arrived := 7 }

def cC3 : Cmd := { seq := 4, desc := 3 :: List.replicate 63 0, phase := .running, params := List.replicate 12 0 ++ [5, 0, 0, 0] }

def cq : State := (live.updQueue 0 fun q => { q with cfg := rwsReset { q.cfg.live with en := true, size := 256, continuePolicy := true }, nextCork := 4, read := 5, tail := 5, cmds := [cC3] }).updPipe 15 fun p => { p with pendingCaptures := [cap], sinceClaim := 3, owner := some 0 }

def of0 : OpenFrame := { claim := none, number := 1, index := 0, frameNo := 5, firstLine := 0, discardedBefore := 0, crop := (0, 0, 0, 0), flags := 0, tStart := 3, tEnd := 0, received := 0, crcLines := 0, firstBad := 0xFFFFFFFF, eccCorr := 0, formed := 0, closed := false }

def pipeOf (f : Pipe → Pipe) (s : State) : State := s.updPipe 15 f

def fr : State := pipeOf (fun p => { p with frames := [of0], cfg := rwsReset { p.cfg.live with timeout := 9, height := 16, width := 16 } }) live

def pk : LongPacket := { vc := 0, dt := 0x2C, payload := [1, 2, 3], crcOk := false, headerCorrected := true, overflow := false }

def strips (s : State) : State := pipeOf (fun p => { p with cfg := rwsReset { p.cfg.live with strip := true, stripHeight := 16, overlap := 2, width := 16 } }) s

def staging (f : PipeCfg → PipeCfg) (s : State) : State := pipeOf (fun p => { p with cfg := { p.cfg with pending := some (f p.cfg.live) } }) s

def wide (c : PipeCfg) : PipeCfg := { c with width := 64 }

def claimed : OpenFrame := { of0 with claim := some cap, crop := (0, 0, 4, 4), formed := 1, received := 3 }

def forming : State := pipeOf (fun p => { p with frames := [claimed], pendingCaptures := [], lineCount := 3, lines := List.replicate 3 (List.replicate 16 0), cfg := rwsReset { p.cfg.live with height := 16, width := 16 } }) cq

def formRun : EngineRun := pieceRun forming (pipeCx 15 0) (rowPieces (rawImage (pushLine (forming.pipe 15).cfg.live pk 0 (forming.pipe 15))) [] cC3.params claimed.crop 0 1)

def cT : Cmd := { cC3 with operands := [{ noOperand with sizes := [3, 64, 64, 1], space := 2 }, noOperand, noOperand, { noOperand with sizes := [3, 64, 64, 1], space := 2 }], params := [15] ++ List.replicate 11 0 ++ [5, 0, 0, 0] ++ List.replicate 40 0 }

def formBad : State := forming.updQueue 0 fun q => { q with cmds := [cT] }

def badRun : EngineRun := pieceRun formBad (pipeCx 15 0) (rowPieces (rawImage (pushLine (formBad.pipe 15).cfg.live pk 0 (formBad.pipe 15))) cT.operands cT.params claimed.crop 0 1)

def whole : OpenFrame := { claimed with formed := 14, received := 16 }

def ending : State := pipeOf (fun p => { p with frames := [whole], lineCount := 16 }) forming

def okOf {α : Type} (x : Except Stop (List α)) : List α := match x with
  | .ok l => l
  | .error _ => []

/-- The hypotheses of `FramesAreReceived` can be met. -/
theorem hyps_frames_are_received :
    (∃ (s : State) (n : Fin 16) (vc : BitVec 4),
      ¬ areaTakes s n vc) ∧
    (∃ (s : State) (n : Fin 16) (vc : BitVec 4),
      ¬ areaTakes s n vc) ∧
    (∃ (s : State) (n : Fin 16) (vc : BitVec 4),
      areaTakes s n vc ∧ (s.pipe n).cfg.pending = none) ∧
    (∃ (s : State) (n : Fin 16) (vc : BitVec 4),
      areaTakes s n vc ∧ (s.pipe n).cfg.pending = none ∧ (s.pipe n).frames = [] ∧ ((s.pipe n).owner = none ∨ (s.pipe n).pendingCaptures = [])) ∧
    (∃ (s : State) (n : Fin 16) (vc : BitVec 4) (r : CaptureRef) (rest : List CaptureRef),
      areaTakes s n vc ∧ (s.pipe n).cfg.pending = none ∧ (s.pipe n).frames = [] ∧ (s.pipe n).owner ≠ none ∧ (s.pipe n).pendingCaptures = r :: rest) ∧
    (∃ (s : State) (n : Fin 16) (vc : BitVec 4) (c : PipeCfg),
      areaTakes s n vc ∧ (s.pipe n).cfg.pending = some c ∧ pipeConfigBad c = none ∧ s.safety.safe = false) ∧
    (∃ (s : State) (n : Fin 16) (vc : BitVec 4) (c : PipeCfg),
      areaTakes s n vc ∧ (s.pipe n).cfg.pending = some c ∧ pipeConfigBad c = none ∧ s.safety.safe = false) ∧
    (∃ (s : State) (n : Fin 16) (pkt : LongPacket),
      ¬ packetUsed s n pkt) ∧
    (∃ (s : State) (n : Fin 16) (pkt : LongPacket),
      packetUsed s n pkt ∧ (s.pipe n).cfg.live.strip = false ∧ frameOf (s.pipe n) 0 = none) ∧
    (∃ (s : State) (n : Fin 16) (pkt : LongPacket) (f : OpenFrame),
      packetUsed s n pkt ∧ (s.pipe n).cfg.live.strip = false ∧ frameOf (s.pipe n) 0 = some f ∧ (s.pipe n).lineCount < (s.pipe n).cfg.live.height.toNat) ∧
    (∃ (s : State) (n : Fin 16) (pkt : LongPacket) (f : OpenFrame),
      packetUsed s n pkt ∧ (s.pipe n).cfg.live.strip = false ∧ frameOf (s.pipe n) 0 = some f ∧ (s.pipe n).cfg.live.height.toNat ≤ (s.pipe n).lineCount) ∧
    (∃ (s : State) (n : Fin 16) (pkt : LongPacket) (f : OpenFrame) (r : CaptureRef) (c : Cmd) (run : EngineRun),
      packetUsed s n pkt ∧ (s.pipe n).cfg.live.strip = false ∧ (s.pipe n).frames = [f] ∧ f.firstLine = 0 ∧ f.claim = some r ∧ s.cmd r.queue r.seq = some c ∧ (s.pipe n).lineCount < (s.pipe n).cfg.live.height.toNat ∧ min ((s.pipe n).cfg.live.height.toNat - 2) (rowsReady ((s.pipe n).lineCount + 1)) = f.formed + 1 ∧ f.crop.2.1 ≤ f.formed ∧ f.formed < f.crop.2.1 + f.crop.2.2.2 ∧ run = pieceRun s (pipeCx n r.parcel) (rowPieces (rawImage (pushLine (s.pipe n).cfg.live pkt s.time (s.pipe n))) c.operands c.params f.crop 0 (f.formed - f.crop.2.1))) ∧
    (∃ (s : State) (n : Fin 16) (pkt : LongPacket) (f : OpenFrame) (r : CaptureRef) (c : Cmd) (run : EngineRun),
      packetUsed s n pkt ∧ (s.pipe n).cfg.live.strip = false ∧ (s.pipe n).frames = [f] ∧ f.firstLine = 0 ∧ f.claim = some r ∧ s.cmd r.queue r.seq = some c ∧ (s.pipe n).lineCount < (s.pipe n).cfg.live.height.toNat ∧ min ((s.pipe n).cfg.live.height.toNat - 2) (rowsReady ((s.pipe n).lineCount + 1)) = f.formed + 1 ∧ f.crop.2.1 ≤ f.formed ∧ f.formed < f.crop.2.1 + f.crop.2.2.2 ∧ run = pieceRun s (pipeCx n r.parcel) (rowPieces (rawImage (pushLine (s.pipe n).cfg.live pkt s.time (s.pipe n))) c.operands c.params f.crop 0 (f.formed - f.crop.2.1))) ∧
    (∃ (s : State) (n : Fin 16) (pkt : LongPacket) (l : Nat),
      packetUsed s n pkt ∧ l = (s.pipe n).lineCount ∧ (s.pipe n).cfg.live.strip = true ∧ (s.pipe n).cfg.pending = none) ∧
    (∃ (s : State) (n : Fin 16) (pkt : LongPacket) (l : Nat),
      packetUsed s n pkt ∧ l = (s.pipe n).lineCount ∧ (s.pipe n).cfg.live.strip = true ∧ (s.pipe n).cfg.pending = none) ∧
    (∃ (s : State) (n : Fin 16) (pkt : LongPacket) (l : Nat),
      packetUsed s n pkt ∧ l = (s.pipe n).lineCount ∧ (s.pipe n).cfg.live.strip = true ∧ (s.pipe n).cfg.pending = none) ∧
    (∃ (s : State) (n : Fin 16) (pkt : LongPacket) (c : PipeCfg),
      packetUsed s n pkt ∧ (s.pipe n).cfg.live.strip = true ∧ (s.pipe n).cfg.pending = some c ∧ pipeConfigBad c = none ∧ s.safety.safe = false ∧ stripStarts (s.pipe n).cfg.live (s.pipe n).lineCount = true ∧ (∀ f ∈ (s.pipe n).frames, f.claim = none)) ∧
    (∃ (s : State) (n : Fin 16) (vc : BitVec 4),
      areaTakes s n vc) ∧
    (∃ (s : State) (n : Fin 16) (vc : BitVec 4),
      areaTakes s n vc) ∧
    (∃ (s : State) (n : Fin 16) (vc : BitVec 4) (f : OpenFrame) (r : CaptureRef) (c : Cmd) (ws : List (Loc × List Byte)),
      areaTakes s n vc ∧ (s.pipe n).frames = [f] ∧ f.firstLine = 0 ∧ f.claim = some r ∧ s.cmd r.queue r.seq = some c ∧ f.closed = false ∧ (s.pipe n).cfg.live.height.toNat ≤ f.received ∧ f.crop.2.1 + f.crop.2.2.2 ≤ f.formed ∧ writePiece s (pipeCx n r.parcel) (opAt c.operands 4) 8 (rowAt 0 0 0) ((frameRecord (s.pipe n) { f with tEnd := s.time, closed := true }).map fun b => b.toNat) = .ok ws) ∧
    (∃ (s : State) (n : Fin 16),
      (s.pipe n).cfg.live.timeout ≠ 0 ∧ (s.pipe n).frames ≠ []) ∧
    (∃ (s : State) (n : Fin 16),
      (s.pipe n).cfg.live.timeout ≠ 0 ∧ (s.pipe n).frames ≠ []) ∧
    (∃ (s : State) (n : Fin 16),
      ((s.pipe n).cfg.live.timeout = 0 ∨ (s.pipe n).frames = [])) ∧
    (∃ (s : State) (n : Fin 16) (r : CaptureRef) (c : Cmd),
      s.safety.safe = false ∧ firstExpiry s (s.pipe n).pendingCaptures = some r ∧ s.cmd r.queue r.seq = some c ∧ c.phase.isEnded = false) ∧
    (∃ (s : State) (n : Fin 16),
      (s.safety.safe = true ∨ firstExpiry s (s.pipe n).pendingCaptures = none)) :=
  ⟨⟨live, 15, 1, by unfold areaTakes; decide +kernel⟩,
   ⟨strips live, 15, 0, by unfold areaTakes; decide +kernel⟩,
   ⟨live, 15, 0, by unfold areaTakes; decide +kernel⟩,
   ⟨live, 15, 0, by unfold areaTakes; decide +kernel⟩,
   ⟨cq, 15, 0, cap, [], by unfold areaTakes; decide +kernel⟩,
   ⟨staging wide live, 15, 0, wide (live.pipe 15).cfg.live, by unfold areaTakes; decide +kernel⟩,
   ⟨staging (fun c => { c with strip := true }) live, 15, 0, { (live.pipe 15).cfg.live with strip := true }, by unfold areaTakes; decide +kernel⟩,
   ⟨fr, 15, { pk with vc := 1 }, by unfold packetUsed; decide +kernel⟩,
   ⟨live, 15, pk, by unfold packetUsed; decide +kernel⟩,
   ⟨fr, 15, pk, of0, by unfold packetUsed; decide +kernel⟩,
   ⟨pipeOf (fun p => { p with lineCount := 16 }) fr, 15, pk, of0, by unfold packetUsed; decide +kernel⟩,
   ⟨forming, 15, pk, claimed, cap, cC3, formRun, by unfold packetUsed; decide +kernel⟩,
   ⟨formBad, 15, pk, claimed, cap, cT, badRun, by unfold packetUsed; decide +kernel⟩,
   ⟨strips live, 15, pk, 0, by unfold packetUsed; decide +kernel⟩,
   ⟨strips cq, 15, pk, 0, by unfold packetUsed; decide +kernel⟩,
   ⟨pipeOf (fun p => { p with lineCount := 13 }) (strips live), 15, pk, 13, by unfold packetUsed; decide +kernel⟩,
   ⟨staging wide (strips live), 15, pk, wide ((strips live).pipe 15).cfg.live, by unfold packetUsed; decide +kernel⟩,
   ⟨fr, 15, 0, by unfold areaTakes; decide +kernel⟩,
   ⟨forming, 15, 0, by unfold areaTakes; decide +kernel⟩,
   ⟨ending, 15, 0, whole, cap, cC3, okOf (writePiece ending (pipeCx 15 0) (opAt [] 4) 8 (rowAt 0 0 0) ((frameRecord (ending.pipe 15) { whole with tEnd := 0, closed := true }).map fun b => b.toNat)), by unfold areaTakes; decide +kernel⟩,
   ⟨fr, 15, by decide +kernel⟩,
   ⟨pipeOf (fun p => { p with frames := [of0], cfg := rwsReset { p.cfg.live with strip := true, timeout := 9 } }) live, 15, by decide +kernel⟩,
   ⟨live, 15, by decide +kernel⟩,
   ⟨cq, 15, cap, cC3, by decide +kernel⟩,
   ⟨live, 15, by decide +kernel⟩⟩

end Part13

/-! ### The whole device -/

namespace Part14

def exV (f : Nat → Int) : List Int := (List.range 64).map fun i => f i

/-- A device whose next command is a host write of one byte to the window SRAM. -/
def writing : State := { live with pending := [.hostWrite 0 512 0 0 [some 0xA5] .clean] }

/-- The state that a step answers, or the same state. -/
def after (s : State) : State := match step s with
  | .next t => t
  | _ => s

/-- The hypotheses of `StepRunsFrontCommand` can be met. -/
theorem hyps_step_runs_front_command :
    (∃ (s : State) (c : Instr) (rest : List Instr),
      s.pending = c :: rest) ∧
    (∃ (s : State),
      s.pending = []) :=
  ⟨⟨{ live with pending := [.clocks] }, .clocks, [], by decide +kernel⟩,
   ⟨live, by decide +kernel⟩⟩

/-- The hypotheses of `CommandsAnswerUnlessIllFormed` can be met. -/
theorem hyps_commands_answer_unless_ill_formed :
    (∃ (c : Instr),
      c.wf = true) ∧
    (∃ (c : Instr),
      c.wf = false) :=
  ⟨⟨.supplySample (List.replicate 8 0), by decide +kernel⟩,
   ⟨.supplySample [], by decide +kernel⟩⟩

/-- The hypotheses of `QueueIsServedWithoutStop` can be met. -/
theorem hyps_queue_is_served_without_stop :
    (∃ (s : State),
      QueueWf s) :=
  ⟨{ live with pending := [.supplySample (List.replicate 8 0)] }, by unfold QueueWf; decide +kernel⟩

/-- The hypotheses of `MemoriesStayCanonical` can be met. -/
theorem hyps_memories_stay_canonical :
    (∃ (s : State) (t : State),
      MemoriesWf s ∧ step s = .next t) :=
  ⟨writing, after writing, by unfold MemoriesWf PressMemoriesWf; exact ⟨by decide +kernel, rfl⟩⟩

/-- The hypotheses of `CaskLinesRotate` can be met. -/
theorem hyps_cask_lines_rotate :
    (∃ (a : Nat),
      a < 0x180000) ∧
    (∃ (a : Nat),
      a < 0x180000) ∧
    (∃ (a : Nat),
      0x180000 ≤ a ∧ a < 0x480000) ∧
    (∃ (a : Nat),
      0x180000 ≤ a ∧ a < 0x480000) ∧
    (∃ (a : Nat),
      0x480000 ≤ a ∧ a < 0x600000) ∧
    (∃ (a : Nat),
      0x480000 ≤ a ∧ a < 0x600000) :=
  ⟨⟨0, by decide +kernel⟩,
   ⟨0x17FFFF, by decide +kernel⟩,
   ⟨0x180000, by decide +kernel⟩,
   ⟨0x47FFFF, by decide +kernel⟩,
   ⟨0x480000, by decide +kernel⟩,
   ⟨0x5FFFFF, by decide +kernel⟩⟩

/-- The hypotheses of `CompressionErrorIsBounded` can be met. -/
theorem hyps_compression_error_is_bounded :
    (∃ (fmt : Nat) (v : List Int) (i : Nat) (k : Nat) (l : Nat),
      (fmt = 0 ∨ fmt = 1) ∧ v.length = 64 ∧ (∀ x ∈ v, satFmt fmt x = x) ∧ i < 64 ∧ k < 64 ∧ l < 64 ∧ cellOf k = cellOf i ∧ cellOf l = cellOf i ∧ (∀ j, j < 64 → cellOf j = cellOf i → v.getD k 0 ≤ v.getD j 0 ∧ v.getD j 0 ≤ v.getD l 0)) ∧
    (∃ (fmt : Nat) (v : List Int),
      (fmt = 0 ∨ fmt = 1) ∧ v.length = 64 ∧ (∀ x ∈ v, satFmt fmt x = x) ∧ planeShift (planeDiffs fmt v) = 0) ∧
    (∃ (fmt : Nat) (v : List Int) (i : Nat) (r : Nat),
      (fmt = 0 ∨ fmt = 1) ∧ v.length = 64 ∧ (∀ x ∈ v, satFmt fmt x = x) ∧ i < 64 ∧ planeShift (planeDiffs fmt v) = r + 1 ∧ (∀ d ∈ planeDiffs fmt v, -2 ≤ roundDiv d (2 ^ (r + 1)) ∧ roundDiv d (2 ^ (r + 1)) ≤ 1)) :=
  ⟨⟨0, exV fun i => if i = 9 then 255 else 0, 0, 1, 9, by decide +kernel⟩,
   ⟨0, exV fun i => 100 + i % 2, by decide +kernel⟩,
   ⟨1, exV fun i => if i = 5 then 9 else 3, 5, 1, by decide +kernel⟩⟩

/-- The hypotheses of `WindowAddressFollowsTheStrap` can be met. -/
theorem hyps_window_address_follows_the_strap :
    (∃ (off : Nat),
      off < 2 ^ 32) ∧
    (∃ (off : Nat),
      off < 2 ^ 32) ∧
    (∃ (off : Nat),
      off < 2 ^ 32) ∧
    (∃ (off : Nat),
      off < 2 ^ 32) :=
  ⟨⟨0xFFFFFFFF, by decide +kernel⟩,
   ⟨0xFFFFFFFF, by decide +kernel⟩,
   ⟨0xFFFFFFFF, by decide +kernel⟩,
   ⟨0xFFFFFFFF, by decide +kernel⟩⟩

end Part14

end Sys2Proof.Tests
end

section
/-! PROOF. Every step keeps the canonical form of every memory. What a memory operation does to the form stands in
Laws/Memory.lean; here follows, for each operation of the state in the order of the model's files, that it keeps the form: an
operation that reaches no memory by `MemoriesWf.frame`, one that writes a memory by the rule of that memory, and one that calls
others by their rules. -/

namespace Sys2Proof.Machine

-- The lemmas form long chains: elaborated side by side, each would hold a thread while it waits for the ones it cites.
set_option Elab.async false

/-! ### The canonical form of the memories of a press and of the device -/

/-- The memories of a press whose three stores are those of a press with canonical memories. -/
theorem PressMemoriesWf.frame {x y : Press} (h : PressMemoriesWf x) (hc : y.cask = x.cask := by rfl)
    (ha : y.accumulators = x.accumulators := by rfl) (hs : y.sideStore = x.sideStore := by rfl) :
    PressMemoriesWf y := by
  unfold PressMemoriesWf at *
  rw [hc, ha, hs]
  exact h

section
variable {s : State}

/-! Each memory of a device whose memories are canonical. -/

theorem MemoriesWf.dram_wf (h : MemoriesWf s) : s.dram.wf = true := h.1

theorem MemoriesWf.cellar_wf (h : MemoriesWf s) : s.cellar.mem.wf = true := h.2.1

theorem MemoriesWf.window_wf (h : MemoriesWf s) : s.port.window.wf = true := h.2.2.1

theorem MemoriesWf.press_wf (h : MemoriesWf s) (p : Fin 16) : PressMemoriesWf (s.press p) := h.2.2.2 p

/-- The memories of a device whose stores are those of a device with canonical memories. -/
theorem MemoriesWf.frame {t : State} (h : MemoriesWf s) (hd : t.dram = s.dram := by rfl)
    (hc : t.cellar.mem = s.cellar.mem := by rfl) (hw : t.port.window = s.port.window := by rfl)
    (hp : t.presses = s.presses := by rfl) : MemoriesWf t := by
  unfold MemoriesWf State.press at *
  rw [hd, hc, hw, hp]
  exact h

/-- A change of device memory that leaves it canonical. -/
theorem MemoriesWf.withDram {t : State} (h : MemoriesWf s) (hd : t.dram.wf = true)
    (hc : t.cellar.mem = s.cellar.mem := by rfl) (hw : t.port.window = s.port.window := by rfl)
    (hp : t.presses = s.presses := by rfl) : MemoriesWf t := by
  obtain ⟨_, cellar, window, presses⟩ := h
  unfold MemoriesWf State.press at *
  exact ⟨hd, hc ▸ cellar, hw ▸ window, hp ▸ presses⟩

/-- A change of the Cellar that leaves it canonical. -/
theorem MemoriesWf.withCellar {t : State} (h : MemoriesWf s) (hc : t.cellar.mem.wf = true)
    (hd : t.dram = s.dram := by rfl) (hw : t.port.window = s.port.window := by rfl)
    (hp : t.presses = s.presses := by rfl) : MemoriesWf t := by
  obtain ⟨dram, _, window, presses⟩ := h
  unfold MemoriesWf State.press at *
  exact ⟨hd ▸ dram, hc, hw ▸ window, hp ▸ presses⟩

/-- A change of the window that leaves it canonical. -/
theorem MemoriesWf.withWindow {t : State} (h : MemoriesWf s) (hw : t.port.window.wf = true)
    (hd : t.dram = s.dram := by rfl) (hc : t.cellar.mem = s.cellar.mem := by rfl)
    (hp : t.presses = s.presses := by rfl) : MemoriesWf t := by
  obtain ⟨dram, cellar, _, presses⟩ := h
  unfold MemoriesWf State.press at *
  exact ⟨hd ▸ dram, hc ▸ cellar, hw, hp ▸ presses⟩

/-- What `f` makes of a press has canonical memories where the press had. -/
def KeepsPress (f : Press → Press) : Prop := ∀ x, PressMemoriesWf x → PressMemoriesWf (f x)

/-- A change of the presses that keeps the canonical form of each. -/
theorem MemoriesWf.withPresses {t : State} (h : MemoriesWf s)
    (hp : ∀ p, PressMemoriesWf (s.press p) → PressMemoriesWf (t.press p)) (hd : t.dram = s.dram := by rfl)
    (hc : t.cellar.mem = s.cellar.mem := by rfl) (hw : t.port.window = s.port.window := by rfl) : MemoriesWf t := by
  obtain ⟨dram, cellar, window, presses⟩ := h
  exact ⟨hd ▸ dram, hc ▸ cellar, hw ▸ window, fun p => hp p (presses p)⟩

protected theorem MemoriesWf.updPress {n : Fin 16} {f : Press → Press} (h : MemoriesWf s)
    (hf : KeepsPress f := by exact fun _ hx => hx.frame) : MemoriesWf (s.updPress n f) := by
  obtain ⟨dram, cellar, window, presses⟩ := h
  refine ⟨dram, cellar, window, fun p => ?_⟩
  rw [State.press, State.updPress, vget_vupd]
  split
  · exact hf _ (presses n)
  · exact presses p

protected theorem MemoriesWf.updWindow {f : Mem → Mem} (h : MemoriesWf s)
    (hf : ∀ m, m.wf = true → (f m).wf = true := by exact fun _ hm => Mem.wf_writeBytes _ _ _ hm) :
    MemoriesWf (s.updWindow f) := by
  obtain ⟨dram, cellar, window, presses⟩ := h
  exact ⟨dram, cellar, hf _ window, presses⟩

protected theorem MemoriesWf.foldl {α : Type} {f : State → α → State} {l : List α} (h : MemoriesWf s)
    (hf : ∀ s x, MemoriesWf s → MemoriesWf (f s x)) : MemoriesWf (l.foldl f s) := by
  induction l generalizing s with
  | nil => exact h
  | cons x rest ih => exact ih (hf s x h)

theorem MemoriesWf.ite {c : Prop} [Decidable c] {a b : State} (ha : MemoriesWf a) (hb : MemoriesWf b) :
    MemoriesWf (if c then a else b) := by
  split
  · exact ha
  · exact hb

theorem MemoriesWf.iteFst {α : Type} {c : Prop} [Decidable c] {a b : State × α} (ha : MemoriesWf a.1)
    (hb : MemoriesWf b.1) : MemoriesWf (if c then a else b).1 := by
  split
  · exact ha
  · exact hb

theorem memoriesWf_of_fst_eq {α : Type} {p : State × α} {x : α} (e : p = (s, x)) (h : MemoriesWf p.1) : MemoriesWf s := by
  rw [e] at h
  exact h

/-- A run that stops at a fault or goes on with a device of canonical memories. -/
def OkWf (r : Except Stop State) : Prop := ∀ t, r = .ok t → MemoriesWf t

theorem OkWf.error {e : Stop} : OkWf (.error e) := fun _ h => nomatch h

theorem OkWf.ok (h : MemoriesWf s) : OkWf (.ok s) := fun _ e => Except.ok.inj e ▸ h

theorem OkWf.map {α : Type} {r : Except Stop α} {f : α → State} (h : ∀ x, MemoriesWf (f x)) : OkWf (r.map f) := by
  cases r with
  | error e => exact .error
  | ok x => exact .ok (h x)

theorem OkWf.mapState {r : Except Stop State} {f : State → State} (hr : OkWf r)
    (hf : ∀ s, MemoriesWf s → MemoriesWf (f s)) : OkWf (r.map f) := by
  cases r with
  | error e => exact .error
  | ok x => exact .ok (hf x (hr x rfl))

/-- A run of steps, each of which keeps the canonical form, keeps it. -/
protected theorem MemoriesWf.foldStop {α : Type} {f : State → α → Except Stop State} {l : List α} (h : MemoriesWf s)
    (hf : ∀ s x, MemoriesWf s → OkWf (f s x)) : OkWf (foldStop f l s) := by
  induction l generalizing s with
  | nil => exact .ok h
  | cons x rest ih =>
    unfold foldStop
    split
    · exact .error
    · next e => exact ih (hf s x h _ e)

protected theorem MemoriesWf.foldExcept {α : Type} {f : State → α → Except Stop State} {l : List α} (h : MemoriesWf s)
    (hf : ∀ s x, MemoriesWf s → OkWf (f s x)) : OkWf (foldExcept f l s) := by
  induction l generalizing s with
  | nil => exact .ok h
  | cons x rest ih =>
    unfold foldExcept
    split
    · exact .error
    · next e => exact ih (hf s x h _ e)

protected theorem MemoriesWf.runSteps {α : Type} {f : State → α → Except Stop State} {l : List α} (h : MemoriesWf s)
    (hf : ∀ s x, MemoriesWf s → OkWf (f s x)) : MemoriesWf (runSteps f l s).1 := by
  induction l generalizing s with
  | nil => exact h
  | cons x rest ih =>
    unfold runSteps
    split
    · exact h
    · next e => exact ih (hf s x h _ e)

/-- Vine traffic touches no memory. -/
theorem MemoriesWf.vineOnly {t : State} (h : MemoriesWf s) (e : VineOnly s t) : MemoriesWf t := by
  rw [e]
  exact h.frame

protected theorem MemoriesWf.foldState {α : Type} {f : α → State → State} {l : List α} (h : MemoriesWf s)
    (hf : ∀ x s, MemoriesWf s → MemoriesWf (f x s)) : MemoriesWf (foldState f l s) :=
  foldState_keeps MemoriesWf f l hf s h

end

section
variable {s : State}

/-! ### Machine/Ops.lean -/

protected theorem MemoriesWf.updQueue {q : Fin 256} {f : Queue → Queue} (h : MemoriesWf s) :
    MemoriesWf (s.updQueue q f) := h.frame

protected theorem MemoriesWf.updPipe {n : Fin 16} {f : Pipe → Pipe} (h : MemoriesWf s) : MemoriesWf (s.updPipe n f) :=
  h.frame

protected theorem MemoriesWf.updParcel {n : Fin 8} {f : Parcel → Parcel} (h : MemoriesWf s) :
    MemoriesWf (s.updParcel n f) := h.frame

protected theorem MemoriesWf.updEngine {e : Fin 6} {f : Engine → Engine} (h : MemoriesWf s) :
    MemoriesWf (s.updEngine e f) := h.frame

protected theorem MemoriesWf.updLink {i : Fin 4} {f : Link → Link} (h : MemoriesWf s) : MemoriesWf (s.updLink i f) :=
  h.frame

protected theorem MemoriesWf.updPair {p : Fin 8} {f : Pair → Pair} (h : MemoriesWf s) : MemoriesWf (s.updPair p f) :=
  h.frame

protected theorem MemoriesWf.updPage {p : Fin 121} {f : PageRegs → PageRegs} (h : MemoriesWf s) :
    MemoriesWf (s.updPage p f) := h.frame

protected theorem MemoriesWf.updSlot {k : Fin 134} {f : AlarmSlot → AlarmSlot} (h : MemoriesWf s) :
    MemoriesWf (s.updSlot k f) := h.frame

protected theorem MemoriesWf.loseDevices {gone : List Nat} (h : MemoriesWf s) : MemoriesWf (loseDevices gone s) :=
  h.frame

protected theorem MemoriesWf.bump (h : MemoriesWf s) : MemoriesWf s.bump := h.frame

protected theorem MemoriesWf.emit {m : VineMsg} (h : MemoriesWf s) : MemoriesWf (s.emit m) := h.frame

protected theorem MemoriesWf.transmit {i : Fin 4} {body : List Byte} (h : MemoriesWf s) :
    MemoriesWf (transmit i body s) := h.updLink.emit

protected theorem MemoriesWf.pumpLink {n : Nat} {i : Fin 4} (h : MemoriesWf s) : MemoriesWf (pumpLink n i s) :=
  h.vineOnly (pumpLink_vineOnly n i s)

protected theorem MemoriesWf.sendIdle {i : Fin 4} (h : MemoriesWf s) : MemoriesWf (sendIdle i s) :=
  .ite h.bump.transmit h

protected theorem MemoriesWf.queueFlit {i : Fin 4} {body : List Byte} (h : MemoriesWf s) :
    MemoriesWf (queueFlit i body s) := h.updLink.pumpLink

protected theorem MemoriesWf.queueMessage {i : Fin 4} {m : VineMsg} {dest : Nat} (h : MemoriesWf s) :
    MemoriesWf (queueMessage i m dest s) := h.foldState fun _ _ h => h.bump.queueFlit

protected theorem MemoriesWf.send {m : VineMsg} (h : MemoriesWf s) : MemoriesWf (s.send m) :=
  h.vineOnly (send_vineOnly m s)

protected theorem MemoriesWf.sendOn {i : Fin 4} {m : VineMsg} (h : MemoriesWf s) : MemoriesWf (s.sendOn i m) :=
  h.emit.queueMessage

protected theorem MemoriesWf.noteEcho {off len : Nat} {event : Option (BitVec 2)} (h : MemoriesWf s) :
    MemoriesWf (noteEcho off len event s) := .ite h h.frame

protected theorem MemoriesWf.setTimingBroken (h : MemoriesWf s) : MemoriesWf (setTimingBroken s) := h.frame

protected theorem MemoriesWf.nextSeq (h : MemoriesWf s) : MemoriesWf s.nextSeq := h.frame

protected theorem MemoriesWf.bookPut {rec : List Byte} (h : MemoriesWf s) : MemoriesWf (bookPut rec s) :=
  .ite h.frame h.frame

protected theorem MemoriesWf.logEvent {source : Nat} {code : BitVec 16} (h : MemoriesWf s) :
    MemoriesWf (logEvent source code s) := .ite h.frame h.frame

protected theorem MemoriesWf.traceEvent {source : Nat} {code : BitVec 16} (h : MemoriesWf s) :
    MemoriesWf (traceEvent source code s) :=
  .ite h.frame <| .ite h.frame (h.withWindow (Mem.wf_writeBytes _ _ _ h.window_wf))

protected theorem MemoriesWf.raiseKey {k : Nat} {data : Word} (h : MemoriesWf s) : MemoriesWf (raiseKey k data s) :=
  h.updSlot

protected theorem MemoriesWf.raiseWire {w : BitVec 2} (h : MemoriesWf s) : MemoriesWf (raiseWire w s) :=
  .ite h h.frame

protected theorem MemoriesWf.pageError {p : Fin 121} {code : BitVec 16} {info : Word} {addr : Long} {src : Byte}
    (h : MemoriesWf s) : MemoriesWf (pageError p code info addr src s) := h.updPage.logEvent

protected theorem MemoriesWf.errorWire (h : MemoriesWf s) : MemoriesWf (errorWire s) :=
  .ite h <| .ite h.raiseWire <| .ite h h.noteEcho

protected theorem MemoriesWf.hostError {code : BitVec 16} {w : Nat} (h : MemoriesWf s) :
    MemoriesWf (hostError code w s) := h.pageError.frame.errorWire

/-! ### Machine/Operands.lean -/

protected theorem MemoriesWf.writeLoc {l : List Byte} {p : Loc} (h : MemoriesWf s) : MemoriesWf (s.writeLoc l p) := by
  cases p with
  | cask p a => exact h.updPress fun _ hx => ⟨Mem.wf_writeBytes _ _ _ hx.1, hx.2⟩
  | cellar a => exact h.withCellar (Mem.wf_writeBytes _ _ _ h.cellar_wf)
  | staging a => exact h.updWindow
  | dram a => exact h.withDram (Mem.wf_writeBytes _ _ _ h.dram_wf)

protected theorem MemoriesWf.writeLocs {l : List (Loc × List Byte)} (h : MemoriesWf s) :
    MemoriesWf (s.writeLocs l) := by
  induction l generalizing s with
  | nil => exact h
  | cons w rest ih => exact ih h.writeLoc

protected theorem MemoriesWf.putRun {cx : Cx} {o : Operand} {c : Coords} {codes : List Nat} (h : MemoriesWf s) :
    OkWf (putRun s cx o c codes) := .map fun _ => h.writeLocs

/-! ### Machine/Regs.lean -/

protected theorem MemoriesWf.latchHi {p w : Nat} (h : MemoriesWf s) : MemoriesWf (latchHi p w s) := by
  unfold latchHi
  split
  · exact h
  · exact h.frame

/-! ### Machine/Outputs.lean -/

protected theorem MemoriesWf.updObject {handle : Nat} {f : Obj → Obj} (h : MemoriesWf s) :
    MemoriesWf (s.updObject handle f) := by
  unfold State.updObject
  split
  · exact h
  · exact h.frame

protected theorem MemoriesWf.wipeLoc {n : Nat} {p : Loc} (h : MemoriesWf s) : MemoriesWf (s.wipeLoc n p) := by
  cases p with
  | cask p a => exact h.updPress fun _ hx => ⟨Mem.wf_wipe _ _ _ _ hx.1, hx.2⟩
  | cellar a => exact h.withCellar (Mem.wf_wipe _ _ _ _ h.cellar_wf)
  | staging a => exact h.updWindow fun _ hm => Mem.wf_wipe _ _ _ _ hm
  | dram a => exact h.withDram (Mem.wf_wipe _ _ _ _ h.dram_wf)

protected theorem MemoriesWf.wipeRange {cx : Cx} {space : Nat} {press : Fin 16} {a : Int} {n : Nat} (h : MemoriesWf s) :
    MemoriesWf (wipeRange cx space press a n s) := by
  unfold wipeRange
  split
  · exact h
  · exact h.bump.foldState fun _ _ h => h.wipeLoc

protected theorem MemoriesWf.wipeVirtual {fuel va n : Nat} (h : MemoriesWf s) :
    MemoriesWf (wipeVirtual fuel va n s) := by
  induction fuel generalizing va n s with
  | zero => exact h
  | succ fuel ih =>
    unfold wipeVirtual
    split
    · exact h
    · exact ih (.ite (h.withDram (Mem.wf_wipe _ _ _ _ h.dram_wf)) h)

protected theorem MemoriesWf.wipeOutputs {c : Cmd} (h : MemoriesWf s) : MemoriesWf (wipeOutputs c s) := by
  refine h.foldState fun r s h => ?_
  split
  · exact h
  · exact .ite h.wipeVirtual h

protected theorem MemoriesWf.wipePress {p : Fin 16} (h : MemoriesWf s) : MemoriesWf (wipePress p s) :=
  h.bump.updPress fun _ hx => ⟨Mem.wf_wipe _ _ _ _ hx.1, hx.2⟩

protected theorem MemoriesWf.wipeLines {n : Fin 8} {event : Nat} {a : Int} {len : Nat} (h : MemoriesWf s) :
    MemoriesWf (wipeLines n event a len s) :=
  .ite h (h.withCellar (Mem.wf_wipe _ _ _ _ h.cellar_wf))

protected theorem MemoriesWf.wipeOutput {cx : Cx} {o : Operand × Nat} (h : MemoriesWf s) :
    MemoriesWf (wipeOutput cx s o) :=
  h.foldl fun _ _ h => .ite h.bump.wipeLines h.wipeRange

protected theorem MemoriesWf.wipeMoved {q : Fin 256} {c : Cmd} (h : MemoriesWf s) : MemoriesWf (wipeMoved q c s) := by
  have outs : MemoriesWf (((c.dmaOutputs.filter fun o => o.space = 1 || o.space = 3).map
      fun o => (o, fmtBits o.fmt)).foldl (wipeOutput (queueCx s q)) s) := h.foldl fun _ _ h => h.wipeOutput
  exact .ite outs.bump.wipeLines outs

/-! ### Machine/Queues.lean -/

protected theorem MemoriesWf.updCmd {q : Fin 256} {seq : Word} {f : Cmd → Cmd} (h : MemoriesWf s) :
    MemoriesWf (s.updCmd q seq f) := h.updQueue

protected theorem MemoriesWf.takeHolds {l : List ObjRef} (h : MemoriesWf s) : MemoriesWf (takeHolds l s) :=
  h.foldState fun _ _ h => h.updObject

protected theorem MemoriesWf.noteFault {n : Fin 8} {st : Stop} (h : MemoriesWf s) : MemoriesWf (noteFault n st s) :=
  .ite h.frame h

protected theorem MemoriesWf.freePress {p : Fin 16} (h : MemoriesWf s) : MemoriesWf (freePress p s) := h.updPress

protected theorem MemoriesWf.settleTopping {n : Fin 8} (h : MemoriesWf s) : MemoriesWf (settleTopping n s) := by
  refine h.withPresses fun p hx => ?_
  simp only [Machine.settleTopping, State.press, vget_vmap]
  split
  · split
    · split <;> exact hx.frame
    · split <;> exact hx.frame
    · split <;> exact hx.frame
    · exact hx
  · exact hx

protected theorem MemoriesWf.dropJobs {q : Fin 256} {seq : Word} (h : MemoriesWf s) : MemoriesWf (dropJobs q seq s) :=
  h.frame

protected theorem MemoriesWf.takeCore {encode : Bool} (h : MemoriesWf s) : MemoriesWf (takeCore encode s) := by
  unfold takeCore
  split
  · exact h.frame
  · exact h

protected theorem MemoriesWf.assignCores (h : MemoriesWf s) : MemoriesWf (assignCores s) :=
  h.foldState fun _ _ h => h.takeCore

protected theorem MemoriesWf.dropCodec {q : Fin 256} {seq : Word} (h : MemoriesWf s) :
    MemoriesWf (dropCodec q seq s) := h.frame.assignCores

protected theorem MemoriesWf.dropCapture {q : Fin 256} {seq : Word} (h : MemoriesWf s) :
    MemoriesWf (dropCapture q seq s) := h.frame

/-- A command that ends changes its queue alone. -/
theorem MemoriesWf.of_endOne {q : Fin 256} {t : State} (h : MemoriesWf s) (e : endOne s q = some t) : MemoriesWf t := by
  unfold endOne at e
  dsimp only at e
  split at e
  · cases e
  · split at e
    · exact Option.some.inj e ▸ h.updQueue
    · split at e
      · cases e
      · split at e
        · exact Option.some.inj e ▸ h.updQueue
        · split at e
          · exact Option.some.inj e ▸ h.updQueue
          · cases e

protected theorem MemoriesWf.finishResume {qn : Fin 256} (h : MemoriesWf s) : MemoriesWf (finishResume qn s) :=
  .ite h.updQueue h

protected theorem MemoriesWf.sweep {fuel : Nat} {q : Fin 256} (h : MemoriesWf s) : MemoriesWf (sweep fuel q s) := by
  induction fuel generalizing s with
  | zero => exact h.finishResume
  | succ fuel ih =>
    unfold sweep
    split
    · exact h.finishResume
    · next e => exact ih (h.of_endOne e)

protected theorem MemoriesWf.settleHolder {n : Fin 8} (h : MemoriesWf s) : MemoriesWf (settleHolder n s) :=
  .ite h h.updParcel

protected theorem MemoriesWf.sweepQueue {qn : Fin 256} (h : MemoriesWf s) : MemoriesWf (sweepQueue qn s) :=
  h.sweep.settleHolder.settleTopping

protected theorem MemoriesWf.freeSlot {n : Fin 8} {slot : Nat} (h : MemoriesWf s) : MemoriesWf (freeSlot n slot s) :=
  h.updParcel

protected theorem MemoriesWf.releaseSlots {qn : Fin 256} {seq : Word} (h : MemoriesWf s) :
    MemoriesWf (releaseSlots qn seq s) := by
  unfold releaseSlots
  split
  · exact h
  · exact (h.foldState fun _ _ h => h.freeSlot).updCmd

protected theorem MemoriesWf.endCmd {qn : Fin 256} {seq : Word} {status : Byte} {data : Long} (h : MemoriesWf s) :
    MemoriesWf (endCmd qn seq status data s) :=
  .ite h ((MemoriesWf.ite h.releaseSlots.updQueue h.releaseSlots.updCmd).foldState
    fun _ _ h => h.freePress).traceEvent.sweepQueue

protected theorem MemoriesWf.stopPress {p : Fin 16} (h : MemoriesWf s) : MemoriesWf (stopPress p s) :=
  h.bump.updPress fun _ hx => ⟨hx.1, Mem.wf_wipe _ _ _ _ hx.2.1, Mem.wf_wipe _ _ _ _ hx.2.2⟩

protected theorem MemoriesWf.wipeChildren {q : Fin 256} {seq : Word} (h : MemoriesWf s) :
    MemoriesWf (wipeChildren q seq s) := h.foldl fun _ _ h => h.foldl fun _ _ h => h.wipeOutput

protected theorem MemoriesWf.stopProgram {qn : Fin 256} {c : Cmd} (h : MemoriesWf s) :
    MemoriesWf (stopProgram qn c s) :=
  ((h.foldState fun _ _ h => h.stopPress).wipeChildren.dropJobs.wipeOutputs.foldState
    fun _ _ h => h.wipePress).wipeMoved.releaseSlots

protected theorem MemoriesWf.stopBlock {qn : Fin 256} {c : Cmd} (h : MemoriesWf s) : MemoriesWf (stopBlock qn c s) :=
  h.dropJobs.dropCodec.dropCapture.wipeOutputs.foldl fun _ _ h => h.wipeOutput

protected theorem MemoriesWf.killCmd {qn : Fin 256} {seq : Word} {st : Stop} (h : MemoriesWf s) :
    MemoriesWf (killCmd qn seq st s) := by
  unfold killCmd
  split
  · exact h
  · dsimp only
    split
    · exact h.noteFault
    · split
      · exact h.noteFault
      · split
        · exact h.noteFault.stopBlock.endCmd
        · split
          · exact h.noteFault.endCmd
          · exact h.noteFault.stopProgram.updCmd

protected theorem MemoriesWf.noteLastFail {n : Fin 8} {agent : Nat} {c : Cmd} {st : Stop} (h : MemoriesWf s) :
    MemoriesWf (noteLastFail n agent c st s) := .ite h.updEngine <| .ite h.frame h

protected theorem MemoriesWf.killAccess {qn : Fin 256} {seq : Word} {agent : Nat} {st : Stop} (h : MemoriesWf s) :
    MemoriesWf (killAccess qn seq agent st s) := by
  unfold killAccess
  split
  · exact h.killCmd
  · exact (MemoriesWf.ite h.noteLastFail h).killCmd

protected theorem MemoriesWf.preemptKill {qn : Fin 256} {seq : Word} (h : MemoriesWf s) :
    MemoriesWf (preemptKill qn seq s) := by
  unfold preemptKill
  split
  · exact h
  · exact .ite h.stopProgram.updCmd.updParcel h

/-! ### Machine/SafetyUnit.lean -/

protected theorem MemoriesWf.bookEvent {time : Long} {source kind : Nat} {code : BitVec 16} {count : Nat}
    {data : List Byte} (h : MemoriesWf s) :
    MemoriesWf (bookEvent time source kind code count data s) := h.nextSeq.bookPut

protected theorem MemoriesWf.freezeBook {cause : BitVec 2} {key : Byte} (h : MemoriesWf s) :
    MemoriesWf (freezeBook cause key s) := .ite h h.frame

protected theorem MemoriesWf.stopCmd {q : Fin 256} {c : Cmd} (h : MemoriesWf s) : MemoriesWf (stopCmd q c s) := by
  unfold stopCmd
  split
  case h_6 => exact h
  all_goals exact (MemoriesWf.ite h.stopProgram h.dropJobs.dropCodec.dropCapture.wipeOutputs).updCmd

protected theorem MemoriesWf.stopAll (h : MemoriesWf s) : MemoriesWf (stopAll s) :=
  h.foldState fun _ _ h => h.foldState fun _ _ h => h.stopCmd

protected theorem MemoriesWf.enterSafe {cause : Byte} (h : MemoriesWf s) : MemoriesWf (enterSafe cause s) := by
  unfold enterSafe
  extract_lets s1 s2 _ _ s3
  have stopped : MemoriesWf s2 := h.bump.bookEvent.freezeBook.stopAll
  clear_value s2
  have safe : MemoriesWf s3 := stopped.frame
  exact .ite h safe.send

protected theorem MemoriesWf.deliver {k : Fin 134} (h : MemoriesWf s) : MemoriesWf (deliver k s) :=
  .ite h.frame.bookEvent.enterSafe <| .ite h.frame.bookEvent.freezeBook h.frame.bookEvent

protected theorem MemoriesWf.setFailed {p : Fin 16} (h : MemoriesWf s) : MemoriesWf (setFailed p s) :=
  h.frame.foldState fun _ _ h => h.killCmd

protected theorem MemoriesWf.stepKatDue {p : Fin 16} (h : MemoriesWf s) : MemoriesWf (stepKatDue p s) :=
  .ite h.updPress h

protected theorem MemoriesWf.stepKatTestEnd {p : Fin 16} {crc : Word} (h : MemoriesWf s) :
    MemoriesWf (stepKatTestEnd p crc s) := by
  unfold stepKatTestEnd
  split
  · extract_lets s1
    have ended : MemoriesWf s1 := h.updPress
    exact ended.frame
  · exact h

protected theorem MemoriesWf.stepKatCompare {p : Fin 16} (h : MemoriesWf s) : MemoriesWf (stepKatCompare p s) := by
  unfold stepKatCompare
  split
  · exact .ite h.updPress h.updPress.raiseKey.setFailed
  · exact h

protected theorem MemoriesWf.stepKatLate {p : Fin 16} (h : MemoriesWf s) : MemoriesWf (stepKatLate p s) := by
  unfold stepKatLate
  split
  · exact h
  · exact .ite h.raiseKey h

protected theorem MemoriesWf.followUpOne {p : Fin 16} {crc : Word} (h : MemoriesWf s) :
    MemoriesWf (followUpOne p crc s) := by
  unfold followUpOne
  extract_lets s1 _ s2 _ s3
  have signed : MemoriesWf s1 := h.updPress
  have counted : MemoriesWf s2 := signed.frame
  have judged : MemoriesWf s3 := .ite counted.raiseKey counted
  exact .ite judged.setFailed judged

protected theorem MemoriesWf.stepKatFollowUp {primary twin : Fin 16} {crcPrimary crcTwin : Word} (h : MemoriesWf s) :
    MemoriesWf (stepKatFollowUp primary twin crcPrimary crcTwin s) := .ite h.followUpOne.followUpOne h

protected theorem MemoriesWf.ackSlot {k : Fin 134} (h : MemoriesWf s) : MemoriesWf (ackSlot k s) := h.updSlot

protected theorem MemoriesWf.writeSafetyConfig {who : Writer} {kat : Bool} {value : Word} (h : MemoriesWf s) :
    MemoriesWf (writeSafetyConfig who kat value s) := .ite h.pageError <| .ite h.frame h.frame

protected theorem MemoriesWf.writeForce {safe : Bool} {key : Byte} (h : MemoriesWf s) :
    MemoriesWf (writeForce safe key s) := .ite h.enterSafe h

protected theorem MemoriesWf.writeFreeze {who : Writer} {key : Byte} (h : MemoriesWf s) :
    MemoriesWf (writeFreeze who key s) := .ite h.bump.bookEvent.freezeBook h

protected theorem MemoriesWf.writeThaw {key : Byte} (h : MemoriesWf s) : MemoriesWf (writeThaw key s) :=
  .ite h.frame h

protected theorem MemoriesWf.stepLogTake (h : MemoriesWf s) : MemoriesWf (stepLogTake s) := by
  unfold stepLogTake
  split
  · exact h
  · split
    · exact h
    · extract_lets rec32 s1
      have put : MemoriesWf s1 := h.nextSeq.bookPut
      exact .ite (put.withWindow (Mem.wf_writeBytes _ _ _ put.window_wf)) put.frame

protected theorem MemoriesWf.stepAlarmDelivery (h : MemoriesWf s) : MemoriesWf (stepAlarmDelivery s) := by
  unfold stepAlarmDelivery
  split
  · exact h
  · exact h.deliver

protected theorem MemoriesWf.byWriter {who : Writer} {f : State → State} (h : MemoriesWf s) (hf : MemoriesWf (f s)) :
    MemoriesWf (byWriter who f s) := .ite hf h

protected theorem MemoriesWf.stepHartHeartbeat {hart : Fin 4} (h : MemoriesWf s) :
    MemoriesWf (stepHartHeartbeat hart s) := .ite h.frame h

protected theorem MemoriesWf.stepHartWdog {hart : Fin 4} (h : MemoriesWf s) : MemoriesWf (stepHartWdog hart s) :=
  .ite h.raiseKey h

protected theorem MemoriesWf.stepHeartbeat (h : MemoriesWf s) : MemoriesWf (stepHeartbeat s) := .ite h.frame h

/-! ### Machine/Clocks.lean -/

protected theorem MemoriesWf.updPll {p : Fin 9} {f : Pll → Pll} (h : MemoriesWf s) : MemoriesWf (s.updPll p f) :=
  h.frame

protected theorem MemoriesWf.updDom {d : Fin 9} {f : Domain → Domain} (h : MemoriesWf s) : MemoriesWf (s.updDom d f) :=
  h.frame

protected theorem MemoriesWf.updRail {r : Fin 3} {f : AvsRail → AvsRail} (h : MemoriesWf s) :
    MemoriesWf (s.updRail r f) := h.frame

protected theorem MemoriesWf.requestMv {r : Fin 3} {mv : Nat} (h : MemoriesWf s) : MemoriesWf (requestMv r mv s) :=
  h.updRail

protected theorem MemoriesWf.requestArith {mhz : Nat} (h : MemoriesWf s) : MemoriesWf (requestArith mhz s) :=
  h.requestMv

protected theorem MemoriesWf.requestCore (h : MemoriesWf s) : MemoriesWf (requestCore s) := h.requestMv.requestMv

protected theorem MemoriesWf.arith {m : ArithMode} (h : MemoriesWf s) : MemoriesWf (s.arith m) := h.frame

protected theorem MemoriesWf.breakTiming (h : MemoriesWf s) : MemoriesWf (breakTiming s) := .ite h.setTimingBroken h

protected theorem MemoriesWf.startSlew {mhz : Nat} (h : MemoriesWf s) : MemoriesWf (startSlew mhz s) := h.arith

protected theorem MemoriesWf.changeArith {mhz : Nat} (h : MemoriesWf s) : MemoriesWf (changeArith mhz s) :=
  .ite (.ite h.requestArith.arith h.requestArith.startSlew) <| .ite h.startSlew h

protected theorem MemoriesWf.arithIs {mhz : Nat} (h : MemoriesWf s) : MemoriesWf (arithIs mhz s) := h.frame.traceEvent

protected theorem MemoriesWf.toFallback (h : MemoriesWf s) : MemoriesWf (toFallback s) :=
  .ite h.arith.breakTiming <| .ite h.arith.breakTiming.frame h.arith.breakTiming.updDom.arithIs.requestArith

protected theorem MemoriesWf.stopTopping (h : MemoriesWf s) : MemoriesWf (stopTopping s) := by
  refine h.withPresses fun p hx => ?_
  simp only [Machine.stopTopping, State.press, vget_vmap]
  exact hx.frame

protected theorem MemoriesWf.takeAlert (h : MemoriesWf s) : MemoriesWf (takeAlert s) :=
  h.toFallback.stopTopping.frame.logEvent

protected theorem MemoriesWf.beginReturn (h : MemoriesWf s) : MemoriesWf (beginReturn s) := .ite h.arith h

protected theorem MemoriesWf.startDomain {d : Fin 9} (h : MemoriesWf s) : MemoriesWf (startDomain d s) :=
  .ite h.frame.arithIs.requestArith h.updDom

protected theorem MemoriesWf.resumeDomain {p : Fin 9} (h : MemoriesWf s) : MemoriesWf (resumeDomain p s) :=
  .ite (.ite h.startDomain.requestArith h.startDomain.requestCore) h

protected theorem MemoriesWf.setRunEn {d : Fin 9} {on : Bool} (h : MemoriesWf s) : MemoriesWf (setRunEn d on s) :=
  .ite (.ite h.updDom.startDomain h.updDom) <| .ite h.updDom.updDom h.updDom

protected theorem MemoriesWf.setSleepEn {d : Fin 9} {on : Bool} (h : MemoriesWf s) : MemoriesWf (setSleepEn d on s) :=
  .ite h.updDom h

protected theorem MemoriesWf.setDeepEn {who : Writer} {d : Fin 9} {on : Bool} (h : MemoriesWf s) :
    MemoriesWf (setDeepEn who d on s) :=
  .ite h <| .ite (.ite h <| .ite h.updDom.updPll h.pageError) <| .ite h.updDom.updPll h.updDom

protected theorem MemoriesWf.judgeLock {p : Fin 9} (h : MemoriesWf s) : MemoriesWf (judgeLock p s) :=
  .ite h.updPll.resumeDomain h

protected theorem MemoriesWf.programOtp {mem vine : BitVec 12} {key : Byte} (h : MemoriesWf s) :
    MemoriesWf (programOtp mem vine key s) := .ite h.frame h

protected theorem MemoriesWf.applyPll {p : Fin 9} (h : MemoriesWf s) : MemoriesWf (applyPll p s) :=
  .ite h.updPll <| .ite (.ite h.updPll.changeArith h.updPll) <|
    .ite (.ite h.updPll.updDom.updPll.requestCore.updPll h.updPll.updDom.updPll) h.updPll

protected theorem MemoriesWf.stepClockWindow {tenKhz : List Nat} (h : MemoriesWf s) :
    MemoriesWf (stepClockWindow tenKhz s) := h.frame

protected theorem MemoriesWf.assertPins (h : MemoriesWf s) : MemoriesWf (assertPins s) := h.frame

protected theorem MemoriesWf.stepClkDomain {d : Fin 9} (h : MemoriesWf s) : MemoriesWf (stepClkDomain d s) :=
  .ite h <| .ite h.raiseKey.updDom.assertPins h.raiseKey.updDom

protected theorem MemoriesWf.stepRefclkLoss {silentNs : Nat} (h : MemoriesWf s) :
    MemoriesWf (stepRefclkLoss silentNs s) := .ite h h.raiseKey.assertPins

protected theorem MemoriesWf.stepPllLoss {p : Fin 9} (h : MemoriesWf s) : MemoriesWf (stepPllLoss p s) :=
  .ite h.updPll.raiseKey h

protected theorem MemoriesWf.stepAlertAssert (h : MemoriesWf s) : MemoriesWf (stepAlertAssert s) :=
  .ite h <| .ite h.frame.takeAlert h.frame

protected theorem MemoriesWf.stepAlertDeassert (h : MemoriesWf s) : MemoriesWf (stepAlertDeassert s) := .ite h.frame h

protected theorem MemoriesWf.stepAlertHold (h : MemoriesWf s) : MemoriesWf (stepAlertHold s) :=
  .ite h.frame.beginReturn h

protected theorem MemoriesWf.stepReturnSwitch (h : MemoriesWf s) : MemoriesWf (stepReturnSwitch s) := by
  unfold stepReturnSwitch
  split
  · exact .ite (MemoriesWf.ite h.arith.updDom.arithIs h.arith).breakTiming.changeArith <|
    .ite h.arith.updDom.arithIs h.arith
  · exact h

protected theorem MemoriesWf.stepSlewComplete (h : MemoriesWf s) : MemoriesWf (stepSlewComplete s) := by
  unfold stepSlewComplete
  split
  · exact h.arith.arithIs.requestArith
  · exact h

/-! ### Machine/Commit.lean -/

protected theorem MemoriesWf.settleCommit {p : Fin 121} (h : MemoriesWf s) : MemoriesWf (settleCommit p s) :=
  .ite h h.updPage

protected theorem MemoriesWf.rejectCommit {p : Fin 121} {code : BitVec 16} {info : Word} (h : MemoriesWf s) :
    MemoriesWf (rejectCommit p code info s) := h.updPage.pageError

protected theorem MemoriesWf.applyParcel {n : Fin 8} (h : MemoriesWf s) : MemoriesWf (applyParcel n s) := by
  unfold applyParcel
  split
  · exact h
  · split
    · exact h.updParcel.rejectCommit.settleCommit
    · exact h.updParcel.settleCommit

protected theorem MemoriesWf.applyFlimit (h : MemoriesWf s) : MemoriesWf (applyFlimit s) := by
  unfold applyFlimit
  split
  · exact h
  · split
    · exact h
    · exact .ite h.frame.rejectCommit.settleCommit h.frame.settleCommit

/-! ### Machine/Power.lean -/

protected theorem MemoriesWf.stepSupplySample {mv : List Nat} (h : MemoriesWf s) :
    MemoriesWf (stepSupplySample mv s) := h.frame

protected theorem MemoriesWf.stepSupply {rail : Fin 8} (h : MemoriesWf s) : MemoriesWf (stepSupply rail s) := by
  unfold stepSupply
  extract_lets s1
  have raised : MemoriesWf s1 := h.raiseKey
  exact .ite h raised.frame

protected theorem MemoriesWf.stepAvs {r : Fin 3} {slacks : List Nat} (h : MemoriesWf s) :
    MemoriesWf (stepAvs r slacks s) := by
  unfold stepAvs
  split
  · exact h
  · exact .ite h.updRail <| .ite h.updRail.requestMv.raiseKey h.updRail.requestMv

protected theorem MemoriesWf.stepAvsSettled {r : Fin 3} (h : MemoriesWf s) : MemoriesWf (stepAvsSettled r s) := by
  unfold stepAvsSettled
  split
  · split
    · dsimp only
      split
      · exact h.updRail.startSlew
      · exact h.updRail
    · exact .ite h.updRail (h.updRail.foldState fun _ _ h => .ite h.updPll.resumeDomain h)
  · exact h

protected theorem MemoriesWf.stepAvsTimeout {r : Fin 3} (h : MemoriesWf s) : MemoriesWf (stepAvsTimeout r s) := by
  unfold stepAvsTimeout
  split
  · dsimp only
    split
    · split
      · exact (MemoriesWf.ite h.updRail.raiseKey h.updRail).arith
      · exact .ite h.updRail.raiseKey h.updRail
    · exact h
  · dsimp only
    split
    · split
      · exact .ite h.updRail.raiseKey h.updRail
      · exact .ite h.updRail.raiseKey h.updRail
    · exact h

protected theorem MemoriesWf.stepDvfs (h : MemoriesWf s) : MemoriesWf (stepDvfs s) :=
  .ite h.applyFlimit.frame <|
    .ite (.ite h.applyFlimit.frame h.applyFlimit.frame.breakTiming.changeArith) h.applyFlimit

protected theorem MemoriesWf.stepPowerMeasure {mv ma : List Nat} (h : MemoriesWf s) :
    MemoriesWf (stepPowerMeasure mv ma s) := h.frame

protected theorem MemoriesWf.stepCapUnreachable (h : MemoriesWf s) : MemoriesWf (stepCapUnreachable s) :=
  .ite h.frame h

protected theorem MemoriesWf.stepAlertLong (h : MemoriesWf s) : MemoriesWf (stepAlertLong s) := .ite h.raiseKey h

protected theorem MemoriesWf.throttleStep {handle : Int} (h : MemoriesWf s) : MemoriesWf (throttleStep handle s) :=
  .ite (.ite h h.frame) <| .ite h.frame h

protected theorem MemoriesWf.criticalStep {handle : Int} {sensor : Nat} (h : MemoriesWf s) :
    MemoriesWf (criticalStep handle sensor s) :=
  .ite (.ite h h.frame.toFallback.stopTopping.raiseKey) <| .ite h.frame.beginReturn h

protected theorem MemoriesWf.stepThermal {readings : List Int} (h : MemoriesWf s) :
    MemoriesWf (stepThermal readings s) := by
  unfold stepThermal
  extract_lets _ _ _ s1 s2 s3 _
  have logged : MemoriesWf s2 := MemoriesWf.foldState (s := s1) h.frame fun _ _ h => h.logEvent
  have alarmed : MemoriesWf s3 := .ite logged.raiseKey logged
  split
  · exact alarmed
  · exact (MemoriesWf.throttleStep alarmed.frame).criticalStep

protected theorem MemoriesWf.stepVintage {counts : List (Nat × Nat)} (h : MemoriesWf s) :
    MemoriesWf (stepVintage counts s) := h.frame.foldState fun _ _ h => h.logEvent

protected theorem MemoriesWf.stepToppingUp {n : Fin 8} (h : MemoriesWf s) : MemoriesWf (stepToppingUp n s) := by
  refine .ite (h.withPresses fun p hx => ?_) h
  simp only [State.press, vget_vmap]
  split
  · exact hx.frame
  · exact hx

/-! ### Machine/Mail.lean -/

protected theorem MemoriesWf.syncOutWith {p : Fin 8} {event : Option (BitVec 2)} (h : MemoriesWf s) :
    MemoriesWf (syncOutWith p event s) := h.updWindow.noteEcho

protected theorem MemoriesWf.syncOut {p : Fin 8} (h : MemoriesWf s) : MemoriesWf (syncOut p s) := h.syncOutWith

protected theorem MemoriesWf.mailWire {p : Fin 8} (h : MemoriesWf s) : MemoriesWf (mailWire p s) := by
  unfold mailWire
  split
  · exact h.raiseWire
  · exact h

protected theorem MemoriesWf.writeOut {p : Fin 8} {body : List Byte} (h : MemoriesWf s) :
    MemoriesWf (writeOut p body s) := h.updWindow.noteEcho.updPair.syncOutWith.mailWire

protected theorem MemoriesWf.drainOut {fuel : Nat} {p : Fin 8} (h : MemoriesWf s) : MemoriesWf (drainOut fuel p s) := by
  induction fuel generalizing s with
  | zero => exact h
  | succ fuel ih =>
    unfold drainOut
    split
    · exact h
    · exact .ite (ih h.updPair.writeOut) h

protected theorem MemoriesWf.putOut {p : Fin 8} {isEvent : Bool} {body : List Byte} (h : MemoriesWf s) :
    MemoriesWf (putOut p isEvent body s) := h.updPair.drainOut

protected theorem MemoriesWf.fwEvent {typ : Nat} {payload : List Byte} (h : MemoriesWf s) :
    MemoriesWf (fwEvent typ payload s) := .ite h.putOut h.frame.syncOut.logEvent

protected theorem MemoriesWf.sendReply {p : Fin 8} {typ : Nat} {seq : Word} {result : Nat} {fields : List Byte}
    (h : MemoriesWf s) : MemoriesWf (sendReply p typ seq result fields s) := (MemoriesWf.ite h h.frame).putOut

protected theorem MemoriesWf.takeRequest {p : Fin 8} (h : MemoriesWf s) : MemoriesWf (takeRequest p s) :=
  h.updPair.syncOut

protected theorem MemoriesWf.refuseBad {fuel : Nat} {p : Fin 8} (h : MemoriesWf s) :
    MemoriesWf (refuseBad fuel p s) := by
  induction fuel generalizing s with
  | zero => exact h
  | succ fuel ih =>
    unfold refuseBad
    split
    · exact h
    · exact .ite h (ih h.takeRequest.sendReply)

/-- A request that is served: what `act` does keeps the canonical form, and so do the mailboxes. -/
protected theorem MemoriesWf.serve {typ : Nat} {p : Fin 8} {act : List Byte → State → State × Option (Nat × List Byte)}
    (h : MemoriesWf s) (hact : ∀ b s, MemoriesWf s → MemoriesWf (act b s).1) : MemoriesWf (serve typ p act s) := by
  unfold serve
  split
  · exact h
  · split
    · dsimp only
      split
      · exact hact _ _ h.takeRequest
      · exact (hact _ _ h.takeRequest).sendReply.refuseBad
    · exact h

protected theorem MemoriesWf.serveAwake {typ : Nat} {p : Fin 8} {work : List Byte → State → List (Fin 9)}
    {act : List Byte → State → State × Option (Nat × List Byte)} (h : MemoriesWf s)
    (hact : ∀ b s, MemoriesWf s → MemoriesWf (act b s).1) : MemoriesWf (serveAwake typ p work act s) := by
  unfold serveAwake
  split
  · exact h
  · exact .ite (h.serve hact) (h.foldState fun _ _ h => h.setDeepEn)

protected theorem MemoriesWf.finishJob {p : Fin 8} {typ : Nat} {seq : Word} {code : Nat} {fields : List Byte}
    (h : MemoriesWf s) : MemoriesWf (finishJob p typ seq code fields s) := h.updPair.sendReply.refuseBad

protected theorem MemoriesWf.acceptInTail {p : Fin 8} {t : Word} (h : MemoriesWf s) :
    MemoriesWf (acceptInTail p t s) := .ite h <| .ite h.updPair h.pageError

protected theorem MemoriesWf.acceptOutConsumed {p : Fin 8} {c : Word} (h : MemoriesWf s) :
    MemoriesWf (acceptOutConsumed p c s) := .ite h.updPair.drainOut h.pageError

protected theorem MemoriesWf.stepMailboxWord {p : Fin 8} (h : MemoriesWf s) : MemoriesWf (stepMailboxWord p s) := by
  unfold stepMailboxWord
  split
  · split
    · exact h.frame.acceptInTail.acceptOutConsumed.refuseBad
    · exact h
  · exact h

protected theorem MemoriesWf.commitFmax {mhz : BitVec 9} (h : MemoriesWf s) : MemoriesWf (commitFmax mhz s) :=
  h.frame.updPage

protected theorem MemoriesWf.stepGuardUpdate (h : MemoriesWf s) : MemoriesWf (stepGuardUpdate s) :=
  .ite h (MemoriesWf.ite (.ite h.frame.frame.frame h.frame.frame.commitFmax) h.frame.frame).fwEvent

/-! ### Machine/Boot.lean -/

/-- A device reset leaves nothing listed and everything free. -/
theorem memoriesWf_loseMemories (e : Nat) (s : State) : MemoriesWf (loseMemories e s) := by
  refine ⟨Mem.wf_free _, Mem.wf_free _, Mem.wf_free _, fun p => ?_⟩
  simp only [loseMemories, State.press, vget_vmap]
  exact ⟨Mem.wf_free _, Mem.wf_free _, Mem.wf_free _⟩

theorem memoriesWf_resetDevice (rec : BootRecord) (straps : Straps) (s : State) :
    MemoriesWf (resetDevice rec straps s) :=
  memoriesWf_loseMemories _ _

protected theorem MemoriesWf.haltBoot (h : MemoriesWf s) : MemoriesWf (haltBoot s) := h.frame

protected theorem MemoriesWf.deviceReset {cause : BitVec 4} {straps : Straps} (h : MemoriesWf s) :
    MemoriesWf (deviceReset cause straps s) := by
  unfold deviceReset
  split
  · exact h
  · have reset := memoriesWf_resetDevice (recordAfterReset cause s).1 straps s
    exact .ite reset.haltBoot reset

/-- At power-on every memory is empty. -/
theorem memoriesWf_reset : MemoriesWf State.reset := by
  refine ⟨Mem.wf_empty, Mem.wf_empty, Mem.wf_empty, fun p => ?_⟩
  simp only [State.reset, State.press, vget_replicate]
  exact ⟨Mem.wf_empty, Mem.wf_empty, Mem.wf_empty⟩

theorem memoriesWf_powerOn (straps : Straps) (s : State) : MemoriesWf (powerOn straps s) := memoriesWf_reset.frame

protected theorem MemoriesWf.stepBootWatchdog {straps : Straps} (h : MemoriesWf s) :
    MemoriesWf (stepBootWatchdog straps s) := .ite h h.frame.deviceReset

protected theorem MemoriesWf.writeReset {who : Writer} {dev : Bool} {key : Byte} {straps : Straps} (h : MemoriesWf s) :
    MemoriesWf (writeReset who dev key straps s) := .ite h.deviceReset h

protected theorem MemoriesWf.updBoot {f : Boot → Boot} (h : MemoriesWf s) : MemoriesWf (s.updBoot f) := h.frame

protected theorem MemoriesWf.updRecord {f : BootRecord → BootRecord} (h : MemoriesWf s) : MemoriesWf (s.updRecord f) :=
  h.frame

protected theorem MemoriesWf.bootStep {n : Nat} {f : State → State} (h : MemoriesWf s)
    (hf : ∀ s, MemoriesWf s → MemoriesWf (f s)) : MemoriesWf (bootStep n f s) := .ite h (hf _ h.updRecord)

protected theorem MemoriesWf.passTo {n : Nat} (h : MemoriesWf s) : MemoriesWf (passTo n s) := h.updBoot

protected theorem MemoriesWf.failStep {step again : Nat} {cause : BitVec 4} (h : MemoriesWf s) :
    MemoriesWf (failStep step again cause s) := by
  unfold failStep
  dsimp only
  split
  · exact h.frame.haltBoot
  · exact h.frame.passTo

protected theorem MemoriesWf.measureDigest {d : List Byte} (h : MemoriesWf s) : MemoriesWf (measureDigest d s) :=
  h.updBoot

protected theorem MemoriesWf.romStartBody {checksumOk : Bool} (h : MemoriesWf s) :
    MemoriesWf (romStartBody checksumOk s) :=
  .ite h.bump.bookEvent.failStep h.bump.bookEvent.updBoot.measureDigest.passTo

protected theorem MemoriesWf.clocksBody (h : MemoriesWf s) : MemoriesWf (clocksBody s) := by
  unfold clocksBody
  extract_lets _ _ s1 s2 _ s3
  have requested : MemoriesWf s2 := (MemoriesWf.frame (t := s1) h).requestCore.requestArith
  have locked : MemoriesWf s3 := requested.frame
  exact (MemoriesWf.ite locked.takeAlert locked).passTo

protected theorem MemoriesWf.hostPortBody (h : MemoriesWf s) : MemoriesWf (hostPortBody s) := h.updDom.updBoot.passTo

protected theorem MemoriesWf.takeImage {src : Nat} {config image : List Byte} {slot trial : Bool} (h : MemoriesWf s) :
    MemoriesWf (takeImage src config image slot trial s) :=
  (MemoriesWf.ite h.updBoot.updRecord h.updBoot.updRecord.pageError).passTo

protected theorem MemoriesWf.sourceLoop {relay : Option Relay} {fuel : Nat} (h : MemoriesWf s) :
    MemoriesWf (sourceLoop relay fuel s) := by
  induction fuel generalizing s with
  | zero => exact h
  | succ fuel ih =>
    unfold sourceLoop
    dsimp only
    split
    · exact h
    · split
      · split
        · exact h
        · exact h.takeImage
      · split
        · exact h
        · split
          · exact ih h.failStep
          · exact (MemoriesWf.ite h.updBoot h).takeImage

protected theorem MemoriesWf.checkRegions (h : MemoriesWf s) : MemoriesWf (checkRegions s) := by
  unfold checkRegions
  split
  · exact h.failStep
  · exact h.updBoot.passTo

protected theorem MemoriesWf.entryBody (h : MemoriesWf s) : MemoriesWf (entryBody s) := by
  unfold entryBody
  extract_lets s1 _ _ s2
  have measured : MemoriesWf s1 := h.measureDigest.measureDigest
  have released : MemoriesWf s2 := measured.frame
  exact released.updBoot.passTo

protected theorem MemoriesWf.lpddr6Body {pass : Bool} {channelGiB : List Nat} {twoRanks : Bool} {values : List Byte}
    (h : MemoriesWf s) : MemoriesWf (lpddr6Body pass channelGiB twoRanks values s) := by
  unfold lpddr6Body
  split
  · exact h.failStep
  · exact .ite h.failStep h.frame.updPll.updDom.passTo

protected theorem MemoriesWf.memoryBody (h : MemoriesWf s) : MemoriesWf (memoryBody s) := h.frame.passTo

protected theorem MemoriesWf.safetyBody {pass : Bool} (h : MemoriesWf s) : MemoriesWf (safetyBody pass s) :=
  .ite h.frame.passTo h.failStep

protected theorem MemoriesWf.vineBody {peers : List (Option Peer)} (h : MemoriesWf s) :
    MemoriesWf (vineBody peers s) := .ite h.frame.passTo h.frame.passTo

protected theorem MemoriesWf.readyBody (h : MemoriesWf s) : MemoriesWf (readyBody s) :=
  (h.updRecord.foldState fun _ _ h => h.syncOut).updBoot.passTo

protected theorem MemoriesWf.slotConfirmBody (h : MemoriesWf s) : MemoriesWf (slotConfirmBody s) :=
  .ite h.passTo h.frame.passTo

protected theorem MemoriesWf.writeHostImage {len : BitVec 21} (h : MemoriesWf s) : MemoriesWf (writeHostImage len s) :=
  .ite h.updBoot <| .ite (h.updBoot.bootStep fun _ h => h.sourceLoop) h.updBoot

protected theorem MemoriesWf.stepImageRequest (h : MemoriesWf s) : MemoriesWf (stepImageRequest s) :=
  .ite h.sendOn.updBoot h

protected theorem MemoriesWf.noteReset {link : Fin 4} (h : MemoriesWf s) : MemoriesWf (noteReset link s) :=
  .ite h.loseDevices h

protected theorem MemoriesWf.stepBootService {link : Fin 4} (h : MemoriesWf s) :
    MemoriesWf (stepBootService link s) := by
  unfold stepBootService
  dsimp only
  split
  · split
    · exact h.noteReset.sendOn
    · exact h.noteReset.sendOn
  · exact h.noteReset

protected theorem MemoriesWf.startNor {job : NorJob} (h : MemoriesWf s) : MemoriesWf (startNor job s) := by
  unfold startNor
  split
  · exact h.updBoot
  · split
    · exact h.updBoot
    · exact h.updBoot

protected theorem MemoriesWf.updNor {x : Fin 2} {f : NorSlot → NorSlot} (h : MemoriesWf s) :
    MemoriesWf (s.updNor x f) := h.frame

protected theorem MemoriesWf.norAction {job : NorJob} (h : MemoriesWf s) : MemoriesWf (norAction s job).1 := by
  cases job with
  | erase x => exact h.updNor
  | write x src len => exact h.updNor
  | verify x =>
    unfold norAction
    dsimp only
    split
    · exact h.updNor
    · exact h
  | activate x =>
    have activated : MemoriesWf (s.updNor x fun y => { y with state := norWord 3 }) := h.updNor
    exact activated.frame

protected theorem MemoriesWf.norTorn {job : NorJob} (h : MemoriesWf s) : MemoriesWf (norTorn s job) := by
  cases job <;> exact h.bump.updNor

protected theorem MemoriesWf.stepNorComplete {deviceOk : Bool} (h : MemoriesWf s) :
    MemoriesWf (stepNorComplete deviceOk s) := by
  unfold stepNorComplete
  split
  · exact h
  · split
    · exact h
    · refine MemoriesWf.updBoot ?_
      split
      · exact h
      · split
        · exact h.norAction
        · exact h.norTorn

/-! ### Machine/Compress.lean -/

protected theorem MemoriesWf.writeBlockCodes {cx : Cx} {o : Operand} {c : Coords} {planes : List (List Int)}
    (h : MemoriesWf s) : OkWf (writeBlockCodes s cx o c planes) :=
  h.foldStop fun _ _ h => h.foldStop fun _ _ h => .map fun _ => h.writeLocs

protected theorem MemoriesWf.moveBlock {cx : Cx} {src dst : Operand} {two pack : Bool} {cs cd : Coords}
    (h : MemoriesWf s) : OkWf (moveBlock cx src dst two pack cs cd s) := by
  unfold moveBlock
  split
  · split
    · exact .error
    · dsimp only
      split
      · exact .ok h
      · exact .map fun _ => h.writeLocs
  · split
    · exact h.writeBlockCodes
    · split
      · exact .error
      · exact h.writeBlockCodes

protected theorem MemoriesWf.workLane {lane : Fin 4} {cycles : Nat} (h : MemoriesWf s) :
    MemoriesWf (workLane lane cycles s) := h.frame.updEngine

protected theorem MemoriesWf.takeLane {lane : Fin 4} (h : MemoriesWf s) : MemoriesWf (takeLane lane s) :=
  h.frame.updEngine.workLane

protected theorem MemoriesWf.countBlock {lane : Fin 4} (h : MemoriesWf s) : MemoriesWf (countBlock lane s) :=
  h.workLane.updEngine

protected theorem MemoriesWf.dmaIteration {cx : Cx} {lane : Fin 4} {src dst : Operand} {rows : Nat} {cs cd : Coords}
    (h : MemoriesWf s) : MemoriesWf (dmaIteration cx lane src dst rows cs cd s).1 := by
  unfold dmaIteration
  split
  · refine h.runSteps fun s r h => ?_
    split
    · exact .error
    · exact h.putRun
  · exact h.runSteps fun _ _ h => h.moveBlock.mapState fun _ h => h.countBlock

protected theorem MemoriesWf.copyView {cx : Cx} {lane : Fin 4} {src dst : Operand} (h : MemoriesWf s) :
    MemoriesWf (copyView cx lane src dst s).1 := by
  unfold copyView
  split
  · refine h.runSteps fun s c h => ?_
    split
    · exact .error
    · exact .map fun _ => h.writeLocs
  · exact h.takeLane.runSteps fun _ _ h => h.moveBlock.mapState fun _ h => h.countBlock

/-! ### Machine/Health.lean -/

protected theorem MemoriesWf.poisonAll {hs : List Nat} (h : MemoriesWf s) : MemoriesWf (poisonAll hs s) :=
  h.foldState fun _ _ h => h.updObject

protected theorem MemoriesWf.reportRetired {fuel ppn : Nat} {vpn : Option Nat} {parcel : Option (Fin 8)} {kind : Nat}
    {hs : List Nat} (h : MemoriesWf s) : MemoriesWf (reportRetired fuel ppn vpn parcel kind hs s) := by
  induction fuel generalizing hs s with
  | zero => exact h
  | succ fuel ih => exact .ite h.fwEvent (ih h.fwEvent)

protected theorem MemoriesWf.sendRetired {ppn : Nat} {vpn : Option Nat} {parcel : Option (Fin 8)} {kind : Nat}
    {hs : List Nat} (h : MemoriesWf s) :
    MemoriesWf (sendRetired ppn vpn parcel kind hs s) := h.reportRetired

protected theorem MemoriesWf.noteRetired {ppn : Nat} (h : MemoriesWf s) : MemoriesWf (noteRetired ppn s) :=
  .ite h.frame.frame h.frame.logEvent

protected theorem MemoriesWf.retireInPlace {ppn vpn : Nat} {e : TtEntry} (h : MemoriesWf s) :
    MemoriesWf (retireInPlace ppn vpn e s) := h.frame.poisonAll.sendRetired

protected theorem MemoriesWf.retirePage {ppn : Nat} (h : MemoriesWf s) : MemoriesWf (retirePage ppn s) := by
  unfold retirePage
  split
  · exact h
  · split
    · exact h.noteRetired.frame.sendRetired
    · exact .ite h.noteRetired h.noteRetired.retireInPlace

protected theorem MemoriesWf.noteCorrection {block : Nat} (h : MemoriesWf s) : MemoriesWf (noteCorrection block s) :=
  .ite h <| .ite h.frame.retirePage h.frame

protected theorem MemoriesWf.noteUncorrectable {block : Nat} (h : MemoriesWf s) :
    MemoriesWf (noteUncorrectable block s) := .ite h.frame.frame.raiseKey h.frame.frame.raiseKey.retirePage

protected theorem MemoriesWf.correctCask {p : Fin 16} (h : MemoriesWf s) : MemoriesWf (correctCask p s) := h.updPress

protected theorem MemoriesWf.correctCellar {n : Nat} (h : MemoriesWf s) : MemoriesWf (correctCellar n s) := h.frame

protected theorem MemoriesWf.noteHealth {health : ReadHealth} (h : MemoriesWf s) : MemoriesWf (noteHealth health s) :=
  ((h.frame.foldState fun _ _ h => h.noteCorrection).foldState fun _ _ h => h.correctCask).correctCellar

/-! ### Machine/EngineServe.lean -/

protected theorem MemoriesWf.engineFail {e : Fin 6} {j : EngineJob} {st : Stop} (h : MemoriesWf s) :
    MemoriesWf (engineFail e j st s) := (h.foldl fun _ _ h => h.wipeOutput).updEngine.killCmd

protected theorem MemoriesWf.engineMismatch {e : Fin 6} {j : EngineJob} (h : MemoriesWf s) :
    MemoriesWf (engineMismatch e j s) := h.updEngine.raiseKey.engineFail

protected theorem MemoriesWf.engineDone {e : Fin 6} {j : EngineJob} (h : MemoriesWf s) :
    MemoriesWf (engineDone e j s) := by
  unfold engineDone
  split
  · exact h.updEngine
  · exact h.updCmd

protected theorem MemoriesWf.serveEngine {e : Fin 6} {mismatch : Bool} {run : EngineJob → State → EngineRun}
    {cycles : EngineJob → State → Nat} (h : MemoriesWf s) : MemoriesWf (serveEngine e mismatch run cycles s) := by
  unfold serveEngine
  split
  · exact h
  · split
    · exact h
    · next j _ =>
      dsimp only
      generalize (if j.twinned then 2 else 1) = times
      split
      · exact .ite h h.updEngine.writeLocs.updEngine.engineFail
      · exact .ite h.updEngine.writeLocs.updEngine.engineMismatch h.updEngine.writeLocs.updEngine.updEngine.engineDone

/-! ### Machine/Camera.lean -/

protected theorem MemoriesWf.pipeApply {n : Fin 16} (h : MemoriesWf s) : MemoriesWf (pipeApply n s) := by
  unfold pipeApply
  split
  · exact h
  · split
    · exact h
    · split
      · exact h.updPipe.rejectCommit.settleCommit
      · exact h.updPipe.settleCommit

protected theorem MemoriesWf.updFrame {n : Fin 16} {key : Nat} {f : OpenFrame → OpenFrame} (h : MemoriesWf s) :
    MemoriesWf (updFrame n key f s) := h.updPipe

protected theorem MemoriesWf.formRow {n : Fin 16} {key : Nat} {y : Nat} (h : MemoriesWf s) :
    MemoriesWf (formRow n key y s) := by
  unfold formRow
  split
  · exact h
  · split
    · exact h.updFrame
    · split
      · exact h.updFrame
      · split
        · exact h.updFrame
        · dsimp only
          split
          · exact h.updFrame.writeLocs
          · exact h.updFrame.writeLocs.killCmd

protected theorem MemoriesWf.finishFrame {n : Fin 16} {key : Nat} (h : MemoriesWf s) :
    MemoriesWf (finishFrame n key s) := by
  unfold finishFrame
  split
  · exact h
  · split
    · exact h.updPipe
    · split
      · exact h.updPipe
      · split
        · exact h.killCmd.updPipe
        · exact h.writeLocs.updPipe.updCmd

protected theorem MemoriesWf.advanceFrame {n : Fin 16} {upTo : Nat} {key : Nat} (h : MemoriesWf s) :
    MemoriesWf (advanceFrame n upTo key s) := by
  unfold advanceFrame
  split
  · exact h
  · exact .ite (h.foldState fun _ _ h => h.formRow).finishFrame (h.foldState fun _ _ h => h.formRow)

protected theorem MemoriesWf.advanceAll {n : Fin 16} {upTo : Nat} (h : MemoriesWf s) :
    MemoriesWf (advanceAll n upTo s) := h.foldState fun _ _ h => h.advanceFrame

protected theorem MemoriesWf.endFrames {n : Fin 16} {more : OpenFrame → OpenFrame} (h : MemoriesWf s) :
    MemoriesWf (endFrames n more s) := h.updPipe.advanceAll

protected theorem MemoriesWf.openFrame {n : Fin 16} {key index : Nat} {frameNo : BitVec 16} (h : MemoriesWf s) :
    MemoriesWf (openFrame n key index frameNo s) := by
  unfold openFrame
  dsimp only
  split
  · exact h.updPipe
  · exact h.updPipe

protected theorem MemoriesWf.countCorrected {n : Fin 16} {corrected : Bool} (h : MemoriesWf s) :
    MemoriesWf (countCorrected n corrected s) := .ite h h.updPipe

protected theorem MemoriesWf.otherPacket {n : Fin 16} {corrected : Bool} (h : MemoriesWf s) :
    MemoriesWf (otherPacket n corrected s) := h.updPipe.countCorrected

protected theorem MemoriesWf.stepFrameStart {n : Fin 16} {vc : BitVec 4} {frame : BitVec 16} {corrected : Bool}
    (h : MemoriesWf s) : MemoriesWf (stepFrameStart n vc frame corrected s) :=
  .ite h.otherPacket <|
    .ite h.endFrames.pipeApply.otherPacket h.endFrames.pipeApply.updPipe.openFrame.countCorrected

protected theorem MemoriesWf.stepFrameEnd {n : Fin 16} {vc : BitVec 4} {corrected : Bool} (h : MemoriesWf s) :
    MemoriesWf (stepFrameEnd n vc corrected s) := .ite h.otherPacket h.countCorrected.endFrames.updPipe

protected theorem MemoriesWf.countChecks {n : Fin 16} {pkt : LongPacket} (h : MemoriesWf s) :
    MemoriesWf (countChecks n pkt s) := h.updPipe.countCorrected

protected theorem MemoriesWf.areaLine {n : Fin 16} {pkt : LongPacket} (h : MemoriesWf s) :
    MemoriesWf (areaLine n pkt s) := by
  unfold areaLine
  dsimp only
  generalize (if pkt.crcOk then 0 else 1) = bad
  split
  · exact h.countChecks
  · exact .ite h.countChecks.updFrame h.countChecks.updPipe.updFrame.advanceAll

protected theorem MemoriesWf.stripBoundary {n : Fin 16} (h : MemoriesWf s) : MemoriesWf (stripBoundary n s) :=
  .ite h.pipeApply h

protected theorem MemoriesWf.stripLine {n : Fin 16} {pkt : LongPacket} (h : MemoriesWf s) :
    MemoriesWf (stripLine n pkt s) := (MemoriesWf.ite h.openFrame h).countChecks.updPipe.advanceAll

protected theorem MemoriesWf.stepLinePacket {n : Fin 16} {pkt : LongPacket} (h : MemoriesWf s) :
    MemoriesWf (stepLinePacket n pkt s) :=
  .ite h.otherPacket <| .ite h.areaLine <|
    .ite (MemoriesWf.ite h.stripBoundary h).stripLine (MemoriesWf.ite h.stripBoundary h).areaLine

protected theorem MemoriesWf.stepOtherPacket {n : Fin 16} {kind : OtherPacket} (h : MemoriesWf s) :
    MemoriesWf (stepOtherPacket n kind s) := by
  unfold stepOtherPacket
  split
  · exact h.stepLinePacket
  · exact .ite h.countCorrected h.otherPacket
  · exact h.updPipe

protected theorem MemoriesWf.stepFrameTimeout {n : Fin 16} (h : MemoriesWf s) : MemoriesWf (stepFrameTimeout n s) :=
  .ite h <| .ite h.endFrames.updPipe.updPipe h.endFrames.updPipe

protected theorem MemoriesWf.stepCaptureTimeout {n : Fin 16} (h : MemoriesWf s) :
    MemoriesWf (stepCaptureTimeout n s) := by
  unfold stepCaptureTimeout
  split
  · exact h
  · split
    · exact h
    · exact h.updPipe.endCmd

/-! ### Machine/CodecUnit.lean -/

protected theorem MemoriesWf.codecFail {q : Fin 256} {seq : Word} {stream : Nat} {e : Stop} (h : MemoriesWf s) :
    MemoriesWf (codecFail q seq stream e s) := h.frame.killCmd

protected theorem MemoriesWf.codecDone {f : Nat} {q : Fin 256} {seq : Word} {o : CodecOut} (h : MemoriesWf s) :
    MemoriesWf (codecDone f q seq o s) := h.frame.dropCodec.updCmd

protected theorem MemoriesWf.runCodec {f : Nat} {q : Fin 256} {seq cycles : Word} (h : MemoriesWf s) :
    MemoriesWf (runCodec f q seq cycles s) := by
  unfold runCodec
  split
  · exact h
  · split
    · exact h
    · dsimp only
      split
      · exact h.codecFail
      · split
        · exact .ite h h.codecFail
        · exact h.writeLocs.codecDone

/-! ### Machine/Intake.lean -/

protected theorem MemoriesWf.soilWorking {cx : Cx} {working : Operand} {o : SampleOut} (h : MemoriesWf s) :
    MemoriesWf (soilWorking cx working o s) := .ite h.wipeRange h

protected theorem MemoriesWf.intakeSample {cx : Cx} {ops : List Operand} {l mesh : List Byte} {i : Nat}
    {acc : State × IntakeRun} (h : MemoriesWf acc.1) : MemoriesWf (intakeSample cx ops l mesh i acc).1 := by
  unfold intakeSample
  dsimp only
  split
  · exact h
  · split
    · exact h
    · split
      · exact h
      · split
        · exact h.writeLocs.soilWorking.writeLocs
        · split
          · exact h.writeLocs.soilWorking.writeLocs
          · exact h.writeLocs.soilWorking.writeLocs.writeLocs

protected theorem MemoriesWf.intakeSamples {cx : Cx} {ops : List Operand} {l mesh : List Byte} {is : List Nat}
    {acc : State × IntakeRun} (h : MemoriesWf acc.1) : MemoriesWf (intakeSamples cx ops l mesh is acc).1 := by
  induction is generalizing acc with
  | nil => exact h
  | cons i rest ih =>
    have sample := h.intakeSample (cx := cx) (ops := ops) (l := l) (mesh := mesh) (i := i)
    unfold intakeSamples
    split
    · next e => exact memoriesWf_of_fst_eq e sample
    · next e => exact ih (memoriesWf_of_fst_eq e sample)

protected theorem MemoriesWf.intakeBatch {cx : Cx} {ops : List Operand} {l : List Byte} (h : MemoriesWf s) :
    MemoriesWf (intakeBatch cx ops l s).1 := by
  unfold intakeBatch
  dsimp only
  split
  · split
    · exact h
    · exact MemoriesWf.intakeSamples h
  · exact MemoriesWf.intakeSamples h

protected theorem MemoriesWf.intakeDone {j : EngineJob} {statuses : List Nat} (h : MemoriesWf s) :
    MemoriesWf (intakeDone j statuses s) := by
  unfold intakeDone
  split
  · exact h.engineDone
  · exact h.updCmd

protected theorem MemoriesWf.stepIntake {mismatch : Bool} (h : MemoriesWf s) : MemoriesWf (stepIntake mismatch s) := by
  unfold stepIntake
  split
  · exact h
  · split
    · exact h
    · next j _ =>
      dsimp only
      generalize (if j.twinned then 2 else 1) = times
      split
      · exact .ite h h.updEngine.intakeBatch.frame.engineFail
      · exact .ite h.updEngine.intakeBatch.frame.engineMismatch h.updEngine.intakeBatch.frame.intakeDone

/-! ### Machine/FrontEnd.lean -/

protected theorem MemoriesWf.queueError {q : Fin 256} {code : BitVec 16} (h : MemoriesWf s) :
    MemoriesWf (queueError q code s) := h.pageError

protected theorem MemoriesWf.acceptTail {q : Fin 256} {t : Word} (h : MemoriesWf s) : MemoriesWf (acceptTail q t s) :=
  .ite h <| .ite h.updQueue h.queueError

protected theorem MemoriesWf.acceptConsumed {q : Fin 256} {c : Word} (h : MemoriesWf s) :
    MemoriesWf (acceptConsumed q c s) := .ite h.updQueue h.queueError

protected theorem MemoriesWf.takeSubmit {q : Fin 256} {word : Long} (h : MemoriesWf s) :
    MemoriesWf (takeSubmit q word s) := .ite h.queueError h.acceptTail.acceptConsumed

protected theorem MemoriesWf.joinCheck (h : MemoriesWf s) : MemoriesWf (joinCheck s) := by
  unfold joinCheck
  split
  · exact h
  · split
    · exact h
    · exact h.frame

protected theorem MemoriesWf.fillChecks (h : MemoriesWf s) : MemoriesWf (fillChecks s) :=
  h.frame.joinCheck.joinCheck.joinCheck.joinCheck

protected theorem MemoriesWf.stepSubmitWord {q : Fin 256} (h : MemoriesWf s) : MemoriesWf (stepSubmitWord q s) := by
  unfold stepSubmitWord
  split
  · exact h
  · split
    · exact h.frame.takeSubmit.fillChecks
    · exact h

protected theorem MemoriesWf.takeSubmits {fuel : Nat} {q : Fin 256} (h : MemoriesWf s) :
    MemoriesWf (takeSubmits fuel q s) := by
  induction fuel generalizing s with
  | zero => exact h
  | succ fuel ih => exact .ite (ih h.stepSubmitWord) h

protected theorem MemoriesWf.pumpNotices (h : MemoriesWf s) : MemoriesWf (pumpNotices s) :=
  h.frame.foldState fun _ _ h => h.send

protected theorem MemoriesWf.forwardFlit {dev : Fin 64} (h : MemoriesWf s) : MemoriesWf (forwardFlit dev s) :=
  h.frame.send

protected theorem MemoriesWf.pumpForwards {fuel : Nat} (h : MemoriesWf s) : MemoriesWf (pumpForwards fuel s) := by
  induction fuel generalizing s with
  | zero => exact h
  | succ fuel ih =>
    unfold pumpForwards
    split
    · exact h
    · exact ih h.forwardFlit

protected theorem MemoriesWf.pumpForward (h : MemoriesWf s) : MemoriesWf (pumpForward s) := h.pumpForwards.pumpNotices

protected theorem MemoriesWf.placeDescriptor {q : Fin 256} {desc : List Byte} (h : MemoriesWf s) :
    MemoriesWf (placeDescriptor q desc s) := by
  refine MemoriesWf.takeSubmit (h.updWindow fun m hm => ?_)
  exact Mem.wf_writeNat _ _ _ _ (Mem.wf_writeBytes _ _ _ hm)

protected theorem MemoriesWf.forwardDescriptor {dev : Fin 64} {q : Fin 256} {desc : List Byte} (h : MemoriesWf s) :
    MemoriesWf (forwardDescriptor dev q desc s) := h.frame

protected theorem MemoriesWf.placeTurn {t : MuxTurn} (h : MemoriesWf s) : MemoriesWf (placeTurn t s) :=
  .ite h.placeDescriptor h.forwardDescriptor.pumpForward

protected theorem MemoriesWf.settleMux {fuel : Nat} (h : MemoriesWf s) : MemoriesWf (settleMux fuel s) := by
  induction fuel generalizing s with
  | zero => exact h
  | succ fuel ih =>
    unfold settleMux
    split
    · exact h
    · exact ih h.frame.placeTurn.finishJob

protected theorem MemoriesWf.closeStream {stream : Nat} (h : MemoriesWf s) : MemoriesWf (closeStream stream s) :=
  h.frame

protected theorem MemoriesWf.settlePair {p : Fin 8} (h : MemoriesWf s) : MemoriesWf (settlePair p s) := by
  unfold settlePair
  split
  · exact .ite h h.closeStream.finishJob
  · exact .ite h h.finishJob
  · exact h

protected theorem MemoriesWf.settleJobs (h : MemoriesWf s) : MemoriesWf (settleJobs s) :=
  .ite (h.foldState fun _ _ h => h.settlePair).settleMux h

protected theorem MemoriesWf.resumeGo {q : Fin 256} (h : MemoriesWf s) : MemoriesWf (resumeGo q s) :=
  .ite h <| .ite h.takeSubmits.updQueue.sweepQueue h.takeSubmits

protected theorem MemoriesWf.markStart {qn : Fin 256} {seq : Word} {f : Phase → Phase} (h : MemoriesWf s) :
    MemoriesWf (markStart qn seq f s) := h.updCmd.traceEvent

protected theorem MemoriesWf.enterQueue {q : Fin 256} {c : Cmd} (h : MemoriesWf s) : MemoriesWf (enterQueue q c s) :=
  (MemoriesWf.ite h h.takeHolds).updQueue

protected theorem MemoriesWf.acceptCmd {q : Fin 256} {c : Cmd} (h : MemoriesWf s) : MemoriesWf (acceptCmd q c s) :=
  (MemoriesWf.ite h.enterQueue.markStart h.enterQueue).sweepQueue

protected theorem MemoriesWf.rejectCmd {q : Fin 256} {c : Cmd} {e : Stop} (h : MemoriesWf s) :
    MemoriesWf (rejectCmd q c e s) := h.updQueue.noteFault.endCmd

protected theorem MemoriesWf.noteRackMap {q : Fin 256} {c : Cmd} (h : MemoriesWf s) : MemoriesWf (noteRackMap q c s) :=
  .ite h.pageError h

protected theorem MemoriesWf.checkNext {q : Fin 256} (h : MemoriesWf s) : MemoriesWf (checkNext q s) := by
  unfold checkNext
  dsimp only
  split
  · exact .ite h h.frame.rejectCmd
  · exact h.frame.noteRackMap.acceptCmd

protected theorem MemoriesWf.stepCommandCheck {q : Fin 256} (h : MemoriesWf s) : MemoriesWf (stepCommandCheck q s) :=
  .ite h <| .ite h.sweepQueue.settleJobs <| .ite h.fillChecks.checkNext.fillChecks.settleJobs h.fillChecks

protected theorem MemoriesWf.takeHolder {n : Fin 8} {context : BitVec 16} (h : MemoriesWf s) :
    MemoriesWf (takeHolder n context s) := .ite h h.updParcel

protected theorem MemoriesWf.seatPress {q : Fin 256} {c : Cmd} {twinOf peer : Option (Fin 16)} {p : Fin 16}
    (h : MemoriesWf s) : MemoriesWf (seatPress q c twinOf peer p s) :=
  h.bump.updPress fun _ hx => ⟨hx.1, Mem.wf_wipe _ _ _ _ hx.2.1, Mem.wf_wipe _ _ _ _ hx.2.2⟩

protected theorem MemoriesWf.seatAll {q : Fin 256} {c : Cmd} (h : MemoriesWf s) : MemoriesWf (seatAll q c s) := by
  refine h.foldState fun p s h => ?_
  dsimp only
  split
  · exact h.seatPress
  · exact h.seatPress.seatPress

protected theorem MemoriesWf.clearImages {q : Fin 256} {c : Cmd} (h : MemoriesWf s) :
    MemoriesWf (clearImages q c s) := by
  unfold clearImages
  split
  · exact h
  · refine h.foldState fun a s h => ?_
    split
    · exact h
    · exact h.writeLocs

protected theorem MemoriesWf.startProgram {qn : Fin 256} {c : Cmd} (h : MemoriesWf s) :
    MemoriesWf (startProgram qn c s) := by
  unfold startProgram
  split
  · exact h.takeHolder.updParcel.seatAll.markStart
  · exact h.takeHolder.updParcel.clearImages.seatAll.markStart

protected theorem MemoriesWf.takeGeneration {qn : Fin 256} {c : Cmd} (h : MemoriesWf s) :
    MemoriesWf (takeGeneration qn c s) := h.frame

protected theorem MemoriesWf.startCmd {qn : Fin 256} {c : Cmd} (h : MemoriesWf s) : MemoriesWf (startCmd qn c s) := by
  unfold startCmd
  split
  · exact h.startProgram
  · exact h.updEngine.markStart
  · exact h.frame.assignCores.markStart
  · exact h.takeGeneration.markStart
  · exact h.markStart

protected theorem MemoriesWf.stepCommandStart {q : Fin 256} (h : MemoriesWf s) : MemoriesWf (stepCommandStart q s) := by
  unfold stepCommandStart
  split
  · exact h
  · split
    · exact h
    · split
      · exact h.endCmd
      · exact h.startCmd

protected theorem MemoriesWf.stepCommandCommit {q : Fin 256} {seq : Word} (h : MemoriesWf s) :
    MemoriesWf (stepCommandCommit q seq s) := by
  unfold stepCommandCommit
  split
  · exact h
  · split
    · exact h.endCmd
    · exact h

protected theorem MemoriesWf.corkWire {q : Fin 256} {c : Cmd} (h : MemoriesWf s) : MemoriesWf (corkWire q c s) :=
  (MemoriesWf.ite h h.raiseWire).noteEcho

protected theorem MemoriesWf.releaseIfFree {handle : Nat} (h : MemoriesWf s) : MemoriesWf (releaseIfFree handle s) := by
  unfold releaseIfFree
  split
  · exact h
  · exact .ite h.frame h

protected theorem MemoriesWf.dropHolds {c : Cmd} (h : MemoriesWf s) : MemoriesWf (dropHolds c s) :=
  .ite h (h.foldState fun _ _ h => h.updObject.releaseIfFree)

protected theorem MemoriesWf.account {n : Fin 8} {c : Cmd} (h : MemoriesWf s) : MemoriesWf (account n c s) :=
  .ite h.frame <| .ite h.frame h.frame

protected theorem MemoriesWf.stepCorkAppend {q : Fin 256} (h : MemoriesWf s) : MemoriesWf (stepCorkAppend q s) := by
  unfold stepCorkAppend
  dsimp only
  split
  · exact h
  · split
    · exact h
    · split
      · exact h.updWindow.updQueue.corkWire.dropHolds.account.sweepQueue.settleJobs
      · exact h

protected theorem MemoriesWf.setPhase {q : Fin 256} {seq : Word} {ph : Phase} (h : MemoriesWf s) :
    MemoriesWf (setPhase q seq ph s) := h.updCmd

protected theorem MemoriesWf.stepPressProgram {q : Fin 256} {seq : Word} (h : MemoriesWf s) :
    MemoriesWf (stepPressProgram q seq s) := by
  unfold stepPressProgram
  split
  · exact h
  · exact h.setPhase

protected theorem MemoriesWf.stepCapture {q : Fin 256} {seq : Word} (h : MemoriesWf s) :
    MemoriesWf (stepCapture q seq s) := by
  unfold stepCapture
  split
  · exact h
  · exact h.setPhase.updPipe

protected theorem MemoriesWf.signalCopy {dst : Operand} (h : MemoriesWf s) : MemoriesWf (signalCopy dst s) :=
  .ite h.updPress h

protected theorem MemoriesWf.stepCopy {q : Fin 256} {seq : Word} (h : MemoriesWf s) :
    MemoriesWf (stepCopy q seq s) := by
  unfold stepCopy
  split
  · exact h
  · dsimp only
    split
    · exact h
    · split
      · exact .ite h h.copyView.killCmd
      · exact h.copyView.signalCopy.setPhase

protected theorem MemoriesWf.unstart {q : Fin 256} {seq : Word} (h : MemoriesWf s) : MemoriesWf (unstart q seq s) :=
  h.updCmd

protected theorem MemoriesWf.stepObjectFree {q : Fin 256} {seq : Word} (h : MemoriesWf s) :
    MemoriesWf (stepObjectFree q seq s) := by
  unfold stepObjectFree
  split
  · exact h
  · exact .ite h.unstart.endCmd h.updObject.setPhase.releaseIfFree

protected theorem MemoriesWf.stepMarker {q : Fin 256} {seq : Word} (h : MemoriesWf s) :
    MemoriesWf (stepMarker q seq s) := by
  unfold stepMarker
  split
  · exact h
  · exact h.endCmd

protected theorem MemoriesWf.stepKillComplete {q : Fin 256} {seq : Word} (h : MemoriesWf s) :
    MemoriesWf (stepKillComplete q seq s) := by
  have freed : MemoriesWf (foldState freePress (pressesOf s q seq) s) := h.foldState fun _ _ h => h.freePress
  unfold stepKillComplete
  cases s.cmd q seq with
  | none => exact h
  | some c =>
    dsimp only
    cases c.phase with
    | killing st data => exact .ite freed h.endCmd.settleJobs
    | killingRequeue => exact .ite freed freed.updCmd.settleHolder.settleJobs
    | _ => exact h

/-! ### Machine/Dram.lean -/

protected theorem MemoriesWf.faultCmd {q : Fin 256} {seq : Word} {acc : Access} {agent : Byte} {st : Stop}
    (h : MemoriesWf s) :
    MemoriesWf (faultCmd q seq acc agent st s) := .ite h <| .ite h.updQueue.rejectCmd h.killAccess

protected theorem MemoriesWf.stepTranslationFault {q : Fin 256} {seq : Word} {va : BitVec 38} {acc : Access}
    {agent : Byte} (h : MemoriesWf s) :
    MemoriesWf (stepTranslationFault q seq va acc agent s) := by
  unfold stepTranslationFault
  split
  · exact h
  · exact h.faultCmd

protected theorem MemoriesWf.stepPageMigration {vpn : BitVec 24} (h : MemoriesWf s) :
    MemoriesWf (stepPageMigration vpn s) := by
  unfold stepPageMigration
  dsimp only
  split
  · exact h
  · split
    · exact h.retireInPlace
    · refine MemoriesWf.sendRetired (MemoriesWf.poisonAll ?_)
      exact h.withDram (Mem.wf_writeBytes _ _ _ h.dram_wf)

protected theorem MemoriesWf.refillRetired {fuel : Nat} (h : MemoriesWf s) : MemoriesWf (refillRetired fuel s) := by
  induction fuel generalizing s with
  | zero => exact h
  | succ fuel ih =>
    unfold refillRetired
    split
    · exact h
    · split
      · exact h
      · refine ih ?_
        exact h.withDram (Mem.wf_clear _ _ _ h.dram_wf)

protected theorem MemoriesWf.stepDramError {q : Fin 256} {seq : Word} {va : BitVec 38} {acc : Access} {agent : Byte}
    {inTable : Bool} (h : MemoriesWf s) :
    MemoriesWf (stepDramError q seq va acc agent inTable s) := by
  unfold stepDramError
  split
  · exact h.noteUncorrectable
  · split
    · exact h
    · exact h.noteUncorrectable.faultCmd

protected theorem MemoriesWf.stepPatrol {found : EccResult} (h : MemoriesWf s) : MemoriesWf (stepPatrol found s) := by
  unfold stepPatrol
  split
  · exact h
  · split
    · exact h.frame
    · exact h.frame.noteCorrection
    · exact h.frame.noteUncorrectable

protected theorem MemoriesWf.stepOdecc {counts : List Nat} (h : MemoriesWf s) : MemoriesWf (stepOdecc counts s) :=
  .ite h.frame h

protected theorem MemoriesWf.updChannel {i : Fin 16} {f : Channel → Channel} (h : MemoriesWf s) :
    MemoriesWf (s.updChannel i f) := h.frame

protected theorem MemoriesWf.stepCalibration {ch : Fin 16} {margin : Byte} (h : MemoriesWf s) :
    MemoriesWf (stepCalibration ch margin s) := .ite h <| .ite h <| .ite h.updChannel.setTimingBroken h.updChannel

protected theorem MemoriesWf.saveTraining {values : List Byte} (h : MemoriesWf s) :
    MemoriesWf (saveTraining values s) := h.frame

protected theorem MemoriesWf.stepRetrainDone {ch : Fin 16} {values : List Byte} (h : MemoriesWf s) :
    MemoriesWf (stepRetrainDone ch values s) := .ite h.updChannel.saveTraining h

protected theorem MemoriesWf.stepTrainingSave {values : List Byte} (h : MemoriesWf s) :
    MemoriesWf (stepTrainingSave values s) := .ite h.saveTraining h

protected theorem MemoriesWf.stepDramTemperature {ch : Fin 16} {rank : Fin 2} {code : Byte} (h : MemoriesWf s) :
    MemoriesWf (stepDramTemperature ch rank code s) := .ite h.updChannel h

/-! ### Machine/Stage.lean -/

protected theorem MemoriesWf.applyCellar (h : MemoriesWf s) : MemoriesWf (applyCellar s) := by
  unfold applyCellar
  split
  · exact h
  · split
    · exact h
    · split
      · exact h.frame.rejectCommit.settleCommit
      · exact h.frame.settleCommit

protected theorem MemoriesWf.applyCarve {n : Fin 8} (h : MemoriesWf s) : MemoriesWf (applyCarve n s) :=
  .ite h h.frame.settleCommit

protected theorem MemoriesWf.rejectPort {code : BitVec 16} (h : MemoriesWf s) : MemoriesWf (rejectPort code s) :=
  h.updPage.pageError.frame.errorWire.settleCommit

protected theorem MemoriesWf.finishEcho {code : Nat} (h : MemoriesWf s) : MemoriesWf (finishEcho code s) := by
  refine h.foldState fun p s h => ?_
  split
  · exact h.finishJob
  · exact h

protected theorem MemoriesWf.oweCopy (h : MemoriesWf s) : MemoriesWf (oweCopy s) :=
  h.foldState fun _ _ h => h.noteEcho

protected theorem MemoriesWf.applyEcho (h : MemoriesWf s) : MemoriesWf (applyEcho s) := by
  unfold applyEcho
  split
  · exact h
  · exact .ite h <| .ite h.frame.rejectPort.finishEcho h.frame.oweCopy.settleCommit.finishEcho

protected theorem MemoriesWf.applyStage {n : Fin 8} (h : MemoriesWf s) : MemoriesWf (applyStage n s) := by
  unfold applyStage
  split
  · exact h
  · exact .ite h <| .ite h.frame.rejectPort h.frame.settleCommit

protected theorem MemoriesWf.applyQueueCfg {q : Fin 256} (h : MemoriesWf s) : MemoriesWf (applyQueueCfg q s) := by
  unfold applyQueueCfg
  split
  · exact h
  · exact .ite h <| .ite h.updQueue.rejectCommit.settleCommit h.updQueue.settleCommit

protected theorem MemoriesWf.applyVine (h : MemoriesWf s) : MemoriesWf (applyVine s) := by
  unfold applyVine
  split
  · exact h
  · exact .ite h <| .ite h.frame.rejectCommit.settleCommit (MemoriesWf.ite h.frame.commitFmax h.frame).settleCommit

protected theorem MemoriesWf.applyPllUnit {p : Fin 9} (h : MemoriesWf s) : MemoriesWf (applyPllUnit p s) := by
  unfold applyPllUnit
  split
  · exact h
  · split
    · exact h.updPll.rejectCommit.settleCommit
    · exact h.applyPll.settleCommit

protected theorem MemoriesWf.applyDiag (h : MemoriesWf s) : MemoriesWf (applyDiag s) := by
  unfold applyDiag
  split
  · exact h
  · split
    · dsimp only
      exact h.frame.rejectCommit.settleCommit
    · split
      · dsimp only
        exact h.frame.rejectCommit.settleCommit
      · dsimp only
        exact h.frame.settleCommit

protected theorem MemoriesWf.applyParcelIdle {n : Fin 8} (h : MemoriesWf s) : MemoriesWf (applyParcelIdle n s) :=
  .ite h h.applyParcel

protected theorem MemoriesWf.applyPipeIdle {n : Fin 16} (h : MemoriesWf s) : MemoriesWf (applyPipeIdle n s) :=
  .ite h.pipeApply h

protected theorem MemoriesWf.applyUnit {p : Fin 121} {u : Fin 16} (h : MemoriesWf s) : MemoriesWf (applyUnit p u s) :=
  .ite h <| .ite (.ite h.applyEcho <| .ite h.applyStage h) <| .ite (.ite h.applyPllUnit h) <| .ite h.applyFlimit <|
    .ite h.applyDiag <| .ite h.applyVine <| .ite (.ite h.applyCarve h) <| .ite h.applyCellar <| .ite h.applyPipeIdle <|
    .ite h.applyQueueCfg <| .ite h.applyParcelIdle h

protected theorem MemoriesWf.mapUnits {p : Nat} {onEcho : Rws EchoCfg → Rws EchoCfg} {onShare : Rws Share → Rws Share}
    {onPll : Rws PllCfg → Rws PllCfg} {onFlimit : Rws Flimit → Rws Flimit}
    {onRings : Rws (RingCfg × RingCfg) → Rws (RingCfg × RingCfg)} {onVine : Rws VineCfg → Rws VineCfg}
    {onCellar : Rws (Vector Share 8) → Rws (Vector Share 8)} {onPipe : Rws PipeCfg → Rws PipeCfg}
    {onQueue : Rws QueueCfg → Rws QueueCfg} {onParcel : Rws ParcelCfg → Rws ParcelCfg} (h : MemoriesWf s) :
    MemoriesWf (mapUnits p onEcho onShare onPll onFlimit onRings onVine onCellar onPipe onQueue onParcel s) :=
  .ite h.frame <| .ite h.frame <| .ite h.frame <| .ite h.frame <| .ite h.frame <| .ite h.frame <| .ite h.frame <|
    .ite h.updPipe <| .ite h.frame <| .ite h.updParcel h

protected theorem MemoriesWf.goUnits {p : Nat} (h : MemoriesWf s) : MemoriesWf (goUnits p s) := h.mapUnits

protected theorem MemoriesWf.cancelUnits {p : Nat} (h : MemoriesWf s) : MemoriesWf (cancelUnits p s) := h.mapUnits

protected theorem MemoriesWf.applyReady {p : Fin 121} (h : MemoriesWf s) : MemoriesWf (applyReady p s) :=
  h.foldState fun _ _ h => .ite h.applyUnit h

protected theorem MemoriesWf.writeGo {who : Writer} {p : Fin 121} (h : MemoriesWf s) : MemoriesWf (writeGo who p s) :=
  .ite h h.goUnits.updPage.settleCommit.applyReady

protected theorem MemoriesWf.writeCancel {p : Fin 121} (h : MemoriesWf s) : MemoriesWf (writeCancel p s) :=
  .ite h <| .ite h.cancelUnits.settleCommit.finishEcho h.cancelUnits.settleCommit

/-! ### Machine/ParcelMgr.lean -/

protected theorem MemoriesWf.mapPage {b : List Byte} {x : Nat × Nat} (h : MemoriesWf s) : MemoriesWf (mapPage b x s) :=
  h.withDram (Mem.wf_clear _ _ _ h.dram_wf)

protected theorem MemoriesWf.mapCarve {b : List Byte} (h : MemoriesWf s) : MemoriesWf (mapCarve b s) :=
  h.bump.foldState fun _ _ h => h.mapPage

protected theorem MemoriesWf.assignUnits {n : Fin 8} {presses pipes : BitVec 16} (h : MemoriesWf s) :
    MemoriesWf (assignUnits n presses pipes s) := by
  refine h.withPresses fun p hx => ?_
  simp only [Machine.assignUnits, State.press, vget_vmap]
  split
  · exact hx.frame
  · exact hx

protected theorem MemoriesWf.commitShares {n : Fin 8} {cellar stage carve : Share} (h : MemoriesWf s) :
    MemoriesWf (commitShares n cellar stage carve s) := h.frame.writeGo.writeGo.writeGo

protected theorem MemoriesWf.createParcel {pair : Fin 8} {b : List Byte} (h : MemoriesWf s) :
    MemoriesWf (createParcel pair b s).1 := by
  unfold createParcel
  split
  · exact h.updParcel.assignUnits.commitShares.mapCarve.updPair
  · exact h

protected theorem MemoriesWf.destroyParcel {pair : Fin 8} {b : List Byte} (h : MemoriesWf s) :
    MemoriesWf (destroyParcel pair b s).1 := by
  unfold destroyParcel
  split
  · exact h.frame.updPair
  · exact h

protected theorem MemoriesWf.clearParcel {n : Fin 8} (h : MemoriesWf s) : MemoriesWf (clearParcel n s) := by
  refine MemoriesWf.withPresses (s := { s with cellar := (clearParcel n s).cellar })
    (h.withCellar (Mem.wf_clear _ _ _ h.cellar_wf)) fun p hx => ?_
  simp only [Machine.clearParcel, State.press, vget_vmap]
  split
  · exact ⟨Mem.wf_clear _ _ _ hx.1, hx.2⟩
  · exact hx

protected theorem MemoriesWf.activate {n : Fin 8} {policy : ParcelCfg} (h : MemoriesWf s) :
    MemoriesWf (activate n policy s) := h.updParcel.writeGo.updParcel

protected theorem MemoriesWf.returnPages {n : Fin 8} (h : MemoriesWf s) : MemoriesWf (returnPages n s) :=
  (h.foldl fun _ _ h => h.sendRetired).frame.refillRetired

protected theorem MemoriesWf.removeParcel {n : Fin 8} (h : MemoriesWf s) : MemoriesWf (removeParcel n s) := by
  have returned : MemoriesWf (returnPages n (commitShares n {} {} {} s)) := h.commitShares.returnPages
  unfold Machine.removeParcel
  generalize returnPages n (commitShares n {} {} {} s) = s1 at returned
  refine MemoriesWf.updParcel ?_
  refine returned.withPresses fun p hx => ?_
  simp only [State.press, vget_vmap]
  split
  · exact hx.frame
  · exact hx

protected theorem MemoriesWf.stepClearing {n : Fin 8} (h : MemoriesWf s) : MemoriesWf (stepClearing n s) := by
  unfold stepClearing
  split
  · exact h
  · split
    · exact h
    · exact h.clearParcel.activate.finishJob
    · exact h.clearParcel.removeParcel.finishJob

/-! ### Machine/Requests.lean -/

protected theorem MemoriesWf.done (h : MemoriesWf s) : MemoriesWf (done s).1 := h

protected theorem MemoriesWf.refuse {code : Nat} (h : MemoriesWf s) : MemoriesWf (refuse code s).1 := h

protected theorem MemoriesWf.owe {pair : Fin 8} {job : FwJob} (h : MemoriesWf s) : MemoriesWf (owe pair job s).1 :=
  h.updPair

protected theorem MemoriesWf.initLog {q : Fin 256} {f : Word} (h : MemoriesWf s) : MemoriesWf (initLog q f s) := by
  refine h.bump.updWindow fun m hm => ?_
  generalize hl : List.range 128 = l
  clear hl
  have wiped := Mem.wf_wipe m (corkLog q) 4096 s.freeCtr hm
  generalize m.wipe (corkLog q) 4096 s.freeCtr = m at wiped ⊢
  induction l generalizing m with
  | nil => exact wiped
  | cons r rest ih => exact ih _ (Mem.wf_write _ _ _ (Mem.wf_writeNat _ _ _ _ wiped))

protected theorem MemoriesWf.createQueue {b : List Byte} (h : MemoriesWf s) : MemoriesWf (createQueue b s).1 := by
  unfold createQueue
  split
  · exact h.updQueue.updWindow.initLog.noteEcho.writeGo.done
  · exact h.refuse

protected theorem MemoriesWf.destroyQueue {b : List Byte} (h : MemoriesWf s) : MemoriesWf (destroyQueue b s).1 :=
  .iteFst h.refuse <| .iteFst h.refuse h.updQueue.writeGo.done

protected theorem MemoriesWf.createObject {b : List Byte} (h : MemoriesWf s) : MemoriesWf (createObject b s).1 := by
  unfold createObject
  split
  · exact h.frame
  · exact h.refuse

protected theorem MemoriesWf.clearPoison {b : List Byte} (h : MemoriesWf s) : MemoriesWf (clearPoison b s).1 :=
  .iteFst h.refuse <| .iteFst h.refuse h.updObject.done

protected theorem MemoriesWf.setEcho {pair : Fin 8} {b : List Byte} (h : MemoriesWf s) :
    MemoriesWf (setEcho pair b s).1 := by
  unfold setEcho
  split
  · exact h.refuse
  · split
    · exact h.refuse
    · split
      · exact h.refuse
      · exact .ite (MemoriesWf.ite h h.send).frame.updPair.writeGo.finishEcho
          (MemoriesWf.ite h h.send).frame.updPair.writeGo

protected theorem MemoriesWf.openStream {b : List Byte} (h : MemoriesWf s) : MemoriesWf (openStream b s).1 := by
  unfold openStream
  split
  · exact h.frame
  · exact h.refuse

protected theorem MemoriesWf.closeRequest {pair : Fin 8} {b : List Byte} (h : MemoriesWf s) :
    MemoriesWf (closeRequest pair b s).1 := by
  unfold closeRequest
  dsimp only
  split
  · exact h.refuse
  · exact .iteFst h.refuse <| .iteFst h.frame.owe h.closeStream.done

protected theorem MemoriesWf.commitPipe {b : List Byte} (h : MemoriesWf s) : MemoriesWf (commitPipe b s).1 := by
  unfold commitPipe
  split
  · exact h.refuse
  · dsimp only
    split
    · exact h.bump.updPipe.refuse
    · exact h.bump.updPipe.writeGo

protected theorem MemoriesWf.failPress {pair : Fin 8} {b : List Byte} (h : MemoriesWf s) :
    MemoriesWf (failPress pair b s).1 := .iteFst h.refuse <| .iteFst h.setFailed.owe h.setFailed.done

protected theorem MemoriesWf.linkEvent {i : Fin 4} (h : MemoriesWf s) : MemoriesWf (linkEvent i s) := .ite h.fwEvent h

protected theorem MemoriesWf.startRetrain {i : Fin 4} (h : MemoriesWf s) : MemoriesWf (startRetrain i s) :=
  .ite h.updLink.setTimingBroken.pageError h.updLink.setTimingBroken.pageError.linkEvent

protected theorem MemoriesWf.startBringUp {i : Fin 4} (h : MemoriesWf s) : MemoriesWf (startBringUp i s) :=
  h.updLink.linkEvent

protected theorem MemoriesWf.retrainRequest {pair : Fin 8} {b : List Byte} (h : MemoriesWf s) :
    MemoriesWf (retrainRequest pair b s).1 :=
  .iteFst h.refuse <| .iteFst h.refuse (MemoriesWf.ite h.updLink.startBringUp h.updLink.startRetrain).owe

protected theorem MemoriesWf.openMux {b : List Byte} (h : MemoriesWf s) : MemoriesWf (openMux b s).1 := by
  unfold openMux
  split
  · exact h.frame
  · exact h.refuse

protected theorem MemoriesWf.submitMux {pair : Fin 8} {b : List Byte} (h : MemoriesWf s) :
    MemoriesWf (submitMux pair b s).1 := by
  unfold submitMux
  dsimp only
  split
  · exact h.frame.updPair.settleMux
  · exact h.refuse

protected theorem MemoriesWf.closeMux {b : List Byte} (h : MemoriesWf s) : MemoriesWf (closeMux b s).1 := by
  unfold closeMux
  dsimp only
  split
  · exact .iteFst h.refuse h.frame.done
  · exact h.refuse

protected theorem MemoriesWf.loadImage {b : List Byte} (h : MemoriesWf s) : MemoriesWf (loadImage b s).1 := by
  unfold loadImage
  dsimp only
  split
  · exact h.frame.refuse
  · split
    · exact h.frame.refuse
    · exact h.frame

protected theorem MemoriesWf.swapRequest {pair : Fin 8} {b : List Byte} (h : MemoriesWf s) :
    MemoriesWf (swapRequest pair b s).1 := .iteFst h.refuse h.owe

protected theorem MemoriesWf.resumeReading (h : MemoriesWf s) : MemoriesWf (resumeReading s) :=
  h.foldState fun _ _ h => h.refuseBad

protected theorem MemoriesWf.enterImage {img : List Byte} {stallUs : BitVec 12} (h : MemoriesWf s) :
    MemoriesWf (enterImage img stallUs s) := h.frame.measureDigest

protected theorem MemoriesWf.stepSwapStall {handoffOk : Bool} {stallUs : BitVec 12} (h : MemoriesWf s) :
    MemoriesWf (stepSwapStall handoffOk stallUs s) := by
  unfold stepSwapStall
  split
  · exact .ite h <| .ite h.enterImage.finishJob.resumeReading h.frame.finishJob.resumeReading
  · exact h

protected theorem MemoriesWf.writeVirtual {fuel va : Nat} {l : List Byte} (h : MemoriesWf s) :
    MemoriesWf (writeVirtual fuel va l s) := by
  induction fuel generalizing va l s with
  | zero => exact h
  | succ fuel ih => exact .ite h (ih (.ite (h.withDram (Mem.wf_writeBytes _ _ _ h.dram_wf)) h))

protected theorem MemoriesWf.fwWrite {va : Nat} {l : List Byte} (h : MemoriesWf s) : MemoriesWf (fwWrite va l s) :=
  h.writeVirtual

protected theorem MemoriesWf.attestRequest {pair : Fin 8} {b : List Byte} (h : MemoriesWf s) :
    MemoriesWf (attestRequest pair b s).1 := by
  unfold attestRequest
  dsimp only
  split
  · exact h.refuse
  · split
    · exact h.refuse
    · exact .iteFst h.refuse h.frame.owe

protected theorem MemoriesWf.stepSigning (h : MemoriesWf s) : MemoriesWf (stepSigning s) := by
  unfold stepSigning
  split
  · exact h
  · split
    · exact h
    · dsimp only
      split
      · exact h.frame.finishJob
      · exact h.frame.fwWrite.finishJob

/-! ### Machine/Vine.lean -/

protected theorem MemoriesWf.requestReplay {i : Fin 4} (h : MemoriesWf s) : MemoriesWf (requestReplay i s) :=
  h.updLink.sendOn

protected theorem MemoriesWf.acceptFlit {i : Fin 4} {f : List Byte} (h : MemoriesWf s) :
    MemoriesWf (acceptFlit i f s) := by
  unfold acceptFlit
  split
  · exact h.updLink.pumpLink.pumpForward
  · dsimp only
    split
    · exact h.updLink.pumpLink.pumpForward.sendIdle
    · split
      · exact h.updLink.pumpLink.pumpForward.sendIdle
      · exact h.updLink.pumpLink.pumpForward.queueFlit.sendIdle

protected theorem MemoriesWf.stepFlitReceive {i : Fin 4} {f : List Byte} (h : MemoriesWf s) :
    MemoriesWf (stepFlitReceive i f s) :=
  .ite h <| .ite h.updLink.requestReplay <| .ite (.ite h h.requestReplay) h.acceptFlit

protected theorem MemoriesWf.resend {i : Fin 4} (h : MemoriesWf s) : MemoriesWf (resend i s) :=
  h.foldState fun _ _ h => h.emit

protected theorem MemoriesWf.stepReplayRequest {i : Fin 4} {lseq : Word} (h : MemoriesWf s) :
    MemoriesWf (stepReplayRequest i lseq s) :=
  .ite h <| .ite h.updLink.startRetrain h.updLink.updLink.resend.pumpLink.pumpForward

protected theorem MemoriesWf.stepLinkSilence {i : Fin 4} (h : MemoriesWf s) : MemoriesWf (stepLinkSilence i s) :=
  .ite h.startRetrain h

protected theorem MemoriesWf.finishRetrain {i : Fin 4} (h : MemoriesWf s) : MemoriesWf (finishRetrain i s) := by
  refine h.foldState fun p s h => ?_
  split
  · exact .ite h.finishJob h
  · exact h

protected theorem MemoriesWf.loseRoutes {dev : Nat} {i : Fin 4} (h : MemoriesWf s) : MemoriesWf (loseRoutes dev i s) :=
  .ite h.loseDevices <| .ite h.frame.pageError h

protected theorem MemoriesWf.joinPeer {i : Fin 4} (h : MemoriesWf s) : MemoriesWf (joinPeer i s) :=
  .ite h.bump.updLink h

protected theorem MemoriesWf.ownLinkDone {i : Fin 4} {ok : Bool} (h : MemoriesWf s) :
    MemoriesWf (ownLinkDone i ok s) :=
  .ite h <| .ite h.joinPeer.updLink.resend.pumpLink.pumpForward.linkEvent.finishRetrain <|
    .ite h.updLink.startRetrain h.updLink.updLink.pageError.linkEvent.finishRetrain.loseRoutes

protected theorem MemoriesWf.stepLinkRetrained {dev : Fin 64} {i : Fin 4} {ok : Bool} (h : MemoriesWf s) :
    MemoriesWf (stepLinkRetrained dev i ok s) := .ite h.ownLinkDone <| .ite h h.loseRoutes

protected theorem MemoriesWf.recordTopology (h : MemoriesWf s) : MemoriesWf (recordTopology s) := by
  unfold recordTopology
  split
  · exact h
  · exact .ite h <| .ite h.frame.pageError.fwEvent h.frame.pageError

protected theorem MemoriesWf.probeFailed {i : Fin 4} {result : Nat} (h : MemoriesWf s) :
    MemoriesWf (probeFailed i result s) := h.frame.recordTopology

protected theorem MemoriesWf.stepDiscovery (h : MemoriesWf s) : MemoriesWf (stepDiscovery s) :=
  .ite h <| .ite h.recordTopology <| .ite h.frame.probeFailed h.frame.frame.sendOn

protected theorem MemoriesWf.numberDevices {rows cols : Nat} (h : MemoriesWf s) :
    MemoriesWf (numberDevices rows cols s) := h.frame.send

protected theorem MemoriesWf.stepProbeReturn {sentOn returnedOn : Fin 4} {hops : Nat} (h : MemoriesWf s) :
    MemoriesWf (stepProbeReturn sentOn returnedOn hops s) :=
  .ite h <| .ite h.probeFailed <| .ite (.ite h.frame.probeFailed <| .ite h.frame.sendOn h.numberDevices) <|
    .ite h.frame.probeFailed h.numberDevices

protected theorem MemoriesWf.stepProbeTimeout {i : Fin 4} (h : MemoriesWf s) : MemoriesWf (stepProbeTimeout i s) :=
  .ite h.probeFailed h

protected theorem MemoriesWf.stepTimeSend (h : MemoriesWf s) : MemoriesWf (stepTimeSend s) := .ite h.send h

protected theorem MemoriesWf.stepTimeReceive {leadTime : Long} {delayNs : Nat} (h : MemoriesWf s) :
    MemoriesWf (stepTimeReceive leadTime delayNs s) := .ite h <| .ite h.frame <| .ite h.frame h.frame

protected theorem MemoriesWf.releaseBarrier {b : Barrier} (h : MemoriesWf s) : MemoriesWf (releaseBarrier b s) :=
  h.frame.endCmd.traceEvent

protected theorem MemoriesWf.advanceTime (h : MemoriesWf s) : MemoriesWf (advanceTime s) :=
  .ite h.frame <| .ite h.frame h.frame

protected theorem MemoriesWf.tick (h : MemoriesWf s) : MemoriesWf (tick s) :=
  h.advanceTime.foldState fun _ _ h => h.releaseBarrier

protected theorem MemoriesWf.abortBarrier {b : Barrier} (h : MemoriesWf s) : MemoriesWf (abortBarrier b s) :=
  h.frame.endCmd

protected theorem MemoriesWf.setRelease {ident : BitVec 16} {gen : Word} {tRel : Long} (h : MemoriesWf s) :
    MemoriesWf (setRelease ident gen tRel s) := by
  unfold setRelease
  split
  · exact h
  · exact .ite h.frame.releaseBarrier h.frame

protected theorem MemoriesWf.noteArrival {dev : Nat} {ident : BitVec 16} {gen : Word} (h : MemoriesWf s) :
    MemoriesWf (noteArrival dev ident gen s) := .ite (MemoriesWf.ite h.frame h.frame.send).setRelease h.frame

protected theorem MemoriesWf.stepBarrier {q : Fin 256} {seq : Word} (h : MemoriesWf s) :
    MemoriesWf (stepBarrier q seq s) := by
  unfold stepBarrier
  split
  · exact .ite h.frame.endCmd <| .ite h.setPhase.noteArrival h.setPhase.send
  · exact h

protected theorem MemoriesWf.stepArrival {dev : Fin 64} {ident : BitVec 16} {gen : Word} (h : MemoriesWf s) :
    MemoriesWf (stepArrival dev ident gen s) := .ite h h.noteArrival

protected theorem MemoriesWf.stepReleaseTime {ident : BitVec 16} {gen : Word} {tRel : Long} (h : MemoriesWf s) :
    MemoriesWf (stepReleaseTime ident gen tRel s) := .ite h h.setRelease

protected theorem MemoriesWf.stepBarrierRelease {ident : BitVec 16} (h : MemoriesWf s) :
    MemoriesWf (stepBarrierRelease ident s) := by
  unfold stepBarrierRelease
  split
  · exact h
  · exact h.releaseBarrier

protected theorem MemoriesWf.stepBarrierTimeout {ident : BitVec 16} (h : MemoriesWf s) :
    MemoriesWf (stepBarrierTimeout ident s) := by
  unfold stepBarrierTimeout
  split
  · exact h
  · split
    · exact h
    · exact h.send.abortBarrier

protected theorem MemoriesWf.stepBarrierAbort {ident : BitVec 16} {gen : Word} (h : MemoriesWf s) :
    MemoriesWf (stepBarrierAbort ident gen s) := by
  unfold stepBarrierAbort
  split
  · exact h
  · split
    · exact h.abortBarrier
    · exact .ite h h.frame

protected theorem MemoriesWf.holdBoth {c : Coll} (h : MemoriesWf s) : MemoriesWf (holdBoth c s) :=
  h.foldState fun _ _ h => h.updObject

protected theorem MemoriesWf.dropBoth {c : Coll} (h : MemoriesWf s) : MemoriesWf (dropBoth c s) :=
  h.foldState fun _ _ h => h.updObject.releaseIfFree

protected theorem MemoriesWf.beginCollective {pair : Fin 8} {b : List Byte} (h : MemoriesWf s) :
    MemoriesWf (beginCollective pair b s).1 := by
  unfold beginCollective
  split
  · exact (MemoriesWf.ite h.frame.holdBoth h.frame.holdBoth.send).owe
  · exact h.refuse

protected theorem MemoriesWf.endCollective {c : Coll} {code : Nat} (h : MemoriesWf s) :
    MemoriesWf (endCollective c code s) := by
  unfold endCollective
  dsimp only
  split
  · exact h.frame.dropBoth.finishJob
  · exact h.frame.dropBoth

protected theorem MemoriesWf.stepCollComplete {inputs : List (List Byte)} (h : MemoriesWf s) :
    MemoriesWf (stepCollComplete inputs s) := by
  unfold stepCollComplete
  split
  · exact h
  · split
    · exact .ite h h.endCollective
    · exact .ite h h.fwWrite.endCollective

protected theorem MemoriesWf.stepCollTimeout (h : MemoriesWf s) : MemoriesWf (stepCollTimeout s) := by
  unfold stepCollTimeout
  split
  · exact h
  · split
    · exact h
    · split
      · exact h.endCollective
      · exact h.wipeVirtual.endCollective

/-! ### Machine/RegWrite.lean -/

protected theorem MemoriesWf.writeCommon {who : Writer} {p : Fin 121} {w : Nat} {v : Word} (h : MemoriesWf s) :
    MemoriesWf (writeCommon who p w v s) := by
  unfold writeCommon
  split
  · exact h.updPage
  · exact h.updPage
  · exact .ite (MemoriesWf.ite h.updPage.writeGo h.updPage).writeCancel <| .ite h.updPage.writeGo h.updPage
  · exact .ite h.updPage h
  · exact h

protected theorem MemoriesWf.writeFw {w : Nat} {v : Word} (h : MemoriesWf s) : MemoriesWf (writeFw w v s) :=
  .ite h.frame h

protected theorem MemoriesWf.writeBoot {who : Writer} {w : Nat} {v : Word} (h : MemoriesWf s) :
    MemoriesWf (writeBoot who w v s) := by
  unfold writeBoot
  split
  · exact h.writeReset
  · exact h.writeHostImage
  · split
    · exact h
    · exact h.startNor
  · exact h.updBoot
  · exact h.updBoot
  · exact h

protected theorem MemoriesWf.writeAcked {w : Fin 4} {v : Word} (h : MemoriesWf s) : MemoriesWf (writeAcked w v s) :=
  h.frame

protected theorem MemoriesWf.takeNumber (h : MemoriesWf s) : MemoriesWf (takeNumber s) := by
  unfold takeNumber
  split
  · exact h
  · dsimp only
    split
    · exact h
    · exact h.frame

protected theorem MemoriesWf.writeHostPort {w : Nat} {v : Word} (h : MemoriesWf s) :
    MemoriesWf (writeHostPort w v s) := by
  unfold writeHostPort
  split
  · exact h.frame.takeNumber
  · exact h.frame
  · exact h.frame
  · exact h.frame
  · exact h.frame
  · exact h.frame
  · exact h.frame
  · exact h.frame
  · exact .ite h.frame <| .ite h.frame <| .ite h.writeAcked h

protected theorem MemoriesWf.writeClocks {who : Writer} {w : Nat} {v : Word} (h : MemoriesWf s) :
    MemoriesWf (writeClocks who w v s) :=
  .ite h.updPll <| .ite (.ite (MemoriesWf.ite (MemoriesWf.ite h.setRunEn h).setSleepEn <|
    .ite h.setRunEn h).setDeepEn <| .ite (MemoriesWf.ite h.setRunEn h).setSleepEn <| .ite h.setRunEn h) <|
    .ite h.programOtp h

protected theorem MemoriesWf.settleAllTopping (h : MemoriesWf s) : MemoriesWf (settleAllTopping s) :=
  h.foldState fun _ _ h => h.settleTopping

protected theorem MemoriesWf.writePower {w : Nat} {v : Word} (h : MemoriesWf s) : MemoriesWf (writePower w v s) := by
  unfold writePower
  split
  · exact h.frame
  · exact h.frame
  · exact h.frame
  · exact h.frame
  · exact h.frame
  · exact h.frame
  · exact (MemoriesWf.ite h.frame h.frame.stopTopping).settleAllTopping
  · exact .ite h.updRail h

protected theorem MemoriesWf.writeThermal {w : Nat} {v : Word} (h : MemoriesWf s) :
    MemoriesWf (writeThermal w v s) := by
  unfold writeThermal
  split
  · exact h.frame
  · exact h.frame
  · exact h

protected theorem MemoriesWf.writeSafety {who : Writer} {w : Nat} {v : Word} (h : MemoriesWf s) :
    MemoriesWf (writeSafety who w v s) := by
  unfold writeSafety
  split
  · exact h.writeSafetyConfig
  · exact h.writeSafetyConfig
  · exact h.frame
  · exact h.writeForce
  · exact h

protected theorem MemoriesWf.writeDiag {w : Nat} {v : Word} (h : MemoriesWf s) : MemoriesWf (writeDiag w v s) := by
  unfold writeDiag
  split
  · exact h.frame
  · exact h.frame
  · exact h.frame
  · exact .ite h.frame h

protected theorem MemoriesWf.writeBook {who : Writer} {w : Nat} {v : Word} (h : MemoriesWf s) :
    MemoriesWf (writeBook who w v s) := by
  unfold writeBook
  split
  · exact .ite (MemoriesWf.ite h.writeFreeze h).writeThaw <| .ite h.writeFreeze h
  · exact h.frame
  · exact h

protected theorem MemoriesWf.writeVine {w : Nat} {v : Word} (h : MemoriesWf s) : MemoriesWf (writeVine w v s) := by
  unfold writeVine
  split
  · exact h.frame
  · exact h.frame
  · exact h.frame
  · exact h.frame
  · exact h.frame
  · exact .ite h.updLink h

protected theorem MemoriesWf.writeAlarm {p w : Nat} {v : Word} (h : MemoriesWf s) : MemoriesWf (writeAlarm p w v s) :=
  .ite h.ackSlot h

protected theorem MemoriesWf.writeMmu {w : Nat} {v : Word} (h : MemoriesWf s) : MemoriesWf (writeMmu w v s) :=
  .ite h.frame <| .ite h.frame h

protected theorem MemoriesWf.writeMemctl {w : Nat} {v : Word} (h : MemoriesWf s) : MemoriesWf (writeMemctl w v s) := by
  unfold writeMemctl
  split
  · exact h.frame
  · exact h.frame
  · exact h.frame
  · exact h.frame
  · exact h.frame
  · exact .ite h.frame <| .ite h.frame h

protected theorem MemoriesWf.writeCellar {w : Nat} {v : Word} (h : MemoriesWf s) : MemoriesWf (writeCellar w v s) :=
  .ite h.frame <| .ite h.frame <| .ite h.frame h

protected theorem MemoriesWf.writeFailed {mask : BitVec 16} (h : MemoriesWf s) : MemoriesWf (writeFailed mask s) :=
  (h.foldState fun _ _ h => .ite h h.setFailed).settleJobs

protected theorem MemoriesWf.writePress {n : Fin 16} {w : Nat} {v : Word} (h : MemoriesWf s) :
    MemoriesWf (writePress n w v s) := by
  unfold writePress
  split
  · exact h.updPress
  · split
    · exact h.updPress
    · exact h.updPress
  · exact h.updPress
  · exact h.updPress
  · split
    · exact h.updPress
    · exact h.updPress

protected theorem MemoriesWf.writePipe {n : Fin 16} {w : Nat} {v : Word} (h : MemoriesWf s) :
    MemoriesWf (writePipe n w v s) := h.updPipe

protected theorem MemoriesWf.writeEngine {e : Fin 6} {w : Nat} {v : Word} (h : MemoriesWf s) :
    MemoriesWf (writeEngine e w v s) := by
  unfold writeEngine
  split
  · exact .ite h.updEngine h
  · split
    · exact h
    · split
      · exact h.frame
      · exact h.frame
      · exact h.frame
      · exact h

protected theorem MemoriesWf.writeCodec {w : Nat} {v : Word} (h : MemoriesWf s) : MemoriesWf (writeCodec w v s) :=
  .ite h.frame h

protected theorem MemoriesWf.writeQgrp {k w : Nat} {v : Word} (h : MemoriesWf s) : MemoriesWf (writeQgrp k w v s) := by
  unfold writeQgrp
  split
  · exact h
  · split
    · exact h.updQueue
    · exact .ite h.resumeGo h
    · exact h.updQueue
    · exact h.updQueue
    · exact h

protected theorem MemoriesWf.writeParcel {n : Fin 8} {w : Nat} {v : Word} (h : MemoriesWf s) :
    MemoriesWf (writeParcel n w v s) := h.updParcel

protected theorem MemoriesWf.writeAcct {p w : Nat} {v : Word} (h : MemoriesWf s) : MemoriesWf (writeAcct p w v s) :=
  .ite h.frame h

protected theorem MemoriesWf.writeBlock {who : Writer} {p w : Nat} {v : Word} (h : MemoriesWf s) :
    MemoriesWf (writeBlock who p w v s) :=
  .ite h.writeFw <| .ite h.writeBoot <| .ite h.writeHostPort <| .ite h.writeClocks <| .ite h.writePower <|
    .ite h.writeThermal <| .ite h.writeSafety <| .ite h.writeDiag <| .ite h.writeBook <| .ite h.writeVine <|
    .ite h.writeAlarm <| .ite h.writeMmu <| .ite h.writeMemctl <| .ite h.writeCellar <|
    .ite (.ite h.writeFailed h) <| .ite h.writePress <| .ite h.writePipe <| .ite h.writeEngine <|
    .ite h.writeCodec <| .ite h.writeQgrp <| .ite h.writeParcel h.writeAcct

protected theorem MemoriesWf.regApply {who : Writer} {p w : Nat} {v : Word} (h : MemoriesWf s) :
    MemoriesWf (regApply who p w v s) := .ite h <| .ite h.writeCommon h.writeBlock

protected theorem MemoriesWf.regWrite {who : Writer} {p w : Nat} {v : Word} (h : MemoriesWf s) :
    MemoriesWf (regWrite who p w v s).1 := by
  unfold regWrite
  split
  · exact h
  · split
    · exact h.regApply
    · split
      · exact h
      · split
        · exact h
        · exact h.regApply

protected theorem MemoriesWf.writeWord {who : Writer} {p w : Nat} {v : Word} (h : MemoriesWf s) :
    MemoriesWf (writeWord who p w v s) := .ite (.ite h.hostError h) <| .ite h.regWrite.hostError h.regWrite

protected theorem MemoriesWf.stepCntClear {who : Writer} {p : Nat} (h : MemoriesWf s) :
    MemoriesWf (stepCntClear who p s) := .ite h.writeWord h

protected theorem MemoriesWf.writeDomBit {who : Writer} {d : Fin 9} {b : Nat} {on : Bool} (h : MemoriesWf s) :
    MemoriesWf (writeDomBit who d b on s) := h.writeWord

/-! ### Machine/HostPort.lean -/

protected theorem MemoriesWf.pushUnit {unit : Nat} {event : Option (BitVec 2)} (h : MemoriesWf s) :
    MemoriesWf (pushUnit unit event s) := .ite h.send.frame h.send

protected theorem MemoriesWf.stepEchoPush {unit : BitVec 22} (h : MemoriesWf s) : MemoriesWf (stepEchoPush unit s) := by
  unfold stepEchoPush
  split
  · exact h
  · split
    · exact .ite h.pushUnit h
    · exact .ite h.frame.pushUnit h

protected theorem MemoriesWf.noteCopy {dev unit : Nat} (h : MemoriesWf s) : MemoriesWf (noteCopy dev unit s) :=
  h.frame

protected theorem MemoriesWf.stepEchoApply {dev : Nat} {unit : BitVec 22} {data : List Byte} {event : Option (Fin 4)}
    (h : MemoriesWf s) : MemoriesWf (stepEchoApply dev unit data event s) := by
  unfold stepEchoApply
  split
  · exact h
  · split
    · exact h
    · cases event with
      | none => exact .ite h.updWindow h.updWindow.noteCopy
      | some w => exact (MemoriesWf.ite h.updWindow h.updWindow.noteCopy).raiseWire

protected theorem MemoriesWf.errorAt {code : BitVec 16} {off : Option Nat} (h : MemoriesWf s) :
    MemoriesWf (errorAt code off s) := by
  unfold errorAt
  split
  · exact h
  · exact h.hostError

/-- One word of a control burst. -/
theorem memoriesWf_controlWord {bytes : List (Nat × Byte)} {a : Nat} {c : ControlWrite} (h : MemoriesWf c.s) :
    MemoriesWf (controlWord bytes a c).s := by
  unfold controlWord
  dsimp only
  split
  · exact h
  · split
    · split <;> exact h
    · exact h.regWrite

/-- The words of a control burst. -/
theorem memoriesWf_controlWords {bytes : List (Nat × Byte)} {words : List Nat} {c : ControlWrite} (h : MemoriesWf c.s) :
    MemoriesWf (words.foldl (fun c a => controlWord bytes a c) c).s := by
  induction words generalizing c with
  | nil => exact h
  | cons a rest ih => exact ih (memoriesWf_controlWord h)

protected theorem MemoriesWf.controlWrite {off : Nat} {bytes : List (Nat × Byte)} (h : MemoriesWf s) :
    MemoriesWf (controlWrite off bytes s) :=
  .ite h.errorAt (memoriesWf_controlWords (c := { s := s }) h).errorAt.errorAt

protected theorem MemoriesWf.observe {at_ : Nat} {bytes : List (Nat × Byte)} {watched : Bool}
    {ev : Long → ObserverEvent} (h : MemoriesWf s) :
    MemoriesWf (observe at_ bytes watched ev s) := .ite h.frame h

protected theorem MemoriesWf.localWrite {off : Nat} {data : List (Option Byte)} (h : MemoriesWf s) :
    MemoriesWf (localWrite off data s) := by
  have written : MemoriesWf (s.updWindow fun m => m.writeAll (writtenBytes off data)) :=
    h.updWindow fun m hm => Mem.wf_writeAll m _ hm
  exact .ite h <| .ite h.controlWrite <| .ite h.errorAt <| .ite h.errorAt <| .ite (.ite h.errorAt written.observe) <|
    .ite h.errorAt <| .ite written.observe written

protected theorem MemoriesWf.forwardWrite {slot w : Nat} {data : List (Option Byte)} (h : MemoriesWf s) :
    MemoriesWf (forwardWrite slot w data s) := .ite h.frame.hostError h.frame.pumpForward

protected theorem MemoriesWf.windowWrite {w : Nat} {data : List (Option Byte)} (h : MemoriesWf s) :
    MemoriesWf (windowWrite w data s) := .ite h.hostError <| .ite h.localWrite h.forwardWrite

protected theorem MemoriesWf.stepHostWrite {ch : Fin 2} {row : BitVec 17} {bank : BitVec 4} {col : BitVec 11}
    {data : List (Option Byte)} {ecc : LinkEcc} (h : MemoriesWf s) :
    MemoriesWf (stepHostWrite ch row bank col data ecc s) := by
  unfold stepHostWrite
  split
  · exact h
  · split
    · exact h.windowWrite
    · exact h.frame.windowWrite
    · exact h.frame.hostError

protected theorem MemoriesWf.stepForwarded {off : Nat} {data : List (Option Byte)} (h : MemoriesWf s) :
    MemoriesWf (stepForwarded off data s) := .ite h h.localWrite

protected theorem MemoriesWf.driveData {l : List Byte} (h : MemoriesWf s) : MemoriesWf (driveData l s) := h.frame

protected theorem MemoriesWf.readControl {fuel a : Nat} {acc : List Byte} (h : MemoriesWf s) :
    MemoriesWf (readControl fuel a acc s).2 := by
  induction fuel generalizing a acc s with
  | zero => exact h
  | succ fuel ih => exact ih h.latchHi

protected theorem MemoriesWf.localRead {off n : Nat} (h : MemoriesWf s) : MemoriesWf (localRead off n s) :=
  .ite h.errorAt.driveData (.ite h.readControl.driveData (.ite h.driveData h.bump.driveData))

protected theorem MemoriesWf.windowRead {w n : Nat} (h : MemoriesWf s) : MemoriesWf (windowRead w n s) := by
  unfold windowRead
  split
  · exact h.hostError.driveData
  · split
    · exact h.localRead
    · split
      · exact h.hostError.driveData
      · exact h.driveData

protected theorem MemoriesWf.stepHostRead {ch : Fin 2} {row : BitVec 17} {bank : BitVec 4} {col : BitVec 11} {n : Nat}
    (h : MemoriesWf s) : MemoriesWf (stepHostRead ch row bank col n s) := .ite h.windowRead h

protected theorem MemoriesWf.stepReservedRead {off : Nat} (h : MemoriesWf s) : MemoriesWf (stepReservedRead off s) :=
  .ite h.localRead h

protected theorem MemoriesWf.updHostChannel {ch : Fin 2} {f : HostChannel → HostChannel} (h : MemoriesWf s) :
    MemoriesWf (s.updHostChannel ch f) := h.frame

protected theorem MemoriesWf.stepModeWrite {ch : Fin 2} {mr value : Byte} (h : MemoriesWf s) :
    MemoriesWf (stepModeWrite ch mr value s) := .ite h h.updHostChannel

protected theorem MemoriesWf.stepModeRead {ch : Fin 2} {mr : Byte} (h : MemoriesWf s) :
    MemoriesWf (stepModeRead ch mr s) := .ite h.driveData h

protected theorem MemoriesWf.stepWriteFifo {ch : Fin 2} {data : List Byte} (h : MemoriesWf s) :
    MemoriesWf (stepWriteFifo ch data s) := .ite h.updHostChannel h

protected theorem MemoriesWf.stepReadFifo {ch : Fin 2} (h : MemoriesWf s) : MemoriesWf (stepReadFifo ch s) :=
  .ite h.driveData h

protected theorem MemoriesWf.stepTraining {ch : Fin 2} {kind : TrainingKind} (h : MemoriesWf s) :
    MemoriesWf (stepTraining ch kind s) := by
  unfold stepTraining
  split
  · exact h
  · split
    · exact h
    · exact h
    · exact h
    · exact h.driveData
    · exact .ite h h.frame

protected theorem MemoriesWf.tellSleep {asleep : Bool} (h : MemoriesWf s) : MemoriesWf (tellSleep asleep s) :=
  h.frame.pumpForward

protected theorem MemoriesWf.pauseSlices {asleep : Bool} (h : MemoriesWf s) : MemoriesWf (pauseSlices asleep s) :=
  .ite h.frame h.frame

protected theorem MemoriesWf.setSleep {ch : Fin 2} {asleep : Bool} (h : MemoriesWf s) :
    MemoriesWf (setSleep ch asleep s) :=
  .ite h <| .ite h.updHostChannel <| .ite h.updHostChannel.pauseSlices.tellSleep h.updHostChannel.pauseSlices

/-! ### Machine/Press.lean -/

/-- A change of a primary press and its twin that keeps the canonical form of both. -/
protected theorem MemoriesWf.updBoth {p : Fin 16} {f : Press → Press} (h : MemoriesWf s)
    (hf : KeepsPress f := by exact fun _ hx => hx.frame) : MemoriesWf (updBoth p f s) := by
  unfold updBoth
  split
  · exact h.updPress hf
  · exact (h.updPress hf).updPress hf

protected theorem MemoriesWf.updSequencers {p : Fin 16} {f : Sequencer → Sequencer} (h : MemoriesWf s) :
    MemoriesWf (updSequencers p f s) := h.updBoth

protected theorem MemoriesWf.updSequencer {p : Fin 16} {f : Sequencer → Sequencer} (h : MemoriesWf s) :
    MemoriesWf (updSequencer p f s) := h.updPress

protected theorem MemoriesWf.advance {p : Fin 16} (h : MemoriesWf s) : MemoriesWf (advance p s) := h.updSequencers

protected theorem MemoriesWf.signal {p : Fin 16} {counter : Nat} (h : MemoriesWf s) :
    MemoriesWf (signal p counter s) := h.updPress

protected theorem MemoriesWf.settleParts {q : Fin 256} {seq : Word} (h : MemoriesWf s) :
    MemoriesWf (settleParts q seq s) := by
  unfold settleParts
  split
  · exact h
  · exact .ite h.updCmd h

protected theorem MemoriesWf.saveImage {cx : Cx} {p : Fin 16} {f : FoldImage} (h : MemoriesWf s) :
    OkWf (saveImage cx p f s) := by
  unfold saveImage
  split
  · exact .error
  · exact h.writeLocs.foldExcept fun _ _ h => .map fun _ => h.writeLocs

protected theorem MemoriesWf.restoreImage {cx : Cx} {p : Fin 16} {f : FoldImage} (h : MemoriesWf s) :
    OkWf (restoreImage cx p f s) := by
  unfold restoreImage
  split
  · exact .error
  · exact h.updPress.foldExcept fun _ _ h => .map fun _ =>
      h.updPress fun _ hx => ⟨Mem.wf_writeBytes _ _ _ hx.1, hx.2⟩

protected theorem MemoriesWf.swapSlots {cx : Cx} {p : Fin 16} {w : FoldSwap} (h : MemoriesWf s) :
    OkWf (swapSlots cx p s w) := by
  unfold swapSlots
  split
  · exact .error
  · next e => exact (h.saveImage _ e).restoreImage.mapState fun _ h => h.updSequencers

/-- Issuing an instruction keeps the canonical form where its effect does. -/
protected theorem MemoriesWf.issue {p : Fin 16} {opcode : Nat} {f : Cmd × Sequencer × PressInstr → State → State}
    (h : MemoriesWf s) (hf : ∀ x s, MemoriesWf s → MemoriesWf (f x s)) : MemoriesWf (issue p opcode f s) := by
  unfold issue
  split
  · exact h
  · split
    · exact hf _ s h
    · split
      · exact h
      · split
        · exact .ite h h.killCmd
        · next e =>
          have swapped := h.foldExcept (fun _ _ h => h.swapSlots) _ e
          split
          · exact swapped
          · exact hf _ _ swapped

/-- The stores of a nest in progress are canonical. -/
def NestWf (n : NestRun) : Prop := n.accumulators.wf = true ∧ n.sideStore.wf = true

theorem NestWf.matmulStep {cx : Cx} {ops : List Operand} {k : PressInstr} {n : NestRun} {i : Nat} (h : NestWf n) :
    NestWf (matmulStep s cx ops k n i) := by
  have stored : ∀ first t, NestWf (storeTile first t n) := fun _ _ =>
    ⟨Mem.wf_writeBytes _ _ _ h.1, Mem.wf_writeBytes _ _ _ h.2⟩
  unfold Machine.matmulStep
  dsimp only
  split
  · split
    · exact stored _ _
    · split
      · exact stored _ _
      · exact stored _ _
  · exact h

theorem NestWf.foldl_matmulStep {cx : Cx} {ops : List Operand} {k : PressInstr} {l : List Nat} {n : NestRun}
    (h : NestWf n) : NestWf (l.foldl (Machine.matmulStep s cx ops k) n) := by
  induction l generalizing n with
  | nil => exact h
  | cons i rest ih => exact ih h.matmulStep

theorem nestWf_runMatmul {cx : Cx} {ops : List Operand} {k : PressInstr} {p : Press} (h : PressMemoriesWf p) :
    NestWf (runMatmul s cx ops k p) := NestWf.foldl_matmulStep h.2

protected theorem MemoriesWf.stepMatmul {p : Fin 16} {st : Stalls} (h : MemoriesWf s) :
    MemoriesWf (stepMatmul p st s) := by
  refine h.issue ?_
  rintro ⟨c, k, i⟩ s h
  dsimp only
  split
  · exact h
  · have counted : MemoriesWf (updBoth p (countCycles (runMatmul s (pressCx s k.queue p) c.operands i (s.press p)).spans
        (runMatmul s (pressCx s k.queue p) c.operands i (s.press p)).cause st) s) := h.updBoth
    split
    · exact .ite h counted.killCmd
    · have nest := nestWf_runMatmul (s := s) (cx := pressCx s k.queue p) (ops := c.operands) (k := i) (h.press_wf p)
      refine MemoriesWf.advance (MemoriesWf.updSequencer (counted.updBoth ?_))
      exact fun _ hx => ⟨hx.1, nest⟩

protected theorem MemoriesWf.stepEltwise {p : Fin 16} {st : Stalls} (h : MemoriesWf s) :
    MemoriesWf (stepEltwise p st s) := by
  refine h.issue ?_
  rintro ⟨c, k, i⟩ s h
  dsimp only
  split
  · exact h
  · split
    · exact .ite h h.updBoth.killCmd
    · exact h.updBoth.updBoth.updSequencer.advance

protected theorem MemoriesWf.stepWeightTile {p : Fin 16} (h : MemoriesWf s) : MemoriesWf (stepWeightTile p s) := by
  refine h.issue ?_
  rintro ⟨c, k, i⟩ s h
  dsimp only
  split
  · exact h
  · split
    · exact h.killCmd
    · exact h.updBoth

protected theorem MemoriesWf.twinMismatch {p t : Fin 16} {q : Fin 256} {seq : Word} (h : MemoriesWf s) :
    MemoriesWf (twinMismatch p t q seq s) := h.updPress.updPress.raiseKey.killCmd

protected theorem MemoriesWf.finishDrain {p : Fin 16} {k : Sequencer} {t : OutTile} {rest : List OutTile}
    (h : MemoriesWf s) : MemoriesWf (finishDrain p k t rest s) := by
  have written : MemoriesWf (s.updPress p fun x => { x with cask := x.cask.writeRuns t.writes }) :=
    h.updPress fun _ hx => ⟨Mem.wf_writeRuns _ _ hx.1, hx.2⟩
  exact .ite written.updSequencer.updBoth.signal.settleParts written.updSequencer

protected theorem MemoriesWf.stepDrainEnd {p : Fin 16} {twinCrc : Option Word} (h : MemoriesWf s) :
    MemoriesWf (stepDrainEnd p twinCrc s) := by
  unfold stepDrainEnd
  split
  · exact h
  · split
    · exact h
    · split
      · exact h.finishDrain
      · exact .ite h.finishDrain h.twinMismatch

protected theorem MemoriesWf.stepDma {p : Fin 16} (h : MemoriesWf s) : MemoriesWf (stepDma p s) :=
  h.issue fun _ _ h => h.updSequencer.advance

protected theorem MemoriesWf.stepWait {p : Fin 16} (h : MemoriesWf s) : MemoriesWf (stepWait p s) :=
  h.issue fun _ _ h => .ite h.advance h.updSequencers

protected theorem MemoriesWf.stepWaitSatisfied {p : Fin 16} {held : Nat} (h : MemoriesWf s) :
    MemoriesWf (stepWaitSatisfied p held s) := by
  unfold stepWaitSatisfied
  split
  · exact h
  · exact .ite h.updBoth.updSequencers.advance h

protected theorem MemoriesWf.stepWaitTimeout {p : Fin 16} {held : Nat} (h : MemoriesWf s) :
    MemoriesWf (stepWaitTimeout p held s) := by
  unfold stepWaitTimeout
  split
  · exact h
  · exact h.updBoth.killCmd

protected theorem MemoriesWf.issueChild {p : Fin 16} {held : Nat} {parent : Cmd} {k : Sequencer} {i : PressInstr}
    {d : List Byte} (h : MemoriesWf s) :
    MemoriesWf (issueChild p held parent k i d s) := by
  unfold issueChild
  dsimp only
  split
  · exact h
  · split
    · exact .ite h h.updEngine.killCmd
    · exact h.updEngine.updBoth.updSequencer.advance

protected theorem MemoriesWf.stepEngine {p : Fin 16} {held : Nat} (h : MemoriesWf s) :
    MemoriesWf (stepEngine p held s) := by
  refine h.issue ?_
  rintro ⟨c, k, i⟩ s h
  dsimp only
  split
  · exact h.killCmd
  · split
    · exact h.killCmd
    · exact h.issueChild

protected theorem MemoriesWf.stepRack {p : Fin 16} (h : MemoriesWf s) : MemoriesWf (stepRack p s) :=
  h.issue fun _ _ h => .ite h.updSequencers h.updSequencers.advance

protected theorem MemoriesWf.stepEnd {p : Fin 16} (h : MemoriesWf s) : MemoriesWf (stepEnd p s) :=
  h.issue fun _ _ h => h.updSequencers.settleParts

protected theorem MemoriesWf.countArrival {cx : Cx} {p : Fin 16} {j : DmaJob} (h : MemoriesWf s) :
    OkWf (countArrival cx p j s) := by
  unfold countArrival
  split
  · exact .ok h.signal
  · dsimp only
    split
    · exact .error
    · exact .map fun _ => h.writeLocs

protected theorem MemoriesWf.beginTransfer {p : Fin 16} {j : DmaJob} (h : MemoriesWf s) :
    MemoriesWf (beginTransfer p j s) := .ite h.takeLane h

protected theorem MemoriesWf.stepDmaIteration {p : Fin 16} {job : Nat} (h : MemoriesWf s) :
    MemoriesWf (stepDmaIteration p job s) := by
  unfold stepDmaIteration
  split
  · exact h
  · split
    · exact h
    · next j _ =>
      dsimp only
      generalize (if j.next + 1 < j.total then some { j with next := j.next + 1 } else none) = left
      split
      · exact h
      · split
        · exact .ite h h.beginTransfer.dmaIteration.killCmd
        · split
          · exact .ite h h.beginTransfer.dmaIteration.killCmd
          · next e => exact (h.beginTransfer.dmaIteration.countArrival _ e).updSequencer.settleParts

protected theorem MemoriesWf.stepChildComplete {e : Fin 5} (h : MemoriesWf s) : MemoriesWf (stepChildComplete e s) := by
  unfold stepChildComplete
  dsimp only
  split
  · exact h
  · split
    · exact h.updEngine
    · exact h.updEngine.signal.updSequencer.settleParts

protected theorem MemoriesWf.stepSleep {u : SleepUnit} (h : MemoriesWf s) : MemoriesWf (stepSleep u s) := by
  unfold stepSleep
  split
  · exact .ite h.updPress h
  · exact .ite h.updEngine h

protected theorem MemoriesWf.caskError {p : Fin 16} {a : Nat} (h : MemoriesWf s) : MemoriesWf (caskError p a s) :=
  h.updPress.raiseKey

protected theorem MemoriesWf.stepCaskScrub {p : Fin 16} {bank : Fin 32} {found : EccResult} (h : MemoriesWf s) :
    MemoriesWf (stepCaskScrub p bank found s) := by
  unfold stepCaskScrub
  split
  · exact h
  · split
    · exact h.updPress
    · exact h.updPress.updPress
    · exact h.updPress.caskError

protected theorem MemoriesWf.cellarError {a : Nat} (h : MemoriesWf s) : MemoriesWf (cellarError a s) :=
  h.frame.raiseKey

protected theorem MemoriesWf.stepCellarScrub {bank : Fin 64} {found : EccResult} (h : MemoriesWf s) :
    MemoriesWf (stepCellarScrub bank found s) := by
  unfold stepCellarScrub
  split
  · exact h
  · split
    · exact h.frame
    · exact h.frame.frame
    · exact h.frame.cellarError

protected theorem MemoriesWf.sramError {place : SramPlace} (h : MemoriesWf s) : MemoriesWf (sramError place s) := by
  unfold sramError
  split
  · exact h.caskError
  · exact h.updPress.raiseKey
  · exact h.cellarError
  · exact h.raiseKey
  · exact h.raiseKey
  · exact h.raiseKey
  · exact h.raiseKey
  · exact h.raiseKey

protected theorem MemoriesWf.stepSramError {q : Fin 256} {seq : Word} {place : SramPlace} {agent : Byte}
    (h : MemoriesWf s) : MemoriesWf (stepSramError q seq place agent s) := h.bump.sramError.killAccess

/-! ### Machine/Parcels.lean -/

protected theorem MemoriesWf.fallBack {n : Fin 8} {q : Fin 256} {seq : Word} (h : MemoriesWf s) :
    MemoriesWf (fallBack n q seq s) := h.updParcel.preemptKill

protected theorem MemoriesWf.preempt {n : Fin 8} {w : Fin 256 × Word} (h : MemoriesWf s) :
    MemoriesWf (preempt n w s) := by
  unfold preempt
  split
  · exact h
  · split
    · exact h.preemptKill
    · split
      · exact h.updParcel.updCmd
      · exact h.fallBack

protected theorem MemoriesWf.changeHolder {n : Fin 8} {old context : BitVec 16} {wanted : List (Fin 16)}
    (h : MemoriesWf s) :
    MemoriesWf (changeHolder n old context wanted s) := h.updParcel.traceEvent.foldState fun _ _ h => h.preempt

protected theorem MemoriesWf.stepSliceEnd {n : Fin 8} (h : MemoriesWf s) : MemoriesWf (stepSliceEnd n s) := by
  unfold stepSliceEnd
  split
  · exact h
  · split
    · exact h
    · dsimp only
      split
      · exact h.updParcel.applyParcel
      · exact .ite h h.changeHolder.applyParcel

protected theorem MemoriesWf.stepRackStop {q : Fin 256} {seq : Word} (h : MemoriesWf s) :
    MemoriesWf (stepRackStop q seq s) := by
  unfold stepRackStop
  split
  · exact h
  · split
    · exact h
    · exact .ite h.updCmd h

protected theorem MemoriesWf.stepRackExpiry {q : Fin 256} {seq : Word} (h : MemoriesWf s) :
    MemoriesWf (stepRackExpiry q seq s) := by
  unfold stepRackExpiry
  split
  · exact h
  · exact .ite h.fallBack h

protected theorem MemoriesWf.saveWrite {va : Nat} {l : List Byte} (h : MemoriesWf s) : OkWf (saveWrite va l s) :=
  .map fun _ => h.writeLocs

protected theorem MemoriesWf.saveRanges {m : Mem} {base : Nat} {l : List (Nat × Nat)} (h : MemoriesWf s) :
    OkWf (saveRanges m base l s) := by
  suffices go : ∀ acc : Except Stop State, OkWf acc → OkWf (l.foldl (fun acc r => match acc with
      | .error e => .error e
      | .ok s => saveWrite (base + r.1) (m.readBytes r.1 r.2) s) acc) from go _ (.ok h)
  induction l with
  | nil => exact fun _ h => h
  | cons r rest ih =>
    intro acc hacc
    cases acc with
    | error e => exact ih _ .error
    | ok s => exact ih _ (hacc s rfl).saveWrite

protected theorem MemoriesWf.savePress {c : Cmd} {n : Fin 8} {slot : Nat} {p : Fin 16} (h : MemoriesWf s) :
    OkWf (savePress c n slot s p) := by
  unfold savePress
  dsimp only
  split
  · exact .ok h
  · split
    · exact .error
    · next e1 =>
      split
      · exact .error
      · next e2 =>
        split
        · exact .error
        · next e3 => exact (((h.saveRanges _ e1).saveRanges _ e2).saveWrite _ e3).saveWrite

protected theorem MemoriesWf.overPresses {f : State → Fin 16 → Except Stop State} {ps : List (Fin 16)}
    (h : MemoriesWf s)
    (hf : ∀ s p, MemoriesWf s → OkWf (f s p)) : OkWf (overPresses f ps s) := by
  induction ps generalizing s with
  | nil => exact .ok h
  | cons p rest ih =>
    unfold overPresses
    split
    · exact .error
    · next e => exact ih (hf s p h _ e)

protected theorem MemoriesWf.finishSave {q : Fin 256} {c : Cmd} {slot : Nat} (h : MemoriesWf s) :
    MemoriesWf (finishSave q c slot s) := by
  unfold finishSave
  dsimp only
  split
  · exact .ite h h.bump.killCmd
  · next e =>
    have saved := h.bump.overPresses (fun _ _ h => h.savePress) _ e
    exact (saved.updCmd.updParcel.foldState fun _ _ h => h.freePress).settleHolder

/-- A store that copies of the save area are written back into stays canonical. -/
theorem wf_restoreRanges {base : Nat} {l : List (Nat × Nat)} {m r : Mem} (h : m.wf = true)
    (e : restoreRanges s base l m = .ok r) : r.wf = true := by
  suffices go : ∀ acc : Except Stop Mem, (∀ m, acc = .ok m → m.wf = true) → (l.foldl (fun acc r => match acc with
      | .error e => .error e
      | .ok m => (saveRead s (base + r.1) r.2).map fun b => m.writeBytes r.1 b) acc) = .ok r → r.wf = true from
    go _ (fun _ e => Except.ok.inj e ▸ h) e
  clear e
  induction l with
  | nil => exact fun _ h => h r
  | cons x rest ih =>
    intro acc hacc
    refine ih _ fun m' e => ?_
    cases acc with
    | error e' => cases e
    | ok m0 =>
      dsimp only at e
      cases hr : saveRead s (base + x.1) x.2 with
      | error e' => rw [hr] at e; cases e
      | ok b => rw [hr] at e; cases e; exact Mem.wf_writeBytes _ _ _ (hacc m0 rfl)

protected theorem MemoriesWf.restorePress {c : Cmd} {n : Fin 8} {slot : Nat} {p : Fin 16} (h : MemoriesWf s) :
    OkWf (restorePress c n slot s p) := by
  have before : PressMemoriesWf (s.bump.press p) := h.press_wf p
  unfold restorePress
  dsimp only
  split
  · exact .error
  · next ecask =>
    have hcask := wf_restoreRanges (Mem.wf_wipe _ _ _ _ before.1) ecask
    split
    · exact .error
    · next eacc =>
      have hacc := wf_restoreRanges (Mem.wf_wipe _ _ _ _ before.2.1) eacc
      split
      · exact .error
      · split
        · exact .error
        · exact .ok (h.bump.updPress fun _ hx => ⟨hcask, hacc, Mem.wf_writeBytes _ _ _ hx.2.2⟩)

protected theorem MemoriesWf.refillRange {n : Fin 8} {q : Fin 256} {p : Nat} {g : Nat × Nat × Nat} (h : MemoriesWf s) :
    OkWf (refillRange n q p s g) := by
  unfold refillRange
  dsimp only
  split
  · exact .error
  · exact .map fun _ => h.writeLocs

protected theorem MemoriesWf.slotFails {q : Fin 256} {c : Cmd} {slot offset : Nat} (h : MemoriesWf s) :
    MemoriesWf (slotFails q c slot offset s) := by
  unfold slotFails
  dsimp only
  split
  · exact .ite h h.bump.killCmd
  · exact h.bump.noteUncorrectable.killCmd

protected theorem MemoriesWf.finishRestore {q : Fin 256} {c : Cmd} {slot : Nat} (h : MemoriesWf s) :
    MemoriesWf (finishRestore q c slot s) := by
  unfold finishRestore
  dsimp only
  split
  · exact .ite h h.bump.killCmd
  · next e =>
    have restored := h.overPresses (fun _ _ h => h.restorePress) _ e
    split
    · exact .ite h restored.killCmd
    · next e =>
      refine MemoriesWf.settleParts (MemoriesWf.updCmd (MemoriesWf.freeSlot (restored.foldStop ?_ _ e)))
      exact fun _ _ h => h.refillRange

protected theorem MemoriesWf.stepSwitch {q : Fin 256} {seq : Word} {slotError : Option Nat} (h : MemoriesWf s) :
    MemoriesWf (stepSwitch q seq slotError s) := by
  unfold stepSwitch
  split
  · exact h
  · split
    · exact h
    · split
      · exact h.finishSave
      · split
        · exact h.slotFails
        · exact h.finishRestore
      · exact h

/-! ### Machine/Translate.lean -/

protected theorem MemoriesWf.writeTranslation {t : Translated} (h : MemoriesWf s) :
    MemoriesWf (writeTranslation t s) := (h.foldState fun _ _ h => h.fwWrite).frame

protected theorem MemoriesWf.translateModule {b : List Byte} (h : MemoriesWf s) :
    MemoriesWf (translateModule b s).1 := by
  unfold translateModule
  dsimp only
  split
  · exact h.refuse
  · split
    · split
      · split
        · exact h
        · exact h.writeTranslation
      · exact h.refuse
    · exact h.refuse
/-! ### Commands and steps -/

/-- An outcome whose next state, where there is one, has canonical memories. -/
def NextWf (o : Host.Outcome State Fault Refusal) : Prop := ∀ t, o = .next t → MemoriesWf t

theorem MemoriesWf.iteApply {c : Prop} [Decidable c] {f g : State → State} (hf : MemoriesWf (f s))
    (hg : MemoriesWf (g s)) : MemoriesWf ((if c then f else g) s) := by
  split
  · exact hf
  · exact hg

protected theorem MemoriesWf.answer {f : State → State} (h : MemoriesWf (f s)) : NextWf (answer f s) :=
  fun _ e => Host.Outcome.next.inj e ▸ h.frame

protected theorem MemoriesWf.answerIf {ok : Bool} {m : String} {f : State → State} (h : MemoriesWf (f s)) :
    NextWf (answerIf ok m f s) := fun _ e => (answerIf_next e).2 ▸ h.frame

protected theorem MemoriesWf.answerNoting {health : ReadHealth} {f : State → State} (h : MemoriesWf (f s)) :
    NextWf (answerNoting health f s) :=
  MemoriesWf.answer (f := fun s => noteHealth health (f s)) h.noteHealth

/-- Every command keeps the canonical form. -/
theorem nextWf_exec {c : Instr} (h : MemoriesWf s) : NextWf (exec c s) := by
  cases c with
  | powerOnReset => exact (memoriesWf_powerOn _ _).answer
  | vddAonDrop => exact (MemoriesWf.iteApply (memoriesWf_powerOn _ _) (.iteApply h.raiseKey h)).answer
  | deviceReset => exact (MemoriesWf.iteApply h.deviceReset h).answer
  | bootWatchdog => exact h.stepBootWatchdog.answer
  | resetDevice => exact (h.byWriter h.writeReset).answer
  | autoReset => exact (MemoriesWf.iteApply h.deviceReset h).answer
  | romStart => exact (h.bootStep fun _ h => h.romStartBody).answer
  | clocks => exact (h.bootStep fun _ h => h.clocksBody).answer
  | hostPort => exact (h.bootStep fun _ h => h.hostPortBody).answer
  | source => exact (h.bootStep fun _ h => h.sourceLoop).answer
  | check => exact (h.bootStep fun _ h => h.checkRegions).answer
  | entry => exact (h.bootStep fun _ h => h.entryBody).answer
  | lpddr6 => exact (h.bootStep fun _ h => h.lpddr6Body).answerIf
  | memory => exact (h.bootStep fun _ h => h.memoryBody).answer
  | safety => exact (h.bootStep fun _ h => h.safetyBody).answer
  | vine => exact (h.bootStep fun _ h => h.vineBody).answerIf
  | ready => exact (h.bootStep fun _ h => h.readyBody).answer
  | slotConfirm => exact (h.bootStep fun _ h => h.slotConfirmBody).answer
  | hostImageWrite => exact h.writeHostImage.answer
  | vineImageRequest => exact h.stepImageRequest.answer
  | vineBootService => exact h.stepBootService.answer
  | eraseSlot => exact (h.byWriter h.startNor).answer
  | writeSlot => exact (h.byWriter h.startNor).answer
  | verifySlot => exact (h.byWriter h.startNor).answer
  | activateSlot => exact (h.byWriter h.startNor).answer
  | norCommandComplete => exact h.stepNorComplete.answer
  | pllLockJudged => exact h.judgeLock.answer
  | pllLoss => exact h.stepPllLoss.answer
  | pwrAlertAssert => exact h.stepAlertAssert.answer
  | pwrAlertDeassert => exact h.stepAlertDeassert.answer
  | alertHoldExpiry => exact h.stepAlertHold.answer
  | arithReturnSwitch => exact h.stepReturnSwitch.answer
  | domRunEn => exact h.writeDomBit.answer
  | domSleepEn => exact h.writeDomBit.answer
  | domDeepEn => exact h.writeDomBit.answer
  | otpProg => exact h.writeWord.answer
  | clockMonitorWindow => exact h.stepClockWindow.answerIf
  | clkDomain => exact h.stepClkDomain.answer
  | refclkLoss => exact h.stepRefclkLoss.answer
  | supplySample => exact h.stepSupplySample.answerIf
  | supply => exact h.stepSupply.answer
  | avsStep => exact h.stepAvs.answerIf
  | avsSettled => exact h.stepAvsSettled.answer
  | avsTimeout => exact h.stepAvsTimeout.answer
  | dvfsStep => exact h.stepDvfs.answer
  | powerMeasure => exact h.stepPowerMeasure.answerIf
  | capUnreachable => exact h.stepCapUnreachable.answer
  | alertLong => exact h.stepAlertLong.answer
  | thermalSample => exact h.stepThermal.answerIf
  | vintageReading => exact h.stepVintage.answerIf
  | guardUpdate => exact h.stepGuardUpdate.answer
  | toppingRampUp => exact h.stepToppingUp.answer
  | alarmDelivery => exact h.stepAlarmDelivery.answer
  | forceSafe => exact (h.byWriter h.writeForce).answer
  | remoteSafe => exact h.raiseKey.answer
  | lockstep => exact h.raiseKey.answer
  | busTimeout => exact h.raiseKey.answer
  | hartHeartbeat => exact h.stepHartHeartbeat.answer
  | hartWdog => exact h.stepHartWdog.answer
  | heartbeat => exact h.stepHeartbeat.answer
  | katDue => exact h.stepKatDue.answer
  | katTestEnd => exact h.stepKatTestEnd.answer
  | katCompare => exact h.stepKatCompare.answer
  | katLate => exact h.stepKatLate.answer
  | katFollowUp => exact h.stepKatFollowUp.answer
  | alarmAck => exact (h.byWriter h.ackSlot).answer
  | safetyConfigWrite => exact (h.byWriter h.writeSafetyConfig).answer
  | freeze => exact (h.byWriter h.writeFreeze).answer
  | thaw => exact (h.byWriter h.writeThaw).answer
  | logTake => exact h.stepLogTake.answer
  | commitGo => exact h.writeWord.answer
  | commitCancel => exact h.writeWord.answer
  | commitApply => exact h.applyUnit.answer
  | errClear => exact h.writeWord.answer
  | registerWrite => exact h.writeWord.answer
  | counterLoRead => exact h.latchHi.answer
  | reservedRead => exact h.stepReservedRead.answer
  | cntClear => exact h.stepCntClear.answer
  | acctClear => exact h.writeWord.answer
  | invalVpn => exact h.writeWord.answer
  | invalAll => exact h.writeWord.answer
  | maxPixelsWrite => exact h.writeWord.answer
  | pressFailedSet => exact h.writeWord.answer
  | resumeGo => exact h.writeWord.answer
  | irqAck => exact h.writeWord.answer
  | hostRead => exact h.stepHostRead.answerIf
  | hostWrite => exact h.stepHostWrite.answerIf
  | forwardedWriteApply => exact h.stepForwarded.answerIf
  | modeRegisterWrite => exact h.stepModeWrite.answer
  | modeRegisterRead => exact h.stepModeRead.answer
  | writeFifo => exact h.stepWriteFifo.answer
  | readFifo => exact h.stepReadFifo.answer
  | hostTraining => exact h.stepTraining.answer
  | hostRefresh => exact h.answer
  | powerDownEntry => exact h.answer
  | powerDownExit => exact h.answer
  | selfRefreshEntry => exact h.setSleep.answer
  | deepSleepModeEntry => exact h.setSleep.answer
  | selfRefreshExit => exact h.setSleep.answer
  | deepSleepModeExit => exact h.setSleep.answer
  | echoPush => exact h.stepEchoPush.answer
  | echoApply => exact h.stepEchoApply.answerIf
  | submitWordWrite => exact h.stepSubmitWord.answer
  | commandCheck => exact h.stepCommandCheck.answerNoting
  | commandStart => exact h.stepCommandStart.answer
  | commandCommit => exact h.stepCommandCommit.answer
  | corkAppend => exact h.stepCorkAppend.answer
  | pressProgram => exact h.stepPressProgram.answer
  | window => exact h.serveEngine.answerNoting
  | detect => exact h.serveEngine.answerNoting
  | fold => exact h.serveEngine.answerNoting
  | lookup => exact h.serveEngine.answerNoting
  | intake => exact h.stepIntake.answerNoting
  | capture => exact h.stepCapture.answer
  | copy => exact h.stepCopy.answerNoting
  | hevcEncode => exact h.runCodec.answerNoting
  | hevcDecode => exact h.runCodec.answerNoting
  | h264Decode => exact h.runCodec.answerNoting
  | jpegEncode => exact h.runCodec.answerNoting
  | barrier => exact h.stepBarrier.answer
  | objectFree => exact h.stepObjectFree.answer
  | marker => exact h.stepMarker.answer
  | matmul => exact h.stepMatmul.answerNoting
  | eltwise => exact h.stepEltwise.answerNoting
  | dma => exact h.stepDma.answer
  | wait => exact h.stepWait.answer
  | engine => exact h.stepEngine.answer
  | rack => exact h.stepRack.answer
  | endStream => exact h.stepEnd.answer
  | weightTileLoaded => exact h.stepWeightTile.answerNoting
  | outputTileDrainEnd => exact h.stepDrainEnd.answer
  | waitSatisfied => exact h.stepWaitSatisfied.answer
  | waitTimeout => exact h.stepWaitTimeout.answer
  | dmaIterationComplete => exact h.stepDmaIteration.answerNoting
  | childComplete => exact h.stepChildComplete.answer
  | killComplete => exact h.stepKillComplete.answer
  | pressSleep => exact h.stepSleep.answer
  | caskScrub => exact h.stepCaskScrub.answer
  | cellarScrub => exact h.stepCellarScrub.answer
  | sramUncorrectable => exact h.stepSramError.answer
  | dramUncorrectable => exact h.stepDramError.answer
  | translationFault => exact h.stepTranslationFault.answer
  | patrolScrub => exact h.stepPatrol.answer
  | pageMigration => exact h.stepPageMigration.answerNoting
  | odeccPoll => exact h.stepOdecc.answerIf
  | phyCalibrationStep => exact h.stepCalibration.answer
  | trainingValueSave => exact h.stepTrainingSave.answer
  | lpddr6Refresh => exact h.answer
  | dramTemperatureRead => exact h.stepDramTemperature.answer
  | sliceEnd => exact h.stepSliceEnd.answer
  | rackStop => exact h.stepRackStop.answer
  | rackWaitExpiry => exact h.stepRackExpiry.answer
  | switchComplete => exact h.stepSwitch.answerNoting
  | mailboxWordWrite => exact h.stepMailboxWord.answer
  | hello => exact (h.serve fun _ _ h => h).answer
  | parcelCreate => exact (h.serveAwake fun _ _ h => h.createParcel).answer
  | parcelDestroy => exact (h.serve fun _ _ h => h.destroyParcel).answer
  | queueCreate => exact (h.serve fun _ _ h => h.createQueue).answer
  | queueDestroy => exact (h.serve fun _ _ h => h.destroyQueue).answer
  | objectCreate => exact (h.serve fun _ _ h => h.createObject).answer
  | objectClearPoison => exact (h.serve fun _ _ h => h.clearPoison).answer
  | moduleTranslate => exact (h.serve fun _ _ h => h.translateModule).answerNoting
  | echoSet => exact (h.serve fun _ _ h => h.setEcho).answer
  | streamOpen => exact (h.serveAwake fun _ _ h => h.openStream).answer
  | streamClose => exact (h.serve fun _ _ h => h.closeRequest).answer
  | pipeCommit => exact (h.serve fun _ _ h => h.commitPipe).answer
  | pressFail => exact (h.serve fun _ _ h => h.failPress).answer
  | linkRetrain => exact (h.serveAwake fun _ _ h => h.retrainRequest).answer
  | collective => exact (h.serve fun _ _ h => h.beginCollective).answer
  | muxOpen => exact (h.serve fun _ _ h => h.openMux).answer
  | muxSubmit => exact (h.serve fun _ _ h => h.submitMux).answer
  | muxClose => exact (h.serve fun _ _ h => h.closeMux).answer
  | fwLoad => exact (h.serve fun _ _ h => h.loadImage).answer
  | fwSwap => exact (h.serve fun _ _ h => h.swapRequest).answer
  | fwSwapStall => exact h.stepSwapStall.answer
  | attest => exact (h.serve fun _ _ h => h.attestRequest).answer
  | flitReceive => exact h.stepFlitReceive.answerIf
  | replayRequest => exact h.stepReplayRequest.answer
  | linkSilenceTimeout => exact h.stepLinkSilence.answer
  | linkRetrainDone => exact h.stepLinkRetrained.answer
  | topologyDiscovery => exact h.stepDiscovery.answer
  | probeReturn => exact h.stepProbeReturn.answer
  | probeTimeout => exact h.stepProbeTimeout.answer
  | timeSyncSend => exact h.stepTimeSend.answer
  | timeSyncReceive => exact h.stepTimeReceive.answer
  | barrierArrival => exact h.stepArrival.answer
  | releaseTimeReceive => exact h.stepReleaseTime.answer
  | barrierRelease => exact h.stepBarrierRelease.answer
  | barrierTimeout => exact h.stepBarrierTimeout.answer
  | barrierAbort => exact h.stepBarrierAbort.answer
  | collectiveComplete => exact h.stepCollComplete.answer
  | collectiveTimeout => exact h.stepCollTimeout.answer
  | frameStart => exact h.stepFrameStart.answer
  | frameEnd => exact h.stepFrameEnd.answer
  | linePacket => exact h.stepLinePacket.answer
  | otherPacket => exact h.stepOtherPacket.answer
  | frameTimeout => exact h.stepFrameTimeout.answer
  | captureTimeout => exact h.stepCaptureTimeout.answer
  | ulpsEntry =>
    apply MemoriesWf.answer
    exact h.updPipe
  | ulpsExit =>
    apply MemoriesWf.answer
    exact h.updPipe
  | deskewSequence =>
    apply MemoriesWf.answer
    exact h.updPipe
  | fastRetrainDone => exact h.stepRetrainDone.answer
  | arithSlewComplete => exact h.stepSlewComplete.answer
  | clearingComplete => exact h.stepClearing.answer
  | signingComplete => exact h.stepSigning.answer

/-- Every step keeps the canonical form. -/
theorem nextWf_step (h : MemoriesWf s) : NextWf (step s) := by
  unfold step
  split
  · exact fun _ e => Host.Outcome.next.inj e ▸ h.tick
  · exact nextWf_exec h.frame

end

/-- Settles O55: each command is built of operations that keep the form, and the queue is no memory. -/
theorem memoriesStayCanonical : Obligations.MemoriesStayCanonical :=
  fun _ t h => nextWf_step h t

end Sys2Proof.Machine
end

section
/-! PROOF. Register writes: what a write of a word does for each writer, what a host port error leaves, and with them the
clauses of `Obligations.RegisterWritesAct`. -/

namespace Sys2Proof.Machine

/-! ### Host port errors -/

theorem pageError_page_ne {p q : Fin 121} {c : BitVec 16} {i : Word} {a : Long} {b : Byte} {s : State} (h : q ≠ p) :
    vget (pageError p c i a b s).pages q = vget s.pages q := by
  simp [pageError, State.updPage, vget_vupd_ne _ _ h.symm]

@[simp] theorem errorWire_errCount (s : State) : (errorWire s).port.errCount = s.port.errCount := by
  unfold errorWire raiseWire noteEcho
  repeat' split
  all_goals rfl

@[simp] theorem hostError_errCount (c : BitVec 16) (w : Nat) (s : State) :
    (hostError c w s).port.errCount = satInc s.port.errCount 1 := by
  simp [hostError]

theorem hostError_irqError (c : BitVec 16) (w : Nat) (s : State) :
    (vget (hostError c w s).pages pgHostPort).irqError = true := by
  simp [hostError, pageError_record]

theorem hostError_page_ne {p : Fin 121} (h : p ≠ pgHostPort) (c : BitVec 16) (w : Nat) (s : State) :
    vget (hostError c w s).pages p = vget s.pages p := by
  simp [hostError, pageError_page_ne h]

/-! ### Pages and words -/

theorem page_val (p : Fin 121) : page p.val = p := Fin.ofNat_val_eq_self p

theorem ofNat_page_toNat (p : Fin 121) : (BitVec.ofNat 10 p.val).toNat = p.val := by
  rw [BitVec.toNat_ofNat]
  omega

theorem offPress_of_lt {p : Nat} (s : State) (h : p < 20) : offPress s p = false := by
  simp [offPress, Nat.not_le.mpr h]

theorem offPress_press (s : State) (n : Fin 16) : offPress s (20 + n.val) = !enabled s n := by
  have hn : 20 + n.val ≤ 35 := by omega
  simp [offPress, hn]

theorem updPage_id {s : State} {p : Fin 121} {f : PageRegs → PageRegs} (h : f (vget s.pages p) = vget s.pages p) :
    s.updPage p f = s := by
  have pages : vupd s.pages p f = s.pages := by
    rw [vupd, h]
    exact Vector.set_getElem_self _
  rw [State.updPage, pages]

/-! ### The effect of a write, by its writer -/

theorem regApply_common {who : Writer} {p w : Nat} {v : Word} {s : State} (hp : offPress s p = false) (hw : w < 16)
    (h2 : w ≠ 2) : regApply who p w v s = writeCommon who (page p) w v s := by
  simp [regApply, hp, hw, h2]

theorem regApply_block {who : Writer} {p w : Nat} {v : Word} {s : State} (hp : offPress s p = false) (hw : 16 ≤ w) :
    regApply who p w v s = writeBlock who p w v s := by
  simp [regApply, hp, Nat.not_lt.mpr hw]

/-- R427: a write by firmware or the management port is applied as it stands. -/
theorem writeWord_firmware {who : Writer} {p w : Nat} {v : Word} {s : State} (hw : who ≠ .host)
    (ha : writerActs who s = true) (hp : allocated p = true) : writeWord who p w v s = regApply who p w v s := by
  simp [writeWord, regWrite, hw, ha, hp]

/-- R427: a host write is applied without the fields reserved to firmware, and recorded where it met one. -/
theorem writeWord_host {p w : Nat} {v : Word} {s : State} (hs : s.safety.safe = false ∨ safePage p = true)
    (hp : allocated p = true) (ho : offPress s p = false) :
    writeWord .host p w v s =
      if hostDenied s p w v then
        hostError 5 (ownAddress s (4096 * p + 4 * w)) (regApply .host p w (hostValue s p w v) s)
      else regApply .host p w (hostValue s p w v) s := by
  have hopen : (s.safety.safe && !safePage p) = false := by
    obtain h | h := hs <;> simp [h]
  simp [writeWord, regWrite, writerActs, hopen, hp, ho]

/-- A word with no field reserved to firmware is written alike by every writer. -/
theorem writeWord_open {who : Writer} {p w : Nat} {v : Word} {s : State} (h : Writes who p s) (hp : allocated p = true)
    (ho : offPress s p = false) (hrw : firmwareRw p w = 0) (hact : firmwareAct p w = 0) :
    writeWord who p w v s = regApply who p w v s := by
  obtain ⟨acts, safe⟩ := h
  by_cases hw : who = .host
  · subst hw
    have denied : hostDenied s p w v = false := by simp [hostDenied, hrw, hact]
    have value : hostValue s p w v = v := by
      have every : ~~~((0 : Word) ||| 0) = BitVec.allOnes 32 := rfl
      rw [hostValue, hrw, hact, every, BitVec.and_allOnes]
      simp
    rw [writeWord_host (safe rfl) hp ho, denied, value]
    rfl
  · exact writeWord_firmware hw acts hp

/-- R428: a page that is not allocated takes no write. -/
theorem writeWord_unallocated {who : Writer} {p w : Nat} {v : Word} {s : State} (hp : allocated p = false) :
    writeWord who p w v s = if who = .host then hostError 2 (ownAddress s (4096 * p + 4 * w)) s else s := by
  simp [writeWord, hp]

/-- R147: the page of a press that is not enabled takes no write. -/
theorem writeWord_offPress {who : Writer} {p w : Nat} {v : Word} {s : State} (hp : allocated p = true)
    (ho : offPress s p = true) (hs : who = .host → s.safety.safe = false) : writeWord who p w v s = s := by
  by_cases hw : who = .host
  · simp [writeWord, regWrite, hp, ho, hw, hs hw, writerActs]
  · simp [writeWord, regWrite, regApply, hp, ho, hw]

/-! ### IRQ_RAW and IRQ_MASK -/

theorem regRead_irqMask {s : State} {p : Fin 121} (hp : offPress s p.val = false) :
    regRead s p.val 5 = (vget s.pages p).irqMask := by
  have low : longAt s p.val 4 = none := by simp [longAt, acctPlace]
  have mask : longAt s p.val 5 = none := by simp [longAt, acctPlace]
  simp [regRead, hp, low, mask, readCommon, page_val]

theorem firmwareRw_irqRaw (p : Nat) : firmwareRw p 4 = 0 := by simp [firmwareRw, inWords]

theorem firmwareRw_errStatus (p : Nat) : firmwareRw p 15 = 0 := by simp [firmwareRw, inWords]

theorem firmwareAct_errStatus (p : Nat) : firmwareAct p 15 = 0 := by simp [firmwareAct]

/-- The host's write of a 1 to a bit of IRQ_RAW is denied and clears nothing. -/
theorem host_irqRaw_denied {s : State} {p : Fin 121} {v : Word} (hp : offPress s p.val = false) (hv : v = 1 ∨ v = 2) :
    hostDenied s p.val 4 v = true ∧ regApply .host p.val 4 (hostValue s p.val 4 v) s = s := by
  have value : hostValue s p.val 4 v = 0 := by
    obtain rfl | rfl := hv <;> simp [hostValue, firmwareRw_irqRaw, firmwareAct]
  refine ⟨?_, ?_⟩
  · obtain rfl | rfl := hv <;> simp [hostDenied, firmwareRw_irqRaw, firmwareAct]
  · rw [value, regApply_common hp (by decide) (by decide), page_val]
    exact updPage_id (by simp)

/-- The host's write of one 0 over the two bits of a full IRQ_MASK is denied and leaves them. -/
theorem host_irqMask_denied {s : State} {p : Fin 121} {v : Word} (hp : offPress s p.val = false)
    (hm : (vget s.pages p).irqMask = 3) (hv : v = 1 ∨ v = 2) :
    hostDenied s p.val 5 v = true ∧ regApply .host p.val 5 (hostValue s p.val 5 v) s = s := by
  have value : hostValue s p.val 5 v = 3 := by
    obtain rfl | rfl := hv <;> simp [hostValue, regRead_irqMask hp, hm, firmwareRw, firmwareAct]
  refine ⟨?_, ?_⟩
  · obtain rfl | rfl := hv <;> simp [hostDenied, regRead_irqMask hp, hm, firmwareRw]
  · rw [value, regApply_common hp (by decide) (by decide), page_val]
    have kept : (3 : Word) &&& 3 = (vget s.pages p).irqMask := by rw [hm]; rfl
    exact updPage_id (by rw [kept])

/-! ### CAP -/

theorem clampNat_eq {lo hi v : Nat} (h : lo ≤ hi) : clampNat lo hi v = max lo (min hi v) := by
  unfold clampNat
  split
  · omega
  · split <;> omega

/-! ### The clauses -/

theorem exec_registerWrite {who : Writer} {pg w : BitVec 10} {v : Word} {s t : State}
    (h : writeWord who pg.toNat w.toNat v s = t) (hp : t.pending = s.pending) :
    exec (.registerWrite who pg w v) s = .next t := by
  subst h
  exact answer_keep hp

/-- R660: CAP stores the nearest end of its range. -/
theorem capWrite_clamps {s : State} {who : Writer} {v : Word} (h : Writes who 5 s) :
    ∃ t, exec (.registerWrite who 5 0x10 v) s = .next t ∧
      t.power.cap.toNat = max 200 (min 750 (v.toNat % 1024)) ∧ t = { s with power := { s.power with cap := t.power.cap } } := by
  have off : offPress s 5 = false := offPress_of_lt s (by decide)
  have written : writeWord who 5 0x10 v s = writePower 0x10 v s := by
    rw [writeWord_open h (by decide) off (by decide) (by decide), regApply_block off (by decide)]
    rfl
  refine ⟨_, exec_registerWrite written rfl, ?_, rfl⟩
  have field : fld v 0 10 = v.toNat % 1024 := by simp [fld, bitsOf]
  simp only [writePower, BitVec.toNat_ofNat, field, clampNat_eq (show 200 ≤ 750 by decide)]
  omega

/-- R694: firmware's writes of IRQ_RAW and IRQ_MASK. -/
theorem irqWrite_byFirmware {s : State} {who : Writer} {p : Fin 121} {v : Word} (hw : who ≠ .host)
    (ha : writerActs who s = true) (hp : allocated p.val = true) (ho : offPress s p.val = false) :
    exec (.registerWrite who (BitVec.ofNat 10 p.val) 4 v) s = .next (s.updPage p fun r => { r with
        irqError := r.irqError && !v.getLsbD 0, irqCommitDone := r.irqCommitDone && !v.getLsbD 1 }) ∧
      exec (.registerWrite who (BitVec.ofNat 10 p.val) 5 v) s = .next (s.updPage p fun r => { r with irqMask := v &&& 3 }) := by
  have written (w : BitVec 10) (hw16 : w.toNat < 16) (h2 : w.toNat ≠ 2) :
      writeWord who (BitVec.ofNat 10 p.val).toNat w.toNat v s = writeCommon who p w.toNat v s := by
    rw [ofNat_page_toNat, writeWord_firmware hw ha hp, regApply_common ho hw16 h2, page_val]
  exact ⟨exec_registerWrite (written 4 (by decide) (by decide)) rfl,
    exec_registerWrite (written 5 (by decide) (by decide)) rfl⟩

/-- R427: the host's writes of IRQ_RAW and IRQ_MASK are denied and recorded. -/
theorem irqWrite_byHost_denied {s : State} {p : Fin 121} {w : BitVec 10} {v : Word} (hs : s.safety.safe = false)
    (hp : allocated p.val = true) (ho : offPress s p.val = false) (hw : w = 4 ∨ w = 5 ∧ (vget s.pages p).irqMask = 3)
    (hv : v = 1 ∨ v = 2) :
    ∃ t, exec (.registerWrite .host (BitVec.ofNat 10 p.val) w v) s = .next t ∧
      t.port.errCount = satInc s.port.errCount 1 ∧ (p ≠ pgHostPort → vget t.pages p = vget s.pages p) ∧
      t = { s with pages := t.pages, diag := t.diag, freeCtr := t.freeCtr, port := t.port } := by
  have denied : hostDenied s p.val w.toNat v = true ∧
      regApply .host p.val w.toNat (hostValue s p.val w.toNat v) s = s := by
    obtain rfl | ⟨rfl, hm⟩ := hw
    · exact host_irqRaw_denied ho hv
    · exact host_irqMask_denied ho hm hv
  obtain ⟨isDenied, unchanged⟩ := denied
  have written : writeWord .host (BitVec.ofNat 10 p.val).toNat w.toNat v s =
      hostError 5 (ownAddress s (4096 * p.val + 4 * w.toNat)) s := by
    rw [ofNat_page_toNat, writeWord_host (.inl hs) hp ho, isDenied, unchanged]
    rfl
  exact ⟨_, exec_registerWrite written (hostError_pending _ _ _), hostError_errCount _ _ _,
    fun h => hostError_page_ne h _ _ _, hostError_only _ _ _⟩

/-- R428: the host's write of a page that is not allocated is recorded; another writer's does nothing. -/
theorem write_unallocated {s : State} {pg w : BitVec 10} {v : Word} (hp : allocated pg.toNat = false) :
    (∃ t, exec (.registerWrite .host pg w v) s = .next t ∧
      t.port.errCount = satInc s.port.errCount 1 ∧ (vget t.pages pgHostPort).irqError = true ∧
      t = { s with pages := t.pages, diag := t.diag, freeCtr := t.freeCtr, port := t.port }) ∧
    ∀ who : Writer, who ≠ .host → exec (.registerWrite who pg w v) s = .next s := by
  refine ⟨⟨_, exec_registerWrite (writeWord_unallocated hp) (hostError_pending _ _ _), hostError_errCount _ _ _,
    hostError_irqError _ _ _, hostError_only _ _ _⟩, fun who hw => exec_registerWrite ?_ rfl⟩
  rw [writeWord_unallocated hp, if_neg hw]

/-- R147: the page of a press that is not enabled takes no write. -/
theorem write_pressNotEnabled {s : State} {who : Writer} {n : Fin 16} {w : BitVec 10} {v : Word} (hn : enabled s n = false)
    (hs : who = .host → s.safety.safe = false) :
    exec (.registerWrite who (BitVec.ofNat 10 (20 + n.val)) w v) s = .next s := by
  have number : (BitVec.ofNat 10 (20 + n.val)).toNat = 20 + n.val := by
    rw [BitVec.toNat_ofNat]
    omega
  have alloc : allocated (20 + n.val) = true := by
    have hle : 20 + n.val ≤ 58 := by omega
    simp [allocated, hle]
  refine exec_registerWrite ?_ rfl
  rw [number, writeWord_offPress alloc (by rw [offPress_press, hn]; rfl) hs]

/-- R703: clearing an error record empties it and leaves every other page. -/
theorem errClear_empties {s : State} {who : Writer} {p : Fin 121} (h : Writes who p.val s) (hp : allocated p.val = true)
    (ho : offPress s p.val = false) :
    ∃ t, exec (.errClear who p) s = .next t ∧ (vget t.pages p).errValid = false ∧ (vget t.pages p).errLost = 0 ∧
      (∀ q : Fin 121, q ≠ p → vget t.pages q = vget s.pages q) ∧ t = { s with pages := t.pages } := by
  have written : writeWord who p.val 15 1 s = s.updPage p fun r => { r with errValid := false, errLost := 0 } := by
    rw [writeWord_open h hp ho (firmwareRw_errStatus _) (firmwareAct_errStatus _),
      regApply_common ho (by decide) (by decide), page_val]
    rfl
  have kept : (writeWord who p.val 15 1 s).pending = s.pending := by rw [written]; rfl
  refine ⟨_, (answer_keep kept).trans (congrArg _ written), ?_, ?_, fun q hq => ?_, rfl⟩
  · simp [State.updPage]
  · simp [State.updPage]
  · exact vget_vupd_ne _ _ hq.symm

/-- Settles O18: each clause by the lemma of its write. -/
theorem registerWritesAct : Obligations.RegisterWritesAct :=
  ⟨fun _ _ _ h => capWrite_clamps h,
    fun _ _ _ _ hw ha hp ho => irqWrite_byFirmware hw ha hp ho,
    fun _ _ _ _ hs hp ho hw hv => irqWrite_byHost_denied hs hp ho hw hv,
    fun _ _ _ _ hp => write_unallocated hp,
    fun _ _ _ _ _ hn hs => write_pressNotEnabled hn hs,
    fun _ _ _ h hp ho => errClear_empties h hp ho⟩

end Sys2Proof.Machine
end

section
/-! PROOF. Refutations in the family of the device at a glance: SleepAndScrubAct, EnginesRunTheirCommands, StreamRequestsAct and
FramesAreReceived. Each of these statements speaks of every state, and the state written out below for it meets the hypotheses of one
of its clauses, while the model's step gives another outcome than that clause names.

Three of them share a clause: a command that is stopped while its queue holds 64 corks is left due (`endPhase`, R470). The clause does
not ask that the commands of the queue differ in their sequence numbers, as they do in a queue that was filled through its ring (R455).
Where the held corks have the number of the command that is stopped, `endCmd` makes them due with it: they are held no more, and the
sweep that follows ends the command at once.

The fourth is of ECHO_SET (R737): while a command runs, the request is to wait for its commit. The clause does not ask that the
configuration of the request differ from the one in force. Where they are the same there is nothing to wait for (R700), and the
request is answered at once. -/

namespace Sys2Proof.Machine

/-- The phase of a command after a step; none where the step answers no next state or the queue holds no such command. -/
def phaseAfter (o : Host.Outcome State Fault Refusal) (q : Fin 256) (seq : Word) : Option Phase :=
  match o with
  | .next t => (t.cmd q seq).map (·.phase)
  | _ => none

theorem phaseAfter_next (t : State) (q : Fin 256) (seq : Word) :
    phaseAfter (.next t) q seq = (t.cmd q seq).map (·.phase) := rfl

/-! ### Held corks with the number of a running command -/

/-- A running command of a KIND with sequence number 0; its parameters are those of a CAPTURE that waits at most 1 µs (Table 8.4). -/
def runningZero (kind : Byte) : Cmd :=
  { seq := 0, desc := kind :: List.replicate 63 0, phase := .running, params := List.replicate 12 0 ++ [1, 0, 0, 0] }

/-- An ended command with sequence number 0. -/
def endedZero : Cmd := { seq := 0, desc := List.replicate 64 0, phase := .ended 0 0 }

/-- A queue with a running command and 64 held corks, all of one sequence number, whose turn to be appended has not come. -/
def sharedNumber (kind : Byte) : Queue := { nextCork := 1, cmds := runningZero kind :: List.replicate 64 endedZero }

theorem corksHeld_sharedNumber (kind : Byte) : corksHeld (sharedNumber kind) = 64 := rfl

theorem mayEnd_sharedNumber (kind : Byte) : mayEnd (sharedNumber kind) 0 = false := by
  rw [mayEnd, corksHeld_sharedNumber]
  rfl

/-- The device at reset, with that queue as its queue 0. -/
def withSharedNumber (kind : Byte) : State := State.reset.updQueue 0 fun _ => sharedNumber kind

section
variable {s : State} {kind : Byte} (h : s.queue 0 = sharedNumber kind)
include h

theorem cmd_of_sharedNumber : s.cmd 0 0 = some (runningZero kind) := by
  rw [State.cmd, h]
  rfl

/-- With 64 corks held, the end of the running command is due. -/
theorem endPhase_of_sharedNumber (status : Byte) (data : Long) : endPhase s 0 0 status data = .due status data := by
  rw [endPhase, h, mayEnd_sharedNumber]
  rfl

/-- A step after which the command has ended does not leave it in the phase that `endPhase` names. -/
theorem phase_ne_endPhase {t : State} {status : Byte} {data : Long}
    (ended : phaseAfter (.next t) 0 0 = some (.ended status data)) :
    (t.cmd 0 0).map (·.phase) ≠ some (endPhase s 0 0 status data) := by
  rw [← phaseAfter_next, ended, endPhase_of_sharedNumber h]
  simp

end

/-! ### An uncorrectable word of the Cellar -/

/-- The Window engine has read an uncorrectable word of the Cellar for the running command, an ENGINE command: it has ended. -/
theorem cellarWord_ends :
    phaseAfter (exec (.sramUncorrectable 0 0 (.cellar 0) 0x10) (withSharedNumber 2)) 0 0 =
      some (.ended 0x22 (faultWord 0 0 0 0x10)) := by decide +kernel

/-- Refutes O33, in the clause of a command that is no PRESS_PROGRAM command: at `withSharedNumber 2` a command that read an
uncorrectable word of the Cellar has ended, and is not due. -/
theorem not_sleepAndScrubAct : ¬ Obligations.SleepAndScrubAct := by
  rintro ⟨-, -, -, -, -, -, -, -, -, -, ends, -⟩
  have queue : (withSharedNumber 2).queue 0 = sharedNumber 2 := queue_updQueue _ _ _
  obtain ⟨t, step, phase⟩ :=
    ends (withSharedNumber 2) 0 0 (runningZero 2) (.cellar 0) 0x10 rfl (cmd_of_sharedNumber queue) rfl (by decide)
  exact phase_ne_endPhase queue (step ▸ cellarWord_ends) phase

/-! ### Two runs of a twinned engine command that differ -/

/-- A twinned Window command without operands, which writes nothing. -/
def emptyWindowJob : EngineJob :=
  { queue := 0, seq := 0, press := none, counter := 0, parcel := 0, twinned := true, operands := [], params := [] }

/-- The running command is an ENGINE command that waits at the Window engine. -/
def sharedNumberAtWindow : State := (withSharedNumber 2).updEngine 0 fun e => { e with waiting := [emptyWindowJob] }

/-- Reads of which the error correction reported nothing. -/
def nothingReported : ReadHealth := { corrected := [], linkCorrections := 0, casks := [], cellar := 0 }

theorem windowMismatch_ends :
    phaseAfter (exec (.window true nothingReported) sharedNumberAtWindow) 0 0 =
      some (.ended 0x25 (stopTwinEngine 0).data) := by decide +kernel

theorem phaseAfter_nothingReported (s t : State) (q : Fin 256) (seq : Word) :
    phaseAfter (.next (noted nothingReported s t)) q seq = phaseAfter (.next t) q seq := rfl

/-- Refutes O34, at the Window engine: at `sharedNumberAtWindow` a twinned command whose two runs differ has ended, and is not due as
`EngineFailed` says. -/
theorem not_enginesRunTheirCommands : ¬ Obligations.EnginesRunTheirCommands := by
  intro acts
  obtain ⟨⟨-, mismatch, -⟩, -⟩ := acts true nothingReported
  have queue : sharedNumberAtWindow.queue 0 = sharedNumber 2 := queue_updQueue _ _ _
  obtain ⟨t, step, -, ⟨-, -, failed⟩, -⟩ :=
    mismatch sharedNumberAtWindow emptyWindowJob [] rfl (by decide) (by decide +kernel) rfl
  have ended := windowMismatch_ends
  rw [step, phaseAfter_nothingReported] at ended
  exact phase_ne_endPhase queue ended ((failed _ (cmd_of_sharedNumber queue) rfl).2 (.inl (by decide)))

/-! ### A capture that waited too long -/

/-- The running command is a CAPTURE that waits at pipeline 0 for a frame. -/
def sharedNumberAtPipe : State := (withSharedNumber 3).updPipe 0 fun p =>
  { p with pendingCaptures := [{ queue := 0, seq := 0, parcel := 0, arrived := 0 }] }

theorem captureTimeout_ends :
    phaseAfter (exec (.captureTimeout 0) sharedNumberAtPipe) 0 0 = some (.ended 0x26 (dataI 0 0)) := by decide +kernel

/-- Refutes O51, in the clause of CAPTURE_TIMEOUT: at `sharedNumberAtPipe` the capture that waited too long has ended, and is not
due. -/
theorem not_framesAreReceived : ¬ Obligations.FramesAreReceived := by
  rintro ⟨-, -, -, -, -, -, -, -, -, -, -, -, -, -, -, -, -, -, -, timeout, -⟩
  have queue : sharedNumberAtPipe.queue 0 = sharedNumber 3 := queue_updQueue _ _ _
  obtain ⟨t, step, phase, -⟩ := timeout sharedNumberAtPipe 0 { queue := 0, seq := 0, parcel := 0, arrived := 0 } (runningZero 3) rfl
    (by decide +kernel) (cmd_of_sharedNumber queue) rfl
  exact phase_ne_endPhase queue (step ▸ captureTimeout_ends) phase

/-! ### ECHO_SET with the configuration in force -/

/-- The reply that a pair owes after a step. -/
def jobAfter (o : Host.Outcome State Fault Refusal) (p : Fin 8) : Option FwJob :=
  match o with
  | .next t => (t.pair p).job
  | _ => none

/-- A lead whose firmware runs, with a PRESS_PROGRAM command running. -/
def busyLead : State := { State.reset with
  boot := { State.reset.boot with ready := true, hartsReleased := true }
  queues := vset State.reset.queues 0 { cfg := rwsReset { en := true }, cmds := [runningZero 1] } }

/-- On its pair 0 an ECHO_SET request waits whose fields are all 0, which is the configuration that holds from reset on. -/
def echoRepeated : State :=
  (busyLead.updWindow fun m => m.writeBytes (inArea 0 + 256) (message 0 0x48 7 (List.replicate 40 0))).updPair 0
    fun x => { x with inTail := 1 }

theorem requested_echoRepeated : Requested 0x48 0 echoRepeated := by
  unfold Requested OutReady
  decide +kernel

theorem reqEcho_echoRepeated : reqEcho (requestOf 0 echoRepeated) = echoRepeated.port.echo.live := by decide +kernel

/-- The request is answered at once. -/
theorem echoSet_echoRepeated : jobAfter (exec (.echoSet 0) echoRepeated) 0 = none := by decide +kernel

/-- Refutes O43, in the clause of ECHO_SET: at `echoRepeated` a command runs, and yet no reply is owed after the request, since it
names the configuration in force (R700). -/
theorem not_streamRequestsAct : ¬ Obligations.StreamRequestsAct := by
  rintro ⟨echoSet, -⟩
  obtain ⟨t, step, -, waits⟩ := echoSet echoRepeated 0 requested_echoRepeated rfl rfl (by decide +kernel) (by decide +kernel)
    (by decide +kernel) (by rw [reqEcho_echoRepeated]; decide +kernel) (by decide +kernel)
  obtain ⟨⟨-, owed⟩, -⟩ := waits ⟨0, by decide +kernel⟩
  have answered := echoSet_echoRepeated
  rw [step] at answered
  cases owed.symm.trans answered

end Sys2Proof.Machine
end

section
/-! PROOF. Refutations in the family of the press matrix engine: CommandsStartAndEnd and UnitRequestsAct. Both statements speak of
every state, and one of their clauses names the phase that a command takes. The two states written out below meet the hypotheses of
that clause, and the model's step leaves the command in another phase.

In both a queue holds commands that share a sequence number, which the clauses do not exclude and which no queue filled through its
ring has (R455). An operation that names a command by its number then reaches every command of that number. -/

namespace Sys2Proof.Machine

/-! ### A commit while 64 held corks have the number of the command -/

/-- A command with sequence number 0 whose writes are done. -/
def writtenZero : Cmd := { runningZero 8 with phase := .written 0 0 }

/-- A queue whose 64 held corks have the number of a command that is to commit. Their turn to be appended has not come. -/
def heldBesideWritten : Queue := { nextCork := 1, cmds := writtenZero :: List.replicate 64 endedZero }

/-- The device at reset, with that queue as its queue 0. -/
def committing : State := State.reset.updQueue 0 fun _ => heldBesideWritten

theorem queue_committing : committing.queue 0 = heldBesideWritten := queue_updQueue _ _ _

theorem cmd_committing : committing.cmd 0 0 = some writtenZero := by
  rw [State.cmd, queue_committing]
  rfl

/-- With 64 corks held, the clause has the end of the command due (R470). -/
theorem endPhase_committing : endPhase committing 0 0 0 0 = .due 0 0 := by
  have held : mayEnd heldBesideWritten 0 = false := by decide +kernel
  rw [endPhase, queue_committing, held]
  rfl

/-- The commit makes the held corks due with the command: they are held no more, and the sweep ends the command at once. -/
theorem commit_ends : phaseAfter (exec (.commandCommit 0 0) committing) 0 0 = some (.ended 0 0) := by decide +kernel

/-- Refutes O27, in the clause of COMMAND_COMMIT: at `committing` the command has ended after the step, and is not due. -/
theorem not_commandsStartAndEnd : ¬ Obligations.CommandsStartAndEnd := by
  rintro ⟨-, -, -, -, -, -, -, commit, -⟩
  obtain ⟨t, step, phase, -⟩ := commit committing 0 0 writtenZero 0 0 rfl cmd_committing rfl
  have ended := commit_ends
  rw [step, phaseAfter_next, phase, endPhase_committing] at ended
  cases ended

/-! ### A press failure that ends a suspended command beside one that is done -/

/-- A PRESS_PROGRAM command for press 0 with a sequence number, in a phase. -/
def onPressZero (seq : Word) (phase : Phase) : Cmd :=
  { seq := seq, desc := 1 :: List.replicate 11 0 ++ 1 :: List.replicate 51 0, phase := phase }

/-- A suspended command, one that runs, and one that is done and has the number of the one that runs. -/
def doneBesideRunning : Queue :=
  { cmds := [onPressZero 1 (.suspended 0), onPressZero 0 .running, onPressZero 0 (.due 0 0)] }

/-- The device with that queue as its queue 0, its firmware running, and on its pair 0 a PRESS_FAIL request for press 0. -/
def failingPress : State :=
  (({ State.reset with
    boot := { State.reset.boot with ready := true, hartsReleased := true }
    queues := vset State.reset.queues 0 doneBesideRunning } : State).updWindow fun m =>
      m.writeBytes (inArea 0 + 256) (message 0 0x60 7 (List.replicate 4 0))).updPair 0 fun x => { x with inTail := 1 }

theorem requested_failingPress : Requested 0x60 0 failingPress := by
  unfold Requested OutReady
  decide +kernel

theorem queue_failingPress : failingPress.queue 0 = doneBesideRunning := vget_vset_self _ _ _

theorem cmd_failingPress : failingPress.cmd 0 0 = some (onPressZero 0 .running) := by
  rw [State.cmd, queue_failingPress]
  rfl

theorem running_mem_failVictims : (0, 0) ∈ failVictims 0 failingPress := by decide +kernel

/-- The end of the suspended command brings the end of the one that is done, and with it of the one that runs. -/
theorem pressFail_ends : phaseAfter (exec (.pressFail 0) failingPress) 0 0 = some (.ended 0 0) := by decide +kernel

/-- Refutes O44, in the clause of PRESS_FAIL: at `failingPress` the command that runs on the press has ended after the step, and is
not being killed. -/
theorem not_unitRequestsAct : ¬ Obligations.UnitRequestsAct := by
  rintro ⟨pressFail, -⟩
  obtain ⟨t, step, -, -, -, -, killed⟩ := pressFail failingPress 0 0 requested_failingPress (by decide +kernel)
  have killing := killed (0, 0) running_mem_failVictims _ cmd_failingPress (by decide) rfl (fun i => by simp [onPressZero])
  have ended := pressFail_ends
  rw [step, phaseAfter_next, killing] at ended
  cases ended

end Sys2Proof.Machine
end

section
/-! PROOF. What the ends of commands, mailboxes and the forwarding of writes leave: FAILED bits, fuses and device memory. -/

namespace Sys2Proof.Machine

/-- The FAILED bits, the fuses and device memory: no queue, no mailbox and no wire changes them. -/
def lasting (s : State) : BitVec 16 × Fuses × Mem := (s.failed, s.fuses, s.dram)

theorem lasting_eq {s t : State} (hf : t.failed = s.failed := by rfl) (hz : t.fuses = s.fuses := by rfl)
    (hd : t.dram = s.dram := by rfl) : lasting t = lasting s := by
  rw [lasting, lasting, hf, hz, hd]

theorem lasting_iff {s t : State} :
    lasting t = lasting s ↔ t.failed = s.failed ∧ t.fuses = s.fuses ∧ t.dram = s.dram := by
  simp [lasting]

theorem lasting_ite {c : Prop} [Decidable c] {a b s : State} (ha : lasting a = lasting s) (hb : lasting b = lasting s) :
    lasting (if c then a else b) = lasting s := by
  split
  · exact ha
  · exact hb

theorem lasting_foldState {α : Type} {f : α → State → State} {l : List α} {s : State}
    (h : ∀ x s, lasting (f x s) = lasting s) : lasting (foldState f l s) = lasting s :=
  foldState_keeps (fun t => lasting t = lasting s) f l (fun x _ ht => (h x _).trans ht) s rfl

theorem VineOnly.lasting {s t : State} (h : VineOnly s t) : lasting t = lasting s := by
  rw [h]
  rfl

section
variable (s : State)

/-! ### Records, wires and links -/

@[simp] theorem lasting_noteEcho (a n : Nat) (w : Option (BitVec 2)) : lasting (noteEcho a n w s) = lasting s := by
  simp [lasting]

@[simp] theorem lasting_raiseWire (w : BitVec 2) : lasting (raiseWire w s) = lasting s := by simp [lasting]

@[simp] theorem lasting_traceEvent (source : Nat) (code : BitVec 16) : lasting (traceEvent source code s) = lasting s := by
  simp [lasting]

@[simp] theorem lasting_pageError (p : Fin 121) (c : BitVec 16) (i : Word) (a : Long) (b : Byte) :
    lasting (pageError p c i a b s) = lasting s := by
  simp [lasting]

@[simp] theorem lasting_send (m : VineMsg) : lasting (s.send m) = lasting s := (send_vineOnly m s).lasting

/-! ### Mailboxes -/

@[simp] theorem lasting_syncOutWith (p : Fin 8) (event : Option (BitVec 2)) :
    lasting (syncOutWith p event s) = lasting s := lasting_noteEcho ..

@[simp] theorem lasting_mailWire (p : Fin 8) : lasting (mailWire p s) = lasting s := by
  unfold mailWire
  split
  · exact lasting_raiseWire ..
  · rfl

@[simp] theorem lasting_writeOut (p : Fin 8) (body : List Byte) : lasting (writeOut p body s) = lasting s :=
  (lasting_mailWire ..).trans <| (lasting_syncOutWith ..).trans (lasting_noteEcho ..)

theorem lasting_drainOut (fuel : Nat) (p : Fin 8) : lasting (drainOut fuel p s) = lasting s := by
  induction fuel generalizing s with
  | zero => rfl
  | succ fuel ih =>
    unfold drainOut
    split
    · rfl
    · exact lasting_ite ((ih _).trans (lasting_writeOut ..)) rfl

@[simp] theorem lasting_putOut (p : Fin 8) (isEvent : Bool) (body : List Byte) :
    lasting (putOut p isEvent body s) = lasting s := lasting_drainOut ..

@[simp] theorem lasting_sendReply (p : Fin 8) (typ : Nat) (seq : Word) (result : Nat) (fields : List Byte) :
    lasting (sendReply p typ seq result fields s) = lasting s := (lasting_putOut ..).trans (lasting_ite rfl rfl)

@[simp] theorem lasting_takeRequest (p : Fin 8) : lasting (takeRequest p s) = lasting s := lasting_syncOutWith ..

theorem lasting_refuseBad (fuel : Nat) (p : Fin 8) : lasting (refuseBad fuel p s) = lasting s := by
  induction fuel generalizing s with
  | zero => rfl
  | succ fuel ih =>
    unfold refuseBad
    split
    · rfl
    · exact lasting_ite rfl ((ih _).trans (by simp))

@[simp] theorem lasting_finishJob (p : Fin 8) (typ : Nat) (seq : Word) (code : Nat) (fields : List Byte) :
    lasting (finishJob p typ seq code fields s) = lasting s := (lasting_refuseBad ..).trans (lasting_sendReply ..)

/-! ### Queues -/

theorem lasting_of_endOne {q : Fin 256} {t : State} (h : endOne s q = some t) : lasting t = lasting s := by
  unfold endOne at h
  dsimp only at h
  split at h
  · cases h
  split at h
  · cases h; rfl
  split at h
  · cases h
  split at h
  · cases h; rfl
  split at h
  · cases h; rfl
  · cases h

@[simp] theorem lasting_finishResume (q : Fin 256) : lasting (finishResume q s) = lasting s := lasting_ite rfl rfl

theorem lasting_sweep (fuel : Nat) (q : Fin 256) : lasting (sweep fuel q s) = lasting s := by
  induction fuel generalizing s with
  | zero => exact lasting_finishResume ..
  | succ fuel ih =>
    unfold sweep
    split
    · exact lasting_finishResume ..
    · next ended => exact (ih _).trans (lasting_of_endOne s ended)

@[simp] theorem lasting_settleHolder (n : Fin 8) : lasting (settleHolder n s) = lasting s := lasting_ite rfl rfl

@[simp] theorem lasting_sweepQueue (q : Fin 256) : lasting (sweepQueue q s) = lasting s :=
  (lasting_settleHolder ..).trans (lasting_sweep ..)

@[simp] theorem lasting_releaseSlots (q : Fin 256) (seq : Word) : lasting (releaseSlots q seq s) = lasting s := by
  unfold releaseSlots
  split
  · rfl
  · exact lasting_foldState fun _ _ => rfl

@[simp] theorem lasting_freePress (p : Fin 16) : lasting (freePress p s) = lasting s := rfl

@[simp] theorem lasting_endCmd (q : Fin 256) (seq : Word) (status : Byte) (data : Long) :
    lasting (endCmd q seq status data s) = lasting s := by
  unfold endCmd
  refine lasting_ite rfl ((lasting_sweepQueue ..).trans ((lasting_traceEvent ..).trans ?_))
  refine (lasting_foldState fun p s => lasting_freePress s p).trans ?_
  split <;> exact lasting_releaseSlots ..

@[simp] theorem lasting_acceptTail (q : Fin 256) (t : Word) : lasting (acceptTail q t s) = lasting s :=
  lasting_ite rfl (lasting_ite rfl (lasting_pageError ..))

@[simp] theorem lasting_acceptConsumed (q : Fin 256) (c : Word) : lasting (acceptConsumed q c s) = lasting s :=
  lasting_ite rfl (lasting_pageError ..)

@[simp] theorem lasting_takeSubmit (q : Fin 256) (word : Long) : lasting (takeSubmit q word s) = lasting s :=
  lasting_ite (lasting_pageError ..) ((lasting_acceptConsumed ..).trans (lasting_acceptTail ..))

@[simp] theorem lasting_joinCheck : lasting (joinCheck s) = lasting s := by
  unfold joinCheck
  refine lasting_ite rfl ?_
  split <;> rfl

@[simp] theorem lasting_fillChecks : lasting (fillChecks s) = lasting s := by
  simp only [fillChecks, lasting_joinCheck]
  rfl

@[simp] theorem lasting_stepSubmitWord (q : Fin 256) : lasting (stepSubmitWord q s) = lasting s := by
  unfold stepSubmitWord
  refine lasting_ite rfl ?_
  split
  · exact (lasting_fillChecks _).trans (lasting_takeSubmit ..)
  · rfl

theorem lasting_takeSubmits (fuel : Nat) (q : Fin 256) : lasting (takeSubmits fuel q s) = lasting s := by
  induction fuel generalizing s with
  | zero => rfl
  | succ fuel ih => exact lasting_ite ((ih _).trans (lasting_stepSubmitWord ..)) rfl

/-! ### Replies that were owed -/

@[simp] theorem lasting_pumpNotices : lasting (pumpNotices s) = lasting s := lasting_foldState fun _ _ => lasting_send ..

theorem lasting_pumpForwards (fuel : Nat) : lasting (pumpForwards fuel s) = lasting s := by
  induction fuel generalizing s with
  | zero => rfl
  | succ fuel ih =>
    unfold pumpForwards
    split
    · rfl
    · exact (ih _).trans (lasting_send ..)

@[simp] theorem lasting_pumpForward : lasting (pumpForward s) = lasting s :=
  (lasting_pumpNotices _).trans (lasting_pumpForwards ..)

@[simp] theorem lasting_placeTurn (t : MuxTurn) : lasting (placeTurn t s) = lasting s :=
  lasting_ite (lasting_takeSubmit ..) (lasting_pumpForward _)

theorem lasting_settleMux (fuel : Nat) : lasting (settleMux fuel s) = lasting s := by
  induction fuel generalizing s with
  | zero => rfl
  | succ fuel ih =>
    unfold settleMux
    split
    · rfl
    · exact (ih _).trans ((lasting_finishJob ..).trans (lasting_placeTurn ..))

@[simp] theorem lasting_settlePair (p : Fin 8) : lasting (settlePair p s) = lasting s := by
  unfold settlePair
  split
  · exact lasting_ite rfl (lasting_finishJob ..)
  · exact lasting_ite rfl (lasting_finishJob ..)
  · rfl

@[simp] theorem lasting_settleJobs : lasting (settleJobs s) = lasting s :=
  lasting_ite ((lasting_settleMux ..).trans (lasting_foldState fun _ _ => lasting_settlePair ..)) rfl

end

end Sys2Proof.Machine
end

section
/-! PROOF. What a kill leaves: it changes the contents of memories, arrival counters, the lists of engines, and the command and the
presses that it stops. -/

namespace Sys2Proof.Machine

/-! ### The outline of the device -/

/-- A press without the contents of its Cask and its arrival counters. -/
def Press.outline (x : Press) : Press := { x with cask := Mem.empty, arrive := Vector.replicate 64 0 }

/-- The device without what its memories hold, the lists of its engines and the number of the next free value. -/
def outline (s : State) : State :=
  { s with
    freeCtr := 0, engines := Vector.replicate 6 {}, presses := vmap s.presses fun _ x => x.outline
    port := { s.port with window := Mem.empty }, dram := Mem.empty, cellar := { s.cellar with mem := Mem.empty } }

theorem vmap_vupd {α β : Type} {n : Nat} {v : Vector α n} {i : Fin n} {f : α → α} {g : α → β}
    (h : ∀ x, g (f x) = g x) : (Vector.ofFn fun j => g (vget (vupd v i f) j)) = Vector.ofFn fun j => g (vget v j) := by
  congr 1
  funext j
  rw [vget_vupd]
  split
  · next e => rw [h, e]
  · rfl

section
variable {s t : State}

theorem outline_updPress {p : Fin 16} {f : Press → Press} (h : ∀ x, (f x).outline = x.outline) :
    outline (s.updPress p f) = outline s := by
  simp only [outline, State.updPress, vmap, vmap_vupd h]

theorem outline_ite {c : Prop} [Decidable c] {a b : State} (ha : outline a = outline s) (hb : outline b = outline s) :
    outline (if c then a else b) = outline s := by
  split
  · exact ha
  · exact hb

theorem outline_foldState {α : Type} {f : α → State → State} {l : List α} (h : ∀ x s, outline (f x s) = outline s) :
    outline (foldState f l s) = outline s :=
  foldState_keeps (fun t => outline t = outline s) f l (fun x _ ht => (h x _).trans ht) s rfl

theorem outline_foldl {α : Type} {f : State → α → State} {l : List α} (h : ∀ s x, outline (f s x) = outline s) :
    outline (l.foldl f s) = outline s := by
  induction l generalizing s with
  | nil => rfl
  | cons x rest ih => exact ih.trans (h s x)

theorem queues_of_outline (h : outline t = outline s) : t.queues = s.queues :=
  (congrArg State.queues h :)

theorem failed_of_outline (h : outline t = outline s) : t.failed = s.failed :=
  (congrArg State.failed h :)

theorem fuses_of_outline (h : outline t = outline s) : t.fuses = s.fuses :=
  (congrArg State.fuses h :)

theorem press_of_outline (h : outline t = outline s) (p : Fin 16) : (t.press p).outline = (s.press p).outline := by
  simpa [outline, State.press] using congrArg (fun u : State => u.press p) h

theorem cmd_of_outline (h : outline t = outline s) (q : Fin 256) (seq : Word) : t.cmd q seq = s.cmd q seq := by
  rw [State.cmd, State.queue, queues_of_outline h, State.cmd, State.queue]

end

section
variable (s : State)

theorem outline_cellar (m : Mem) : outline { s with cellar := { s.cellar with mem := m } } = outline s := rfl

theorem outline_bump : outline s.bump = outline s := rfl

@[simp] theorem outline_wipeLoc (n : Nat) (l : Loc) : outline (s.wipeLoc n l) = outline s := by
  cases l with
  | cask p a => exact outline_updPress fun _ => rfl
  | cellar a => rfl
  | staging a => rfl
  | dram a => rfl

@[simp] theorem outline_wipeRange (cx : Cx) (space : Nat) (press : Fin 16) (a : Int) (n : Nat) :
    outline (wipeRange cx space press a n s) = outline s := by
  unfold wipeRange
  split
  · rfl
  · exact (outline_foldState fun (part : Loc × Nat) s => outline_wipeLoc s part.2 part.1).trans (outline_bump s)

theorem outline_wipeVirtual (fuel va n : Nat) : outline (wipeVirtual fuel va n s) = outline s := by
  induction fuel generalizing va n s with
  | zero => rfl
  | succ fuel ih => exact outline_ite rfl ((ih ..).trans (outline_ite rfl rfl))

@[simp] theorem outline_wipeOutputs (c : Cmd) : outline (wipeOutputs c s) = outline s := by
  refine outline_foldState fun r s => ?_
  split
  · rfl
  · exact outline_ite (outline_wipeVirtual ..) rfl

@[simp] theorem outline_wipePress (p : Fin 16) : outline (wipePress p s) = outline s := by
  refine (outline_updPress fun x => ?_).trans (outline_bump s)
  simp only [Press.outline]

@[simp] theorem outline_wipeLines (n : Fin 8) (event : Nat) (a : Int) (len : Nat) :
    outline (wipeLines n event a len s) = outline s := by
  simp only [wipeLines]
  split
  · rfl
  · exact outline_cellar s _

@[simp] theorem outline_wipeOutput (cx : Cx) (o : Operand × Nat) : outline (wipeOutput cx s o) = outline s :=
  outline_foldl fun _ _ => outline_ite (outline_wipeLines ..) (outline_wipeRange ..)

@[simp] theorem outline_wipeMoved (q : Fin 256) (c : Cmd) : outline (wipeMoved q c s) = outline s := by
  unfold wipeMoved
  have outs (cx : Cx) (l : List (Operand × Nat)) : outline (l.foldl (wipeOutput cx) s) = outline s :=
    outline_foldl fun _ _ => outline_wipeOutput ..
  exact outline_ite ((outline_wipeLines ..).trans (outs ..)) (outs ..)

@[simp] theorem outline_wipeChildren (q : Fin 256) (seq : Word) : outline (wipeChildren q seq s) = outline s :=
  outline_foldl fun _ _ => outline_foldl fun _ _ => outline_wipeOutput ..

@[simp] theorem outline_dropJobs (q : Fin 256) (seq : Word) : outline (dropJobs q seq s) = outline s := rfl

/-! ### Commands by number -/

theorem Queue.find_upd (x : Queue) (seq : Word) {f : Cmd → Cmd} (hf : ∀ c, (f c).seq = c.seq) :
    (x.upd seq f).find seq = (x.find seq).map f := by
  have same (c : Cmd) : (if c.seq = seq then f c else c).seq = c.seq := by
    split
    · exact hf c
    · rfl
  simp only [Queue.upd, Queue.find, List.find?_map, Function.comp_def, same]
  cases found : x.cmds.find? fun c => decide (c.seq = seq) with
  | none => rfl
  | some c =>
    have number : c.seq = seq := by simpa using List.find?_some found
    simp [number]

theorem cmd_updCmd (q : Fin 256) (seq : Word) {f : Cmd → Cmd} (hf : ∀ c, (f c).seq = c.seq) :
    (s.updCmd q seq f).cmd q seq = (s.cmd q seq).map f := by
  rw [State.cmd, State.updCmd, queue_updQueue, Queue.find_upd _ _ hf, State.cmd]

theorem seq_of_cmd {s : State} {q : Fin 256} {seq : Word} {c : Cmd} (h : s.cmd q seq = some c) : c.seq = seq := by
  simpa using List.find?_some h

/-! ### The presses that a kill stops -/

theorem mem_pressesOf {s : State} {p : Fin 16} {k : Sequencer} (h : (s.press p).sequencer = some k) :
    p ∈ pressesOf s k.queue k.seq := by
  simp [pressesOf, h]

theorem press_stopPress_ne {p r : Fin 16} (h : p ≠ r) : (stopPress p s).press r = s.press r := vget_vupd_ne _ _ h

@[simp] theorem mode_stopPress (p : Fin 16) : ((stopPress p s).press p).mode = .killing := by
  rw [stopPress, press_updPress]

theorem twinFail_stopPress (p r : Fin 16) : ((stopPress p s).press r).twinFail = (s.press r).twinFail := by
  by_cases h : p = r
  · subst h
    rw [stopPress, press_updPress]
    rfl
  · rw [press_stopPress_ne s h]

/-- Every press of a list that is stopped reads KILLING. -/
theorem mode_foldState_stopPress {s : State} {l : List (Fin 16)} {p : Fin 16}
    (h : p ∈ l ∨ (s.press p).mode = .killing) : ((foldState stopPress l s).press p).mode = .killing := by
  induction l generalizing s with
  | nil => simpa using h
  | cons r rest ih =>
    refine ih ?_
    by_cases here : r = p
    · subst here
      exact .inr (mode_stopPress ..)
    · rw [press_stopPress_ne s here]
      exact h.imp_left fun mem => (List.mem_cons.1 mem).resolve_left (Ne.symm here)

theorem twinFail_foldState_stopPress (l : List (Fin 16)) (p : Fin 16) :
    ((foldState stopPress l s).press p).twinFail = (s.press p).twinFail :=
  foldState_keeps (fun t => (t.press p).twinFail = (s.press p).twinFail) stopPress l
    (fun r _ ht => (twinFail_stopPress _ r p).trans ht) s rfl

theorem foldState_stopPress_keeps (l : List (Fin 16)) :
    (foldState stopPress l s).queues = s.queues ∧ (foldState stopPress l s).failed = s.failed ∧
      (foldState stopPress l s).fuses = s.fuses :=
  foldState_keeps (fun t => t.queues = s.queues ∧ t.failed = s.failed ∧ t.fuses = s.fuses) stopPress l
    (fun _ _ ht => ht) s ⟨rfl, rfl, rfl⟩

/-! ### The stop of a PRESS_PROGRAM command -/

theorem foldState_freeSlot_only (n : Fin 8) (l : List Nat) :
    foldState (freeSlot n) l s = { s with parcels := (foldState (freeSlot n) l s).parcels } :=
  foldState_keeps (fun t => t = { s with parcels := t.parcels }) (freeSlot n) l
    (fun slot t ht => by rw [ht]; rfl) s rfl

@[simp] theorem releaseSlots_presses (q : Fin 256) (seq : Word) : (releaseSlots q seq s).presses = s.presses := by
  unfold releaseSlots
  split
  · rfl
  · rw [foldState_freeSlot_only]
    rfl

/-- The save slots of a command are released: it stays, and holds none. -/
theorem cmd_releaseSlots (q : Fin 256) (seq : Word) :
    (releaseSlots q seq s).cmd q seq =
      (s.cmd q seq).map fun x => { x with rackSlot := none, rackRequested := false } := by
  unfold releaseSlots
  split
  · next h => rw [h]; rfl
  · rw [cmd_updCmd, foldState_freeSlot_only]
    · rfl
    · exact fun _ => rfl

/-- The stop of a program stops its presses, changes contents, and releases save slots. -/
theorem stopProgram_eq (q : Fin 256) (c : Cmd) :
    ∃ u, outline u = outline (foldState stopPress (pressesOf s q c.seq) s) ∧
      stopProgram q c s = releaseSlots q c.seq u :=
  ⟨_, (outline_wipeMoved ..).trans <| (outline_foldState fun _ _ => outline_wipePress ..).trans <|
    (outline_wipeOutputs ..).trans <| (outline_dropJobs ..).trans (outline_wipeChildren ..), rfl⟩

theorem mode_stopProgram {s : State} {q : Fin 256} {c : Cmd} {p : Fin 16} (h : p ∈ pressesOf s q c.seq) :
    ((stopProgram q c s).press p).mode = .killing := by
  obtain ⟨u, same, stop⟩ := stopProgram_eq s q c
  have kept : (stopProgram q c s).press p = u.press p := by rw [stop, State.press, releaseSlots_presses, ← State.press]
  rw [kept]
  exact (congrArg Press.mode (press_of_outline same p)).trans (mode_foldState_stopPress (.inl h))

theorem twinFail_stopProgram (q : Fin 256) (c : Cmd) (p : Fin 16) :
    ((stopProgram q c s).press p).twinFail = (s.press p).twinFail := by
  obtain ⟨u, same, stop⟩ := stopProgram_eq s q c
  have kept : (stopProgram q c s).press p = u.press p := by rw [stop, State.press, releaseSlots_presses, ← State.press]
  rw [kept]
  exact (congrArg Press.twinFail (press_of_outline same p)).trans (twinFail_foldState_stopPress ..)

theorem stopProgram_failed_fuses (q : Fin 256) (c : Cmd) :
    (stopProgram q c s).failed = s.failed ∧ (stopProgram q c s).fuses = s.fuses := by
  obtain ⟨u, same, stop⟩ := stopProgram_eq s q c
  obtain ⟨-, failed, fuses⟩ := foldState_stopPress_keeps s (pressesOf s q c.seq)
  obtain ⟨failed', fuses', -⟩ := lasting_iff.1 (lasting_releaseSlots u q c.seq)
  rw [stop]
  exact ⟨failed'.trans ((failed_of_outline same).trans failed), fuses'.trans ((fuses_of_outline same).trans fuses)⟩

theorem cmd_stopProgram {s : State} {q : Fin 256} {c : Cmd} (h : s.cmd q c.seq = some c) :
    (stopProgram q c s).cmd q c.seq = some { c with rackSlot := none, rackRequested := false } := by
  obtain ⟨u, same, stop⟩ := stopProgram_eq s q c
  obtain ⟨queues, -⟩ := foldState_stopPress_keeps s (pressesOf s q c.seq)
  have found : u.cmd q c.seq = some c := by
    rw [cmd_of_outline same, State.cmd, State.queue, queues, ← State.queue, ← State.cmd, h]
  rw [stop, cmd_releaseSlots, found]
  rfl

/-! ### Kills -/

theorem noteFault_only (n : Fin 8) (st : Stop) : noteFault n st s = { s with mmu := (noteFault n st s).mmu } := by
  unfold noteFault
  split <;> rfl

/-- A kill of a PRESS_PROGRAM command that runs: its presses stop, and it is being killed (R131). -/
theorem killCmd_running {s : State} {q : Fin 256} {c : Cmd} {e : Stop} (found : s.cmd q c.seq = some c) (kind : c.kind = 1)
    (running : c.phase = .running) (held : e.held = false) :
    killCmd q c.seq e s = (stopProgram q c (noteFault (s.parcelOf q) e s)).updCmd q c.seq fun x =>
      { x with phase := .killing e.status e.data } := by
  have found' : (noteFault (s.parcelOf q) e s).cmd q c.seq = some c := by rw [noteFault_only]; exact found
  have reached : c.phase.killable = true := by rw [running]; rfl
  unfold killCmd
  simp only [held, found', reached, Bool.false_eq_true, if_false, Bool.not_true, kind, ne_eq, not_true_eq_false]
  split
  · next suspended => rw [running] at suspended; cases suspended
  · rfl

/-- A kill that reaches a running PRESS_PROGRAM command from one of its presses. -/
theorem killed_of_running {s : State} {p : Fin 16} {k : Sequencer} {c : Cmd} {e : Stop}
    (seated : (s.press p).sequencer = some k) (found : s.cmd k.queue k.seq = some c) (kind : c.kind = 1)
    (running : c.phase = .running) (held : e.held = false) : Killed k p e (killCmd k.queue k.seq e s) := by
  have number : c.seq = k.seq := seq_of_cmd found
  rw [← number] at found
  have found' : (noteFault (s.parcelOf k.queue) e s).cmd k.queue c.seq = some c := by rw [noteFault_only]; exact found
  have seated' : ((noteFault (s.parcelOf k.queue) e s).press p).sequencer = some k := by rw [noteFault_only]; exact seated
  unfold Killed
  rw [← number, killCmd_running found kind running held]
  refine ⟨?_, mode_stopProgram ?_⟩
  · rw [cmd_updCmd, cmd_stopProgram found']
    · rfl
    · exact fun _ => rfl
  · rw [number]
    exact mem_pressesOf seated'

theorem twinFail_killCmd_running {s : State} {q : Fin 256} {c : Cmd} {e : Stop} (found : s.cmd q c.seq = some c)
    (kind : c.kind = 1) (running : c.phase = .running) (held : e.held = false) (p : Fin 16) :
    ((killCmd q c.seq e s).press p).twinFail = (s.press p).twinFail := by
  rw [killCmd_running found kind running held]
  refine (twinFail_stopProgram ..).trans ?_
  rw [noteFault_only]
  rfl

end

end Sys2Proof.Machine
end

section
/-! PROOF. A press that firmware takes out of service, the host's acknowledgement of a wire, and RESUME of a stopped queue: the
clauses of `Obligations.FailAckResumeAct`. -/

namespace Sys2Proof.Machine

/-! ### FAILED.MASK -/

/-- The FAILED bits and the fuses of two devices are alike. -/
def SameService (s t : State) : Prop := t.failed = s.failed ∧ t.fuses = s.fuses

section
variable {s t u : State}

theorem SameService.trans (h : SameService s t) (g : SameService t u) : SameService s u :=
  ⟨g.1.trans h.1, g.2.trans h.2⟩

theorem SameService.of_outline (h : outline t = outline s) : SameService s t :=
  ⟨failed_of_outline h, fuses_of_outline h⟩

theorem SameService.of_lasting (h : lasting t = lasting s) : SameService s t := by
  obtain ⟨failed, fuses, -⟩ := lasting_iff.1 h
  exact ⟨failed, fuses⟩

theorem SameService.foldState {α : Type} {f : α → State → State} {l : List α} (h : ∀ x s, SameService s (f x s)) :
    SameService s (foldState f l s) :=
  foldState_keeps (SameService s) f l (fun x _ ht => ht.trans (h x _)) s ⟨rfl, rfl⟩

end

section
variable (s : State)

theorem takeCore_only (encode : Bool) : takeCore encode s = { s with codec := (takeCore encode s).codec } := by
  unfold takeCore
  split <;> rfl

theorem assignCores_only : assignCores s = { s with codec := (assignCores s).codec } :=
  foldState_keeps (fun t => t = { s with codec := t.codec }) takeCore _
    (fun encode t ht => by rw [takeCore_only, ht]) s rfl

theorem dropCodec_sameService (q : Fin 256) (seq : Word) : SameService s (dropCodec q seq s) := by
  unfold dropCodec
  rw [assignCores_only]
  exact ⟨rfl, rfl⟩

theorem stopBlock_sameService (q : Fin 256) (c : Cmd) : SameService s (stopBlock q c s) := by
  have jobs : SameService s (dropJobs q c.seq s) := ⟨rfl, rfl⟩
  have capture (u : State) : SameService u (dropCapture q c.seq u) := ⟨rfl, rfl⟩
  have wipes (u : State) : SameService u (c.outputs.foldl (wipeOutput (queueCx s q)) (wipeOutputs c u)) :=
    .of_outline ((outline_foldl fun _ _ => outline_wipeOutput ..).trans (outline_wipeOutputs ..))
  exact ((jobs.trans (dropCodec_sameService _ q c.seq)).trans (capture _)).trans (wipes _)

theorem noteFault_sameService (n : Fin 8) (e : Stop) : SameService s (noteFault n e s) := by
  rw [noteFault_only]
  exact ⟨rfl, rfl⟩

/-- A kill sets no FAILED bit. -/
theorem killCmd_sameService (q : Fin 256) (seq : Word) (e : Stop) : SameService s (killCmd q seq e s) := by
  have noted := noteFault_sameService s (s.parcelOf q) e
  have ends (u : State) (status : Byte) (data : Long) : SameService u (endCmd q seq status data u) :=
    .of_lasting (lasting_endCmd ..)
  unfold killCmd
  split
  · exact ⟨rfl, rfl⟩
  dsimp only
  split
  · exact noted
  next c _ =>
  split
  · exact noted
  split
  · exact noted.trans ((stopBlock_sameService _ q c).trans (ends ..))
  split
  · exact noted.trans (ends ..)
  · exact noted.trans (stopProgram_failed_fuses _ q c)

theorem setFailed_failed (p : Fin 16) :
    (setFailed p s).failed = s.failed ||| BitVec.ofNat 16 (2 ^ p.val) ∧ (setFailed p s).fuses = s.fuses :=
  SameService.foldState (s := { s with failed := s.failed ||| BitVec.ofNat 16 (2 ^ p.val) })
    fun _ _ => killCmd_sameService ..

end

/-- The bit of one press as a mask. -/
def pressBit (p : Fin 16) : BitVec 16 := BitVec.ofNat 16 (2 ^ p.val)

theorem maskPresses_pressBit : ∀ p : Fin 16, maskPresses (pressBit p) = [p] := by decide +kernel

theorem getLsbD_pressBit : ∀ p : Fin 16, (pressBit p).getLsbD p.val = true := by decide +kernel

theorem fld_pressBit : ∀ p : Fin 16, BitVec.ofNat 16 (fld (BitVec.ofNat 32 (2 ^ p.val)) 0 16) = pressBit p := by
  decide +kernel

theorem or_pressBit : ∀ (p : Fin 16) (x : BitVec 16), x.getLsbD p.val = true → x = x ||| pressBit p := by
  intro p x set
  refine BitVec.eq_of_getLsbD_eq fun i hi => ?_
  have single : (pressBit p).getLsbD i = decide (p.val = i) := by
    rw [pressBit, BitVec.getLsbD_ofNat, Nat.testBit_two_pow, decide_eq_true hi, Bool.true_and]
  rw [BitVec.getLsbD_or, single]
  by_cases here : p.val = i
  · rw [← here, set]
    rfl
  · simp [here]

theorem enabled_of_failed {s : State} {p : Fin 16} (h : s.failed.getLsbD p.val = true) : enabled s p = false := by
  simp [enabled, enabledMask, h]

/-- R145: a 1 in one bit of FAILED.MASK takes that press out of service. -/
theorem writeFailed_pressBit (s : State) (p : Fin 16) :
    (writeFailed (pressBit p) s).failed = s.failed ||| pressBit p ∧ (writeFailed (pressBit p) s).fuses = s.fuses := by
  obtain ⟨failed, fuses, -⟩ := lasting_iff.1 (lasting_settleJobs
    (foldState (fun p s => if s.failed.getLsbD p.val then s else setFailed p s) (maskPresses (pressBit p)) s))
  unfold writeFailed
  rw [failed, fuses, maskPresses_pressBit, foldState_cons, foldState_nil]
  split
  · next set => exact ⟨or_pressBit p _ set, rfl⟩
  · exact setFailed_failed s p

theorem pressFailedSet_acts {s : State} {p : Fin 16} (h : hartsRun s = true) :
    ∃ t, exec (.pressFailedSet p) s = .next t ∧ t.failed = s.failed ||| pressBit p ∧ enabled t p = false ∧
      t.fuses = s.fuses := by
  have acts : writerActs (.hart 0) s = true := h
  have allotted : allocated 19 = true := by decide
  obtain ⟨failed, fuses⟩ := writeFailed_pressBit s p
  have written : writeWord (.hart 0) 19 0x11 (BitVec.ofNat 32 (2 ^ p.val)) s = writeFailed (pressBit p) s := by
    rw [writeWord_firmware (by simp) acts allotted, regApply_block (offPress_of_lt s (by decide)) (by decide),
      ← fld_pressBit p]
    rfl
  rw [← written] at failed fuses
  refine ⟨_, answer_eq _ _, failed, enabled_of_failed ?_, fuses⟩
  rw [failed, BitVec.getLsbD_or, getLsbD_pressBit, Bool.or_true]

/-! ### IRQ_ACK -/

theorem firmwareRw_acked : ∀ w : Fin 4, firmwareRw 3 (0x39 + 2 * w.val) = 0 := by decide

theorem firmwareAct_acked : ∀ w : Fin 4, firmwareAct 3 (0x39 + 2 * w.val) = 0 := by decide

theorem writeHostPort_acked (s : State) (v : Word) : ∀ w : Fin 4, writeHostPort (0x39 + 2 * w.val) v s = writeAcked w v s
  | 0 | 1 | 2 | 3 => rfl

/-- R446: the host's write of IRQw.ACKED is stored. -/
theorem writeWord_acked {s : State} (w : Fin 4) (v : Word) (h : s.safety.safe = false) :
    writeWord .host 3 (0x39 + 2 * w.val) v s = writeAcked w v s := by
  have off : offPress s 3 = false := offPress_of_lt s (by decide)
  rw [writeWord_open ⟨rfl, fun _ => .inl h⟩ (by decide) off (firmwareRw_acked w) (firmwareAct_acked w),
    regApply_block off (by omega), ← writeHostPort_acked]
  rfl

theorem irqAck_acts {s : State} (w : Fin 4) (v : Word) (h : s.safety.safe = false) :
    ∃ t, exec (.irqAck w v) s = .next t ∧ (vget t.port.wires w).acked = v ∧
      (vget t.port.wires w).raised = (vget s.port.wires w).raised ∧
      irqN t w = (isLead s && decide ((vget s.port.wires w).raised ≠ v)) ∧
      (∀ x : Fin 4, x ≠ w → vget t.port.wires x = vget s.port.wires x) ∧ t = { s with port := t.port } := by
  have wire : vget (writeAcked w v s).port.wires w = { vget s.port.wires w with acked := v } := vget_vupd_self ..
  have step : exec (.irqAck w v) s = .next (writeAcked w v s) :=
    (answer_keep (by rw [writeWord_acked w v h]; rfl)).trans (congrArg _ (writeWord_acked w v h))
  refine ⟨_, step, ?_, ?_, ?_, fun x hx => vget_vupd_ne _ _ hx.symm, rfl⟩
  · rw [wire]
  · rw [wire]
  · rw [irqN, wire]
    rfl

/-! ### RESUME -/

theorem firmwareRw_resume : ∀ q : Fin 256, firmwareRw (64 + q.val / 16) (0x42 + 16 * (q.val % 16)) = 0 := by
  decide +kernel

theorem firmwareAct_resume : ∀ q : Fin 256, firmwareAct (64 + q.val / 16) (0x42 + 16 * (q.val % 16)) = 0 := by
  decide +kernel

theorem offPress_of_gt (s : State) {p : Nat} (h : 35 < p) : offPress s p = false := by
  simp [offPress, Nat.not_le.mpr h]

theorem allocated_qgrp : ∀ q : Fin 256, allocated (64 + q.val / 16) = true := by decide +kernel

theorem safePage_qgrp : ∀ q : Fin 256, safePage (64 + q.val / 16) = false := by decide +kernel

theorem writeBlock_qgrp {who : Writer} {p w : Nat} {v : Word} {s : State} (lo : 64 ≤ p) (hi : p ≤ 79) :
    writeBlock who p w v s = writeQgrp (p - 64) w v s := by
  unfold writeBlock
  simp (disch := omega) only [if_neg, if_pos]

/-- The word of a QGRP page that holds a queue's RESUME. -/
theorem writeQgrp_resume (s : State) (q : Fin 256) :
    writeQgrp (q.val / 16) (0x42 + 16 * (q.val % 16)) 1 s = resumeGo q s := by
  have number : Fin.ofNat 256 (16 * (q.val / 16) + (0x42 + 16 * (q.val % 16) - 0x40) / 16) = q := by
    have same : 16 * (q.val / 16) + (0x42 + 16 * (q.val % 16) - 0x40) / 16 = q.val := by omega
    rw [same]
    exact Fin.ofNat_val_eq_self q
  have within : inWords 0x40 0x13F (0x42 + 16 * (q.val % 16)) = true := by
    simp only [inWords, Bool.and_eq_true, decide_eq_true_eq]
    omega
  have column : (0x42 + 16 * (q.val % 16)) % 16 = 2 := by omega
  unfold writeQgrp
  simp only [number, within, column]
  rfl

/-- R476: the host's write of RESUME.GO. -/
theorem writeWord_resume {s : State} (q : Fin 256) (h : s.safety.safe = false) :
    writeWord .host (64 + q.val / 16) (0x42 + 16 * (q.val % 16)) 1 s = resumeGo q s := by
  have off : offPress s (64 + q.val / 16) = false := offPress_of_gt s (by omega)
  rw [writeWord_open ⟨rfl, fun _ => .inl h⟩ (allocated_qgrp q) off (firmwareRw_resume q) (firmwareAct_resume q),
    regApply_block off (by omega), writeBlock_qgrp (by omega) (by omega), Nat.add_sub_cancel_left, writeQgrp_resume]

/-- A stopped queue is to resume at a TAIL. -/
def Resuming (mark : Word) (x : Queue) : Prop := x.tail = mark ∧ x.stopped = true ∧ x.resume = some mark

/-- An end in a queue that is stopped leaves where it is to resume. -/
theorem Resuming.queueAfterEnd {mark : Word} {x : Queue} (h : Resuming mark x) (seq : Word) (status : Byte) (data : Long) :
    Resuming mark (queueAfterEnd seq status data x) := by
  obtain ⟨tail, stopped, resume⟩ := h
  unfold Machine.queueAfterEnd
  simp only [stopped, Bool.not_true, Bool.and_false]
  split
  · exact ⟨tail, stopped, resume⟩
  split
  · exact ⟨tail, stopped, resume⟩
  · exact ⟨tail, stopped, resume⟩

theorem Resuming.of_endOne {mark : Word} {q : Fin 256} {s t : State} (h : Resuming mark (s.queue q))
    (e : endOne s q = some t) : Resuming mark (t.queue q) := by
  unfold endOne at e
  dsimp only at e
  split at e
  · cases e
  split at e
  · cases e
    rw [queue_updQueue]
    exact Resuming.queueAfterEnd (x := (s.queue q).upd _ _) h ..
  split at e
  · cases e
  split at e
  · cases e
    rw [queue_updQueue]
    exact Resuming.queueAfterEnd (x := (s.queue q).upd _ _) h ..
  split at e
  · cases e
    rw [queue_updQueue]
    exact Resuming.queueAfterEnd (x := { takeEntry (s.queue q) with cmds := _ }) h ..
  · cases e

/-- A queue that has resumed, or is to resume at a TAIL. -/
def Resumed (mark : Word) (x : Queue) : Prop :=
  x.tail = mark ∧ (x.stopped = false ∧ x.resume = none ∨ x.stopped = true ∧ x.resume = some mark)

theorem Resuming.finishResume {mark : Word} {q : Fin 256} {s : State} (h : Resuming mark (s.queue q)) :
    Resumed mark ((finishResume q s).queue q) := by
  obtain ⟨tail, stopped⟩ := h
  unfold Machine.finishResume
  dsimp only
  split
  · rw [queue_updQueue]
    exact ⟨tail, .inl ⟨rfl, rfl⟩⟩
  · exact ⟨tail, .inr stopped⟩

theorem Resuming.sweep {mark : Word} {q : Fin 256} {s : State} (h : Resuming mark (s.queue q)) (fuel : Nat) :
    Resumed mark ((sweep fuel q s).queue q) := by
  induction fuel generalizing s with
  | zero => exact h.finishResume
  | succ fuel ih =>
    unfold Machine.sweep
    split
    · exact h.finishResume
    · next e => exact ih (h.of_endOne e)

theorem sweepQueue_queues (q : Fin 256) (s : State) : (sweepQueue q s).queues = (sweep 66 q s).queues := by
  unfold sweepQueue settleTopping settleHolder
  dsimp only
  split <;> rfl

theorem Resuming.sweepQueue {mark : Word} {q : Fin 256} {s : State} (h : Resuming mark (s.queue q)) :
    Resumed mark ((sweepQueue q s).queue q) := by
  rw [State.queue, sweepQueue_queues]
  exact h.sweep 66

/-- R476: RESUME.GO of a stopped queue, its earlier submit words taken first. -/
theorem resumeGo_resumes {s : State} {q : Fin 256} {x : Queue} (safe : s.safety.safe = false)
    (taken : x = (takeSubmits s.port.observer.length q s).queue q) (stopped : x.stopped = true) (waits : x.resume = none) :
    Resumed x.tail ((resumeGo q s).queue q) ∧ (resumeGo q s).dram = s.dram := by
  have unfolded : resumeGo q s = sweepQueue q ((takeSubmits s.port.observer.length q s).updQueue q fun x =>
      { x with resume := some x.tail }) := by
    unfold resumeGo
    simp [safe, ← taken, stopped, waits]
  have resuming : Resuming x.tail (((takeSubmits s.port.observer.length q s).updQueue q fun x =>
      { x with resume := some x.tail }).queue q) := by
    rw [queue_updQueue, ← taken]
    exact ⟨rfl, stopped, rfl⟩
  obtain ⟨-, -, sweptDram⟩ := lasting_iff.1 (lasting_sweepQueue ((takeSubmits s.port.observer.length q s).updQueue q fun x =>
    { x with resume := some x.tail }) q)
  obtain ⟨-, -, takenDram⟩ := lasting_iff.1 (lasting_takeSubmits s s.port.observer.length q)
  rw [unfolded]
  exact ⟨resuming.sweepQueue, sweptDram.trans takenDram⟩

theorem resumeGo_acts {s : State} {q : Fin 256} {x : Queue} (safe : s.safety.safe = false)
    (taken : x = (takeSubmits s.port.observer.length q s).queue q) (stopped : x.stopped = true) (waits : x.resume = none) :
    ∃ t, exec (.resumeGo q) s = .next t ∧ (t.queue q).tail = x.tail ∧
      ((t.queue q).stopped = false ∧ (t.queue q).resume = none ∨
        (t.queue q).stopped = true ∧ (t.queue q).resume = some x.tail) ∧ t.dram = s.dram := by
  obtain ⟨⟨tail, resume⟩, dram⟩ := resumeGo_resumes safe taken stopped waits
  rw [← writeWord_resume q safe] at tail resume dram
  exact ⟨_, answer_eq _ _, tail, resume, dram⟩

/-! ### The safe state -/

/-- R673: in the safe state a host write of a page that is not open there is recorded and does nothing else. -/
theorem writeWord_closed {s : State} {p w : Nat} {v : Word} (safe : s.safety.safe = true) (hp : allocated p = true)
    (closed : safePage p = false) : writeWord .host p w v s = hostError 5 (ownAddress s (4096 * p + 4 * w)) s := by
  simp [writeWord, regWrite, writerActs, safe, hp, closed]

theorem hostError_wires {s : State} (safe : s.safety.safe = true) (c : BitVec 16) (w : Nat) :
    (hostError c w s).port.wires = s.port.wires := by
  simp only [hostError, errorWire]
  split
  · simp
  split
  · simp [raiseWire, safe]
  · simp [safe]

theorem hostWrites_closed {s : State} (safe : s.safety.safe = true) (w : Fin 4) (v : Word) (q : Fin 256) :
    (∃ t, exec (.irqAck w v) s = .next t ∧ t.port.wires = s.port.wires ∧ t.port.errCount = satInc s.port.errCount 1) ∧
    ∃ t, exec (.resumeGo q) s = .next t ∧ t.queues = s.queues ∧ t.port.errCount = satInc s.port.errCount 1 := by
  have ack := writeWord_closed (w := 0x39 + 2 * w.val) (v := v) safe (show allocated 3 = true by decide) (by decide)
  have resume := writeWord_closed (w := 0x42 + 16 * (q.val % 16)) (v := 1) safe (allocated_qgrp q) (safePage_qgrp q)
  refine ⟨⟨_, (answer_keep ?_).trans (congrArg _ ack), hostError_wires safe .., hostError_errCount ..⟩,
    ⟨_, (answer_keep ?_).trans (congrArg _ resume), hostError_queues .., hostError_errCount ..⟩⟩
  · rw [ack, hostError_pending]
  · rw [resume, hostError_pending]

/-- Settles O20: each clause by the lemma of its write. -/
theorem failAckResumeAct : Obligations.FailAckResumeAct :=
  ⟨fun _ _ harts => pressFailedSet_acts harts, fun _ w v safe => irqAck_acts w v safe,
    fun _ _ _ safe taken stopped waits => resumeGo_acts safe taken stopped waits,
    fun _ w v q safe => hostWrites_closed safe w v q⟩

end Sys2Proof.Machine
end

section
/-! PROOF. What a press issues and drains: the instruction that it issues in the device as the swaps of a folded program have left
it, changes of a press and its twin alike, and the drain of an output tile. -/

namespace Sys2Proof.Machine

/-! ### The instruction that a press issues -/

section
variable {s u : State} {p : Fin 16} {opcode : Nat}

/-- A press issues an instruction as `issuing` says. -/
theorem issue_of_issuing {x : Cmd × Sequencer × PressInstr} (h : issuing s p opcode = some (x, u))
    (f : Cmd × Sequencer × PressInstr → State → State) : issue p opcode f s = f x u := by
  cases here : issueOf s p opcode with
  | none => simp [issuing, here] at h
  | some y =>
    obtain ⟨c, k, i⟩ := y
    simp only [issuing, here] at h
    simp only [issue, here]
    cases swaps : swapsDue c p k with
    | nil =>
      simp only [swaps] at h ⊢
      cases h
      rfl
    | cons w rest =>
      simp only [swaps] at h ⊢
      by_cases busy : (!k.jobs.isEmpty || !k.drains.isEmpty || decide (k.children ≠ 0)) = true
      · rw [if_pos busy] at h
        cases h
      · rw [if_neg busy] at h ⊢
        cases swapped : foldExcept (swapSlots (pressCx s k.queue p) p) (w :: rest) s with
        | error e => simp [swapped] at h
        | ok s1 =>
          simp only [swapped] at h ⊢
          obtain ⟨y, there, same⟩ := Option.map_eq_some_iff.1 h
          cases same
          simp only [there]

/-- What a press issues is what it would issue in the device that the swaps left. -/
theorem issueOf_of_issuing {x : Cmd × Sequencer × PressInstr} (h : issuing s p opcode = some (x, u)) :
    issueOf u p opcode = some x := by
  unfold issuing at h
  split at h
  · cases h
  next c k i here =>
  split at h
  · cases h; exact here
  split at h
  · cases h
  split at h
  · cases h
  · obtain ⟨y, there, same⟩ := Option.map_eq_some_iff.1 h
    cases same
    exact there

theorem issue_none (h : issueOf s p opcode = none) (f : Cmd × Sequencer × PressInstr → State → State) :
    issue p opcode f s = s := by
  rw [issue, h]

variable {c : Cmd} {k : Sequencer} {i : PressInstr}

theorem runningOn_of_issueOf (h : issueOf s p opcode = some (c, k, i)) : runningOn s p = some (c, k) := by
  unfold issueOf at h
  split at h
  · cases h
  next running =>
  split at h
  · cases h
  split at h
  · cases h
  split at h
  · cases h; exact running
  · cases h

theorem of_runningOn (h : runningOn s p = some (c, k)) :
    (s.press p).sequencer = some k ∧ s.cmd k.queue k.seq = some c ∧ c.phase = .running := by
  unfold runningOn at h
  split at h
  · cases h
  next seated =>
  split at h
  · cases h
  split at h
  · cases h
  next found =>
  split at h
  · next running => cases h; exact ⟨seated, found, running⟩
  · cases h

theorem of_issuing (h : issuing s p opcode = some ((c, k, i), u)) :
    (u.press p).sequencer = some k ∧ u.cmd k.queue k.seq = some c ∧ c.phase = .running :=
  of_runningOn (runningOn_of_issueOf (issueOf_of_issuing h))

end

/-! ### A primary press and its twin -/

theorem press_updPress_ne (s : State) {p q : Fin 16} (f : Press → Press) (h : p ≠ q) : (s.updPress p f).press q = s.press q :=
  vget_vupd_ne _ _ h

/-- A change of a press that leaves which twin it has and what its sequencer does. -/
def KeepsSeat (f : Press → Press) : Prop :=
  ∀ x, (f x).twin = x.twin ∧ (f x).twinPeer = x.twinPeer ∧ (f x).sequencer = x.sequencer

section
variable {s : State} {p q : Fin 16} {f : Press → Press}

theorem updBoth_only (p : Fin 16) (f : Press → Press) (s : State) :
    updBoth p f s = { s with presses := (updBoth p f s).presses } := by
  unfold updBoth
  split <;> rfl

theorem press_updBoth_self (h : twinOfPress s p ≠ some p) : (updBoth p f s).press p = f (s.press p) := by
  unfold updBoth
  split
  · exact press_updPress ..
  · next t twin =>
    have other : t ≠ p := fun e => h (e ▸ twin)
    rw [press_updPress_ne _ _ other, press_updPress]

theorem press_updBoth_twin (h : twinOfPress s p = some q) (hq : q ≠ p) : (updBoth p f s).press q = f (s.press q) := by
  unfold updBoth
  rw [h]
  exact (press_updPress ..).trans (congrArg f (press_updPress_ne _ _ hq.symm))

theorem press_updBoth_ne (hq : q ≠ p) (h : twinOfPress s p ≠ some q) : (updBoth p f s).press q = s.press q := by
  unfold updBoth
  split
  · exact press_updPress_ne _ _ hq.symm
  · next t twin =>
    have other : t ≠ q := fun e => h (e ▸ twin)
    rw [press_updPress_ne _ _ other, press_updPress_ne _ _ hq.symm]

/-- What a change of a press leaves, it leaves of a press and of its twin. -/
theorem press_updBoth_keeps {α : Type} {g : Press → α} (hg : ∀ x, g (f x) = g x) (q : Fin 16) :
    g ((updBoth p f s).press q) = g (s.press q) := by
  have once (s : State) (r : Fin 16) : g ((s.updPress r f).press q) = g (s.press q) := by
    by_cases here : r = q
    · rw [here, press_updPress, hg]
    · rw [press_updPress_ne _ _ here]
  unfold updBoth
  split
  · exact once s p
  · exact (once ..).trans (once ..)

theorem cmd_updBoth (n : Fin 256) (seq : Word) : (updBoth p f s).cmd n seq = s.cmd n seq := by
  rw [updBoth_only]
  rfl

theorem twinOfPress_congr {t : State} (h : (t.press p).twin = (s.press p).twin)
    (hp : (t.press p).twinPeer = (s.press p).twinPeer) : twinOfPress t p = twinOfPress s p := by
  rw [twinOfPress, twinOfPress, h, hp]

theorem twinOfPress_updBoth (hf : KeepsSeat f) : twinOfPress (updBoth p f s) p = twinOfPress s p :=
  twinOfPress_congr (press_updBoth_keeps (fun x => (hf x).1) p) (press_updBoth_keeps (fun x => (hf x).2.1) p)

end

/-! ### The end of an instruction that hands tiles to the output stage -/

/-- A press after an instruction that ends: changed by `f`, its tiles to be drained and its sequencer at the next instruction. -/
def handOver (p : Fin 16) (f : Press → Press) (tiles : List OutTile) (s : State) : State :=
  advance p (updSequencer p (fun k => { k with drains := tiles }) (updBoth p f s))

section
variable {s : State} {p q : Fin 16} {f : Press → Press} {tiles : List OutTile}

theorem handOver_only : handOver p f tiles s = { s with presses := (handOver p f tiles s).presses } := by
  unfold handOver advance updSequencers
  rw [updBoth_only, updSequencer, updBoth_only]
  rfl

/-- What the hand-over leaves of which twin a press has. -/
theorem twinOfPress_updSequencer (hf : KeepsSeat f) {g : Sequencer → Sequencer} :
    twinOfPress (updSequencer p g (updBoth p f s)) p = twinOfPress s p := by
  refine (twinOfPress_congr (s := updBoth p f s) ?_ ?_).trans (twinOfPress_updBoth hf)
  · rw [updSequencer, press_updPress]
  · rw [updSequencer, press_updPress]

theorem press_handOver_self {k : Sequencer} (hf : KeepsSeat f) (twin : twinOfPress s p ≠ some p)
    (seated : (s.press p).sequencer = some k) :
    (handOver p f tiles s).press p =
      { f (s.press p) with sequencer := some { k with index := k.index + 1, drains := tiles } } := by
  have kept : (f (s.press p)).sequencer = some k := (hf _).2.2.trans seated
  rw [handOver, advance, updSequencers, press_updBoth_self (by rwa [twinOfPress_updSequencer hf]), updSequencer, press_updPress,
    press_updBoth_self twin]
  simp only [kept, Option.map_some]

theorem press_handOver_twin (hf : KeepsSeat f) (twin : twinOfPress s p = some q) (hq : q ≠ p) :
    (handOver p f tiles s).press q =
      { f (s.press q) with sequencer := (f (s.press q)).sequencer.map fun k => { k with index := k.index + 1 } } := by
  rw [handOver, advance, updSequencers, press_updBoth_twin (by rwa [twinOfPress_updSequencer hf]) hq, updSequencer,
    press_updPress_ne _ _ hq.symm, press_updBoth_twin twin hq]

theorem press_handOver_ne (hf : KeepsSeat f) (hq : q ≠ p) (twin : twinOfPress s p ≠ some q) :
    (handOver p f tiles s).press q = s.press q := by
  rw [handOver, advance, updSequencers, press_updBoth_ne hq (by rwa [twinOfPress_updSequencer hf]), updSequencer,
    press_updPress_ne _ _ hq.symm, press_updBoth_ne hq twin]

end

end Sys2Proof.Machine
end

section
/-! PROOF. What the matrix engine of a press does: MATMUL and ELTWISE hand their tiles over or kill their command, the first weight
tile of a matrix instruction loads, and a drain ends in the Cask or in a mismatch of the twins. -/

namespace Sys2Proof.Machine

/-! ### MATMUL and ELTWISE -/

theorem keepsSeat_countCycles (spans : List CycleSpan) (cause : Option Cause) (st : Stalls) :
    KeepsSeat (countCycles spans cause st) := fun _ => ⟨rfl, rfl, rfl⟩

/-- What a nest that ran to its end leaves in a press, its cycles and its tiles apart. -/
def afterNest (n : NestRun) (x : Press) : Press :=
  { x with mode := .matrix, shadow := none, accumulators := n.accumulators, sideStore := n.sideStore }

theorem keepsSeat_afterNest (n : NestRun) : KeepsSeat (afterNest n) := fun _ => ⟨rfl, rfl, rfl⟩

/-- What a nest of blocks that ran to its end leaves in a press. -/
def afterEltwise (x : Press) : Press := { x with mode := .elementwise }

theorem keepsSeat_afterEltwise : KeepsSeat afterEltwise := fun _ => ⟨rfl, rfl, rfl⟩

section
variable {s u : State} {p q : Fin 16} {c : Cmd} {k : Sequencer} {i : PressInstr} {n : NestRun} {st : Stalls}

theorem stepMatmul_ok (h : issuing s p 1 = some ((c, k, i), u)) (idle : k.drains = [])
    (run : runMatmul u (pressCx u k.queue p) c.operands i (u.press p) = n) (none : n.cause = none) :
    stepMatmul p st s = handOver p (afterNest n) n.tiles (updBoth p (countCycles n.spans .none st) u) := by
  rw [stepMatmul, issue_of_issuing h]
  simp only [idle, run, none, List.isEmpty_nil, Bool.not_true, Bool.false_eq_true, if_false]
  rfl

theorem stepMatmul_error {e : Cause} (h : issuing s p 1 = some ((c, k, i), u)) (idle : k.drains = [])
    (run : runMatmul u (pressCx u k.queue p) c.operands i (u.press p) = n) (cause : n.cause = some e) (held : e.2.held = false) :
    stepMatmul p st s = killCmd k.queue k.seq e.2 (updBoth p (countCycles n.spans (some e) st) u) := by
  rw [stepMatmul, issue_of_issuing h]
  simp only [idle, run, cause, held, List.isEmpty_nil, Bool.not_true, Bool.false_eq_true, if_false]

theorem stepEltwise_ok {l : List OutTile} (h : issuing s p 2 = some ((c, k, i), u)) (idle : k.drains = [])
    (run : runEltwise u (pressCx u k.queue p) c.operands i = .ok l) :
    stepEltwise p st s = handOver p afterEltwise l (updBoth p (countCycles [] none st) u) := by
  rw [stepEltwise, issue_of_issuing h]
  simp only [idle, run, List.isEmpty_nil, Bool.not_true, Bool.false_eq_true, if_false]
  rfl

theorem stepEltwise_error {e : Stop} (h : issuing s p 2 = some ((c, k, i), u)) (idle : k.drains = [])
    (run : runEltwise u (pressCx u k.queue p) c.operands i = .error e) (held : e.held = false) :
    stepEltwise p st s = killCmd k.queue k.seq e (updBoth p (countCycles [] none st) u) := by
  rw [stepEltwise, issue_of_issuing h]
  simp only [idle, run, held, List.isEmpty_nil, Bool.not_true, Bool.false_eq_true, if_false]

theorem stepMatmul_waits (h : issuing s p 1 = some ((c, k, i), u)) (busy : k.drains ≠ []) : stepMatmul p st s = u := by
  rw [stepMatmul, issue_of_issuing h]
  simp only [List.isEmpty_eq_false_iff.2 busy, Bool.not_false, if_true]

theorem stepEltwise_waits (h : issuing s p 2 = some ((c, k, i), u)) (busy : k.drains ≠ []) : stepEltwise p st s = u := by
  rw [stepEltwise, issue_of_issuing h]
  simp only [List.isEmpty_eq_false_iff.2 busy, Bool.not_false, if_true]

/-! ### An instruction that counts its cycles and hands its tiles over -/

variable {f : Press → Press} {tiles : List OutTile} {spans : List CycleSpan}

theorem press_counted_handOver (hf : KeepsSeat f) (twin : twinOfPress u p ≠ some p) (seated : (u.press p).sequencer = some k) :
    (handOver p f tiles (updBoth p (countCycles spans none st) u)).press p =
      { f (countCycles spans none st (u.press p)) with sequencer := some { k with index := k.index + 1, drains := tiles } } := by
  have counts := keepsSeat_countCycles spans none st
  rw [press_handOver_self (k := k) hf, press_updBoth_self twin]
  · rwa [twinOfPress_updBoth counts]
  · rwa [press_updBoth_self twin]

theorem press_counted_handOver_twin (hf : KeepsSeat f) (twin : twinOfPress u p = some q) (hq : q ≠ p) :
    (handOver p f tiles (updBoth p (countCycles spans none st) u)).press q =
      { f (countCycles spans none st (u.press q)) with
        sequencer := (f (countCycles spans none st (u.press q))).sequencer.map fun k => { k with index := k.index + 1 } } := by
  have counts := keepsSeat_countCycles spans none st
  rw [press_handOver_twin hf _ hq, press_updBoth_twin twin hq]
  rwa [twinOfPress_updBoth counts]

theorem press_counted_handOver_ne (hf : KeepsSeat f) (hq : q ≠ p) (twin : twinOfPress u p ≠ some q) :
    (handOver p f tiles (updBoth p (countCycles spans none st) u)).press q = u.press q := by
  have counts := keepsSeat_countCycles spans none st
  rw [press_handOver_ne hf hq, press_updBoth_ne hq twin]
  rwa [twinOfPress_updBoth counts]

theorem counted_handOver_only :
    handOver p f tiles (updBoth p (countCycles spans none st) u) =
      { u with presses := (handOver p f tiles (updBoth p (countCycles spans none st) u)).presses } := by
  rw [handOver_only, updBoth_only]

theorem counted_countCycles (x : Press) : Counted spans none st x (countCycles spans none st x) :=
  ⟨rfl, rfl, rfl, rfl, rfl⟩

/-- A command that a running instruction kills, its cycles counted, is killed as from the device before. -/
theorem killed_after_counting {opcode : Nat} {cause : Option Cause} {e : Stop} (h : issuing s p opcode = some ((c, k, i), u))
    (kind : c.kind = 1) (held : e.held = false) :
    Killed k p e (killCmd k.queue k.seq e (updBoth p (countCycles spans cause st) u)) := by
  obtain ⟨seated, found, running⟩ := of_issuing h
  have counts := keepsSeat_countCycles spans cause st
  refine killed_of_running ?_ ((cmd_updBoth ..).trans found) kind running held
  rw [press_updBoth_keeps (g := Press.sequencer) fun x => (counts x).2.2]
  exact seated

/-! ### The shadow load -/

/-- A press with a weight tile in its shadow buffer (R99). -/
def shadowLoaded (w : Tile) (x : Press) : Press := { x with shadow := some w }

theorem stepWeightTile_ok {w : Tile} (h : issuing s p 1 = some ((c, k, i), u)) (empty : (u.press p).shadow = none)
    (free : loadWaits c p k i = false)
    (load : loadTile u (pressCx u k.queue p) c.operands i (List.replicate i.depth 0) = .ok w) :
    stepWeightTile p s = updBoth p (shadowLoaded w) u := by
  rw [stepWeightTile, issue_of_issuing h]
  simp only [empty, free, load, Option.isSome_none, Bool.or_self, Bool.false_eq_true, if_false]
  rfl

theorem stepWeightTile_error {e : Stop} (h : issuing s p 1 = some ((c, k, i), u)) (empty : (u.press p).shadow = none)
    (free : loadWaits c p k i = false)
    (load : loadTile u (pressCx u k.queue p) c.operands i (List.replicate i.depth 0) = .error e) :
    stepWeightTile p s = killCmd k.queue k.seq e u := by
  rw [stepWeightTile, issue_of_issuing h]
  simp only [empty, free, load, Option.isSome_none, Bool.or_self, Bool.false_eq_true, if_false]

/-- What a change of a press and its twin gives a press whatever it held. -/
theorem press_updBoth_gives {α : Type} {g : Press → α} {v : α} (hg : ∀ x, g (f x) = v) :
    g ((updBoth p f s).press p) = v := by
  unfold updBoth
  split
  · rw [press_updPress, hg]
  · next t _ =>
    by_cases same : t = p
    · rw [same, press_updPress, hg]
    · rw [press_updPress_ne _ _ same, press_updPress, hg]

end

/-! ### The end of a drain -/

section
variable {s : State} {p q : Fin 16} {c : Cmd} {k : Sequencer} {w : OutTile} {rest : List OutTile} {x : Option Word}

theorem settleParts_only (n : Fin 256) (seq : Word) (s : State) :
    settleParts n seq s = { s with queues := (settleParts n seq s).queues } := by
  unfold settleParts
  split
  · rfl
  · split <;> rfl

theorem press_settleParts (n : Fin 256) (seq : Word) (p : Fin 16) : (settleParts n seq s).press p = s.press p := by
  rw [settleParts_only]
  rfl

/-- The bytes of a drained tile in the Cask of a press, whose tiles still to be drained are `rest`. -/
def tileWritten (p : Fin 16) (w : OutTile) (rest : List OutTile) (s : State) : State :=
  updSequencer p (fun k => { k with drains := rest }) (s.updPress p fun x => { x with cask := x.cask.writeRuns w.writes })

theorem press_tileWritten : (tileWritten p w rest s).press p =
    { s.press p with
      cask := (s.press p).cask.writeRuns w.writes
      sequencer := (s.press p).sequencer.map fun k => { k with drains := rest } } := by
  rw [tileWritten, updSequencer, press_updPress, press_updPress]

theorem press_tileWritten_ne (h : q ≠ p) : (tileWritten p w rest s).press q = s.press q := by
  rw [tileWritten, updSequencer, press_updPress_ne _ _ h.symm, press_updPress_ne _ _ h.symm]

theorem twinOfPress_tileWritten : twinOfPress (tileWritten p w rest s) p = twinOfPress s p := by
  refine twinOfPress_congr ?_ ?_ <;> rw [press_tileWritten]

/-- A press whose output stage has drained its last tile. -/
def atRest (x : Press) : Press := { x with mode := .idle }

/-- The output stage at rest after an instruction's last drain: the press and its twin are idle, and counter 62 has risen. -/
def drainsDone (p : Fin 16) (s : State) : State := signal p 62 (updBoth p atRest s)

theorem finishDrain_eq : finishDrain p k w rest s =
    if rest = [] then settleParts k.queue k.seq (drainsDone p (tileWritten p w rest s)) else tileWritten p w rest s := by
  cases rest with
  | nil => rfl
  | cons => rfl

theorem finishDrain_only :
    finishDrain p k w rest s =
      { s with presses := (finishDrain p k w rest s).presses, queues := (finishDrain p k w rest s).queues } := by
  rw [finishDrain_eq]
  split
  · rw [settleParts_only, drainsDone, signal, updBoth_only]
    rfl
  · rfl

/-- What the end of an instruction's drains leaves of a press, its mode and its counters apart. -/
theorem press_drainsDone_keeps {α : Type} {g : Press → α} (mode : ∀ x m, g { x with mode := m } = g x)
    (arrive : ∀ x v, g { x with arrive := v } = g x) (q : Fin 16) : g ((drainsDone p s).press q) = g (s.press q) := by
  have idle := press_updBoth_keeps (f := atRest) (s := s) (p := p) (fun x => mode x .idle) q
  by_cases here : p = q
  · subst here
    rw [drainsDone, signal, press_updPress, arrive, idle]
  · rw [drainsDone, signal, press_updPress_ne _ _ here, idle]

/-- What the end of a drain leaves of a press as the tile's bytes left it. -/
theorem press_finishDrain_keeps {α : Type} {g : Press → α} (mode : ∀ x m, g { x with mode := m } = g x)
    (arrive : ∀ x v, g { x with arrive := v } = g x) (q : Fin 16) :
    g ((finishDrain p k w rest s).press q) = g ((tileWritten p w rest s).press q) := by
  rw [finishDrain_eq]
  split
  · rw [press_settleParts, press_drainsDone_keeps mode arrive]
  · rfl

theorem arrive_drainsDone :
    ((drainsDone p s).press p).arrive = vupd (s.press p).arrive 62 fun v => v + 1 := by
  rw [drainsDone, signal, press_updPress]
  exact congrArg (vupd · 62 (· + 1)) (press_updBoth_keeps (f := atRest) (g := Press.arrive) (fun _ => rfl) p)

theorem arrive_finishDrain :
    ((finishDrain p k w rest s).press p).arrive =
      if rest = [] then vupd (s.press p).arrive 62 fun v => v + 1 else (s.press p).arrive := by
  rw [finishDrain_eq]
  split
  · rw [press_settleParts, arrive_drainsDone, press_tileWritten]
  · rw [press_tileWritten]

theorem arrive62_finishDrain :
    vget ((finishDrain p k w rest s).press p).arrive 62 = vget (s.press p).arrive 62 + (if rest = [] then 1 else 0) := by
  rw [arrive_finishDrain]
  split
  · rw [vget_vupd_self]
  · exact (BitVec.add_zero _).symm

theorem arrive_finishDrain_ne {j : Fin 64} (h : j ≠ 62) :
    vget ((finishDrain p k w rest s).press p).arrive j = vget (s.press p).arrive j := by
  rw [arrive_finishDrain]
  split
  · rw [vget_vupd_ne _ _ h.symm]
  · rfl

theorem cask_finishDrain : ((finishDrain p k w rest s).press p).cask = (s.press p).cask.writeRuns w.writes := by
  rw [press_finishDrain_keeps (g := Press.cask) (fun _ _ => rfl) (fun _ _ => rfl), press_tileWritten]

theorem sequencer_finishDrain (h : (s.press p).sequencer = some k) :
    ((finishDrain p k w rest s).press p).sequencer = some { k with drains := rest } := by
  rw [press_finishDrain_keeps (g := Press.sequencer) (fun _ _ => rfl) (fun _ _ => rfl), press_tileWritten, h]
  rfl

/-- A press that is neither the one that drains nor its twin stays as it is. -/
theorem press_finishDrain_ne (hq : q ≠ p) (twin : twinOfPress s p ≠ some q) :
    (finishDrain p k w rest s).press q = s.press q := by
  rw [finishDrain_eq]
  split
  · rw [press_settleParts, drainsDone, signal, press_updPress_ne _ _ hq.symm,
      press_updBoth_ne hq (by rwa [twinOfPress_tileWritten]), press_tileWritten_ne hq]
  · rw [press_tileWritten_ne hq]

theorem stepDrainEnd_single (h : runningOn s p = some (c, k)) (drain : k.drains = w :: rest) (twin : twinOfPress s p = none) :
    stepDrainEnd p x s = finishDrain p k w rest s := by
  simp only [stepDrainEnd, h, drain, twin]

theorem stepDrainEnd_agree (h : runningOn s p = some (c, k)) (drain : k.drains = w :: rest) (twin : twinOfPress s p = some q)
    (agree : x.getD w.crc = w.crc) : stepDrainEnd p x s = finishDrain p k w rest s := by
  simp only [stepDrainEnd, h, drain, twin, agree, if_true]

theorem stepDrainEnd_differ {x : Word} (h : runningOn s p = some (c, k)) (drain : k.drains = w :: rest)
    (twin : twinOfPress s p = some q) (differ : x ≠ w.crc) :
    stepDrainEnd p (some x) s = twinMismatch p q k.queue k.seq s := by
  simp only [stepDrainEnd, h, drain, twin, Option.getD_some, differ, if_false]

theorem stepDrainEnd_none (h : runningOn s p = none ∨ ∃ c k, runningOn s p = some (c, k) ∧ k.drains = []) :
    stepDrainEnd p x s = s := by
  obtain none | ⟨c, k, some, empty⟩ := h
  · simp only [stepDrainEnd, none]
  · simp only [stepDrainEnd, some, empty]

theorem execDrainEnd_finishes (h : stepDrainEnd p x s = finishDrain p k w rest s) :
    exec (.outputTileDrainEnd p x) s = .next (finishDrain p k w rest s) := by
  refine (answer_keep ?_).trans (congrArg _ h)
  rw [h, finishDrain_only]

/-! ### A mismatch of the twins -/

/-- Both presses of a twinned command after a mismatch, before its kill. -/
def mismatchNoted (p q : Fin 16) (s : State) : State :=
  let fail (x : Press) : Press := { x with twinFail := satInc x.twinFail 1 }
  raiseKey (0x4C + p.val) (BitVec.ofNat 32 q.val) ((s.updPress p fail).updPress q fail)

theorem press_mismatchNoted (hq : q ≠ p) :
    (mismatchNoted p q s).press p = { s.press p with twinFail := satInc (s.press p).twinFail 1 } := by
  refine (press_updPress_ne _ _ hq).trans ?_
  rw [press_updPress]

theorem press_mismatchNoted_twin (hq : q ≠ p) :
    (mismatchNoted p q s).press q = { s.press q with twinFail := satInc (s.press q).twinFail 1 } := by
  refine (press_updPress ..).trans ?_
  rw [press_updPress_ne _ _ hq.symm]

theorem twinMismatch_act (h : runningOn s p = some (c, k)) (hq : q ≠ p) (kind : c.kind = 1) :
    ((twinMismatch p q k.queue k.seq s).press p).twinFail = satInc (s.press p).twinFail 1 ∧
    ((twinMismatch p q k.queue k.seq s).press q).twinFail = satInc (s.press q).twinFail 1 ∧
    Killed k p { status := 0x25, data := dataI p.val q.val } (twinMismatch p q k.queue k.seq s) := by
  obtain ⟨seated, found, running⟩ := of_runningOn h
  have number : c.seq = k.seq := seq_of_cmd found
  have eq : twinMismatch p q k.queue k.seq s =
      killCmd k.queue k.seq { status := 0x25, data := dataI p.val q.val } (mismatchNoted p q s) := rfl
  have found' : (mismatchNoted p q s).cmd k.queue k.seq = some c := found
  have found'' : (mismatchNoted p q s).cmd k.queue c.seq = some c := number.symm ▸ found'
  have kept (r : Fin 16) := twinFail_killCmd_running (e := { status := 0x25, data := dataI p.val q.val }) found'' kind running rfl r
  rw [number] at kept
  rw [eq]
  refine ⟨?_, ?_, killed_of_running ?_ found' kind running rfl⟩
  · rw [kept, press_mismatchNoted hq]
  · rw [kept, press_mismatchNoted_twin hq]
  · rw [press_mismatchNoted hq]
    exact seated

end

/-! ### The obligation -/

section
variable {s t u : State} {p : Fin 16} {st : Stalls} {h : ReadHealth}

theorem execMatmul_of_step (step : stepMatmul p st s = t) : exec (.matmul p st h) s = .next (noted h s t) := by
  subst step
  rfl

theorem execEltwise_of_step (step : stepEltwise p st s = t) : exec (.eltwise p st h) s = .next (noted h s t) := by
  subst step
  rfl

theorem execWeightTile_of_step (step : stepWeightTile p s = t) : exec (.weightTileLoaded p h) s = .next (noted h s t) := by
  subst step
  rfl

end

/-- Settles O30: each step is the step on the instruction that the press issues, or on its oldest drain, and what it changes is read
off the press, its twin and the command. -/
theorem pressRunsMatrixWork : Obligations.PressRunsMatrixWork := by
  unfold Obligations.PressRunsMatrixWork
  refine ⟨?matmul, ?matmulKilled, ?eltwise, ?eltwiseKilled, ?load, ?loadKilled, ?waits, ?idle, ?drain, ?mismatch, ?agree,
    ?noDrain⟩
  case matmul =>
    intro s u p st h c k i n issued idle twin run cause
    obtain ⟨seated, -, -⟩ := of_issuing issued
    have after := keepsSeat_afterNest n
    have here := press_counted_handOver (st := st) (tiles := n.tiles) (spans := n.spans) after twin seated
    refine ⟨_, execMatmul_of_step (stepMatmul_ok issued idle run cause), ?_⟩
    rw [here]
    refine ⟨rfl, rfl, rfl, rfl, rfl, rfl, counted_countCycles _, ?_, ?_, counted_handOver_only⟩
    · intro q twinned
      rw [press_counted_handOver_twin after twinned fun same => twin (same ▸ twinned)]
      exact ⟨rfl, rfl⟩
    · exact fun q hq other => press_counted_handOver_ne after hq other
  case matmulKilled =>
    intro s u p st h c k i n e issued idle kind run cause held
    exact ⟨_, execMatmul_of_step (stepMatmul_error issued idle run cause held), killed_after_counting issued kind held⟩
  case eltwise =>
    intro s u p st h c k i l issued idle twin run
    obtain ⟨seated, -, -⟩ := of_issuing issued
    have here := press_counted_handOver (st := st) (tiles := l) (spans := []) keepsSeat_afterEltwise twin seated
    refine ⟨_, execEltwise_of_step (stepEltwise_ok issued idle run), ?_⟩
    rw [here]
    exact ⟨rfl, rfl, rfl, rfl, rfl, counted_countCycles _,
      fun q hq other => press_counted_handOver_ne keepsSeat_afterEltwise hq other, counted_handOver_only⟩
  case eltwiseKilled =>
    intro s u p st h c k i e issued idle kind run held
    exact ⟨_, execEltwise_of_step (stepEltwise_error issued idle run held), killed_after_counting issued kind held⟩
  case load =>
    intro s u p h c k i w issued empty free load
    obtain ⟨seated, -, -⟩ := of_issuing issued
    refine ⟨_, execWeightTile_of_step (stepWeightTile_ok issued empty free load), ?_, ?_, ?_, updBoth_only ..⟩
    · exact press_updBoth_gives (g := Press.shadow) fun _ => rfl
    · exact (press_updBoth_keeps (f := shadowLoaded w) (g := Press.sequencer) (fun _ => rfl) p).trans seated
    · exact press_updBoth_keeps (f := shadowLoaded w) (g := Press.cask) (fun _ => rfl) p
  case loadKilled =>
    intro s u p h c k i e issued empty free kind load held
    obtain ⟨seated, found, running⟩ := of_issuing issued
    exact ⟨_, execWeightTile_of_step (stepWeightTile_error issued empty free load),
      killed_of_running seated found kind running held⟩
  case waits =>
    intro s u p st h c k i busy
    exact ⟨fun issued => execMatmul_of_step (stepMatmul_waits issued busy),
      fun issued => execEltwise_of_step (stepEltwise_waits issued busy)⟩
  case idle =>
    intro s p st h
    exact ⟨fun none => ⟨execMatmul_of_step (issue_none none _), execWeightTile_of_step (issue_none none _)⟩,
      fun none => execEltwise_of_step (issue_none none _)⟩
  case drain =>
    intro s p c k w rest x running drain twin
    obtain ⟨seated, -, -⟩ := of_runningOn running
    refine ⟨_, execDrainEnd_finishes (stepDrainEnd_single running drain twin), cask_finishDrain, sequencer_finishDrain seated,
      arrive62_finishDrain, fun i => arrive_finishDrain_ne, fun q hq => press_finishDrain_ne hq ?_, finishDrain_only⟩
    rw [twin]
    exact nofun
  case mismatch =>
    intro s p q c k w rest x kind running drain twin hq differ
    obtain ⟨primary, second, killed, -⟩ := twinMismatch_act running hq kind
    refine ⟨_, answer_eq .., ?_⟩
    rw [stepDrainEnd_differ running drain twin differ]
    exact ⟨primary, second, killed⟩
  case agree =>
    intro s p q c k w rest x running drain twin hq agree
    obtain ⟨seated, -, -⟩ := of_runningOn running
    refine ⟨_, execDrainEnd_finishes (stepDrainEnd_agree running drain twin agree), cask_finishDrain,
      sequencer_finishDrain seated, arrive62_finishDrain, ?_, ?_⟩
    · rw [press_finishDrain_keeps (g := Press.cask) (fun _ _ => rfl) (fun _ _ => rfl), press_tileWritten_ne hq]
    · rw [press_finishDrain_keeps (g := Press.twinFail) (fun _ _ => rfl) (fun _ _ => rfl), press_tileWritten]
  case noDrain =>
    intro s p x none
    have step := stepDrainEnd_none (x := x) none
    exact (answer_keep (congrArg State.pending step)).trans (congrArg _ step)

end Sys2Proof.Machine
end

section
/-! PROOF. What a transfer of bytes leaves, whether it is a swap of a folded program, an iteration of a DMA or the count of its
arrival: the queues, the waiting commands, and of each press all but its Cask. -/

namespace Sys2Proof.Machine

/-! ### Runs that keep a part of the state -/

/-- A run that stops at a fault, or leaves a device of which `g` is what it was in `s`. -/
def OkKeeps {α : Type} (g : State → α) (s : State) (r : Except Stop State) : Prop := ∀ t, r = .ok t → g t = g s

section
variable {α β : Type} {g : State → α} {s u : State} {r : Except Stop State}

theorem OkKeeps.error {e : Stop} : OkKeeps g s (.error e) := fun _ h => nomatch h

theorem OkKeeps.ok (h : g u = g s) : OkKeeps g s (.ok u) := fun _ e => Except.ok.inj e ▸ h

theorem OkKeeps.trans (hr : OkKeeps g u r) (h : g u = g s) : OkKeeps g s r := fun t e => (hr t e).trans h

theorem OkKeeps.map {r : Except Stop β} {f : β → State} (h : ∀ x, g (f x) = g s) : OkKeeps g s (r.map f) := by
  cases r with
  | error e => exact .error
  | ok x => exact .ok (h x)

theorem OkKeeps.mapState {f : State → State} (hr : OkKeeps g s r) (hf : ∀ t, g (f t) = g t) : OkKeeps g s (r.map f) := by
  cases r with
  | error e => exact .error
  | ok t => exact .ok ((hf t).trans (hr t rfl))

/-- A run of steps, each of which keeps a part of the state, keeps it. -/
theorem okKeeps_foldStop {f : State → β → Except Stop State} {l : List β} (hf : ∀ s x, OkKeeps g s (f s x)) :
    OkKeeps g s (foldStop f l s) := by
  induction l generalizing s with
  | nil => exact .ok rfl
  | cons x rest ih =>
    unfold foldStop
    split
    · exact .error
    · next e => exact ih.trans (hf s x _ e)

theorem okKeeps_foldExcept {f : State → β → Except Stop State} {l : List β} (hf : ∀ s x, OkKeeps g s (f s x)) :
    OkKeeps g s (foldExcept f l s) := by
  induction l generalizing s with
  | nil => exact .ok rfl
  | cons x rest ih =>
    unfold foldExcept
    split
    · exact .error
    · next e => exact ih.trans (hf s x _ e)

theorem runSteps_keeps {f : State → β → Except Stop State} {l : List β} (hf : ∀ s x, OkKeeps g s (f s x)) :
    g (runSteps f l s).1 = g s := by
  induction l generalizing s with
  | nil => rfl
  | cons x rest ih =>
    unfold runSteps
    split
    · rfl
    · next e => exact ih.trans (hf s x _ e)

end

/-! ### What transfers leave -/

/-- A press without the contents of its Cask. -/
def Press.bare (x : Press) : Press := { x with cask := Mem.empty }

/-- The waiting commands, the queues, and the presses without the contents of their Casks. -/
def untouched (s : State) : List Instr × Vector Queue 256 × (Fin 16 → Press) :=
  (s.pending, s.queues, fun p => (s.press p).bare)

theorem untouched_eq {s t : State} (hp : t.pending = s.pending := by rfl) (hq : t.queues = s.queues := by rfl)
    (hx : ∀ p, (t.press p).bare = (s.press p).bare := by exact fun _ => rfl) : untouched t = untouched s := by
  rw [untouched, untouched, hp, hq, funext hx]

section
variable {s t : State}

theorem pending_of_untouched (h : untouched t = untouched s) : t.pending = s.pending := congrArg (fun x => x.1) h

theorem cmd_of_untouched (h : untouched t = untouched s) (q : Fin 256) (seq : Word) : t.cmd q seq = s.cmd q seq := by
  have queues : t.queues = s.queues := congrArg (fun x => x.2.1) h
  rw [State.cmd, State.queue, queues, State.cmd, State.queue]

theorem bare_of_untouched (h : untouched t = untouched s) (p : Fin 16) : (t.press p).bare = (s.press p).bare :=
  congrArg (fun x => x.2.2 p) h

theorem sequencer_of_untouched (h : untouched t = untouched s) (p : Fin 16) :
    (t.press p).sequencer = (s.press p).sequencer :=
  (congrArg Press.sequencer (bare_of_untouched h p) :)

theorem arrive_of_untouched (h : untouched t = untouched s) (p : Fin 16) : (t.press p).arrive = (s.press p).arrive :=
  (congrArg Press.arrive (bare_of_untouched h p) :)

end

section
variable (s : State)

theorem untouched_updPress {p : Fin 16} {f : Press → Press} (h : ∀ x, (f x).bare = x.bare) :
    untouched (s.updPress p f) = untouched s := by
  refine untouched_eq (hx := fun q => ?_)
  by_cases here : p = q
  · rw [here, press_updPress, h]
  · rw [press_updPress_ne _ _ here]

theorem untouched_writeLoc (l : List Byte) (place : Loc) : untouched (s.writeLoc l place) = untouched s := by
  cases place with
  | cask p a => exact untouched_updPress s fun _ => rfl
  | cellar a => exact untouched_eq
  | staging a => exact untouched_eq
  | dram a => exact untouched_eq

theorem untouched_writeLocs (ws : List (Loc × List Byte)) : untouched (s.writeLocs ws) = untouched s := by
  induction ws generalizing s with
  | nil => rfl
  | cons w rest ih => exact (ih _).trans (untouched_writeLoc ..)

theorem untouched_takeLane (lane : Fin 4) : untouched (takeLane lane s) = untouched s := untouched_eq

theorem untouched_countBlock (lane : Fin 4) : untouched (countBlock lane s) = untouched s := untouched_eq

theorem untouched_beginTransfer (p : Fin 16) (j : DmaJob) : untouched (beginTransfer p j s) = untouched s := by
  unfold beginTransfer
  split
  · exact untouched_takeLane ..
  · rfl

theorem untouched_putRun {cx : Cx} {o : Operand} {c : Coords} {codes : List Nat} :
    OkKeeps untouched s (putRun s cx o c codes) := .map fun _ => untouched_writeLocs ..

theorem untouched_writeBlockCodes {cx : Cx} {o : Operand} {c : Coords} {planes : List (List Int)} :
    OkKeeps untouched s (writeBlockCodes s cx o c planes) :=
  okKeeps_foldStop fun _ _ => okKeeps_foldStop fun _ _ => .map fun _ => untouched_writeLocs ..

theorem untouched_moveBlock {cx : Cx} {src dst : Operand} {two pack : Bool} {cs cd : Coords} :
    OkKeeps untouched s (moveBlock cx src dst two pack cs cd s) := by
  unfold moveBlock
  split
  · split
    · exact .error
    · dsimp only
      split
      · exact .ok rfl
      · exact .map fun _ => untouched_writeLocs ..
  · split
    · exact untouched_writeBlockCodes s
    · split
      · exact .error
      · exact untouched_writeBlockCodes s

theorem untouched_dmaIteration (cx : Cx) (lane : Fin 4) (src dst : Operand) (rows : Nat) (cs cd : Coords) :
    untouched (dmaIteration cx lane src dst rows cs cd s).1 = untouched s := by
  unfold dmaIteration
  split
  · refine runSteps_keeps fun s r => ?_
    split
    · exact .error
    · exact untouched_putRun s
  · exact runSteps_keeps fun s _ => (untouched_moveBlock s).mapState fun t => untouched_countBlock t _

theorem untouched_moved (p : Fin 16) (k : Sequencer) (j : DmaJob) : untouched (moved s p k j).1 = untouched s :=
  (untouched_dmaIteration ..).trans (untouched_beginTransfer ..)

end

/-! ### Swaps of a folded program -/

section
variable (s : State)

theorem pending_saveImage {cx : Cx} {p : Fin 16} {f : FoldImage} : OkKeeps State.pending s (saveImage cx p f s) := by
  have kept (s : State) (ws : List (Loc × List Byte)) : (s.writeLocs ws).pending = s.pending :=
    pending_of_untouched (untouched_writeLocs s ws)
  unfold saveImage
  split
  · exact .error
  · exact (okKeeps_foldExcept fun _ _ => .map fun _ => kept ..).trans (kept ..)

theorem pending_restoreImage {cx : Cx} {p : Fin 16} {f : FoldImage} : OkKeeps State.pending s (restoreImage cx p f s) := by
  unfold restoreImage
  split
  · exact .error
  · refine (okKeeps_foldExcept fun s _ => ?_).trans (updPress_pending ..)
    exact .map fun _ => updPress_pending ..

theorem pending_updSequencers (p : Fin 16) (f : Sequencer → Sequencer) : (updSequencers p f s).pending = s.pending := by
  rw [updSequencers, updBoth_only]

theorem pending_swapSlots {cx : Cx} {p : Fin 16} {w : FoldSwap} : OkKeeps State.pending s (swapSlots cx p s w) := by
  unfold swapSlots
  split
  · exact .error
  · next saved =>
    exact ((pending_restoreImage _).mapState fun t => pending_updSequencers t ..).trans (pending_saveImage s _ saved)

end

/-- The swaps before an instruction leave the waiting commands. -/
theorem pending_of_issuing {s u : State} {p : Fin 16} {opcode : Nat} {x : Cmd × Sequencer × PressInstr}
    (h : issuing s p opcode = some (x, u)) : u.pending = s.pending := by
  unfold issuing at h
  split at h
  · cases h
  split at h
  · cases h; rfl
  split at h
  · cases h
  split at h
  · cases h
  next swapped =>
  obtain ⟨_, _, same⟩ := Option.map_eq_some_iff.1 h
  cases same
  exact okKeeps_foldExcept (fun s _ => pending_swapSlots s) _ swapped

end Sys2Proof.Machine
end

section
/-! PROOF. What the transfers and children of a press signal: an iteration of a DMA moves its bytes, counts its arrival and counts as
done, or kills the command, and the end of a child raises its press's counter. -/

namespace Sys2Proof.Machine

/-! ### The count of an arrival -/

/-- A list of places with bytes that all lie in device memory. -/
def InDram {α : Type} (l : List (Loc × α)) : Prop := ∀ w ∈ l, ∃ a, w.1 = .dram a

theorem inDram_dvParts {s : State} {cx : Cx} {acc : Access} {fuel va n : Nat} {l : List (Loc × Nat)}
    (h : dvParts s cx acc fuel va n = .ok l) : InDram l := by
  induction fuel generalizing va n l with
  | zero => cases h; exact List.forall_mem_nil _
  | succ fuel ih =>
    unfold dvParts at h
    split at h
    · cases h; exact List.forall_mem_nil _
    dsimp only at h
    split at h
    · cases h
    next pa _ =>
    cases rest : dvParts s cx acc fuel ((va + min n (16384 - va % 16384)) % 2 ^ 38) (n - min n (16384 - va % 16384)) with
    | error e => rw [rest] at h; cases h
    | ok parts =>
      rw [rest] at h
      cases h
      exact List.forall_mem_cons.2 ⟨⟨pa, rfl⟩, ih rest⟩

theorem inDram_spread {parts : List (Loc × Nat)} {l : List Byte} (h : InDram parts) : InDram (spread parts l) := by
  induction parts generalizing l with
  | nil => exact List.forall_mem_nil _
  | cons p rest ih =>
    obtain ⟨here, there⟩ := List.forall_mem_cons.1 h
    exact List.forall_mem_cons.2 ⟨here, ih there⟩

/-- The writes of a range of device virtual memory lie in device memory. -/
theorem inDram_writeRange {s : State} {cx : Cx} {p : Fin 16} {a : Int} {l : List Byte} {ws : List (Loc × List Byte)}
    (h : writeRange s cx 2 p a l = .ok ws) : InDram ws := by
  unfold writeRange locate at h
  cases parts : dvParts s cx .write (l.length / 16384 + 2) (a % (2 ^ 38 : Nat)).toNat l.length with
  | error e => rw [parts] at h; cases h
  | ok m =>
    rw [parts] at h
    cases h
    exact inDram_spread (inDram_dvParts parts)

theorem writeLocs_inDram {s : State} {ws : List (Loc × List Byte)} (h : InDram ws) :
    s.writeLocs ws = { s with dram := (s.writeLocs ws).dram } := by
  induction ws generalizing s with
  | nil => rfl
  | cons w rest ih =>
    obtain ⟨⟨a, here⟩, there⟩ := List.forall_mem_cons.1 h
    rw [State.writeLocs, ih there, here]
    rfl

section
variable {s t u : State} {cx : Cx} {p q : Fin 16} {j : DmaJob} {k : Sequencer}

theorem countArrival_signals (h : j.image = none) (count : countArrival cx p j s = .ok u) :
    u = signal (counterPress p j) j.counter s := by
  unfold countArrival at count
  rw [h] at count
  cases count
  rfl

/-- The count of a fold image is kept in device memory (R191). -/
theorem countArrival_inImage {a : Nat} (h : j.image = some a) (count : countArrival cx p j s = .ok u) :
    u = { s with dram := u.dram } := by
  unfold countArrival at count
  simp only [h] at count
  split at count
  · cases count
  next l _ =>
  cases write : writeRange s cx 2 0 ((a + 4 * (j.counter % 64) : Nat) : Int) (leBytes 4 ((fieldNat l 0 4 + 1) % 2 ^ 32)) with
  | error e => rw [write] at count; cases count
  | ok ws =>
    rw [write] at count
    cases count
    exact writeLocs_inDram (inDram_writeRange write)

theorem press_signal_ne {n : Nat} (h : p ≠ q) : (signal p n s).press q = s.press q := press_updPress_ne _ _ h

theorem arrive_signal (n : Nat) :
    vget ((signal p n s).press p).arrive (Fin.ofNat 64 n) = vget (s.press p).arrive (Fin.ofNat 64 n) + 1 := by
  rw [signal, press_updPress, vget_vupd_self]

/-- A signal leaves a press but for its counters. -/
theorem press_signal_keeps {α : Type} {g : Press → α} (arrive : ∀ x v, g { x with arrive := v } = g x) (n : Nat) (q : Fin 16) :
    g ((signal p n s).press q) = g (s.press q) := by
  by_cases here : p = q
  · subst here
    rw [signal, press_updPress, arrive]
  · rw [press_signal_ne here]

/-- The count of an arrival leaves every press but for its counters. -/
theorem press_countArrival_keeps {α : Type} {g : Press → α} (arrive : ∀ x v, g { x with arrive := v } = g x)
    (count : countArrival cx p j s = .ok u) (q : Fin 16) : g (u.press q) = g (s.press q) := by
  cases image : j.image with
  | none => rw [countArrival_signals image count, press_signal_keeps arrive]
  | some a => rw [countArrival_inImage image count]; rfl

/-! ### An iteration of a DMA -/

/-- The iterations of a transfer that are left once the next one is done. -/
def DmaJob.left (j : DmaJob) : Option DmaJob := if j.next + 1 < j.total then some { j with next := j.next + 1 } else none

/-- The device once an iteration counts as done. -/
def iterationDone (p : Fin 16) (k : Sequencer) (n : Nat) (left : Option DmaJob) (s : State) : State :=
  settleParts k.queue k.seq (updSequencer p (fun x => { x with jobs := editAt n left x.jobs }) s)

variable {n : Nat} {left : Option DmaJob} {c : Cmd} {e : Stop} {h : ReadHealth}

theorem iterationDone_only :
    iterationDone p k n left s =
      { s with presses := (iterationDone p k n left s).presses, queues := (iterationDone p k n left s).queues } := by
  rw [iterationDone, settleParts_only]
  rfl

theorem sequencer_iterationDone (seated : (s.press p).sequencer = some k) :
    ((iterationDone p k n left s).press p).sequencer = some { k with jobs := editAt n left k.jobs } := by
  rw [iterationDone, press_settleParts, updSequencer, press_updPress]
  simp only [seated, Option.map_some]

theorem press_updSequencer_keeps {α : Type} {g : Press → α} {f : Sequencer → Sequencer}
    (seat : ∀ x y, g { x with sequencer := y } = g x) (q : Fin 16) : g ((updSequencer p f s).press q) = g (s.press q) := by
  by_cases here : p = q
  · rw [here, updSequencer, press_updPress, seat]
  · rw [updSequencer, press_updPress_ne _ _ here]

/-- The end of an iteration leaves every press but for its sequencer. -/
theorem press_iterationDone_keeps {α : Type} {g : Press → α} (seat : ∀ x y, g { x with sequencer := y } = g x) (q : Fin 16) :
    g ((iterationDone p k n left s).press q) = g (s.press q) := by
  rw [iterationDone, press_settleParts, press_updSequencer_keeps seat]

theorem stepDmaIteration_done (running : runningOn s p = some (c, k)) (job : k.jobs[n]? = some j)
    (free : (j.compresses && j.next = 0 && laneHeld s (pressLane p)) = false) (through : (moved s p k j).2 = none)
    (count : countArrival (dmaCx s p k) p j (moved s p k j).1 = .ok u) :
    stepDmaIteration p n s = iterationDone p k n j.left u := by
  unfold moved dmaCx at through count
  simp only [stepDmaIteration, running, job, free, through, count, Bool.false_eq_true, if_false]
  rfl

theorem stepDmaIteration_killed (running : runningOn s p = some (c, k)) (job : k.jobs[n]? = some j)
    (free : (j.compresses && j.next = 0 && laneHeld s (pressLane p)) = false)
    (fault : (moved s p k j).2 = some e ∨
      (moved s p k j).2 = none ∧ countArrival (dmaCx s p k) p j (moved s p k j).1 = .error e)
    (held : e.held = false) : stepDmaIteration p n s = killCmd k.queue k.seq e (moved s p k j).1 := by
  unfold moved dmaCx at fault ⊢
  obtain through | ⟨through, count⟩ := fault
  · simp only [stepDmaIteration, running, job, free, through, held, Bool.false_eq_true, if_false]
  · simp only [stepDmaIteration, running, job, free, through, count, held, Bool.false_eq_true, if_false]

theorem stepDmaIteration_none (h : runningOn s p = none) : stepDmaIteration p n s = s := by
  simp only [stepDmaIteration, h]

theorem stepDmaIteration_noJob (running : runningOn s p = some (c, k)) (job : k.jobs[n]? = none) :
    stepDmaIteration p n s = s := by
  simp only [stepDmaIteration, running, job]

theorem stepDmaIteration_waits (running : runningOn s p = some (c, k)) (job : k.jobs[n]? = some j)
    (compresses : j.compresses = true) (begins : j.next = 0) (busy : laneHeld s (pressLane p) = true) :
    stepDmaIteration p n s = s := by
  simp only [stepDmaIteration, running, job, compresses, begins, busy, decide_true, Bool.and_self, if_true]

theorem execDmaIteration_of_step (step : stepDmaIteration p n s = t) :
    exec (.dmaIterationComplete p n h) s = .next (noted h s t) := by
  subst step
  rfl

theorem sequencer_moved (running : runningOn s p = some (c, k)) : ((moved s p k j).1.press p).sequencer = some k := by
  obtain ⟨seated, -, -⟩ := of_runningOn running
  rw [sequencer_of_untouched (untouched_moved ..), seated]

theorem killed_of_moved (running : runningOn s p = some (c, k)) (kind : c.kind = 1) (held : e.held = false) :
    Killed k p e (killCmd k.queue k.seq e (moved s p k j).1) := by
  obtain ⟨-, found, phase⟩ := of_runningOn running
  exact killed_of_running (sequencer_moved running) ((cmd_of_untouched (untouched_moved ..) ..).trans found) kind phase held

/-- The counter of an iteration that no fold image takes has risen by one. -/
theorem arrive_counted (image : j.image = none) (count : countArrival cx p j (moved s q k j).1 = .ok u) :
    vget (u.press (counterPress p j)).arrive (Fin.ofNat 64 j.counter) =
      vget (s.press (counterPress p j)).arrive (Fin.ofNat 64 j.counter) + 1 := by
  rw [countArrival_signals image count, arrive_signal, arrive_of_untouched (untouched_moved ..)]

/-! ### The end of a child -/

/-- The device once the oldest finished child of an engine, a child of press `p`, has been signalled. -/
def childSignalled (e : Fin 6) (j : EngineJob) (rest : List EngineJob) (p : Fin 16) (s : State) : State :=
  settleParts j.queue j.seq (updSequencer p (fun k => { k with children := k.children - 1 })
    (signal p j.counter (s.updEngine e fun x => { x with done := rest })))

variable {w : Fin 5} {i : Fin 6} {b : EngineJob} {rest : List EngineJob}

theorem stepChildComplete_signals (done : (s.engine (Fin.ofNat 6 w.val)).done = b :: rest) (child : b.press = some p) :
    stepChildComplete w s = childSignalled (Fin.ofNat 6 w.val) b rest p s := by
  simp only [stepChildComplete, done, child, childSignalled]

theorem stepChildComplete_none (done : (s.engine (Fin.ofNat 6 w.val)).done = []) : stepChildComplete w s = s := by
  simp only [stepChildComplete, done]

theorem childSignalled_only :
    childSignalled i b rest p s =
      { s with
        presses := (childSignalled i b rest p s).presses, queues := (childSignalled i b rest p s).queues
        engines := (childSignalled i b rest p s).engines } := by
  rw [childSignalled, settleParts_only]
  rfl

theorem engine_childSignalled : (childSignalled i b rest p s).engine i = { s.engine i with done := rest } := by
  rw [childSignalled, settleParts_only]
  exact engine_updEngine ..

theorem arrive_childSignalled :
    vget ((childSignalled i b rest p s).press p).arrive (Fin.ofNat 64 b.counter) =
      vget (s.press p).arrive (Fin.ofNat 64 b.counter) + 1 := by
  rw [childSignalled, press_settleParts, press_updSequencer_keeps (g := Press.arrive) fun _ _ => rfl]
  exact arrive_signal ..

theorem sequencer_childSignalled :
    ((childSignalled i b rest p s).press p).sequencer =
      (s.press p).sequencer.map fun k => { k with children := k.children - 1 } := by
  rw [childSignalled, press_settleParts, updSequencer, press_updPress]
  exact congrArg (Option.map _) (press_signal_keeps (g := Press.sequencer) (fun _ _ => rfl) _ p)

/-- A step that changes nothing answers with the device as it stands. -/
theorem answer_same {f : State → State} (step : f s = s) : answer f s = .next s :=
  (answer_keep (congrArg State.pending step)).trans (congrArg _ step)

theorem execChildComplete_signals (done : (s.engine (Fin.ofNat 6 w.val)).done = b :: rest) (child : b.press = some p) :
    exec (.childComplete w) s = .next (childSignalled (Fin.ofNat 6 w.val) b rest p s) := by
  have step := stepChildComplete_signals done child
  refine (answer_keep ?_).trans (congrArg _ step)
  rw [step, childSignalled_only]

end

/-! ### The obligation -/

/-- Settles O32: an iteration is its transfer, the count of its arrival and the end of its part, a fault of either kills as from the
device that the transfer left, and a child's end is a signal. -/
theorem transfersAndChildrenSignal : Obligations.TransfersAndChildrenSignal := by
  unfold Obligations.TransfersAndChildrenSignal
  refine ⟨?done, ?killed, ?nothing, ?child, ?noChild⟩
  case done =>
    intro s u p n c k j h running job free through count
    have seated : (u.press p).sequencer = some k :=
      (press_countArrival_keeps (fun _ _ => rfl) count p).trans (sequencer_moved running)
    refine ⟨_, execDmaIteration_of_step (stepDmaIteration_done running job free through count), sequencer_iterationDone seated,
      ?_, ?_, ?_, fun q => ?_, fun image => ⟨?_, ?_⟩⟩
    · rw [iterationDone_only]
    · rw [iterationDone_only]
    · rw [iterationDone_only]
    · rw [press_iterationDone_keeps (g := Press.cask) fun _ _ => rfl]
      exact press_countArrival_keeps (fun _ _ => rfl) count q
    · rw [iterationDone_only, countArrival_signals image count]
      rfl
    · rw [press_iterationDone_keeps (g := Press.arrive) fun _ _ => rfl]
      exact arrive_counted image count
  case killed =>
    intro s p n c k j h e kind running job free fault held
    exact ⟨_, execDmaIteration_of_step (stepDmaIteration_killed running job free fault held), killed_of_moved running kind held⟩
  case nothing =>
    rintro s p n h (none | ⟨c, k, running, none | ⟨j, job, compresses, begins, busy⟩⟩)
    · exact execDmaIteration_of_step (stepDmaIteration_none none)
    · exact execDmaIteration_of_step (stepDmaIteration_noJob running none)
    · exact execDmaIteration_of_step (stepDmaIteration_waits running job compresses begins busy)
  case child =>
    intro s e j rest p done child
    refine ⟨_, execChildComplete_signals done child, ?_, ?_, arrive_childSignalled, sequencer_childSignalled,
      childSignalled_only⟩ <;> rw [engine_childSignalled]
  case noChild =>
    intro s e done
    exact answer_same (stepChildComplete_none done)

end Sys2Proof.Machine
end

section
/-! PROOF. What the instructions that a sequencer runs itself do: DMA, WAIT, RACK and END change the sequencer of a press and its
twin, ENGINE hands a child to its engine, and a child that fails its checks or a WAIT that holds too long kills the command. -/

namespace Sys2Proof.Machine

/-! ### The sequencers of a press and its twin -/

section
variable {s : State} {p q : Fin 16} {f : Sequencer → Sequencer}

theorem updSequencers_only : updSequencers p f s = { s with presses := (updSequencers p f s).presses } := updBoth_only ..

theorem advance_only : advance p s = { s with presses := (advance p s).presses } := updSequencers_only

theorem press_updSequencers_keeps {α : Type} {g : Press → α} (seat : ∀ x y, g { x with sequencer := y } = g x) (q : Fin 16) :
    g ((updSequencers p f s).press q) = g (s.press q) := press_updBoth_keeps (fun x => seat x _) q

theorem sequencer_updSequencers (twin : twinOfPress s p ≠ some p) :
    ((updSequencers p f s).press p).sequencer = (s.press p).sequencer.map f := by
  rw [updSequencers, press_updBoth_self twin]

theorem twinOfPress_updSequencers : twinOfPress (updSequencers p f s) p = twinOfPress s p :=
  twinOfPress_congr (press_updSequencers_keeps (g := Press.twin) (fun _ _ => rfl) p)
    (press_updSequencers_keeps (g := Press.twinPeer) (fun _ _ => rfl) p)

theorem sequencer_updSequencer : ((updSequencer p f s).press p).sequencer = (s.press p).sequencer.map f := by
  rw [updSequencer, press_updPress]

theorem twinOfPress_updSequencer_self : twinOfPress (updSequencer p f s) p = twinOfPress s p :=
  twinOfPress_congr (press_updSequencer_keeps (g := Press.twin) (fun _ _ => rfl) p)
    (press_updSequencer_keeps (g := Press.twinPeer) (fun _ _ => rfl) p)

/-- The command that a press's sequencer runs: its queue and its number. -/
def Press.owner (x : Press) : Option (Fin 256 × Word) := x.sequencer.map fun k => (k.queue, k.seq)

theorem pressesOf_eq (n : Fin 256) (seq : Word) :
    pressesOf s n seq = (List.finRange 16).filter fun r => decide ((s.press r).owner = some (n, seq)) := by
  refine List.filter_congr fun r _ => ?_
  unfold Press.owner
  cases (s.press r).sequencer with
  | none => simp
  | some k => simp

/-- A change of sequencers that leaves whose command each runs leaves the presses of every command. -/
theorem pressesOf_updSequencers (same : ∀ k, ((f k).queue, (f k).seq) = (k.queue, k.seq)) (n : Fin 256) (seq : Word) :
    pressesOf (updSequencers p f s) n seq = pressesOf s n seq := by
  have owner (r : Fin 16) : ((updSequencers p f s).press r).owner = (s.press r).owner :=
    press_updBoth_keeps (fun x => by simp only [Press.owner, Option.map_map, Function.comp_def, same]) r
  simp only [pressesOf_eq, owner]

end

/-! ### How a step that issues an instruction answers -/

section
variable {s t u : State} {p : Fin 16} {opcode : Nat} {c : Cmd} {k : Sequencer} {i : PressInstr}

/-- A step whose outcome keeps the waiting commands of the device in which the instruction issues answers with it. -/
theorem answer_of_issuing {x : Cmd × Sequencer × PressInstr} {f : State → State} (issued : issuing s p opcode = some (x, u))
    (step : f s = t) (keeps : t.pending = u.pending) : answer f s = .next t :=
  (answer_keep (by rw [step, keeps, pending_of_issuing issued])).trans (congrArg _ step)

/-! ### DMA -/

/-- The transfer that a DMA instruction starts (R173). -/
def startedJob (c : Cmd) (p : Fin 16) (k : Sequencer) (i : PressInstr) : DmaJob :=
  { src := opAt c.operands i.opa.toNat, dst := opAt c.operands i.opout.toNat, rows := 16 * i.mrows.toNat
    depth := i.depth, counts := i.counts, counter := fieldNat i.arg 0 1, next := 0
    total := nestTotal i.depth i.counts, image := imageCounters c p k }

/-- The device once a press has started a transfer. -/
def transferStarted (p : Fin 16) (j : DmaJob) (s : State) : State :=
  advance p (updSequencer p (fun k => { k with jobs := k.jobs ++ [j] }) s)

theorem stepDma_starts (issued : issuing s p 3 = some ((c, k, i), u)) :
    stepDma p s = transferStarted p (startedJob c p k i) u := issue_of_issuing issued _

theorem transferStarted_only (j : DmaJob) :
    transferStarted p j s = { s with presses := (transferStarted p j s).presses } := advance_only

theorem sequencer_transferStarted (j : DmaJob) (twin : twinOfPress s p ≠ some p) (seated : (s.press p).sequencer = some k) :
    ((transferStarted p j s).press p).sequencer = some { k with index := k.index + 1, jobs := k.jobs ++ [j] } := by
  rw [transferStarted, advance, sequencer_updSequencers (by rwa [twinOfPress_updSequencer_self]), sequencer_updSequencer, seated]
  rfl

theorem cask_transferStarted (j : DmaJob) : ((transferStarted p j s).press p).cask = (s.press p).cask := by
  rw [transferStarted, advance, press_updSequencers_keeps (g := Press.cask) fun _ _ => rfl,
    press_updSequencer_keeps (g := Press.cask) fun _ _ => rfl]

/-! ### WAIT -/

/-- A sequencer after a WAIT, whose counter has reached its target or not (R174). -/
def afterWait (met : Bool) (k : Sequencer) : Sequencer :=
  if met then { k with index := k.index + 1 } else { k with waiting := true }

theorem stepWait_acts (issued : issuing s p 4 = some ((c, k, i), u)) :
    stepWait p s = updSequencers p (afterWait (reached u p i)) u := by
  rw [stepWait, issue_of_issuing issued]
  cases met : reached u p i with
  | true => simp only [met, if_true]; rfl
  | false => simp only [met, Bool.false_eq_true, if_false]; rfl

/-- A press whose operands were waited for over some cycles (Table 3.6). -/
def countHeld (held : Nat) (x : Press) : Press := { x with stallOperand := x.stallOperand + BitVec.ofNat 64 held }

theorem keepsSeat_countHeld (held : Nat) : KeepsSeat (countHeld held) := fun _ => ⟨rfl, rfl, rfl⟩

/-- The device once the WAIT that held a press is satisfied. -/
def waitEnded (p : Fin 16) (held : Nat) (s : State) : State :=
  advance p (updSequencers p (fun k => { k with waiting := false }) (updBoth p (countHeld held) s))

variable {held : Nat}

theorem stepWaitSatisfied_met (waits : heldWait s p = some (k, i)) (met : reached s p i = true) :
    stepWaitSatisfied p held s = waitEnded p held s := by
  simp only [stepWaitSatisfied, waits, met, if_true]
  rfl

theorem stepWaitSatisfied_holds (h : heldWait s p = none ∨ ∃ k i, heldWait s p = some (k, i) ∧ reached s p i = false) :
    stepWaitSatisfied p held s = s := by
  obtain none | ⟨k, i, waits, unmet⟩ := h
  · simp only [stepWaitSatisfied, none]
  · simp only [stepWaitSatisfied, waits, unmet, Bool.false_eq_true, if_false]

theorem waitEnded_only : waitEnded p held s = { s with presses := (waitEnded p held s).presses } := by
  rw [waitEnded, advance_only, updSequencers_only, updBoth_only]

theorem sequencer_waitEnded (twin : twinOfPress s p ≠ some p) (seated : (s.press p).sequencer = some k) :
    ((waitEnded p held s).press p).sequencer = some { k with index := k.index + 1, waiting := false } := by
  have counted : twinOfPress (updBoth p (countHeld held) s) p ≠ some p := by rwa [twinOfPress_updBoth (keepsSeat_countHeld held)]
  have kept : ((updBoth p (countHeld held) s).press p).sequencer = some k :=
    (press_updBoth_keeps (fun x => (keepsSeat_countHeld held x).2.2) p).trans seated
  rw [waitEnded, advance, sequencer_updSequencers (by rwa [twinOfPress_updSequencers]), sequencer_updSequencers counted, kept]
  rfl

theorem stallOperand_waitEnded (twin : twinOfPress s p ≠ some p) :
    ((waitEnded p held s).press p).stallOperand = (s.press p).stallOperand + BitVec.ofNat 64 held := by
  rw [waitEnded, advance, press_updSequencers_keeps (g := Press.stallOperand) fun _ _ => rfl,
    press_updSequencers_keeps (g := Press.stallOperand) fun _ _ => rfl, press_updBoth_self twin]
  rfl

/-! ### A WAIT that has held too long -/

/-- What the stop of a program leaves of a press. -/
theorem press_stopProgram_keeps {α : Type} {g : Press → α} (contents : ∀ x : Press, g x.outline = g x)
    (stop : ∀ (s : State) (p r : Fin 16), g ((stopPress p s).press r) = g (s.press r)) (s : State) (q : Fin 256) (c : Cmd)
    (p : Fin 16) : g ((stopProgram q c s).press p) = g (s.press p) := by
  obtain ⟨u, same, stopped⟩ := stopProgram_eq s q c
  have released : (stopProgram q c s).press p = u.press p := by rw [stopped, State.press, releaseSlots_presses, ← State.press]
  rw [released, ← contents, press_of_outline same, contents]
  exact foldState_keeps (fun t => g (t.press p) = g (s.press p)) stopPress _ (fun r t ht => (stop t r p).trans ht) s rfl

theorem stallOperand_stopPress (s : State) (p r : Fin 16) :
    ((stopPress p s).press r).stallOperand = (s.press r).stallOperand := by
  by_cases h : p = r
  · subst h
    rw [stopPress, press_updPress]
    rfl
  · rw [press_stopPress_ne s h]

/-- The device in which a command is killed whose WAIT has held too long (R236). -/
def waitKilled (p : Fin 16) (held : Nat) (k : Sequencer) (i : PressInstr) (s : State) : State :=
  killCmd k.queue k.seq { status := 0x24, data := dataI (fieldNat i.arg 0 1) p.val } (updBoth p (countHeld held) s)

theorem stepWaitTimeout_kills (waits : heldWait s p = some (k, i)) : stepWaitTimeout p held s = waitKilled p held k i s := by
  simp only [stepWaitTimeout, waits]
  rfl

theorem stepWaitTimeout_none (none : heldWait s p = none) : stepWaitTimeout p held s = s := by
  simp only [stepWaitTimeout, none]

theorem killed_waitKilled (running : runningOn s p = some (c, k)) (kind : c.kind = 1) :
    Killed k p { status := 0x24, data := dataI (fieldNat i.arg 0 1) p.val } (waitKilled p held k i s) := by
  obtain ⟨seated, found, phase⟩ := of_runningOn running
  refine killed_of_running ?_ ((cmd_updBoth ..).trans found) kind phase rfl
  rw [press_updBoth_keeps (g := Press.sequencer) fun x => (keepsSeat_countHeld held x).2.2, seated]

theorem stallOperand_waitKilled (running : runningOn s p = some (c, k)) (kind : c.kind = 1) (twin : twinOfPress s p ≠ some p) :
    ((waitKilled p held k i s).press p).stallOperand = (s.press p).stallOperand + BitVec.ofNat 64 held := by
  obtain ⟨-, found, phase⟩ := of_runningOn running
  have number : c.seq = k.seq := seq_of_cmd found
  have found' : (updBoth p (countHeld held) s).cmd k.queue c.seq = some c := (cmd_updBoth ..).trans (number ▸ found)
  rw [waitKilled, ← number, killCmd_running found' kind phase rfl]
  refine (press_stopProgram_keeps (g := Press.stallOperand) (fun _ => rfl) stallOperand_stopPress ..).trans ?_
  rw [noteFault_only]
  exact congrArg Press.stallOperand (press_updBoth_self twin)

/-! ### RACK -/

theorem stepRack_stops (issued : issuing s p 6 = some ((c, k, i), u)) (asked : c.rackRequested = true) :
    stepRack p s = updSequencers p (fun k => { k with stopped := true, point := fieldNat i.arg 0 4 }) u := by
  rw [stepRack, issue_of_issuing issued]
  simp only [asked, if_true]

theorem stepRack_passes (issued : issuing s p 6 = some ((c, k, i), u)) (asked : c.rackRequested = false) :
    stepRack p s =
      advance p (updSequencers p (fun k => { k with point := fieldNat i.arg 0 4, passedPoint := true }) u) := by
  rw [stepRack, issue_of_issuing issued]
  simp only [asked, Bool.false_eq_true, if_false]

/-! ### END -/

/-- The device once a press has ended its stream. -/
def streamEnded (p : Fin 16) (k : Sequencer) (s : State) : State :=
  settleParts k.queue k.seq (updSequencers p (fun x => { x with ended := true }) s)

theorem stepEnd_ends (issued : issuing s p 0x0F = some ((c, k, i), u)) : stepEnd p s = streamEnded p k u :=
  issue_of_issuing issued _

theorem streamEnded_only :
    streamEnded p k s =
      { s with presses := (streamEnded p k s).presses, queues := (streamEnded p k s).queues } := by
  rw [streamEnded, settleParts_only, updSequencers_only]

theorem sequencer_streamEnded (twin : twinOfPress s p ≠ some p) (seated : (s.press p).sequencer = some k) :
    ((streamEnded p k s).press p).sequencer = some { k with ended := true } := by
  rw [streamEnded, press_settleParts, sequencer_updSequencers twin, seated]
  rfl

/-- A running command whose parts are all complete has made every write (R168). -/
theorem settleParts_writes {n : Fin 256} {seq : Word} (found : s.cmd n seq = some c) (running : c.phase = .running)
    (parts : (pressesOf s n seq).all (partDone s) = true) :
    ((settleParts n seq s).cmd n seq).map (·.phase) = some (.written 0 0) := by
  have settled : settleParts n seq s = s.updCmd n seq fun x => { x with phase := .written 0 0 } := by
    simp only [settleParts, found, running, parts, decide_true, Bool.and_self, if_true]
  rw [settled, cmd_updCmd, found]
  · rfl
  · exact fun _ => rfl

/-- The end of the one stream of a command, with no transfer, child or drain left, completes it. -/
theorem streamEnded_completes (found : s.cmd k.queue k.seq = some c) (running : c.phase = .running)
    (twin : twinOfPress s p ≠ some p) (seated : (s.press p).sequencer = some k) (alone : pressesOf s k.queue k.seq = [p])
    (jobs : k.jobs = []) (children : k.children = 0) (drains : k.drains = []) :
    ((streamEnded p k s).cmd k.queue k.seq).map (·.phase) = some (.written 0 0) := by
  refine settleParts_writes ((cmd_updBoth ..).trans found) running ?_
  rw [pressesOf_updSequencers, alone]
  · simp [partDone, sequencer_updSequencers twin, seated, jobs, children, drains]
  · exact fun _ => rfl

/-! ### ENGINE -/

/-- The job of a child that a press hands to an engine (R175, R256). -/
def childJob (p : Fin 16) (parent : Cmd) (k : Sequencer) (i : PressInstr) (d : List Byte) (r : List Operand × List Byte)
    (s : State) : EngineJob :=
  { queue := k.queue, seq := k.seq, press := some p, counter := fieldNat i.arg2 0 1, parcel := s.parcelOf k.queue
    twinned := decide (fieldNat d 1 1 % 2 = 1) || parent.twinned, operands := r.1, params := r.2 }

/-- The device once a press has handed a child to an engine. -/
def childQueued (p : Fin 16) (held : Nat) (e : Fin 6) (j : EngineJob) (s : State) : State :=
  advance p (updSequencer p (fun x => { x with children := x.children + 1 }) (updBoth p (countHeld held)
    (s.updEngine e fun y => { y with waiting := y.waiting ++ [j], asleep := false })))

variable {d : List Byte} {e : Fin 6} {r : List Operand × List Byte} {x : Stop} {j : EngineJob}

theorem stepEngine_queues (issued : issuing s p 5 = some ((c, k, i), u))
    (read : frontRead u k.queue (fieldNat i.arg 0 5 % 2 ^ 38) 64 = .ok d) (checked : checkChild d = none)
    (engine : e = Fin.ofNat 6 (fieldNat d 12 4 % 256)) (room : listFull u e (u.parcelOf k.queue) = false)
    (child : readChild u k.queue e.val { seq := k.seq, desc := d, phase := .checked } = .ok r) :
    stepEngine p held s = childQueued p held e (childJob p c k i d r u) u := by
  subst engine
  rw [stepEngine, issue_of_issuing issued]
  simp only [read, checked, issueChild, Cmd.target, room, child, Bool.false_eq_true, if_false]
  rfl

theorem stepEngine_waits (issued : issuing s p 5 = some ((c, k, i), u))
    (read : frontRead u k.queue (fieldNat i.arg 0 5 % 2 ^ 38) 64 = .ok d) (checked : checkChild d = none)
    (full : listFull u (Fin.ofNat 6 (fieldNat d 12 4 % 256)) (u.parcelOf k.queue) = true) : stepEngine p held s = u := by
  rw [stepEngine, issue_of_issuing issued]
  simp only [read, checked, issueChild, Cmd.target, full, if_true]

theorem stepEngine_unread (issued : issuing s p 5 = some ((c, k, i), u))
    (read : frontRead u k.queue (fieldNat i.arg 0 5 % 2 ^ 38) 64 = .error x) :
    stepEngine p held s = killCmd k.queue k.seq x u := by
  rw [stepEngine, issue_of_issuing issued]
  simp only [read]

theorem stepEngine_unfit (issued : issuing s p 5 = some ((c, k, i), u))
    (read : frontRead u k.queue (fieldNat i.arg 0 5 % 2 ^ 38) 64 = .ok d) (checked : checkChild d = some x) :
    stepEngine p held s = killCmd k.queue k.seq x u := by
  rw [stepEngine, issue_of_issuing issued]
  simp only [read, checked]

/-- The device whose engine has LAST_FAIL name a child that it refused (R262). -/
def childRefused (e : Fin 6) (n : Fin 8) (x : Stop) (s : State) : State :=
  s.updEngine e fun y => { y with failStatus := x.status, failParcel := BitVec.ofFin n }

theorem stepEngine_refuses (issued : issuing s p 5 = some ((c, k, i), u))
    (read : frontRead u k.queue (fieldNat i.arg 0 5 % 2 ^ 38) 64 = .ok d) (checked : checkChild d = none)
    (engine : e = Fin.ofNat 6 (fieldNat d 12 4 % 256)) (room : listFull u e (u.parcelOf k.queue) = false)
    (child : readChild u k.queue e.val { seq := k.seq, desc := d, phase := .checked } = .error x) (real : x.held = false) :
    stepEngine p held s = killCmd k.queue k.seq x (childRefused e (u.parcelOf k.queue) x u) := by
  subst engine
  rw [stepEngine, issue_of_issuing issued]
  simp only [read, checked, issueChild, Cmd.target, room, child, real, Bool.false_eq_true, if_false]
  rfl

/-- A child that meets a fault before it is queued kills its parent. -/
theorem killed_of_childFault (issued : issuing s p 5 = some ((c, k, i), u)) (kind : c.kind = 1) (real : x.held = false)
    (engine : e = Fin.ofNat 6 (fieldNat d 12 4 % 256))
    (fault : frontRead u k.queue (fieldNat i.arg 0 5 % 2 ^ 38) 64 = .error x ∨
      frontRead u k.queue (fieldNat i.arg 0 5 % 2 ^ 38) 64 = .ok d ∧ (checkChild d = some x ∨
        checkChild d = none ∧ listFull u e (u.parcelOf k.queue) = false ∧
          readChild u k.queue e.val { seq := k.seq, desc := d, phase := .checked } = .error x)) :
    Killed k p x (stepEngine p held s) := by
  obtain ⟨seated, found, running⟩ := of_issuing issued
  obtain unread | ⟨read, unfit | ⟨checked, room, child⟩⟩ := fault
  · rw [stepEngine_unread issued unread]
    exact killed_of_running seated found kind running real
  · rw [stepEngine_unfit issued read unfit]
    exact killed_of_running seated found kind running real
  · rw [stepEngine_refuses issued read checked engine room child real]
    exact killed_of_running (s := childRefused e _ x u) seated found kind running real

theorem childQueued_only :
    childQueued p held e j s =
      { s with presses := (childQueued p held e j s).presses, engines := (childQueued p held e j s).engines } := by
  rw [childQueued, advance_only, updSequencer, updBoth_only]
  rfl

theorem engine_childQueued :
    (childQueued p held e j s).engine e = { s.engine e with waiting := (s.engine e).waiting ++ [j], asleep := false } := by
  rw [childQueued, advance_only, updSequencer, updBoth_only]
  exact engine_updEngine ..

theorem sequencer_childQueued (twin : twinOfPress s p ≠ some p) (seated : (s.press p).sequencer = some k) :
    ((childQueued p held e j s).press p).sequencer = some { k with index := k.index + 1, children := k.children + 1 } := by
  have counts := keepsSeat_countHeld held
  have kept (t : State) : ((updBoth p (countHeld held) t).press p).sequencer = (t.press p).sequencer :=
    press_updBoth_keeps (fun x => (counts x).2.2) p
  rw [childQueued, advance, sequencer_updSequencers, sequencer_updSequencer, kept]
  · exact congrArg (fun y => Option.map _ (Option.map _ y)) seated
  · rw [twinOfPress_updSequencer_self, twinOfPress_updBoth counts]
    exact twin

theorem stallOperand_childQueued (twin : twinOfPress s p ≠ some p) :
    ((childQueued p held e j s).press p).stallOperand = (s.press p).stallOperand + BitVec.ofNat 64 held := by
  rw [childQueued, advance, press_updSequencers_keeps (g := Press.stallOperand) fun _ _ => rfl,
    press_updSequencer_keeps (g := Press.stallOperand) fun _ _ => rfl, press_updBoth_self (by exact twin)]
  rfl

end

/-! ### The obligation -/

/-- Settles O31: each step is the step on the instruction that the press issues or that holds it, and what it changes is read off the
press, the engine and the command. -/
theorem sequencerInstructionsAct : Obligations.SequencerInstructionsAct := by
  unfold Obligations.SequencerInstructionsAct
  refine ⟨?dma, ?wait, ?satisfied, ?holds, ?timeout, ?noTimeout, ?rack, ?ends, ?engine, ?engineKills, ?engineWaits, ?idle⟩
  case dma =>
    intro s u p c k i issued twin
    obtain ⟨seated, -, -⟩ := of_issuing issued
    exact ⟨_, answer_of_issuing issued (stepDma_starts issued) (by rw [transferStarted_only]),
      sequencer_transferStarted _ twin seated, cask_transferStarted _, transferStarted_only _⟩
  case wait =>
    intro s u p c k i issued twin
    obtain ⟨seated, -, -⟩ := of_issuing issued
    refine ⟨_, answer_of_issuing issued (stepWait_acts issued) (pending_updSequencers ..), ?_,
      press_updSequencers_keeps (fun _ _ => rfl) p, updSequencers_only⟩
    rw [sequencer_updSequencers twin, seated]
    rfl
  case satisfied =>
    intro s p held c k i waits running met twin
    obtain ⟨seated, -, -⟩ := of_runningOn running
    have step := stepWaitSatisfied_met (held := held) waits met
    refine ⟨_, (answer_keep ?_).trans (congrArg _ step), sequencer_waitEnded twin seated, stallOperand_waitEnded twin,
      waitEnded_only⟩
    rw [step, waitEnded_only]
  case holds =>
    intro s p held h
    exact answer_same (stepWaitSatisfied_holds h)
  case timeout =>
    intro s p held c k i waits running kind twin
    refine ⟨_, answer_eq .., ?_⟩
    rw [stepWaitTimeout_kills waits]
    exact ⟨killed_waitKilled running kind, stallOperand_waitKilled running kind twin⟩
  case noTimeout =>
    intro s p held none
    exact answer_same (stepWaitTimeout_none none)
  case rack =>
    intro s u p c k i issued twin
    obtain ⟨seated, -, -⟩ := of_issuing issued
    cases asked : c.rackRequested with
    | true =>
      refine ⟨_, answer_of_issuing issued (stepRack_stops issued asked) (pending_updSequencers ..), ?_, updSequencers_only⟩
      rw [sequencer_updSequencers twin, seated]
      rfl
    | false =>
      refine ⟨_, answer_of_issuing issued (stepRack_passes issued asked) ?_, ?_, ?_⟩
      · rw [advance_only, updSequencers_only]
      · rw [advance, sequencer_updSequencers (by rwa [twinOfPress_updSequencers]), sequencer_updSequencers twin, seated]
        rfl
      · rw [advance_only, updSequencers_only]
  case ends =>
    intro s u p c k i issued twin
    obtain ⟨seated, found, running⟩ := of_issuing issued
    exact ⟨_, answer_of_issuing issued (stepEnd_ends issued) (by rw [streamEnded_only]), sequencer_streamEnded twin seated,
      streamEnded_completes found running twin seated, streamEnded_only⟩
  case engine =>
    intro s u p held c k i d e ops block issued twin read checked engine room child
    obtain ⟨seated, -, -⟩ := of_issuing issued
    refine ⟨_, answer_of_issuing issued (stepEngine_queues issued read checked engine room child) ?_,
      sequencer_childQueued twin seated, stallOperand_childQueued twin, ?_, childQueued_only⟩
    · rw [childQueued_only]
    · rw [engine_childQueued]
      rfl
  case engineKills =>
    intro s u p held c k i d e x issued kind real engine fault
    exact ⟨_, answer_eq .., killed_of_childFault issued kind real engine fault⟩
  case engineWaits =>
    intro s u p held c k i d issued read checked full
    exact answer_of_issuing issued (stepEngine_waits issued read checked full) rfl
  case idle =>
    intro s p held
    exact ⟨fun none => answer_same (issue_none none _), fun none => answer_same (issue_none none _),
      fun none => answer_same (issue_none none _), fun none => answer_same (issue_none none _),
      fun none => answer_same (issue_none none _)⟩

end Sys2Proof.Machine
end

section
/-! PROOF. Refutation in the family of commands: CommandKindsAct, in the clause of MARKER. It names the phase that the end of a command
brings (`endPhase`), due where its queue holds 64 corks (R470), and speaks of every queue. A queue whose held corks have the number of
the MARKER itself is not excluded (no queue filled through its ring has two commands of one number, R455): there the end of the MARKER
makes the held corks due with it, so that they are held no more, and the MARKER ends at once. -/

namespace Sys2Proof.Machine

/-- A MARKER with sequence number 0 that has started. -/
def startedMarker : Cmd := { runningZero 8 with phase := .started }

/-- A queue whose 64 held corks have the number of a MARKER that has started. Their turn to be appended has not come. -/
def heldBesideMarker : Queue := { nextCork := 1, cmds := startedMarker :: List.replicate 64 endedZero }

/-- The device at reset, with that queue as its queue 0. -/
def markerStarted : State := State.reset.updQueue 0 fun _ => heldBesideMarker

theorem queue_markerStarted : markerStarted.queue 0 = heldBesideMarker := queue_updQueue _ _ _

theorem startedOf_markerStarted : startedOf markerStarted 0 0 8 = some startedMarker := by
  have found : markerStarted.cmd 0 0 = some startedMarker := by rw [State.cmd, queue_markerStarted]; rfl
  have safe : markerStarted.safety.safe = false := rfl
  have kind : startedMarker.kind = 8 := by decide
  have phase : startedMarker.phase = .started := rfl
  simp only [startedOf, safe, found, kind, phase, Bool.false_eq_true, if_false, decide_true, Bool.and_self, if_true]

/-- With 64 corks held, the clause has the end of the MARKER due. -/
theorem endPhase_markerStarted : endPhase markerStarted 0 0 0 0 = .due 0 0 := by
  have held : mayEnd heldBesideMarker 0 = false := by decide +kernel
  rw [endPhase, queue_markerStarted, held]
  rfl

theorem marker_ends : phaseAfter (exec (.marker 0 0) markerStarted) 0 0 = some (.ended 0 0) := by decide +kernel

/-- Refutes O28, in the clause of MARKER: at `markerStarted` the MARKER has ended after the step, and is not due. -/
theorem not_commandKindsAct : ¬ Obligations.CommandKindsAct := by
  rintro ⟨-, -, -, -, -, marker, -⟩
  obtain ⟨t, step, phase, -⟩ := marker markerStarted 0 0 startedMarker startedOf_markerStarted
  have ended := marker_ends
  rw [step, phaseAfter_next, phase, endPhase_markerStarted] at ended
  cases ended

end Sys2Proof.Machine
end

section
/-! PROOF. The lines of a Cask (R219): the address of a line of a bank in each of the three zones. -/

namespace Sys2Proof.Machine

section
variable {b l : Nat}

theorem caskLine_first (h : b < 8) : caskLine (0 + b) l = 128 * (l * 8 + b) := by
  rw [caskLine, if_pos (by omega), Nat.zero_add]

theorem caskLine_middle (h : b < 16) : caskLine (8 + b) l = 0x180000 + 128 * (l * 16 + b) := by
  rw [caskLine, if_neg (by omega), if_pos (by omega), Nat.add_sub_cancel_left]

theorem caskLine_last : caskLine (24 + b) l = 0x480000 + 128 * (l * 8 + b) := by
  rw [caskLine, if_neg (by omega), if_neg (by omega), Nat.add_sub_cancel_left]

end

/-- Settles O58: line number and bank are quotient and remainder of one division, so that they give the line back, and the first
address of each zone is a whole number of lines. -/
theorem caskLinesRotate : Obligations.CaskLinesRotate := by
  unfold Obligations.CaskLinesRotate
  refine ⟨fun a _ => ?_, fun a lo _ => ?_, fun a lo _ => ?_⟩
  · rw [caskLine_first (Nat.mod_lt _ (by decide)), Nat.div_add_mod', Nat.mul_comm]
  · rw [caskLine_middle (Nat.mod_lt _ (by decide)), Nat.div_add_mod']
    omega
  · rw [caskLine_last, Nat.div_add_mod']
    omega

end Sys2Proof.Machine
end

section
/-! PROOF. The end of a parcel's clearing, ClearingEnds. What the messages of firmware leave (`unmailed`), what a commit leaves on
any page but a queue's (`working`), and the table of translations after the pages of a parcel have gone back. -/

namespace Sys2Proof.Machine

/-! ### What messages leave -/

/-- The device without its host port and what firmware keeps, and of the latter the folded programs and the requests of which a
reply is owed: no message of firmware changes any of it. -/
def unmailed (s : State) : State × List FoldPlan × (Fin 8 → Option FwJob) :=
  ({ s with port := State.reset.port, fw := State.reset.fw }, s.fw.folds, fun p => (s.pair p).job)

section
variable {s t : State}

theorem unmailed_ite {c : Prop} [Decidable c] {a b : State} (ha : unmailed a = unmailed s) (hb : unmailed b = unmailed s) :
    unmailed (if c then a else b) = unmailed s := by
  split
  · exact ha
  · exact hb

theorem unmailed_updPair {p : Fin 8} {f : Pair → Pair} (h : ∀ x, (f x).job = x.job) :
    unmailed (s.updPair p f) = unmailed s := by
  have jobs (q : Fin 8) : ((s.updPair p f).pair q).job = (s.pair q).job := by
    simp only [State.pair, State.updPair, vget_vupd]
    split
    · next e => rw [h, e]
    · rfl
  simp only [unmailed, jobs]
  rfl

/-- A part of the device that neither the host port nor firmware has a share in is a part of what messages leave. -/
theorem parts_of_unmailed {α : Type} (g : State → α)
    (hg : ∀ u, g { u with port := State.reset.port, fw := State.reset.fw } = g u) (h : unmailed t = unmailed s) : g t = g s := by
  rw [← hg t, ← hg s]
  exact congrArg (fun x => g x.1) h

theorem folds_of_unmailed (h : unmailed t = unmailed s) : t.fw.folds = s.fw.folds := congrArg (fun x => x.2.1) h

theorem job_of_unmailed (h : unmailed t = unmailed s) (p : Fin 8) : (t.pair p).job = (s.pair p).job :=
  congrArg (fun x => x.2.2 p) h

end

section
variable (s : State)

theorem unmailed_noteEcho (a n : Nat) (w : Option (BitVec 2)) : unmailed (noteEcho a n w s) = unmailed s := by
  rw [noteEcho_only]
  rfl

theorem unmailed_syncOutWith (p : Fin 8) (event : Option (BitVec 2)) :
    unmailed (syncOutWith p event s) = unmailed s := unmailed_noteEcho ..

theorem unmailed_mailWire (p : Fin 8) : unmailed (mailWire p s) = unmailed s := by
  unfold mailWire
  split
  · rw [raiseWire_only]
    rfl
  · rfl

theorem unmailed_writeOut (p : Fin 8) (body : List Byte) : unmailed (writeOut p body s) = unmailed s := by
  unfold writeOut
  dsimp only
  rw [unmailed_mailWire, unmailed_syncOutWith, unmailed_updPair, unmailed_noteEcho]
  · rfl
  · exact fun _ => rfl

theorem unmailed_drainOut (fuel : Nat) (p : Fin 8) : unmailed (drainOut fuel p s) = unmailed s := by
  induction fuel generalizing s with
  | zero => rfl
  | succ fuel ih =>
    unfold drainOut
    split
    · rfl
    · exact unmailed_ite ((ih _).trans <| (unmailed_writeOut ..).trans (unmailed_updPair fun _ => rfl)) rfl

theorem unmailed_putOut (p : Fin 8) (isEvent : Bool) (body : List Byte) :
    unmailed (putOut p isEvent body s) = unmailed s := (unmailed_drainOut ..).trans (unmailed_updPair fun _ => rfl)

theorem unmailed_sendReply (p : Fin 8) (typ : Nat) (seq : Word) (result : Nat) (fields : List Byte) :
    unmailed (sendReply p typ seq result fields s) = unmailed s := (unmailed_putOut ..).trans (unmailed_ite rfl rfl)

theorem unmailed_takeRequest (p : Fin 8) : unmailed (takeRequest p s) = unmailed s :=
  (unmailed_syncOutWith ..).trans (unmailed_updPair fun _ => rfl)

theorem unmailed_refuseBad (fuel : Nat) (p : Fin 8) : unmailed (refuseBad fuel p s) = unmailed s := by
  induction fuel generalizing s with
  | zero => rfl
  | succ fuel ih =>
    unfold refuseBad
    split
    · rfl
    · exact unmailed_ite rfl <| (ih _).trans <| (unmailed_sendReply ..).trans (unmailed_takeRequest ..)

/-- A reply that was owed ends its job and changes nothing else but the host port and the mailboxes. -/
theorem unmailed_finishJob (p : Fin 8) (typ : Nat) (seq : Word) (code : Nat) (fields : List Byte) :
    unmailed (finishJob p typ seq code fields s) = unmailed (s.updPair p fun x => { x with job := none }) :=
  (unmailed_refuseBad ..).trans (unmailed_sendReply ..)

/-- A part of the device beside the host port and firmware stays as it was while an owed reply is sent. -/
theorem parts_finishJob {α : Type} (g : State → α)
    (hg : ∀ (u : State) (port : HostPort) (fw : Fw), g { u with port := port, fw := fw } = g u)
    (p : Fin 8) (typ : Nat) (seq : Word) (code : Nat) (fields : List Byte) :
    g (finishJob p typ seq code fields s) = g s :=
  (parts_of_unmailed g (fun u => hg u _ _) (unmailed_finishJob ..)).trans (hg s s.port _)

theorem job_finishJob (p : Fin 8) (typ : Nat) (seq : Word) (code : Nat) (fields : List Byte) :
    ((finishJob p typ seq code fields s).pair p).job = none := by
  rw [job_of_unmailed (unmailed_finishJob ..), pair_updPair]

theorem folds_finishJob (p : Fin 8) (typ : Nat) (seq : Word) (code : Nat) (fields : List Byte) :
    (finishJob p typ seq code fields s).fw.folds = s.fw.folds := (folds_of_unmailed (unmailed_finishJob ..)).trans rfl

end

/-! ### What commits and events leave -/

/-- The presses, what the Cellar holds, and the queues. -/
def working (s : State) : Vector Press 16 × Mem × Vector Queue 256 := (s.presses, s.cellar.mem, s.queues)

section
variable {s t : State}

theorem presses_of_working (h : working t = working s) : t.presses = s.presses := congrArg (fun x => x.1) h

theorem cellarMem_of_working (h : working t = working s) : t.cellar.mem = s.cellar.mem := congrArg (fun x => x.2.1) h

theorem queues_of_working (h : working t = working s) : t.queues = s.queues := congrArg (fun x => x.2.2) h

theorem working_ite {c : Prop} [Decidable c] {a b : State} (ha : working a = working s) (hb : working b = working s) :
    working (if c then a else b) = working s := by
  split
  · exact ha
  · exact hb

theorem working_foldState {α : Type} {f : α → State → State} {l : List α} (h : ∀ x s, working (f x s) = working s) :
    working (foldState f l s) = working s :=
  foldState_keeps (fun t => working t = working s) f l (fun x _ ht => (h x _).trans ht) s rfl

theorem working_foldl {α : Type} {f : State → α → State} {l : List α} (h : ∀ s x, working (f s x) = working s) :
    working (l.foldl f s) = working s := by
  induction l generalizing s with
  | nil => rfl
  | cons x rest ih => exact ih.trans (h s x)

end

section
variable (s : State)

/-! Events and replies. -/

theorem working_noteEcho (a n : Nat) (w : Option (BitVec 2)) : working (noteEcho a n w s) = working s := by
  rw [noteEcho_only]
  rfl

theorem working_logEvent (source : Nat) (code : BitVec 16) : working (logEvent source code s) = working s := by
  rw [logEvent_only]
  rfl

theorem working_pageError (p : Fin 121) (c : BitVec 16) (i : Word) (a : Long) (b : Byte) :
    working (pageError p c i a b s) = working s := by
  rw [pageError_only]
  rfl

theorem working_errorWire : working (errorWire s) = working s := by
  rw [errorWire_only]
  rfl

theorem working_finishJob (p : Fin 8) (typ : Nat) (seq : Word) (code : Nat) (fields : List Byte) :
    working (finishJob p typ seq code fields s) = working s := parts_finishJob s working (fun _ _ _ => rfl) ..

theorem working_fwEvent (typ : Nat) (payload : List Byte) : working (fwEvent typ payload s) = working s :=
  working_ite (parts_of_unmailed working (fun _ => rfl) (unmailed_putOut ..))
    ((working_logEvent ..).trans (working_noteEcho ..))

theorem working_reportRetired (fuel ppn : Nat) (vpn : Option Nat) (parcel : Option (Fin 8)) (kind : Nat) (hs : List Nat) :
    working (reportRetired fuel ppn vpn parcel kind hs s) = working s := by
  induction fuel generalizing s hs with
  | zero => rfl
  | succ fuel ih => exact working_ite (working_fwEvent ..) ((ih ..).trans (working_fwEvent ..))

/-! The end of a commit. -/

theorem working_settleCommit (p : Fin 121) : working (settleCommit p s) = working s := working_ite rfl rfl

theorem working_rejectCommit (p : Fin 121) (code : BitVec 16) (info : Word) :
    working (rejectCommit p code info s) = working s := working_pageError ..

theorem working_rejectPort (code : BitVec 16) : working (rejectPort code s) = working s :=
  (working_settleCommit ..).trans <| (working_errorWire _).trans (working_pageError ..)

theorem working_finishEcho (code : Nat) : working (finishEcho code s) = working s := by
  refine working_foldState fun p s => ?_
  split
  · exact working_finishJob ..
  · rfl

/-! The units of each page. -/

theorem working_applyParcelIdle (n : Fin 8) : working (applyParcelIdle n s) = working s := by
  refine working_ite rfl ?_
  unfold applyParcel
  split
  · rfl
  · split
    · exact (working_settleCommit ..).trans (working_rejectCommit ..)
    · exact working_settleCommit ..

theorem working_applyPipeIdle (n : Fin 16) : working (applyPipeIdle n s) = working s := by
  refine working_ite (working_ite rfl ?_) rfl
  split
  · rfl
  · split
    · exact (working_settleCommit ..).trans (working_rejectCommit ..)
    · exact working_settleCommit ..

theorem working_applyFlimit : working (applyFlimit s) = working s := by
  refine working_ite rfl ?_
  split
  · rfl
  · exact working_ite ((working_settleCommit ..).trans (working_rejectCommit ..)) (working_settleCommit ..)

theorem working_applyCellar : working (applyCellar s) = working s := by
  unfold applyCellar
  split
  · rfl
  · refine working_ite rfl ?_
    split
    · exact (working_settleCommit ..).trans (working_rejectCommit ..)
    · exact working_settleCommit ..

theorem working_applyCarve (n : Fin 8) : working (applyCarve n s) = working s := working_ite rfl (working_settleCommit ..)

theorem working_oweCopy : working (oweCopy s) = working s := working_foldState fun _ _ => working_noteEcho ..

theorem working_applyEcho : working (applyEcho s) = working s := by
  unfold applyEcho
  split
  · rfl
  · exact working_ite rfl <| working_ite ((working_finishEcho ..).trans (working_rejectPort ..)) <|
      (working_finishEcho ..).trans <| (working_settleCommit ..).trans (working_oweCopy _)

theorem working_applyStage (n : Fin 8) : working (applyStage n s) = working s := by
  unfold applyStage
  split
  · rfl
  · exact working_ite rfl <| working_ite (working_rejectPort ..) (working_settleCommit ..)

theorem working_applyVine : working (applyVine s) = working s := by
  unfold applyVine
  split
  · rfl
  · exact working_ite rfl <| working_ite ((working_settleCommit ..).trans (working_rejectCommit ..)) <|
      (working_settleCommit ..).trans (working_ite rfl rfl)

theorem working_applyDiag : working (applyDiag s) = working s := by
  unfold applyDiag
  split
  · rfl
  · dsimp only
    split
    · exact (working_settleCommit ..).trans (working_rejectCommit ..)
    · exact working_settleCommit ..

theorem working_changeArith (mhz : Nat) : working (changeArith mhz s) = working s :=
  working_ite (working_ite rfl rfl) (working_ite rfl rfl)

theorem working_updPll (p : Fin 9) (f : Pll → Pll) : working (s.updPll p f) = working s := rfl

theorem working_requestMv (r : Fin 3) (mv : Nat) : working (requestMv r mv s) = working s := rfl

theorem working_requestCore : working (requestCore s) = working s := (working_requestMv ..).trans (working_requestMv ..)

theorem working_applyPll (p : Fin 9) : working (applyPll p s) = working s := by
  unfold applyPll
  dsimp only
  exact working_ite rfl <| working_ite (working_ite (working_changeArith ..) rfl) <|
    working_ite (working_ite ((working_updPll ..).trans (working_requestCore _)) rfl) rfl

theorem working_applyPllUnit (p : Fin 9) : working (applyPllUnit p s) = working s := by
  unfold applyPllUnit
  split
  · rfl
  · split
    · exact (working_settleCommit ..).trans (working_rejectCommit ..)
    · exact (working_settleCommit ..).trans (working_applyPll ..)

/-! GO. -/

variable {p : Fin 121} (hp : ¬ (64 ≤ p.val ∧ p.val ≤ 79))
include hp

/-- A unit of a page other than a queue's leaves presses, Cellar and queues alone where it applies or is rejected. -/
theorem working_applyUnit (u : Fin 16) : working (applyUnit p u s) = working s := by
  unfold applyUnit
  dsimp only
  rw [if_neg hp]
  exact working_ite rfl <| working_ite (working_ite (working_applyEcho s) <| working_ite (working_applyStage ..) rfl) <|
    working_ite (working_ite (working_applyPllUnit ..) rfl) <| working_ite (working_applyFlimit s) <|
    working_ite (working_applyDiag s) <| working_ite (working_applyVine s) <|
    working_ite (working_ite (working_applyCarve ..) rfl) <| working_ite (working_applyCellar s) <|
    working_ite (working_applyPipeIdle ..) <| working_ite (working_applyParcelIdle ..) rfl

theorem working_goUnits : working (goUnits p.val s) = working s := by
  unfold goUnits mapUnits
  rw [if_neg hp]
  exact working_ite rfl <| working_ite rfl <| working_ite rfl <| working_ite rfl <| working_ite rfl <| working_ite rfl <|
    working_ite rfl <| working_ite rfl <| working_ite rfl rfl

theorem working_writeGo (who : Writer) : working (writeGo who p s) = working s := by
  refine working_ite rfl ?_
  refine (working_foldState fun u s => working_ite (working_applyUnit s hp u) rfl).trans ?_
  exact (working_settleCommit ..).trans (working_goUnits s hp)

end

/-! ### The shares and pages of a parcel -/

section
variable (s : State) (n : Fin 8)

theorem working_commitShares (cellar stage carve : Share) : working (commitShares n cellar stage carve s) = working s :=
  (working_writeGo _ (by decide) _).trans <| (working_writeGo _ (by decide) _).trans (working_writeGo _ (by decide) _)

theorem pgParcel_not_queue : ∀ n : Fin 8, ¬ (64 ≤ (pgParcel n).val ∧ (pgParcel n).val ≤ 79) := by decide

theorem working_activate (policy : ParcelCfg) : working (activate n policy s) = working s :=
  working_writeGo _ (pgParcel_not_queue n) _

theorem state_activate (policy : ParcelCfg) : ((activate n policy s).parcel n).state = 2 := by
  rw [activate, parcel_updParcel]

theorem working_refillRetired (fuel : Nat) : working (refillRetired fuel s) = working s := by
  induction fuel generalizing s with
  | zero => rfl
  | succ fuel ih =>
    unfold refillRetired
    split
    · rfl
    · split
      · rfl
      · exact ih _

theorem working_returnPages : working (returnPages n s) = working s :=
  (working_refillRetired ..).trans (working_foldl fun _ _ => working_reportRetired ..)

end

/-- No valid entry of a translation table belongs to the parcel. -/
def Unowned (n : Fin 8) (table : List (Nat × TtEntry)) : Prop := ∀ e ∈ table, ¬ (e.2.valid = true ∧ e.2.owner.toNat = n.val)

theorem mem_putKey {α : Type} {l : List (Nat × α)} {k : Nat} {x : α} {e : Nat × α} (h : e ∈ putKey l k x) :
    e = (k, x) ∨ e ∈ l := by
  induction l with
  | nil => exact .inl (List.mem_singleton.1 h)
  | cons c rest ih =>
    unfold putKey at h
    split at h
    · exact List.mem_cons.1 h
    · split at h
      · exact (List.mem_cons.1 h).imp_right (List.mem_cons_of_mem c)
      · rcases List.mem_cons.1 h with first | later
        · exact .inr (first ▸ List.mem_cons_self)
        · exact (ih later).imp_right (List.mem_cons_of_mem c)

section
variable {n : Fin 8}

/-- A retired page that gets a new physical page stays with its parcel. -/
theorem Unowned.refillRetired {s : State} (h : Unowned n s.mmu.table) (fuel : Nat) :
    Unowned n (refillRetired fuel s).mmu.table := by
  induction fuel generalizing s with
  | zero => exact h
  | succ fuel ih =>
    unfold Machine.refillRetired
    split
    · exact h
    · next found =>
      split
      · exact h
      · refine ih fun x hx => ?_
        rcases mem_putKey hx with rfl | old
        · have foreign := h _ (List.mem_of_find?_eq_some found)
          exact foreign
        · exact h x old

theorem unowned_returnPages (s : State) : Unowned n (returnPages n s).mmu.table := by
  refine Unowned.refillRetired (fun e he => ?_) _
  have other := (List.mem_filter.1 he).2
  rintro ⟨valid, mine⟩
  simp [valid, mine] at other

end

/-! ### A parcel that is removed -/

section
variable (s : State) (n : Fin 8)

theorem press_clearParcel (k : Fin 16) : (clearParcel n s).press k = if (s.press k).assigned = some n then
    { s.press k with cask := (s.press k).cask.clear 0 0x600000, arrive := Vector.replicate 64 0 } else s.press k :=
  vget_vmap ..

/-- R488, step 5: what is left once the pages of the parcel have gone back. -/
def released (n : Fin 8) (s : State) : State :=
  { s with
    fw := { s.fw with folds := s.fw.folds.filter fun f => decide (f.parcel ≠ n) }
    presses := vmap s.presses fun _ p => if p.assigned = some n then { p with assigned := none } else p
    pipes := vmap s.pipes fun _ p => if p.owner = some n then { p with owner := none } else p }.updParcel n fun p => { p with
      state := 0, holder := none, presses := 0, pipes := 0, saveVpn := 0, saveSlots := 0, saveFree := 0 }

theorem removeParcel_eq : removeParcel n s = released n (returnPages n (commitShares n {} {} {} s)) := rfl

theorem press_released (k : Fin 16) : (released n s).press k = if (s.press k).assigned = some n then
    { s.press k with assigned := none } else s.press k := vget_vmap ..

theorem folds_released : ∀ f ∈ (released n s).fw.folds, f.parcel ≠ n := fun _ hf =>
  of_decide_eq_true (List.mem_filter.1 hf).2

theorem mmu_released : (released n s).mmu = s.mmu := rfl

theorem parcel_released : ((released n s).parcel n).state = 0 ∧ ((released n s).parcel n).presses = 0 := by
  rw [released, parcel_updParcel]
  exact ⟨rfl, rfl⟩

theorem press_removeParcel (k : Fin 16) : (removeParcel n s).press k = if (s.press k).assigned = some n then
    { s.press k with assigned := none } else s.press k := by
  have kept := presses_of_working ((working_returnPages _ n).trans (working_commitShares s n {} {} {}))
  rw [removeParcel_eq, press_released, State.press, kept, State.press]

theorem unowned_removeParcel : Unowned n (removeParcel n s).mmu.table := by
  rw [removeParcel_eq, mmu_released]
  exact unowned_returnPages (commitShares n {} {} {} s)

end

/-! ### CLEARING_COMPLETE -/

section
variable {s : State} {n p : Fin 8} {seq : Word}

theorem stepClearing_creating {policy : ParcelCfg} (up : firmwareUp s = true) (job : clearingJob s n = some (p, seq, some policy)) :
    stepClearing n s = finishJob p 0x10 seq 0 [] (activate n policy (clearParcel n s)) := by
  simp only [stepClearing, up, job, Bool.not_true, Bool.false_eq_true, if_false]

theorem stepClearing_destroying (up : firmwareUp s = true) (job : clearingJob s n = some (p, seq, none)) :
    stepClearing n s = finishJob p 0x11 seq 0 [] (removeParcel n (clearParcel n s)) := by
  simp only [stepClearing, up, job, Bool.not_true, Bool.false_eq_true, if_false]

theorem stepClearing_idle (h : firmwareUp s = false ∨ clearingJob s n = none) : stepClearing n s = s := by
  rcases h with down | none
  · simp only [stepClearing, down, Bool.not_false, if_true]
  · simp only [stepClearing, none, ite_self]

/-- R250: the Casks of the parcel and their counters are 0. -/
def CasksCleared (n : Fin 8) (s t : State) : Prop := ∀ k : Fin 16, (s.press k).assigned = some n →
  (t.press k).cask = (s.press k).cask.clear 0 0x600000 ∧ (t.press k).arrive = Vector.replicate 64 0

theorem casksCleared_clearParcel : CasksCleared n s (clearParcel n s) := fun k mine => by
  rw [press_clearParcel, if_pos mine]
  exact ⟨rfl, rfl⟩

theorem CasksCleared.of_presses {t u : State} (h : CasksCleared n s t) (same : u.presses = t.presses) : CasksCleared n s u := by
  unfold CasksCleared State.press at h ⊢
  rwa [same]

/-- The presses of a parcel that goes stay as they are but for their owner. -/
theorem CasksCleared.removeParcel {t : State} (h : CasksCleared n s t) : CasksCleared n s (removeParcel n t) := by
  intro k mine
  rw [press_removeParcel]
  split <;> exact h k mine

theorem assigned_clearParcel (k : Fin 16) : ((clearParcel n s).press k).assigned = (s.press k).assigned := by
  rw [press_clearParcel]
  split <;> rfl

theorem assigned_removeParcel (k : Fin 16) : ((removeParcel n s).press k).assigned =
    if (s.press k).assigned = some n then none else (s.press k).assigned := by
  rw [press_removeParcel]
  split <;> rfl

/-- Once the parcel has been created, presses, Cellar and queues are as its clearing has left them. -/
theorem working_creating {policy : ParcelCfg} (up : firmwareUp s = true)
    (job : clearingJob s n = some (p, seq, some policy)) : working (stepClearing n s) = working (clearParcel n s) := by
  rw [stepClearing_creating up job]
  exact (working_finishJob ..).trans (working_activate ..)

theorem state_creating {policy : ParcelCfg} (up : firmwareUp s = true)
    (job : clearingJob s n = some (p, seq, some policy)) : ((stepClearing n s).parcel n).state = 2 := by
  rw [stepClearing_creating up job, parts_finishJob _ (fun u => u.parcel n) fun _ _ _ => rfl, state_activate]

theorem job_stepClearing {policy : Option ParcelCfg} (up : firmwareUp s = true)
    (job : clearingJob s n = some (p, seq, policy)) : ((stepClearing n s).pair p).job = none := by
  cases policy with
  | none => rw [stepClearing_destroying up job, job_finishJob]
  | some policy => rw [stepClearing_creating up job, job_finishJob]

/-- Once the parcel has been destroyed, a part of the device beside host port and firmware is as its removal has left it. -/
theorem parts_destroying {α : Type} (g : State → α)
    (hg : ∀ (u : State) (port : HostPort) (fw : Fw), g { u with port := port, fw := fw } = g u) (up : firmwareUp s = true)
    (job : clearingJob s n = some (p, seq, none)) : g (stepClearing n s) = g (removeParcel n (clearParcel n s)) := by
  rw [stepClearing_destroying up job, parts_finishJob _ g hg]

theorem parcel_destroying (up : firmwareUp s = true) (job : clearingJob s n = some (p, seq, none)) :
    ((stepClearing n s).parcel n).state = 0 ∧ ((stepClearing n s).parcel n).presses = 0 := by
  rw [parts_destroying (fun u => u.parcel n) (fun _ _ _ => rfl) up job, removeParcel_eq]
  exact parcel_released _ n

theorem unowned_destroying (up : firmwareUp s = true) (job : clearingJob s n = some (p, seq, none)) :
    Unowned n (stepClearing n s).mmu.table := by
  rw [parts_destroying State.mmu (fun _ _ _ => rfl) up job]
  exact unowned_removeParcel _ n

theorem folds_destroying (up : firmwareUp s = true) (job : clearingJob s n = some (p, seq, none)) :
    ∀ f ∈ (stepClearing n s).fw.folds, f.parcel ≠ n := by
  rw [stepClearing_destroying up job, folds_finishJob, removeParcel_eq]
  exact folds_released _ n

end

/-- Settles O40: the messages of firmware leave everything but mailboxes and host port, and commits leave presses, Cellar and
queues, so that what `clearParcel` and `removeParcel` have done stands at the end of the step. -/
theorem clearingEnds : Obligations.ClearingEnds := by
  unfold Obligations.ClearingEnds
  refine ⟨fun s n p seq policy up job => ⟨_, rfl, ?_⟩, fun s n p seq up job => ⟨_, rfl, ?_⟩, fun s n idle => ?_⟩
  · have kept := working_creating up job
    have cleared := casksCleared_clearParcel.of_presses (presses_of_working kept)
    have others (k : Fin 16) (other : (s.press k).assigned ≠ some n) : (stepClearing n s).press k = s.press k := by
      rw [State.press, presses_of_working kept, ← State.press, press_clearParcel, if_neg other]
    have queues : (stepClearing n s).queues = s.queues := (queues_of_working kept).trans rfl
    exact ⟨state_creating up job, cleared, others, queues, cellarMem_of_working kept, job_stepClearing up job⟩
  · have presses := parts_destroying State.presses (fun _ _ _ => rfl) up job
    have cleared := casksCleared_clearParcel.removeParcel.of_presses presses
    obtain ⟨absent, noPresses⟩ := parcel_destroying up job
    have free (k : Fin 16) : ((stepClearing n s).press k).assigned =
        if (s.press k).assigned = some n then none else (s.press k).assigned := by
      rw [State.press, presses, ← State.press, assigned_removeParcel, assigned_clearParcel]
    exact ⟨absent, noPresses, free, cleared, unowned_destroying up job, folds_destroying up job, job_stepClearing up job⟩
  · change Host.Outcome.next { stepClearing n s with pending := s.pending } = _
    rw [stepClearing_idle idle]

end Sys2Proof.Machine
end

section
/-! PROOF. The error of feature-map compression (R294). Unpacking gives back the fields that packing has written, so that a plane
reads as the means of its cells, with the codes of its differences at 2:1; what is left of the error is that of one rounded quotient,
and at 4:1 the distance of a value from the mean of its cell. -/

namespace Sys2Proof.Machine

/-! ### Rounding and saturation -/

theorem natAbs_sub_roundDiv_le (n : Int) {d : Nat} (pos : 0 < d) : 2 * (n - d * roundDiv n d).natAbs ≤ d := by
  have below := Nat.div_mul_le_self (2 * n.natAbs + d) (2 * d)
  have above := Nat.lt_div_mul_add (a := 2 * n.natAbs + d) (b := 2 * d) (by omega)
  unfold roundDiv
  generalize (2 * n.natAbs + d) / (2 * d) = q at below above ⊢
  have product : q * (2 * d) = 2 * (d * q) := by ring
  split
  · rw [mul_neg, ← Nat.cast_mul]
    omega
  · rw [← Nat.cast_mul]
    omega

theorem roundDiv_one (n : Int) : roundDiv n 1 = n := by
  have := natAbs_sub_roundDiv_le n Nat.one_pos
  omega

theorem roundDiv_nonneg {n : Int} (d : Nat) (h : 0 ≤ n) : 0 ≤ roundDiv n d := by
  rw [roundDiv, if_neg (by omega)]
  exact Int.natCast_nonneg _

theorem clampInt_eq_self {lo hi x : Int} : clampInt lo hi x = x ↔ lo ≤ x ∧ x ≤ hi := by
  unfold clampInt
  split_ifs <;> omega

theorem clampInt_mem {lo hi : Int} (h : lo ≤ hi) (x : Int) : lo ≤ clampInt lo hi x ∧ clampInt lo hi x ≤ hi := by
  unfold clampInt
  split_ifs <;> omega

/-- Saturation brings no number farther from a number that needs none. -/
theorem natAbs_sub_satFmt_le {fmt : Nat} {x : Int} (h : satFmt fmt x = x) (c : Int) :
    (x - satFmt fmt c).natAbs ≤ (x - c).natAbs := by
  obtain ⟨low, high⟩ := clampInt_eq_self.mp h
  unfold satFmt clampInt
  split_ifs <;> omega

theorem signedOf_two {x : Int} (h : -2 ≤ x ∧ x ≤ 1) : signedOf 2 (x % 4).toNat = x := by
  obtain ⟨low, high⟩ := h
  interval_cases x <;> rfl

/-- The low byte of a number in the range of UINT8 or INT8 is its code. -/
theorem intCode_low_byte {fmt : Nat} {x : Int} (format : fmt = 0 ∨ fmt = 1) (h : satFmt fmt x = x) :
    intCode fmt (x % 256).toNat = x := by
  obtain ⟨low, high⟩ := clampInt_eq_self.mp h
  rcases format with rfl | rfl
  · simp only [intRange, intCode] at *
    omega
  · simp only [intRange, intCode, signedOf] at *
    split <;> omega

/-! ### Little-endian fields -/

theorem byteAt_leBytes_append {n k : Nat} (v : Nat) (l : List Byte) (h : k < n) :
    byteAt (leBytes n v ++ l) k = BitVec.ofNat 8 (v / 256 ^ k) := by
  induction n generalizing v k with
  | zero => omega
  | succ n ih =>
    cases k with
    | zero => simp [byteAt, leBytes]
    | succ k =>
      have tail := ih (v / 256) (k := k) (by omega)
      rw [Nat.div_div_eq_div_mul, ← Nat.pow_succ'] at tail
      exact tail

theorem length_leBytes (n v : Nat) : (leBytes n v).length = n := by
  induction n generalizing v with
  | zero => rfl
  | succ n ih => rw [leBytes, List.length_cons, ih]

theorem leNat_bytes (v i n : Nat) :
    leNat ((List.range n).map fun k => BitVec.ofNat 8 (v / 256 ^ (i + k))) = v / 256 ^ i % 256 ^ n := by
  induction n generalizing i with
  | zero => simp [leNat, Nat.mod_one]
  | succ n ih =>
    have rest : (List.range n).map ((fun k => BitVec.ofNat 8 (v / 256 ^ (i + k))) ∘ Nat.succ) =
        (List.range n).map fun k => BitVec.ofNat 8 (v / 256 ^ (i + 1 + k)) :=
      List.map_congr_left fun k _ => by rw [Function.comp_apply, Nat.succ_eq_add_one, Nat.add_assoc, Nat.add_comm 1 k]
    rw [List.range_succ_eq_map, List.map_cons, List.map_map, rest, leNat, ih, Nat.pow_succ' (n := n), Nat.mod_mul,
      Nat.div_div_eq_div_mul, ← Nat.pow_succ, BitVec.toNat_ofNat, Nat.add_zero]

theorem fieldNat_leBytes_append (v : Nat) (l : List Byte) {i n m : Nat} (h : i + m ≤ n) :
    fieldNat (leBytes n v ++ l) i m = v / 256 ^ i % 256 ^ m := by
  rw [← leNat_bytes, fieldNat]
  congr 1
  refine List.map_congr_left fun k hk => byteAt_leBytes_append v l ?_
  have := List.mem_range.mp hk
  omega

theorem fieldNat_append_leBytes {l : List Byte} {i : Nat} (h : l.length = i) (v n : Nat) :
    fieldNat (l ++ leBytes n v) i n = v % 256 ^ n := by
  have whole := fieldNat_leBytes_append v [] (i := 0) (n := n) (m := n) (by omega)
  rw [List.append_nil, Nat.pow_zero, Nat.div_one] at whole
  rw [← whole, fieldNat, fieldNat]
  congr 1
  refine List.map_congr_left fun k _ => ?_
  rw [byteAt, byteAt, List.getD_append_right _ _ _ _ (by omega), h]
  congr 1
  omega

/-! ### Fields of equal width, packed from bit 0 upwards -/

/-- The number that holds n fields of w bits, field j at bit w · j. -/
def packFields (w : Nat) (f : Nat → Nat) (n : Nat) : Nat := (List.range n).foldl (fun acc j => acc + f j * 2 ^ (w * j)) 0

theorem packFields_succ (w : Nat) (f : Nat → Nat) (n : Nat) :
    packFields w f (n + 1) = packFields w f n + f n * 2 ^ (w * n) := by
  rw [packFields, List.range_succ, List.foldl_append]
  rfl

theorem packFields_congr (w : Nat) {f g : Nat → Nat} {n : Nat} (h : ∀ j < n, f j = g j) :
    packFields w f n = packFields w g n :=
  List.foldl_ext _ _ _ fun _ j hj => by rw [h j (List.mem_range.mp hj)]

section
variable {w n : Nat} {f : Nat → Nat}

theorem packFields_lt (h : ∀ j < n, f j < 2 ^ w) : packFields w f n < 2 ^ (w * n) := by
  induction n with
  | zero => simp [packFields]
  | succ n ih =>
    have lower := ih fun j hj => h j (by omega)
    calc packFields w f (n + 1)
      _ < 2 ^ (w * n) + f n * 2 ^ (w * n) := by rw [packFields_succ]; omega
      _ = (f n + 1) * 2 ^ (w * n) := by ring
      _ ≤ 2 ^ w * 2 ^ (w * n) := Nat.mul_le_mul_right _ (h n (by omega))
      _ = 2 ^ (w * (n + 1)) := by rw [← Nat.pow_add, Nat.mul_succ, Nat.add_comm]

theorem packFields_field (h : ∀ j < n, f j < 2 ^ w) {j : Nat} (hj : j < n) :
    packFields w f n / 2 ^ (w * j) % 2 ^ w = f j := by
  induction n with
  | zero => omega
  | succ n ih =>
    have lower (i : Nat) (hi : i < n) : f i < 2 ^ w := h i (by omega)
    rw [packFields_succ]
    rcases Nat.lt_succ_iff_lt_or_eq.mp hj with below | rfl
    · obtain ⟨k, rfl⟩ := Nat.exists_eq_add_of_lt below
      have higher : 2 ^ (w * (j + k + 1)) = 2 ^ (w * j) * (2 ^ w * 2 ^ (w * k)) := by ring
      rw [higher, Nat.mul_left_comm, Nat.add_mul_div_left _ _ (Nat.two_pow_pos _), Nat.mul_left_comm,
        Nat.add_mul_mod_self_left, ih lower below]
    · rw [Nat.add_mul_div_right _ _ (Nat.two_pow_pos _), Nat.div_eq_of_lt (packFields_lt lower), Nat.zero_add,
        Nat.mod_eq_of_lt (h j hj)]
end

/-! ### Planes and their cells -/

/-- A plane of R291: 64 values in the range of UINT8 or INT8. -/
structure IsPlane (fmt : Nat) (v : List Int) : Prop where
  format : fmt = 0 ∨ fmt = 1
  length : v.length = 64
  inRange : ∀ x ∈ v, satFmt fmt x = x

/-- The scale of the means (R291): 1 where the values span more than seven bits. -/
def planeScale (v : List Int) : Nat := if maxInt v - minInt v > 127 then 1 else 0

/-- The sum of the four values of a cell, whose first position is (x, y) = (2 (j mod 4), 2 (j / 4)). -/
def cellSum (v : List Int) (j : Nat) : Int :=
  let a := j / 4 * 16 + j % 4 * 2
  v.getD a 0 + v.getD (a + 1) 0 + v.getD (a + 8) 0 + v.getD (a + 9) 0

/-- The seven-bit mean of a cell, m[j] of R291. -/
def cellCode (v : List Int) (j : Nat) : Int :=
  min 127 (roundDiv (cellSum v j - 4 * minInt v) (4 * 2 ^ planeScale v))

/-- The reconstructed mean of a cell, chat[j] of R291. -/
def cellMean (fmt : Nat) (v : List Int) (j : Nat) : Int :=
  satFmt fmt (minInt v + cellCode v j * (2 ^ planeScale v : Nat))

/-- The two-bit code of a difference, e[i] of R291. -/
def diffCode (fmt : Nat) (v : List Int) (i : Nat) : Int :=
  clampInt (-2) 1 (roundDiv ((planeDiffs fmt v).getD i 0) (2 ^ planeShift (planeDiffs fmt v)))

theorem cellOf_lt {i : Nat} (h : i < 64) : cellOf i < 16 := by
  unfold cellOf
  omega

theorem positions_of_cell : ∀ j < 16, (List.range 64).filter (fun i => decide (cellOf i = j)) =
    [j / 4 * 16 + j % 4 * 2, j / 4 * 16 + j % 4 * 2 + 1, j / 4 * 16 + j % 4 * 2 + 8, j / 4 * 16 + j % 4 * 2 + 9] := by
  decide

/-- A value is one of the four of its cell, so it is no farther from their mean than three quarters of their span. -/
theorem natAbs_sub_cellSum_le {v : List Int} {i : Nat} (inPlane : i < 64) {lo hi : Int}
    (bounds : ∀ j < 64, cellOf j = cellOf i → lo ≤ v.getD j 0 ∧ v.getD j 0 ≤ hi) :
    ((4 * v.getD i 0 - cellSum v (cellOf i)).natAbs : Int) ≤ 3 * (hi - lo) := by
  have members := positions_of_cell (cellOf i) (cellOf_lt inPlane)
  have inCell {j : Nat} :
      j ∈ (List.range 64).filter (fun j => decide (cellOf j = cellOf i)) ↔ j < 64 ∧ cellOf j = cellOf i := by
    simp
  rw [members] at inCell
  generalize hp : cellOf i / 4 * 16 + cellOf i % 4 * 2 = a at inCell
  have bound {j : Nat} (hj : j ∈ [a, a + 1, a + 8, a + 9]) := bounds j (inCell.mp hj).1 (inCell.mp hj).2
  have first := bound (j := a) (by simp)
  have second := bound (j := a + 1) (by simp)
  have third := bound (j := a + 8) (by simp)
  have fourth := bound (j := a + 9) (by simp)
  have own := inCell.mpr ⟨inPlane, rfl⟩
  simp only [List.mem_cons, List.not_mem_nil, or_false] at own
  simp only [cellSum, hp]
  rcases own with rfl | rfl | rfl | rfl <;> omega

theorem planeMeans_eq (v : List Int) : planeMeans v (minInt v) (planeScale v) = (List.range 16).map (cellCode v) := by
  refine List.map_congr_left fun j hj => ?_
  simp only [positions_of_cell j (List.mem_range.mp hj), cellCode, cellSum, List.map_cons, List.map_nil, List.foldl_cons,
    List.foldl_nil, zero_add]

theorem getD_map_range {α : Type} (f : Nat → α) (d : α) {i n : Nat} (h : i < n) : ((List.range n).map f).getD i d = f i := by
  rw [List.getD_eq_getElem _ _ (by simpa using h), List.getElem_map, List.getElem_range]

theorem chat_cellCode (fmt : Nat) (v : List Int) {j : Nat} (h : j < 16) :
    chat fmt (minInt v) (planeScale v) ((List.range 16).map (cellCode v)) j = cellMean fmt v j := by
  rw [chat, cellMean, getD_map_range _ _ h]

theorem planeDiffs_getD (fmt : Nat) (v : List Int) {i : Nat} (h : i < 64) :
    (planeDiffs fmt v).getD i 0 = v.getD i 0 - cellMean fmt v (cellOf i) := by
  rw [← chat_cellCode fmt v (cellOf_lt h), ← planeMeans_eq]
  exact getD_map_range _ _ h

theorem getD_mem_planeDiffs (fmt : Nat) (v : List Int) {i : Nat} (h : i < 64) :
    (planeDiffs fmt v).getD i 0 ∈ planeDiffs fmt v := by
  rw [List.getD_eq_getElem _ _ (by simpa [planeDiffs] using h)]
  exact List.getElem_mem _

theorem planeShift_lt (d : List Int) : planeShift d < 8 := by
  unfold planeShift
  generalize search : List.find? _ (List.range 8) = found
  cases found with
  | none => decide
  | some r => exact List.mem_range.mp (List.mem_of_find?_eq_some search)

theorem diff_mem_of_planeShift_zero {d : List Int} (h : planeShift d = 0) {x : Int} (hx : x ∈ d) : -2 ≤ x ∧ x ≤ 1 := by
  unfold planeShift at h
  generalize search : List.find? _ (List.range 8) = found at h
  cases found with
  | none => contradiction
  | some r =>
    obtain rfl : r = 0 := h
    have holds := List.find?_some search
    simpa using List.all_eq_true.mp holds x hx

theorem diffCode_mem (fmt : Nat) (v : List Int) (i : Nat) : -2 ≤ diffCode fmt v i ∧ diffCode fmt v i ≤ 1 :=
  clampInt_mem (by decide) _

/-! ### The values of a plane -/

theorem minInt_spec {l : List Int} (h : l ≠ []) : minInt l ∈ l ∧ ∀ x ∈ l, minInt l ≤ x := by
  refine List.min?_eq_some_iff.mp ?_
  cases l with
  | nil => contradiction
  | cons x l => exact List.min?_cons'

theorem maxInt_spec {l : List Int} (h : l ≠ []) : maxInt l ∈ l ∧ ∀ x ∈ l, x ≤ maxInt l := by
  refine List.max?_eq_some_iff.mp ?_
  cases l with
  | nil => contradiction
  | cons x l => exact List.max?_cons'

namespace IsPlane
variable {fmt : Nat} {v : List Int}

theorem ne_nil (h : IsPlane fmt v) : v ≠ [] := List.ne_nil_of_length_pos (by rw [h.length]; decide)

theorem getD_mem (h : IsPlane fmt v) {i : Nat} (hi : i < 64) : v.getD i 0 ∈ v := by
  rw [List.getD_eq_getElem _ _ (by rw [h.length]; exact hi)]
  exact List.getElem_mem _

theorem inBounds (h : IsPlane fmt v) {i : Nat} (hi : i < 64) : minInt v ≤ v.getD i 0 ∧ v.getD i 0 ≤ maxInt v :=
  ⟨(minInt_spec h.ne_nil).2 _ (h.getD_mem hi), (maxInt_spec h.ne_nil).2 _ (h.getD_mem hi)⟩

theorem span_le (h : IsPlane fmt v) : maxInt v - minInt v ≤ 255 := by
  have low := (clampInt_eq_self.mp (h.inRange _ (minInt_spec h.ne_nil).1)).1
  have high := (clampInt_eq_self.mp (h.inRange _ (maxInt_spec h.ne_nil).1)).2
  rcases h.format with rfl | rfl <;> simp only [intRange] at low high <;> omega

theorem cellSum_mem (h : IsPlane fmt v) {j : Nat} (hj : j < 16) :
    0 ≤ cellSum v j - 4 * minInt v ∧ cellSum v j - 4 * minInt v ≤ 4 * (maxInt v - minInt v) := by
  have first := h.inBounds (i := j / 4 * 16 + j % 4 * 2) (by omega)
  have second := h.inBounds (i := j / 4 * 16 + j % 4 * 2 + 1) (by omega)
  have third := h.inBounds (i := j / 4 * 16 + j % 4 * 2 + 8) (by omega)
  have fourth := h.inBounds (i := j / 4 * 16 + j % 4 * 2 + 9) (by omega)
  dsimp only [cellSum]
  omega

theorem cellCode_mem (h : IsPlane fmt v) {j : Nat} (hj : j < 16) : 0 ≤ cellCode v j ∧ cellCode v j ≤ 127 := by
  have quotient := roundDiv_nonneg (4 * 2 ^ planeScale v) (h.cellSum_mem hj).1
  unfold cellCode
  omega

end IsPlane

/-! ### Unpacking what packing has written -/

/-- The header of a plane (R292). -/
def planeHead (two : Bool) (fmt : Nat) (v : List Int) : Nat :=
  (minInt v % 256).toNat + planeScale v * 256 + (if two then planeShift (planeDiffs fmt v) else 0) * 512

/-- The means of a plane, as packed (R292). -/
def packedMeans (v : List Int) : Nat := packFields 7 (fun j => (cellCode v j).toNat) 16

/-- The codes of the differences of a plane, as packed (R292). -/
def packedDiffs (fmt : Nat) (v : List Int) : Nat := packFields 2 (fun i => (diffCode fmt v i % 4).toNat) 64

theorem packPlane_eq (two : Bool) (fmt : Nat) (v : List Int) :
    packPlane two fmt v = leBytes 16 (planeHead two fmt v + packedMeans v * 65536) ++
      if two then leBytes 16 (packedDiffs fmt v) else [] := by
  have means : packedMeans v =
      packFields 7 (fun j => ((planeMeans v (minInt v) (planeScale v)).getD j 0).toNat) 16 :=
    packFields_congr 7 fun j hj => by
      rw [planeMeans_eq, getD_map_range _ _ hj]
  rw [means]
  rfl

theorem planeScale_le (v : List Int) : planeScale v ≤ 1 := by
  unfold planeScale
  split <;> decide

theorem planeHead_fields (two : Bool) (fmt : Nat) (v : List Int) : planeHead two fmt v < 65536 ∧
    planeHead two fmt v % 256 = (minInt v % 256).toNat ∧ planeHead two fmt v / 256 % 2 = planeScale v ∧
    planeHead two fmt v / 512 % 8 = if two then planeShift (planeDiffs fmt v) else 0 := by
  have scale := planeScale_le v
  have shift : (if two then planeShift (planeDiffs fmt v) else 0) < 8 := by
    split
    · exact planeShift_lt _
    · decide
  unfold planeHead
  omega

theorem packedDiffs_fields (fmt : Nat) (v : List Int) : packedDiffs fmt v < 256 ^ 16 ∧
    ∀ i < 64, signedOf 2 (packedDiffs fmt v / 2 ^ (2 * i)) = diffCode fmt v i := by
  have small (i : Nat) (_ : i < 64) : (diffCode fmt v i % 4).toNat < 2 ^ 2 := by omega
  refine ⟨packFields_lt small, fun i hi => ?_⟩
  have field := packFields_field small hi
  have reduced (n : Nat) : signedOf 2 n = signedOf 2 (n % 2 ^ 2) := by rw [signedOf, signedOf, Nat.mod_mod]
  rw [reduced]
  exact (congrArg (signedOf 2) field).trans (signedOf_two (diffCode_mem fmt v i))

namespace IsPlane
variable {fmt : Nat} {v : List Int}

theorem packedMeans_fields (h : IsPlane fmt v) : packedMeans v < 256 ^ 14 ∧
    (List.range 16).map (fun j => ((packedMeans v / 2 ^ (7 * j) % 128 : Nat) : Int)) = (List.range 16).map (cellCode v) := by
  have small (j : Nat) (hj : j < 16) : (cellCode v j).toNat < 2 ^ 7 := by
    have := (h.cellCode_mem hj).2
    omega
  refine ⟨packFields_lt small, List.map_congr_left fun j hj => ?_⟩
  have hj := List.mem_range.mp hj
  exact (congrArg Nat.cast (packFields_field small hj)).trans (Int.toNat_of_nonneg (h.cellCode_mem hj).1)

/-- Reconstruction (R293), from the values that compression has derived (R291). -/
theorem unpackPlane_packPlane (h : IsPlane fmt v) (two : Bool) :
    unpackPlane two fmt (packPlane two fmt v) = (List.range 64).map fun i =>
      if two then satFmt fmt (cellMean fmt v (cellOf i) + diffCode fmt v i * (2 ^ planeShift (planeDiffs fmt v) : Nat))
      else cellMean fmt v (cellOf i) := by
  obtain ⟨headSmall, low, scale, shift⟩ := planeHead_fields two fmt v
  obtain ⟨meansSmall, means⟩ := h.packedMeans_fields
  obtain ⟨diffsSmall, diffs⟩ := packedDiffs_fields fmt v
  have headField : fieldNat (packPlane two fmt v) 0 2 = planeHead two fmt v := by
    rw [packPlane_eq, fieldNat_leBytes_append _ _ (by decide)]
    omega
  have meansField : fieldNat (packPlane two fmt v) 2 14 = packedMeans v := by
    rw [packPlane_eq, fieldNat_leBytes_append _ _ (by decide)]
    omega
  have first : intCode fmt (minInt v % 256).toNat = minInt v :=
    intCode_low_byte h.format (h.inRange _ (minInt_spec h.ne_nil).1)
  unfold unpackPlane
  simp only [headField, meansField, low, scale, shift, means, first]
  refine List.map_congr_left fun i hi => ?_
  have hi := List.mem_range.mp hi
  rw [chat_cellCode fmt v (cellOf_lt hi)]
  cases two with
  | false => rfl
  | true =>
    have diffsField : fieldNat (packPlane true fmt v) 16 16 = packedDiffs fmt v := by
      rw [packPlane_eq, if_pos rfl, fieldNat_append_leBytes (length_leBytes ..), Nat.mod_eq_of_lt diffsSmall]
    simp only [diffsField, diffs i hi, if_true]

theorem getD_unpackPlane_packPlane (h : IsPlane fmt v) (two : Bool) {i : Nat} (hi : i < 64) :
    (unpackPlane two fmt (packPlane two fmt v)).getD i 0 =
      if two then satFmt fmt (cellMean fmt v (cellOf i) + diffCode fmt v i * (2 ^ planeShift (planeDiffs fmt v) : Nat))
      else cellMean fmt v (cellOf i) := by
  rw [h.unpackPlane_packPlane, getD_map_range _ _ hi]

/-! ### The bounds of R294 -/

/-- The mean of a cell is coded to at most 1, the code 127 of a mean of 127.5 included. -/
theorem natAbs_cellSum_sub_le (h : IsPlane fmt v) {j : Nat} (hj : j < 16) :
    (cellSum v j - 4 * (minInt v + cellCode v j * (2 ^ planeScale v : Nat))).natAbs ≤ 4 := by
  have sum := h.cellSum_mem hj
  have span := h.span_le
  have rounding := natAbs_sub_roundDiv_le (cellSum v j - 4 * minInt v) (d := 4 * 2 ^ planeScale v) (by positivity)
  unfold cellCode
  generalize roundDiv (cellSum v j - 4 * minInt v) (4 * 2 ^ planeScale v) = q at rounding ⊢
  unfold planeScale at rounding ⊢
  split_ifs at rounding ⊢ <;> push_cast at rounding ⊢ <;> omega

/-- The bound of R294 at 4:1. -/
theorem natAbs_error_four_to_one_le (h : IsPlane fmt v) {i : Nat} (inPlane : i < 64) {lo hi : Int}
    (bounds : ∀ j < 64, cellOf j = cellOf i → lo ≤ v.getD j 0 ∧ v.getD j 0 ≤ hi) :
    4 * (v.getD i 0 - (unpackPlane false fmt (packPlane false fmt v)).getD i 0).natAbs ≤ (3 * (hi - lo) + 4).toNat := by
  have fromMean := natAbs_sub_cellSum_le inPlane bounds
  have coding := h.natAbs_cellSum_sub_le (cellOf_lt inPlane)
  have saturation := natAbs_sub_satFmt_le (h.inRange _ (h.getD_mem inPlane))
    (minInt v + cellCode v (cellOf i) * (2 ^ planeScale v : Nat))
  rw [h.getD_unpackPlane_packPlane false inPlane, if_neg (by decide), cellMean]
  omega

/-- The bound of R294 at 2:1: a difference whose quotient needs no clamp leaves half of its divisor. -/
theorem natAbs_error_two_to_one_le (h : IsPlane fmt v) {i : Nat} (hi : i < 64) {r : Nat}
    (shift : planeShift (planeDiffs fmt v) = r)
    (unclamped : ∀ d ∈ planeDiffs fmt v, -2 ≤ roundDiv d (2 ^ r) ∧ roundDiv d (2 ^ r) ≤ 1) :
    2 * (v.getD i 0 - (unpackPlane true fmt (packPlane true fmt v)).getD i 0).natAbs ≤ 2 ^ r := by
  have rounding := natAbs_sub_roundDiv_le ((planeDiffs fmt v).getD i 0) (Nat.two_pow_pos r)
  have code : diffCode fmt v i = roundDiv ((planeDiffs fmt v).getD i 0) (2 ^ r) := by
    rw [diffCode, shift, clampInt_eq_self.mpr (unclamped _ (getD_mem_planeDiffs fmt v hi))]
  have saturation := natAbs_sub_satFmt_le (h.inRange _ (h.getD_mem hi))
    (cellMean fmt v (cellOf i) + diffCode fmt v i * (2 ^ r : Nat))
  rw [← code, planeDiffs_getD fmt v hi, Int.sub_sub, mul_comm _ (diffCode fmt v i)] at rounding
  rw [h.getD_unpackPlane_packPlane true hi, if_pos rfl, shift]
  omega

/-- The exact case of R294: with RSHIFT 0 the codes are the differences themselves. -/
theorem unpackPlane_packPlane_of_planeShift_zero (h : IsPlane fmt v) (shift : planeShift (planeDiffs fmt v) = 0) :
    unpackPlane true fmt (packPlane true fmt v) = v := by
  have unclamped (d : Int) (hd : d ∈ planeDiffs fmt v) : -2 ≤ roundDiv d (2 ^ 0) ∧ roundDiv d (2 ^ 0) ≤ 1 := by
    rw [Nat.pow_zero, roundDiv_one]
    exact diff_mem_of_planeShift_zero shift hd
  have length : (unpackPlane true fmt (packPlane true fmt v)).length = 64 := by
    rw [h.unpackPlane_packPlane, List.length_map, List.length_range]
  refine List.ext_getElem (length.trans h.length.symm) fun i hi hi' => ?_
  have error := h.natAbs_error_two_to_one_le (length ▸ hi) shift unclamped
  rw [List.getD_eq_getElem _ _ hi, List.getD_eq_getElem _ _ hi'] at error
  omega

end IsPlane

/-- Settles O59: what unpacking gives back is compared with the values, at 4:1 through the mean of the cell, at 2:1 through the
rounded quotient of the difference. -/
theorem compressionErrorIsBounded : Obligations.CompressionErrorIsBounded := by
  unfold Obligations.CompressionErrorIsBounded
  refine ⟨fun fmt v i k l format length inRange hi _ _ _ _ bounds => ?_, fun fmt v format length inRange shift => ?_,
    fun fmt v i r format length inRange hi shift unclamped => ?_⟩
  · exact IsPlane.natAbs_error_four_to_one_le ⟨format, length, inRange⟩ hi bounds
  · exact IsPlane.unpackPlane_packPlane_of_planeShift_zero ⟨format, length, inRange⟩ shift
  · have error := IsPlane.natAbs_error_two_to_one_le ⟨format, length, inRange⟩ hi shift unclamped
    rw [Nat.pow_succ'] at error
    exact Nat.le_of_mul_le_mul_left error Nat.two_pos

end Sys2Proof.Machine
end

section
/-! PROOF. Refutation of `Obligations.IntakeAndCodecRun`, in its clause of a twinned Intake command whose two runs differ. Like the
clause of the Window engine, it names the phase of `endPhase` (R470) and does not ask that the commands of the queue differ in their
sequence numbers: with 64 held corks of the number of the command that fails, the corks become due with it, none is held any more,
and the sweep that follows ends the command at once. -/

namespace Sys2Proof.Machine

/-- The running ENGINE command of `withSharedNumber` waits at the Intake: `emptyWindowJob`, whose parameters give a batch of no
samples there. -/
def sharedNumberAtIntake : State := (withSharedNumber 2).updEngine 4 fun e => { e with waiting := [emptyWindowJob] }

/-- A batch of no samples meets no fault. -/
theorem batchOf_sharedNumberAtIntake : (batchOf sharedNumberAtIntake emptyWindowJob).2.2 = none := by decide +kernel

/-- The two runs differ: the running command has ended with TWIN_MISMATCH. -/
theorem intakeMismatch_ends :
    phaseAfter (exec (.intake true nothingReported) sharedNumberAtIntake) 0 0 =
      some (.ended 0x25 (stopTwinEngine 4).data) := by decide +kernel

/-- Refutes O35, in the clause of a twinned Intake command: at `sharedNumberAtIntake` the command whose two runs differ has ended, and
is not due as `EngineFailed` says. -/
theorem not_intakeAndCodecRun : ¬ Obligations.IntakeAndCodecRun := by
  rintro ⟨-, mismatch, -⟩
  have queue : sharedNumberAtIntake.queue 0 = sharedNumber 2 := queue_updQueue _ _ _
  obtain ⟨t, step, ⟨-, -, failed⟩, -⟩ :=
    mismatch sharedNumberAtIntake true nothingReported emptyWindowJob rfl (by decide) rfl batchOf_sharedNumberAtIntake
  have ended := intakeMismatch_ends
  rw [step, phaseAfter_nothingReported] at ended
  have running := cmd_of_sharedNumber queue
  exact phase_ne_endPhase queue ended ((failed _ running rfl).2 (.inl (by decide)))

end Sys2Proof.Machine
end

section
/-! PROOF. The maintenance of memory changes no data (R391), and the refutation of MemoryFaultsKill. That statement names the
phase that the end of a command brings (`endPhase`, R470), and like those before it that do so it speaks of queues whose commands
share a sequence number, which no queue filled through its ring has (R455). -/

namespace Sys2Proof.Machine

/-! ### Maintenance and data -/

/-- What the memories and the presses of the device hold. -/
def contents (s : State) : Mem × Cellar × HostPort × Vector Press 16 := (s.dram, s.cellar, s.port, s.presses)

section
variable (s : State)

theorem contents_stepCalibration (ch : Fin 16) (margin : Byte) : contents (stepCalibration ch margin s) = contents s := by
  unfold stepCalibration
  dsimp only
  split
  · rfl
  split
  · rfl
  split <;> rfl

theorem contents_stepTrainingSave (values : List Byte) : contents (stepTrainingSave values s) = contents s := by
  unfold stepTrainingSave
  split <;> rfl

theorem contents_stepRetrainDone (ch : Fin 16) (values : List Byte) : contents (stepRetrainDone ch values s) = contents s := by
  unfold stepRetrainDone
  split <;> rfl

/-- A command whose step keeps the data of the device. -/
theorem answer_contents {f : State → State} (h : contents (f s) = contents s) :
    ∃ t, answer f s = .next t ∧ t.dram = s.dram ∧ t.cellar = s.cellar ∧ t.port = s.port ∧ t.presses = s.presses := by
  simp only [contents, Prod.mk.injEq] at h
  exact ⟨_, answer_eq f s, h⟩

end

/-- Settles O57: the step of each command keeps the data. -/
theorem maintenanceNeverChangesData : Obligations.MaintenanceNeverChangesData :=
  ⟨fun s ch m => answer_contents s (contents_stepCalibration s ch m),
    fun s v => answer_contents s (contents_stepTrainingSave s v),
    fun s ch v => answer_contents s (contents_stepRetrainDone s ch v), fun s _ _ => answer_contents s rfl⟩

/-! ### A fault of a command whose number 64 held corks have -/

/-- At `withSharedNumber 2` no page is mapped. -/
theorem translate_withSharedNumber : translate (withSharedNumber 2) ((withSharedNumber 2).parcelOf 0) .read 0 = .error 0 := by
  decide +kernel

/-- The Window engine has read an unmapped page for the running command, an ENGINE command: it has ended. -/
theorem translationFault_ends :
    phaseAfter (exec (.translationFault 0 0 0 .read 0x10) (withSharedNumber 2)) 0 0 =
      some (.ended 0x20 (faultWord 0 0 0 0x10)) := by decide +kernel

/-- Refutes O36, in the clause of an access that the table does not allow: at `withSharedNumber 2` the command whose access faults
has ended, and is not due as `Failed` says. -/
theorem not_memoryFaultsKill : ¬ Obligations.MemoryFaultsKill := by
  rintro ⟨-, -, -, fault, -⟩
  have queue : (withSharedNumber 2).queue 0 = sharedNumber 2 := queue_updQueue _ _ _
  obtain ⟨t, step, -, -, -, -, failed, -⟩ :=
    fault (withSharedNumber 2) 0 0 0 .read 0x10 0 rfl translate_withSharedNumber (by decide)
  have running := cmd_of_sharedNumber queue
  exact phase_ne_endPhase queue (step ▸ translationFault_ends) ((failed (by simp) _ running rfl).2 (.inl (by decide)))

end Sys2Proof.Machine
end

section
/-! PROOF. The upkeep of memory, MemoryIsMaintained: the rows of the PHY loops and of the training values, what firmware's reports
leave (`unreported`), and the migration of a retired page. -/

namespace Sys2Proof.Machine

/-! ### Counts, margins and training values -/

section
variable {s : State} {ch : Fin 16}

theorem channels_updChannel (f : Channel → Channel) :
    vget (s.updChannel ch f).memctl.channels ch = f (vget s.memctl.channels ch) := vget_vupd_self ..

theorem channels_updChannel_ne {i : Fin 16} (f : Channel → Channel) (h : i ≠ ch) :
    vget (s.updChannel ch f).memctl.channels i = vget s.memctl.channels i := vget_vupd_ne _ _ h.symm

theorem odeccPoll_adds {counts : List Nat} (runs : hartsRun s = true) (len : counts.length = 16) :
    ∃ t, exec (.odeccPoll counts) s = .next t ∧ (∀ i : Fin 16, vget t.memctl.channels i = { vget s.memctl.channels i with
      odecc := satInc (vget s.memctl.channels i).odecc (counts.getD i.val 0) }) ∧ t = { s with memctl := t.memctl } := by
  refine ⟨_, answerIf_of (decide_eq_true len) .., ?_⟩
  simp only [stepOdecc, if_pos runs, vget_vmap, implies_true, true_and]

theorem odeccPoll_idle {counts : List Nat} (stopped : hartsRun s = false) (len : counts.length = 16) :
    exec (.odeccPoll counts) s = .next s := by
  refine (answerIf_of (decide_eq_true len) ..).trans ?_
  rw [stepOdecc, if_neg (by simp [stopped])]

/-- The device after a calibration step that has found a margin. -/
def calibrated (ch : Fin 16) (margin : Byte) (s : State) : State :=
  if margin.toNat < (vget s.memctl.channels ch).marginMin.toNat then
    setTimingBroken (s.updChannel ch fun c => { c with margin := margin, retraining := true, retrains := satInc c.retrains 1 })
  else s.updChannel ch fun c => { c with margin := margin }

theorem stepCalibration_serving {m : Byte} (trained : s.memctl.trained = true) (safe : s.safety.safe = false)
    (serving : (vget s.memctl.channels ch).retraining = false) : stepCalibration ch m s = calibrated ch m s := by
  simp [stepCalibration, calibrated, trained, safe, serving]

theorem phyCalibrationStep_reports {m : Byte} (trained : s.memctl.trained = true) (safe : s.safety.safe = false)
    (serving : (vget s.memctl.channels ch).retraining = false) : ∃ t, exec (.phyCalibrationStep ch m) s = .next t ∧
    (vget t.memctl.channels ch).margin = m ∧
    (vget t.memctl.channels ch).retraining = decide (m.toNat < (vget s.memctl.channels ch).marginMin.toNat) ∧
    t.vine.timingBroken = (s.vine.timingBroken || decide (m.toNat < (vget s.memctl.channels ch).marginMin.toNat)) ∧
    (∀ i : Fin 16, i ≠ ch → vget t.memctl.channels i = vget s.memctl.channels i) ∧
    t = { s with memctl := t.memctl, vine := { s.vine with timingBroken := t.vine.timingBroken } } := by
  refine ⟨_, answer_eq .., ?_⟩
  rw [stepCalibration_serving trained safe serving, calibrated]
  by_cases low : m.toNat < (vget s.memctl.channels ch).marginMin.toNat
  · simp only [if_pos low, decide_eq_true low, Bool.or_true, setTimingBroken, channels_updChannel, true_and]
    exact ⟨fun i other => channels_updChannel_ne _ other, rfl⟩
  · simp only [if_neg low, decide_eq_false low, Bool.or_false, channels_updChannel, true_and]
    exact ⟨serving, rfl, fun i other => channels_updChannel_ne _ other, rfl⟩

theorem phyCalibrationStep_idle {m : Byte} (idle : s.memctl.trained = false ∨ s.safety.safe = true ∨
    (vget s.memctl.channels ch).retraining = true) : exec (.phyCalibrationStep ch m) s = .next s := by
  refine (answer_eq ..).trans ?_
  rcases idle with h | h | h <;> simp [stepCalibration, h]

theorem fastRetrainDone_saves {v : List Byte} (waits : (vget s.memctl.channels ch).retraining = true) :
    ∃ t, exec (.fastRetrainDone ch v) s = .next t ∧
    (vget t.memctl.channels ch).retraining = false ∧ t.memctl.training = v ∧
    t.flash = (if hartsRun s then { s.flash with training := v, trainingRate := s.memctl.rate } else s.flash) ∧
    t = { s with memctl := t.memctl, flash := t.flash } := by
  refine ⟨_, answer_eq .., ?_⟩
  rw [stepRetrainDone, if_pos waits]
  exact ⟨congrArg Channel.retraining (channels_updChannel _), rfl, rfl, rfl⟩

theorem fastRetrainDone_idle {v : List Byte} (serving : (vget s.memctl.channels ch).retraining = false) :
    exec (.fastRetrainDone ch v) s = .next s := by
  refine (answer_eq ..).trans ?_
  rw [stepRetrainDone, if_neg (by simp [serving])]

theorem trainingValueSave_saves {v : List Byte} (trained : s.memctl.trained = true) (runs : hartsRun s = true) :
    ∃ t, exec (.trainingValueSave v) s = .next t ∧ t.flash.training = v ∧ t.memctl.training = v ∧
    t = { s with memctl := { s.memctl with training := v },
                 flash := { s.flash with training := v, trainingRate := s.memctl.rate } } := by
  refine ⟨_, answer_eq .., ?_⟩
  rw [stepTrainingSave, if_pos (by simp [trained, runs]), saveTraining, if_pos runs]
  exact ⟨rfl, rfl, rfl⟩

theorem trainingValueSave_idle {v : List Byte} (idle : s.memctl.trained = false ∨ hartsRun s = false) :
    exec (.trainingValueSave v) s = .next s := by
  refine (answer_eq ..).trans ?_
  rw [stepTrainingSave, if_neg (by rcases idle with h | h <;> simp [h])]

theorem dramTemperatureRead_shows {r : Fin 2} {code : Byte} (trained : s.memctl.trained = true) :
    ∃ t, exec (.dramTemperatureRead ch r code) s = .next t ∧ vget (vget t.memctl.channels ch).temps r = code ∧
    (∀ i : Fin 16, i ≠ ch → vget t.memctl.channels i = vget s.memctl.channels i) ∧ t = { s with memctl := t.memctl } := by
  refine ⟨_, answer_eq .., ?_⟩
  rw [stepDramTemperature, if_pos trained]
  refine ⟨?_, fun i other => channels_updChannel_ne _ other, rfl⟩
  exact (congrArg (fun c : Channel => vget c.temps r) (channels_updChannel _)).trans (vget_vset_self ..)

theorem dramTemperatureRead_idle {r : Fin 2} {code : Byte} (untrained : s.memctl.trained = false) :
    exec (.dramTemperatureRead ch r code) s = .next s := by
  refine (answer_eq ..).trans ?_
  rw [stepDramTemperature, if_neg (by simp [untrained])]

end

/-! ### Values by key -/

theorem lookupKey_putKey {α : Type} (l : List (Nat × α)) (k j : Nat) (x : α) :
    lookupKey (putKey l k x) j = if k = j then some x else lookupKey l j := by
  induction l with
  | nil => rfl
  | cons c rest ih =>
    unfold putKey
    split
    · rfl
    · split
      · next same =>
        subst same
        simp only [lookupKey]
        split <;> rfl
      · next other =>
        simp only [lookupKey, ih]
        split
        · next found => rw [if_neg fun h => other (found.trans h.symm)]
        · rfl

/-! ### What firmware's reports leave -/

/-- The device without its host port, firmware's mailboxes, the log and the number of the next free value: no report of firmware
changes any of it. -/
def unreported (s : State) : State :=
  { s with port := State.reset.port, fw := State.reset.fw, diag := State.reset.diag, freeCtr := 0 }

theorem unreported_of_unmailed {s t : State} (h : unmailed t = unmailed s) : unreported t = unreported s := by
  have parts := congrArg (fun x => { x.1 with diag := State.reset.diag, freeCtr := 0 }) h
  exact parts

theorem unreported_fwEvent (s : State) (typ : Nat) (payload : List Byte) :
    unreported (fwEvent typ payload s) = unreported s := by
  unfold fwEvent
  split
  · exact unreported_of_unmailed (unmailed_putOut ..)
  · rw [logEvent_only]
    refine (unreported_of_unmailed (t := syncOut 0 _) (s := s) ?_ :)
    exact unmailed_syncOutWith { s with fw := { s.fw with eventsLost := satInc s.fw.eventsLost 1 } } 0 none

theorem unreported_reportRetired (fuel ppn : Nat) (vpn : Option Nat) (parcel : Option (Fin 8)) (kind : Nat) (hs : List Nat)
    (s : State) : unreported (reportRetired fuel ppn vpn parcel kind hs s) = unreported s := by
  induction fuel generalizing s hs with
  | zero => rfl
  | succ fuel ih =>
    unfold reportRetired
    dsimp only
    split
    · exact unreported_fwEvent ..
    · exact (ih ..).trans (unreported_fwEvent ..)

theorem unreported_sendRetired (ppn : Nat) (vpn : Option Nat) (parcel : Option (Fin 8)) (kind : Nat) (hs : List Nat) (s : State) :
    unreported (sendRetired ppn vpn parcel kind hs s) = unreported s := unreported_reportRetired ..

/-! ### Poisoned objects -/

theorem updObject_only (s : State) (h : Nat) (f : Obj → Obj) :
    s.updObject h f = { s with objects := (s.updObject h f).objects } := by
  unfold State.updObject
  split <;> rfl

theorem object_updObject (s : State) (h x : Nat) (f : Obj → Obj) :
    (s.updObject h f).object x = if h = x then (s.object h).map f else s.object x := by
  unfold State.updObject
  split
  · next absent =>
    split
    · next same => rw [← same, absent]; rfl
    · rfl
  · next found =>
    rw [found]
    exact lookupKey_putKey ..

theorem poisonAll_only (hs : List Nat) (s : State) : poisonAll hs s = { s with objects := (poisonAll hs s).objects } :=
  foldState_keeps (fun t => t = { s with objects := t.objects }) _ hs (fun h t ht => by rw [updObject_only, ht]) s rfl

/-- A handle names no object that is not poisoned. -/
def PoisonedAt (x : Nat) (s : State) : Prop := ∀ o, s.object x = some o → o.poisoned = true

theorem PoisonedAt.updObject {x : Nat} {s : State} (h : PoisonedAt x s) (k : Nat) :
    PoisonedAt x (s.updObject k fun o => { o with poisoned := true }) := by
  intro o ho
  rw [object_updObject] at ho
  split at ho
  · obtain ⟨-, -, rfl⟩ := Option.map_eq_some_iff.1 ho
    rfl
  · exact h o ho

theorem poisonedAt_updObject (x : Nat) (s : State) : PoisonedAt x (s.updObject x fun o => { o with poisoned := true }) := by
  intro o ho
  rw [object_updObject, if_pos rfl] at ho
  obtain ⟨-, -, rfl⟩ := Option.map_eq_some_iff.1 ho
  rfl

theorem poisonedAt_poisonAll {hs : List Nat} {x : Nat} {s : State} (h : x ∈ hs ∨ PoisonedAt x s) :
    PoisonedAt x (poisonAll hs s) := by
  induction hs generalizing s with
  | nil => exact h.resolve_left List.not_mem_nil
  | cons k rest ih =>
    refine ih ?_
    rcases h with mem | poisoned
    · rcases List.mem_cons.1 mem with rfl | later
      · exact .inr (poisonedAt_updObject x s)
      · exact .inl later
    · exact .inr (poisoned.updObject k)

/-! ### The bytes of a page -/

theorem Mem.readBytes_add (m : Mem) (a n k : Nat) : m.readBytes a (n + k) = m.readBytes a n ++ m.readBytes (a + n) k := by
  simp only [Mem.readBytes_eq, List.range_add, List.map_append, List.map_map, Function.comp_def, Nat.add_assoc]

/-- Blocks read one after another are the range that they make up. -/
theorem Mem.readBytes_blocks (m : Mem) (a n k : Nat) :
    (List.range k).flatMap (fun b => m.readBytes (a + n * b) n) = m.readBytes a (n * k) := by
  induction k with
  | zero => rfl
  | succ k ih => rw [List.range_succ, List.flatMap_append, ih, Nat.mul_succ, Mem.readBytes_add, List.flatMap_singleton]

theorem length_migratedBytes (s : State) (ppn : Nat) : (migratedBytes s ppn).length = 16384 := by
  have block (b : Nat) : (if s.mmu.badBlocks.contains (ppn * 256 + b) then List.replicate 64 (0 : Byte)
      else s.dram.readBytes (ppn * 16384 + 64 * b) 64).length = 64 := by
    split
    · exact List.length_replicate
    · exact Mem.length_readBytes ..
  simp only [migratedBytes, List.length_flatMap, block, List.map_const', List.length_range, List.sum_replicate, smul_eq_mul]

/-- A page without an uncorrectable block migrates exactly (R385). -/
theorem migratedBytes_exact {s : State} {ppn : Nat} (h : ∀ b ∈ s.mmu.badBlocks, b / 256 ≠ ppn) :
    migratedBytes s ppn = s.dram.readBytes (ppn * 16384) 16384 := by
  refine Eq.trans ?_ (Mem.readBytes_blocks s.dram (ppn * 16384) 64 256)
  refine List.flatMap_congr fun b hb => if_neg fun bad => ?_
  have inside := List.mem_range.1 hb
  exact h _ (List.contains_iff_mem.1 bad) (by omega)

/-! ### PAGE_MIGRATION -/

section
variable {s : State} {vpn : BitVec 24} {h : ReadHealth}

/-- The retired page of an entry, which firmware is to migrate. -/
def Migrates (s : State) (e : TtEntry) : Prop :=
  e.valid = true ∧ e.retired = false ∧ s.mmu.retired.contains e.ppn.toNat = true ∧ s.safety.safe = false

theorem Migrates.acts {e : TtEntry} (due : Migrates s e) :
    (!e.valid || e.retired || !s.mmu.retired.contains e.ppn.toNat || s.safety.safe) = false := by
  obtain ⟨valid, live, retired, safe⟩ := due
  rw [valid, live, retired, safe]
  rfl

/-- The objects on a page that loses a block in its migration (R388). -/
def lost (s : State) (vpn old : Nat) : List Nat :=
  if s.mmu.badBlocks.any fun b => decide (b / 256 = old) then objectsOn s vpn else []

/-- The device once a page has moved: its bytes, and its entry (R385). -/
def pageMoved (s : State) (vpn : Nat) (e : TtEntry) (new : Nat) : State :=
  { (setTimingBroken s.bump) with
    dram := s.dram.writeBytes (new * 16384) (migratedBytes s e.ppn.toNat)
    mmu := { s.mmu with
      table := putKey s.mmu.table vpn { e with ppn := BitVec.ofNat 24 new }, spare := s.mmu.spare - 1 } }

/-- The device once the entry of a page has been set RETIRED (R386). -/
def entryRetired (s : State) (vpn : Nat) (e : TtEntry) : State :=
  { s with mmu := { s.mmu with table := putKey s.mmu.table vpn { e with retired := true } } }

theorem stepPageMigration_moves {new : Nat} (due : Migrates s (ttEntry s vpn.toNat)) (free : freePage s = some new) :
    unreported (stepPageMigration vpn s) = unreported (poisonAll (lost s vpn.toNat (ttEntry s vpn.toNat).ppn.toNat)
      (pageMoved s vpn.toNat (ttEntry s vpn.toNat) new)) := by
  simp only [stepPageMigration, due.acts, free, Bool.false_eq_true, if_false]
  exact unreported_sendRetired ..

theorem stepPageMigration_retires (due : Migrates s (ttEntry s vpn.toNat)) (none : freePage s = none) :
    unreported (stepPageMigration vpn s) =
      unreported (poisonAll (objectsOn s vpn.toNat) (entryRetired s vpn.toNat (ttEntry s vpn.toNat))) := by
  simp only [stepPageMigration, due.acts, none, Bool.false_eq_true, if_false]
  exact unreported_sendRetired ..

theorem stepPageMigration_idle (idle : (ttEntry s vpn.toNat).valid = false ∨ (ttEntry s vpn.toNat).retired = true ∨
    s.mmu.retired.contains (ttEntry s vpn.toNat).ppn.toNat = false ∨ s.safety.safe = true) : stepPageMigration vpn s = s := by
  rcases idle with h | h | h | h <;> simp only [stepPageMigration, h, Bool.not_false, Bool.true_or, Bool.or_true, if_true]

theorem ttEntry_putKey {t : State} {k : Nat} {e : TtEntry} (h : t.mmu.table = putKey s.mmu.table k e) : ttEntry t k = e := by
  rw [ttEntry, h, lookupKey_putKey, if_pos rfl]
  rfl

theorem pageMigration_moves {new : Nat} (due : Migrates s (ttEntry s vpn.toNat)) (free : freePage s = some new) :
    ∃ t, exec (.pageMigration vpn h) s = .next (noted h s t) ∧
    ttEntry t vpn.toNat = { ttEntry s vpn.toNat with ppn := BitVec.ofNat 24 new } ∧ t.vine.timingBroken = true ∧
    t.dram.readBytes (new * 16384) 16384 = migratedBytes s (ttEntry s vpn.toNat).ppn.toNat ∧
    (∀ a, a < new * 16384 ∨ new * 16384 + 16384 ≤ a → t.dram.read a = s.dram.read a) ∧
    ((∀ b ∈ s.mmu.badBlocks, b / 256 ≠ (ttEntry s vpn.toNat).ppn.toNat) → t.objects = s.objects ∧
      t.dram.readBytes (new * 16384) 16384 = s.dram.readBytes ((ttEntry s vpn.toNat).ppn.toNat * 16384) 16384) ∧
    ((∃ b ∈ s.mmu.badBlocks, b / 256 = (ttEntry s vpn.toNat).ppn.toNat) →
      ∀ x ∈ objectsOn s vpn.toNat, PoisonedAt x t) := by
  have left := stepPageMigration_moves due free
  refine ⟨stepPageMigration vpn s, rfl, ?_⟩
  generalize stepPageMigration vpn s = t at left ⊢
  have mmu : t.mmu = (pageMoved s vpn.toNat (ttEntry s vpn.toNat) new).mmu := by
    rw [poisonAll_only] at left
    exact (congrArg State.mmu left :)
  have vine : t.vine = (setTimingBroken s.bump).vine := by
    rw [poisonAll_only] at left
    exact (congrArg State.vine left :)
  have dram : t.dram = s.dram.writeBytes (new * 16384) (migratedBytes s (ttEntry s vpn.toNat).ppn.toNat) := by
    rw [poisonAll_only] at left
    exact (congrArg State.dram left :)
  have objects : t.objects = (poisonAll (lost s vpn.toNat (ttEntry s vpn.toNat).ppn.toNat)
      (pageMoved s vpn.toNat (ttEntry s vpn.toNat) new)).objects := (congrArg State.objects left :)
  have written : t.dram.readBytes (new * 16384) 16384 = migratedBytes s (ttEntry s vpn.toNat).ppn.toNat := by
    rw [dram]
    exact length_migratedBytes s _ ▸ Mem.readBytes_writeBytes ..
  refine ⟨ttEntry_putKey (congrArg Mmu.table mmu), by rw [vine]; rfl, written, fun a out => ?_, fun whole => ⟨?_, ?_⟩, ?_⟩
  · rw [dram, Mem.read_writeBytes_outside _ _ _ _ (by rwa [length_migratedBytes])]
  · have noneLost : lost s vpn.toNat (ttEntry s vpn.toNat).ppn.toNat = [] := if_neg (by simpa using whole)
    rw [objects, noneLost]
    rfl
  · rw [written, migratedBytes_exact whole]
  · intro bad x hx o ho
    have allLost : lost s vpn.toNat (ttEntry s vpn.toNat).ppn.toNat = objectsOn s vpn.toNat := if_pos (by simpa using bad)
    rw [State.object, objects, allLost] at ho
    exact poisonedAt_poisonAll (.inl hx) o ho

theorem pageMigration_retires (due : Migrates s (ttEntry s vpn.toNat)) (none : freePage s = none) :
    ∃ t, exec (.pageMigration vpn h) s = .next (noted h s t) ∧
    ttEntry t vpn.toNat = { ttEntry s vpn.toNat with retired := true } ∧ t.dram = s.dram ∧
    ∀ x ∈ objectsOn s vpn.toNat, PoisonedAt x t := by
  have left := stepPageMigration_retires due none
  refine ⟨stepPageMigration vpn s, rfl, ?_⟩
  generalize stepPageMigration vpn s = t at left ⊢
  have objects : t.objects = (poisonAll (objectsOn s vpn.toNat) (entryRetired s vpn.toNat (ttEntry s vpn.toNat))).objects :=
    (congrArg State.objects left :)
  rw [poisonAll_only] at left
  have mmu : t.mmu = (entryRetired s vpn.toNat (ttEntry s vpn.toNat)).mmu := (congrArg State.mmu left :)
  refine ⟨ttEntry_putKey (congrArg Mmu.table mmu), (congrArg State.dram left :), fun x hx o ho => ?_⟩
  rw [State.object, objects] at ho
  exact poisonedAt_poisonAll (.inl hx) o ho

end

/-- Settles O37: each clause by the lemma of its row. -/
theorem memoryIsMaintained : Obligations.MemoryIsMaintained := by
  unfold Obligations.MemoryIsMaintained
  refine ⟨fun s counts => odeccPoll_adds, fun s counts => odeccPoll_idle, fun s ch m => phyCalibrationStep_reports,
    fun s ch m => phyCalibrationStep_idle, fun s ch v => fastRetrainDone_saves, fun s ch v => fastRetrainDone_idle,
    fun s v => trainingValueSave_saves, fun s v => trainingValueSave_idle, fun s ch bank => rfl,
    fun s ch r code => dramTemperatureRead_shows, fun s ch r code => dramTemperatureRead_idle, ?_, ?_, ?_⟩
  · rintro s vpn h _ new rfl valid live retired safe free
    exact pageMigration_moves ⟨valid, live, retired, safe⟩ free
  · rintro s vpn h _ rfl valid live retired safe none
    exact pageMigration_retires ⟨valid, live, retired, safe⟩ none
  · intro s vpn h idle
    change Host.Outcome.next (noted h s (stepPageMigration vpn s)) = _
    rw [stepPageMigration_idle idle]

end Sys2Proof.Machine
end

section
/-! PROOF. Requests that firmware serves at once: what reading a request leaves, and the reply that is then written (`Answers`). -/

namespace Sys2Proof.Machine

/-! ### Ranges of a byte store -/

theorem Mem.readBytes_congr {m k : Mem} {a n : Nat} (h : ∀ x, a ≤ x → x < a + n → m.read x = k.read x) :
    m.readBytes a n = k.readBytes a n := by
  simp only [Mem.readBytes_eq]
  refine List.map_congr_left fun i hi => h _ (Nat.le_add_right ..) ?_
  have := List.mem_range.1 hi
  omega

theorem Mem.readBytes_writeBytes_outside (m : Mem) {a b n : Nat} {l : List Byte} (h : b + n ≤ a ∨ a + l.length ≤ b) :
    (m.writeBytes a l).readBytes b n = m.readBytes b n :=
  Mem.readBytes_congr fun x lo hi => Mem.read_writeBytes_outside _ _ _ _ (by omega)

/-- The first part of what is written reads back alone. -/
theorem Mem.readBytes_writeBytes_append (m : Mem) (a : Nat) (l k : List Byte) :
    (m.writeBytes a (l ++ k)).readBytes a l.length = l := by
  have whole := Mem.readBytes_writeBytes m a (l ++ k)
  rw [List.length_append, Mem.readBytes_add] at whole
  exact (List.append_inj whole (Mem.length_readBytes ..)).1

/-! ### Messages -/

theorem length_message (minor : Byte) (typ : Nat) (seq : Word) (payload : List Byte) :
    (message minor typ seq payload).length = 16 + payload.length := by
  simp only [message, List.length_append, List.length_cons, List.length_nil, length_leBytes]

section
variable (s : State) (p : Fin 8)

@[simp] theorem window_noteEcho (a n : Nat) (w : Option (BitVec 2)) : (noteEcho a n w s).port.window = s.port.window := by
  unfold noteEcho
  split <;> rfl

/-- The fields of the host port that `noteEcho` can change. -/
theorem noteEcho_pushes (a n : Nat) (w : Option (BitVec 2)) :
    noteEcho a n w s = { s with port := { s.port with pushes := (noteEcho a n w s).port.pushes } } := by
  unfold noteEcho
  split <;> rfl

@[simp] theorem window_raiseWire (w : BitVec 2) : (raiseWire w s).port.window = s.port.window := by
  unfold raiseWire
  split <;> rfl

@[simp] theorem window_mailWire : (mailWire p s).port.window = s.port.window := by
  unfold mailWire
  split
  · exact window_raiseWire ..
  · rfl

@[simp] theorem fw_mailWire : (mailWire p s).fw = s.fw := by
  unfold mailWire
  split
  · exact raiseWire_fw ..
  · rfl

@[simp] theorem fw_syncOutWith (event : Option (BitVec 2)) : (syncOutWith p event s).fw = s.fw := noteEcho_fw ..

/-- The bytes of the out control block of a pair (Table 15.2). -/
def outControl (s : State) (p : Fin 8) : List Byte :=
  leBytes 4 (s.pair p).inRead.toNat ++ leBytes 4 (s.pair p).outTail.toNat ++
    leBytes 4 (if p = 0 then s.fw.eventsLost.toNat else 0) ++ leBytes 1 (s.pair p).inSlot ++ leBytes 1 (s.pair p).outSlot

theorem length_outControl : (outControl s p).length = 14 := by
  simp only [outControl, List.length_append, length_leBytes]

@[simp] theorem window_syncOutWith (event : Option (BitVec 2)) :
    (syncOutWith p event s).port.window = s.port.window.writeBytes (outArea p) (outControl s p) := window_noteEcho ..

/-- A pair once a message has been written for it. -/
def Pair.wrote (x : Pair) : Pair := { x with outTail := x.outTail + 1, outSlot := nextSlot x.outSlot }

/-- The message that firmware writes for a pair: TYPE is the first two bytes of its body. -/
def messageOf (s : State) (p : Fin 8) (body : List Byte) : List Byte :=
  message s.fw.minor (fieldNat body 0 2) (s.pair p).outTail (body.drop 2)

theorem fw_writeOut (body : List Byte) : (writeOut p body s).fw = (s.updPair p Pair.wrote).fw := by
  unfold writeOut
  simp only [fw_mailWire, fw_syncOutWith, State.updPair, noteEcho_fw]
  rfl

/-- What a message that is written leaves of the window SRAM: the slot, and the control block. -/
theorem window_writeOut (body : List Byte) : ∃ block : List Byte, block.length = 14 ∧
    (writeOut p body s).port.window = (s.port.window.writeBytes (outArea p + 256 * (s.pair p).outSlot)
      (messageOf s p body ++ List.replicate (256 - (messageOf s p body).length) 0)).writeBytes (outArea p) block := by
  unfold writeOut
  simp only [window_mailWire, window_syncOutWith]
  exact ⟨_, length_outControl _ p, congrArg (fun m : Mem => m.writeBytes _ _) (window_noteEcho ..)⟩

end

section
variable {s : State} {p : Fin 8}

theorem updPair_id {f : Pair → Pair} (h : f (s.pair p) = s.pair p) : s.updPair p f = s := by
  have same : vupd s.fw.pairs p f = s.fw.pairs := by
    rw [vupd, ← State.pair, h]
    exact Vector.set_getElem_self ..
  rw [State.updPair, same]

theorem updPair_updPair (s : State) (p : Fin 8) (f g : Pair → Pair) :
    (s.updPair p f).updPair p g = s.updPair p fun x => g (f x) := by
  have same : vupd (vupd s.fw.pairs p f) p g = vupd s.fw.pairs p fun x => g (f x) := by
    simp only [vupd, vget_vset_self]
    exact Vector.set_set ..
  rw [State.updPair, State.updPair, State.updPair, ← same]

theorem drainOut_empty {fuel : Nat} (h : (s.pair p).held = []) : drainOut fuel p s = s := by
  cases fuel with
  | zero => rfl
  | succ fuel => rw [drainOut, h]

/-- A message for which there is room goes out at once, behind no other. -/
theorem putOut_ready {event : Bool} {body : List Byte} (empty : (s.pair p).held = []) (room : outRoom s p = true) :
    putOut p event body s = writeOut p body s := by
  have one : ((s.updPair p fun x => { x with held := x.held ++ [(event, body)] }).pair p).held = [(event, body)] := by
    rw [pair_updPair, empty]
    rfl
  have room' : outRoom (s.updPair p fun x => { x with held := x.held ++ [(event, body)] }) p = true := by
    rwa [outRoom, pair_updPair]
  have back : (s.updPair p fun x => { x with held := x.held ++ [(event, body)] }).updPair p
      (fun x => { x with held := [] }) = s := by
    rw [updPair_updPair]
    exact updPair_id (by rw [← empty])
  rw [putOut, drainOut, one]
  dsimp only
  rw [if_pos room', back, drainOut_empty]
  rw [State.pair, fw_writeOut, ← State.pair, pair_updPair]
  exact empty

/-! ### Reading a request -/

theorem takeRequest_only (s : State) (p : Fin 8) : takeRequest p s = { s with
    port := { s.port with window := (takeRequest p s).port.window, pushes := (takeRequest p s).port.pushes }
    fw := (takeRequest p s).fw } := by
  obtain ⟨window, pushes, fw, only⟩ : ∃ window pushes fw, takeRequest p s =
      { s with port := { s.port with window := window, pushes := pushes }, fw := fw } := ⟨_, _, _, noteEcho_pushes ..⟩
  rw [only]

theorem fw_takeRequest (s : State) (p : Fin 8) : (takeRequest p s).fw =
    (s.updPair p fun x => { x with inRead := x.inRead + 1, inSlot := nextSlot x.inSlot }).fw := fw_syncOutWith ..

theorem pair_takeRequest (s : State) (p : Fin 8) : (takeRequest p s).pair p =
    { s.pair p with inRead := (s.pair p).inRead + 1, inSlot := nextSlot (s.pair p).inSlot } := by
  rw [State.pair, fw_takeRequest, ← State.pair, pair_updPair]

theorem refuseBad_done {fuel : Nat} (h : (s.pair p).inRead = (s.pair p).inTail) : refuseBad fuel p s = s := by
  have none : nextRequest p s = none := by simp [nextRequest, h]
  cases fuel with
  | zero => rfl
  | succ fuel => rw [refuseBad, none]

theorem Requested.job {typ : Nat} (h : Requested typ p s) : (s.pair p).job = none := by
  obtain ⟨waits, -⟩ := h
  unfold nextRequest at waits
  dsimp only at waits
  split at waits
  · next ok =>
    simp only [Bool.and_eq_true] at ok
    exact Option.isNone_iff_eq_none.1 ok.1.1.2
  · cases waits

theorem nextRequest_of_requested {typ : Nat} (h : Requested typ p s) : ∃ raw, nextRequest p s = some raw ∧
    requestCheck s.fw.minor raw = 0 ∧ fieldNat raw 2 2 = typ ∧ requestOf p s = requestBody raw := by
  obtain ⟨waits, passes, type, -⟩ := h
  obtain ⟨raw, found⟩ := Option.isSome_iff_exists.1 waits
  rw [found] at passes type
  exact ⟨raw, found, passes, type, by rw [requestOf, found]; rfl⟩

section
variable {typ : Nat} {u : State} {act : List Byte → State → State × Option (Nat × List Byte)} (req : Requested typ p s)
include req

/-- A request whose reply is owed. -/
theorem serve_owed (h : act (requestOf p s) (takeRequest p s) = (u, none)) : serve typ p act s = u := by
  obtain ⟨raw, found, passes, type, body⟩ := nextRequest_of_requested req
  rw [body] at h
  simp only [serve, found, passes, type, decide_true, Bool.and_self, if_true, h]

/-- A request that is answered in the step that reads it. -/
theorem serve_answered {code : Nat} {fields : List Byte} (h : act (requestOf p s) (takeRequest p s) = (u, some (code, fields))) :
    serve typ p act s = refuseBad 256 p (sendReply p typ (reqSeq (requestOf p s)) code fields u) := by
  obtain ⟨raw, found, passes, type, body⟩ := nextRequest_of_requested req
  rw [body] at h ⊢
  simp only [serve, found, passes, type, decide_true, Bool.and_self, if_true, h]

/-- A request that gives work only to domains that run is served (R630). -/
theorem serveAwake_awake {work : List Byte → State → List (Fin 9)} (awake : Awake s (work (requestOf p s) s)) :
    serveAwake typ p work act s = serve typ p act s := by
  obtain ⟨raw, found, -, -, body⟩ := nextRequest_of_requested req
  rw [body] at awake
  have none : (work (requestBody raw) s).filter (leavesDeep s) = [] := List.filter_eq_nil_iff.2 fun d hd => by simp [awake d hd]
  simp only [serveAwake, found, none, List.isEmpty_nil, Bool.true_or, if_true]

/-- A request that gives work to a domain in deep sleep takes the domains out of it (R630). -/
theorem serveAwake_asleep {work : List Byte → State → List (Fin 9)} (asleep : ¬ Awake s (work (requestOf p s) s)) :
    serveAwake typ p work act s = foldState (fun d s => setDeepEn (.hart 0) d false s)
      (((work (requestOf p s) s).filter (leavesDeep s)).filter fun d => (s.dom d).deepEn) s := by
  obtain ⟨raw, found, passes, type, body⟩ := nextRequest_of_requested req
  rw [body] at asleep ⊢
  have some : ((work (requestBody raw) s).filter (leavesDeep s)).isEmpty = false := by
    rw [Bool.eq_false_iff]
    intro empty
    rw [List.isEmpty_iff, List.filter_eq_nil_iff] at empty
    exact asleep fun d hd => by simpa using empty d hd
  simp only [serveAwake, found, passes, type, some, ne_eq, not_true_eq_false, decide_false, Bool.or_self, Bool.false_eq_true,
    if_false]

end

/-! ### The reply -/

/-- A device that differs from another in nothing that messages leave. -/
theorem eq_of_unmailed {t : State} (h : unmailed t = unmailed s) : t = { s with port := t.port, fw := t.fw } := by
  have parts := congrArg (fun x : State × List FoldPlan × (Fin 8 → Option FwJob) => { x.1 with port := t.port, fw := t.fw }) h
  exact parts

/-- The fields of a reply with a RESULT: they are 0 unless the RESULT is OK. -/
def ownFields (typ code : Nat) (fields : List Byte) : List Byte :=
  if code = 0 then fields else List.replicate (replyFieldBytes typ) 0

/-- A refused request counts as an error of a message. -/
def countRefusal (code : Nat) (s : State) : State :=
  if code = 0 then s else { s with fw := { s.fw with msgErrors := satInc s.fw.msgErrors 1 } }

theorem countRefusal_keeps (code : Nat) (s : State) : (countRefusal code s).fw.pairs = s.fw.pairs ∧
    (countRefusal code s).fw.minor = s.fw.minor ∧ (countRefusal code s).port = s.port := by
  unfold countRefusal
  split <;> exact ⟨rfl, rfl, rfl⟩

/-- The message of a reply (R563, Table 15.12). -/
def replyMessage (s : State) (p : Fin 8) (typ : Nat) (seq : Word) (code : Nat) (fields : List Byte) : List Byte :=
  message s.fw.minor (typ ||| 0x4000) (s.pair p).outTail (leBytes 4 seq.toNat ++ leBytes 2 code ++ [0, 0] ++ fields)

/-- The device `t` after the reply that a request meets in the device `u`: beside the host port and mailboxes it is as `u`, a
message has been written, and above the mailboxes the window SRAM is as before. -/
def Answers (p : Fin 8) (typ : Nat) (seq : Word) (code : Nat) (fields : List Byte) (u t : State) : Prop :=
  t = { u with port := t.port, fw := t.fw } ∧ t.fw.minor = u.fw.minor ∧ t.pair p = (u.pair p).wrote ∧
  t.port.window.readBytes (outArea p + 256 * (u.pair p).outSlot) (24 + (ownFields typ code fields).length) =
    replyMessage u p typ seq code (ownFields typ code fields) ∧
  ∀ a, 0x500000 ≤ a → t.port.window.read a = u.port.window.read a

/-- A message that fits a slot reads back from it, and leaves the rings and cork logs. -/
theorem window_messageOf {body : List Byte} (first : 1 ≤ (s.pair p).outSlot) (last : (s.pair p).outSlot ≤ 255)
    (fits : (messageOf s p body).length ≤ 256) :
    (writeOut p body s).port.window.readBytes (outArea p + 256 * (s.pair p).outSlot) (messageOf s p body).length =
      messageOf s p body ∧ ∀ a, 0x500000 ≤ a → (writeOut p body s).port.window.read a = s.port.window.read a := by
  obtain ⟨block, len, window⟩ := window_writeOut s p body
  have place := p.isLt
  rw [window]
  constructor
  · rw [Mem.readBytes_writeBytes_outside _ (by omega), Mem.readBytes_writeBytes_append]
  · intro a above
    have area : outArea p + 65536 ≤ 0x500000 := by unfold outArea; omega
    rw [Mem.read_writeBytes_outside _ _ _ _ (by omega), Mem.read_writeBytes_outside]
    right
    rw [List.length_append, List.length_replicate]
    omega

/-- The body that firmware writes for a reply. -/
def replyBody (typ : Nat) (seq : Word) (code : Nat) (fields : List Byte) : List Byte :=
  leBytes 2 (typ ||| 0x4000) ++ leBytes 4 seq.toNat ++ leBytes 2 code ++ [0, 0] ++ fields

theorem messageOf_replyBody {typ : Nat} (seq : Word) (code : Nat) (fields : List Byte) (small : typ ||| 0x4000 < 65536) :
    messageOf s p (replyBody typ seq code fields) = replyMessage s p typ seq code fields := by
  have type : fieldNat (replyBody typ seq code fields) 0 2 = typ ||| 0x4000 := by
    simp only [replyBody, List.append_assoc]
    rw [fieldNat_leBytes_append _ _ (by omega), Nat.pow_zero, Nat.div_one]
    exact Nat.mod_eq_of_lt small
  rw [messageOf, type]
  rfl

theorem length_replyMessage (s : State) (p : Fin 8) (typ : Nat) (seq : Word) (code : Nat) (fields : List Byte) :
    (replyMessage s p typ seq code fields).length = 24 + fields.length := by
  rw [replyMessage, length_message]
  simp only [List.length_append, length_leBytes, List.length_cons, List.length_nil]
  omega

theorem sendReply_answers {u : State} {typ : Nat} (seq : Word) {code : Nat} {fields : List Byte} (ready : OutReady p u)
    (small : typ ||| 0x4000 < 65536) (fits : (ownFields typ code fields).length ≤ 232) :
    Answers p typ seq code fields u (sendReply p typ seq code fields u) := by
  obtain ⟨empty, room, first, last⟩ := ready
  obtain ⟨pairs, minor, port⟩ := countRefusal_keeps code u
  have pair : (countRefusal code u).pair p = u.pair p := by rw [State.pair, pairs, State.pair]
  have sent : sendReply p typ seq code fields u =
      writeOut p (replyBody typ seq code (ownFields typ code fields)) (countRefusal code u) := by
    refine putOut_ready (s := countRefusal code u) ?_ ?_
    · rw [pair, empty]
    · rwa [outRoom, pair]
  have message : messageOf (countRefusal code u) p (replyBody typ seq code (ownFields typ code fields)) =
      replyMessage u p typ seq code (ownFields typ code fields) := by
    rw [messageOf_replyBody _ _ _ small, replyMessage, minor, pair, replyMessage]
  have len := length_replyMessage u p typ seq code (ownFields typ code fields)
  obtain ⟨slot, above⟩ := window_messageOf (s := countRefusal code u) (p := p) (by rwa [pair]) (by rwa [pair])
    (body := replyBody typ seq code (ownFields typ code fields)) (by rw [message, len]; omega)
  rw [message, pair, len] at slot
  rw [port] at above
  refine ⟨eq_of_unmailed (unmailed_sendReply ..), ?_, ?_, sent ▸ slot, sent ▸ above⟩
  · rw [sent, fw_writeOut]
    exact minor
  · rw [sent, State.pair, fw_writeOut, ← State.pair, pair_updPair, pair]

section
variable {typ code : Nat} {fields : List Byte} {u : State} {act : List Byte → State → State × Option (Nat × List Byte)}
  (req : Requested typ p s)
include req

/-- The pair of a request that has been read has no other one waiting, and its out-area is as it was. -/
theorem Requested.taken : ((takeRequest p s).pair p).inRead = ((takeRequest p s).pair p).inTail ∧
    OutReady p (takeRequest p s) := by
  obtain ⟨-, -, -, last, empty, room, slots⟩ := req
  unfold OutReady outRoom
  rw [pair_takeRequest]
  exact ⟨last.symm, empty, room, slots⟩

/-- The reply to a request whose act changes nothing that firmware keeps. -/
theorem answers_of_serve (e : act (requestOf p s) (takeRequest p s) = (u, some (code, fields)))
    (fw : u.fw = (takeRequest p s).fw) (small : typ ||| 0x4000 < 65536) (fits : (ownFields typ code fields).length ≤ 232) :
    Answers p typ (reqSeq (requestOf p s)) code fields u (serve typ p act s) := by
  obtain ⟨none, ready⟩ := req.taken
  have pair : u.pair p = (takeRequest p s).pair p := by rw [State.pair, fw, State.pair]
  have ready' : OutReady p u := by
    unfold OutReady outRoom at ready ⊢
    rwa [pair]
  have answers := sendReply_answers (reqSeq (requestOf p s)) ready' small fits
  obtain ⟨-, -, after, -⟩ := id answers
  rw [serve_answered req e, refuseBad_done (by rw [after, pair]; exact none)]
  exact answers

/-- The reply to a request serves it. -/
theorem Answers.served {t : State} (answers : Answers p typ (reqSeq (requestOf p s)) code fields u t)
    (fw : u.fw = (takeRequest p s).fw) : Served typ p code (ownFields typ code fields) s t := by
  obtain ⟨-, minor, pair, window, -⟩ := answers
  have before : u.pair p = (takeRequest p s).pair p := by rw [State.pair, fw, State.pair]
  unfold replyMessage at window
  rw [← minor, before, pair_takeRequest] at window
  unfold Served Replied
  rw [pair, before, pair_takeRequest]
  exact ⟨rfl, rfl, req.job, window⟩

/-- A request that is served: its act is done and its reply is written. -/
theorem answer_served (e : act (requestOf p s) (takeRequest p s) = (u, some (0, fields)))
    (fw : u.fw = (takeRequest p s).fw) (pending : u.pending = s.pending) (small : typ ||| 0x4000 < 65536)
    (fits : fields.length ≤ 232) : ∃ t, answer (serve typ p act) s = .next t ∧ Served typ p 0 fields s t ∧
    t = { u with port := t.port, fw := t.fw } ∧ ∀ a, 0x500000 ≤ a → t.port.window.read a = u.port.window.read a := by
  have answers := answers_of_serve req e fw small fits
  obtain ⟨only, -, -, -, above⟩ := id answers
  exact ⟨_, answer_keep (by rw [only]; exact pending), answers.served req fw, only, above⟩

/-- A request that is refused changes nothing but mailboxes. -/
theorem answer_refused (e : act (requestOf p s) (takeRequest p s) = (takeRequest p s, some (code, []))) (bad : code ≠ 0)
    (small : typ ||| 0x4000 < 65536) : ∃ t, answer (serve typ p act) s = .next t ∧ Refused typ p code s t := by
  have own : ownFields typ code [] = List.replicate (replyFieldBytes typ) 0 := if_neg bad
  have short : replyFieldBytes typ ≤ 232 := by
    unfold replyFieldBytes
    split <;> omega
  have answers := answers_of_serve req e rfl small (by rwa [own, List.length_replicate])
  obtain ⟨only, -⟩ := id answers
  refine ⟨_, answer_keep ?_, own ▸ answers.served req rfl, ?_⟩
  · rw [only, takeRequest_only]
  · rw [only, takeRequest_only]

end

end

end Sys2Proof.Machine
end

section
/-! PROOF. The requests that create and remove parcels (R484 to R488): what the replies of other pairs and the commit of a parcel's
shares leave (`standing`), the domains that a new parcel takes out of deep sleep (R630), and the two requests themselves. -/

namespace Sys2Proof.Machine

/-! ### Replies on other pairs -/

section
variable (s : State) {p q : Fin 8} (other : q ≠ p)
include other

theorem pair_updPair_ne (f : Pair → Pair) : (s.updPair q f).pair p = s.pair p := vget_vupd_ne _ _ other

theorem pair_writeOut_ne (body : List Byte) : (writeOut q body s).pair p = s.pair p := by
  rw [State.pair, fw_writeOut]
  exact pair_updPair_ne s other _

theorem pair_drainOut_ne (fuel : Nat) : (drainOut fuel q s).pair p = s.pair p := by
  induction fuel generalizing s with
  | zero => rfl
  | succ fuel ih =>
    unfold drainOut
    split
    · rfl
    · split
      · rw [ih, pair_writeOut_ne _ other, pair_updPair_ne _ other]
      · rfl

theorem pair_sendReply_ne (typ : Nat) (seq : Word) (code : Nat) (fields : List Byte) :
    (sendReply q typ seq code fields s).pair p = s.pair p := by
  have counted : (countRefusal code s).pair p = s.pair p := by
    rw [State.pair, (countRefusal_keeps code s).1, State.pair]
  exact (pair_drainOut_ne _ other _).trans ((pair_updPair_ne _ other _).trans counted)

theorem pair_takeRequest_ne : (takeRequest q s).pair p = s.pair p := by
  rw [State.pair, fw_takeRequest]
  exact pair_updPair_ne s other _

theorem pair_refuseBad_ne (fuel : Nat) : (refuseBad fuel q s).pair p = s.pair p := by
  induction fuel generalizing s with
  | zero => rfl
  | succ fuel ih =>
    unfold refuseBad
    split
    · rfl
    · dsimp only
      split
      · rfl
      · rw [ih, pair_sendReply_ne _ other, pair_takeRequest_ne _ other]

theorem pair_finishJob_ne (typ : Nat) (seq : Word) (code : Nat) (fields : List Byte) :
    (finishJob q typ seq code fields s).pair p = s.pair p := by
  rw [finishJob, pair_refuseBad_ne _ other, pair_sendReply_ne _ other, pair_updPair_ne _ other]

end

/-! ### The commit of a parcel's shares -/

/-- The parcels, and a pair of mailboxes. -/
def standing (p : Fin 8) (s : State) : Vector Parcel 8 × Pair := (s.parcels, s.pair p)

section
variable {p : Fin 8} {s t : State}

theorem parcels_of_standing (h : standing p t = standing p s) : t.parcels = s.parcels := congrArg (fun x => x.1) h

theorem pair_of_standing (h : standing p t = standing p s) : t.pair p = s.pair p := congrArg (fun x => x.2) h

theorem standing_eq (hp : t.parcels = s.parcels) (hf : t.fw = s.fw) : standing p t = standing p s := by
  rw [standing, standing, State.pair, State.pair, hp, hf]

theorem standing_ite {c : Prop} [Decidable c] {a b : State} (ha : standing p a = standing p s)
    (hb : standing p b = standing p s) : standing p (if c then a else b) = standing p s := by
  split
  · exact ha
  · exact hb

end

section
variable (p : Fin 8) (s : State)

theorem standing_settleCommit (n : Fin 121) : standing p (settleCommit n s) = standing p s := standing_ite rfl rfl

theorem standing_pageError (n : Fin 121) (c : BitVec 16) (i : Word) (a : Long) (b : Byte) :
    standing p (pageError n c i a b s) = standing p s := standing_eq (pageError_parcels ..) (pageError_fw ..)

theorem standing_rejectCommit (n : Fin 121) (c : BitVec 16) (i : Word) :
    standing p (rejectCommit n c i s) = standing p s := standing_pageError ..

theorem standing_errorWire : standing p (errorWire s) = standing p s := standing_eq (errorWire_parcels _) (errorWire_fw _)

theorem standing_rejectPort (code : BitVec 16) : standing p (rejectPort code s) = standing p s :=
  (standing_settleCommit ..).trans ((standing_errorWire ..).trans (standing_pageError ..))

theorem standing_oweCopy : standing p (oweCopy s) = standing p s :=
  foldState_keeps (fun t => standing p t = standing p s) _ _
    (fun _ _ ht => (standing_eq (noteEcho_parcels ..) (noteEcho_fw ..)).trans ht) s rfl

theorem standing_applyCellar : standing p (applyCellar s) = standing p s := by
  unfold applyCellar
  split
  · rfl
  · refine standing_ite rfl ?_
    split
    · exact (standing_settleCommit ..).trans (standing_rejectCommit ..)
    · exact standing_settleCommit ..

theorem standing_applyCarve (n : Fin 8) : standing p (applyCarve n s) = standing p s :=
  standing_ite rfl (standing_settleCommit ..)

theorem standing_applyStage (n : Fin 8) : standing p (applyStage n s) = standing p s := by
  unfold applyStage
  split
  · rfl
  · exact standing_ite rfl (standing_ite (standing_rejectPort ..) (standing_settleCommit ..))

/-! The units of the three pages that hold shares and carve-outs. -/

theorem applyUnit_hostPort (u : Fin 16) : applyUnit pgHostPort u s = if s.safety.safe then s else
    if u = 0 then applyEcho s else if u.val ≤ 8 then applyStage (Fin.ofNat 8 (u.val - 1)) s else s := rfl

theorem applyUnit_mmu (u : Fin 16) : applyUnit pgMmu u s = if s.safety.safe then s else
    if u.val < 8 then applyCarve (Fin.ofNat 8 u.val) s else s := rfl

theorem applyUnit_cellar (u : Fin 16) : applyUnit pgCellar u s = if s.safety.safe then s else applyCellar s := rfl

variable {p s} (idle : (s.pair p).job = none)
include idle

/-- The reply to an ECHO_SET goes to another pair than one that owes none. -/
theorem standing_finishEcho (code : Nat) : standing p (finishEcho code s) = standing p s := by
  refine foldState_keeps (fun t => standing p t = standing p s) _ _ (fun q t ht => ?_) s rfl
  split
  · next owed =>
    have other : q ≠ p := by
      rintro rfl
      rw [pair_of_standing ht, idle] at owed
      cases owed
    have parcels := parts_finishJob t State.parcels (fun _ _ _ => rfl) q 0x48 ‹Word› code []
    exact (Prod.ext parcels (pair_finishJob_ne t other 0x48 _ code [])).trans ht
  · exact ht

theorem standing_applyEcho : standing p (applyEcho s) = standing p s := by
  have finish {u : State} (code : Nat) (h : standing p u = standing p s) : standing p (finishEcho code u) = standing p s :=
    (standing_finishEcho (by rw [pair_of_standing h, idle]) code).trans h
  unfold applyEcho
  split
  · rfl
  · exact standing_ite rfl <| standing_ite (finish _ (standing_rejectPort ..)) <|
      finish _ ((standing_settleCommit ..).trans (standing_oweCopy ..))

variable {n : Fin 121} (shares : n = pgHostPort ∨ n = pgMmu ∨ n = pgCellar)
include shares

theorem standing_applyUnit (u : Fin 16) : standing p (applyUnit n u s) = standing p s := by
  rcases shares with rfl | rfl | rfl
  · rw [applyUnit_hostPort]
    exact standing_ite rfl (standing_ite (standing_applyEcho idle) (standing_ite (standing_applyStage ..) rfl))
  · rw [applyUnit_mmu]
    exact standing_ite rfl (standing_ite (standing_applyCarve ..) rfl)
  · rw [applyUnit_cellar]
    exact standing_ite rfl (standing_applyCellar ..)

/-- A commit of shares leaves the parcels, and a pair that owes no reply. -/
theorem standing_writeGo (who : Writer) : standing p (writeGo who n s) = standing p s := by
  have units : standing p (goUnits n.val s) = standing p s := by
    rcases shares with rfl | rfl | rfl <;> rfl
  refine standing_ite rfl ?_
  refine foldState_keeps (fun t => standing p t = standing p s) _ _ (fun u t ht => ?_) _ ((standing_settleCommit ..).trans units)
  have idle' : (t.pair p).job = none := by rw [pair_of_standing ht, idle]
  exact (standing_ite (standing_applyUnit idle' shares u) rfl).trans ht

omit shares in
theorem standing_commitShares (n : Fin 8) (cellar stage carve : Share) :
    standing p (commitShares n cellar stage carve s) = standing p s := by
  have go {u : State} {n : Fin 121} (shares : n = pgHostPort ∨ n = pgMmu ∨ n = pgCellar) (h : standing p u = standing p s) :
      standing p (writeGo (.hart 0) n u) = standing p s :=
    (standing_writeGo (by rw [pair_of_standing h, idle]) shares _).trans h
  exact go (.inr (.inl rfl)) (go (.inl rfl) (go (.inr (.inr rfl)) rfl))

end

/-! ### Domains in deep sleep -/

/-- The domain is no longer in deep sleep by its enable. -/
def Roused (d : Fin 9) (s : State) : Prop := (s.dom d).deepEn = false

section
variable {s : State}

theorem setDeepEn_only (who : Writer) (d : Fin 9) :
    setDeepEn who d false s = { s with clocks := (setDeepEn who d false s).clocks } := by
  unfold setDeepEn
  rw [if_neg Bool.false_ne_true]
  split
  · rfl
  · split <;> rfl

/-- Domains that deep sleep is allowed for (Table 17.1). -/
def sleeper (d : Fin 9) : Bool := !(d.val = 1 || d.val = 2 || d.val = 5 || d.val = 6)

theorem roused_setDeepEn {who : Writer} {d : Fin 9} (h : sleeper d = true) : Roused d (setDeepEn who d false s) := by
  unfold setDeepEn Roused
  rw [if_neg (by simpa [sleeper] using h), if_neg Bool.false_ne_true]
  split
  · exact (congrArg Domain.deepEn (vget_vupd_self ..) :)
  · exact (congrArg Domain.deepEn (vget_vupd_self ..) :)

theorem Roused.setDeepEn {who : Writer} {d e : Fin 9} (h : Roused d s) : Roused d (setDeepEn who e false s) := by
  have upd (f : Domain → Domain) (off : ∀ x, (f x).deepEn = false) : Roused d (s.updDom e f) := by
    unfold Roused State.dom State.updDom
    rw [vget_vupd]
    split
    · exact off _
    · exact h
  unfold Machine.setDeepEn
  rw [if_neg Bool.false_ne_true]
  split
  · exact h
  · split
    · exact upd _ fun _ => rfl
    · exact upd _ fun _ => rfl

theorem roused_foldState {l : List (Fin 9)} {d : Fin 9} (allowed : ∀ e ∈ l, sleeper e = true) (h : d ∈ l ∨ Roused d s) :
    Roused d (foldState (fun d s => setDeepEn (.hart 0) d false s) l s) := by
  induction l generalizing s with
  | nil => exact h.resolve_left List.not_mem_nil
  | cons e rest ih =>
    refine ih (fun x hx => allowed x (List.mem_cons_of_mem _ hx)) ?_
    rcases h with mem | roused
    · rcases List.mem_cons.1 mem with rfl | later
      · exact .inr (roused_setDeepEn (allowed d List.mem_cons_self))
      · exact .inl later
    · exact .inr roused.setDeepEn

/-- R630: every domain of the work that is in deep sleep leaves it, and the request stays unread. -/
theorem wakes_foldState (p : Fin 8) {work : List (Fin 9)} (allowed : ∀ e ∈ work, sleeper e = true) :
    Wakes p s work (foldState (fun d s => setDeepEn (.hart 0) d false s)
      ((work.filter (leavesDeep s)).filter fun d => (s.dom d).deepEn) s) := by
  have only : foldState (fun d s => setDeepEn (.hart 0) d false s)
      ((work.filter (leavesDeep s)).filter fun d => (s.dom d).deepEn) s = { s with clocks := _ } :=
    foldState_keeps (fun t => t = { s with clocks := t.clocks }) _ _ (fun d t ht => by rw [setDeepEn_only, ht]) s rfl
  refine ⟨fun d hd leaves => ?_, ?_, only, ?_⟩
  · refine roused_foldState (fun e he => allowed e (List.mem_filter.1 (List.mem_filter.1 he).1).1) ?_
    rcases Bool.eq_false_or_eq_true (s.dom d).deepEn with asleep | awake
    · exact .inl (List.mem_filter.2 ⟨List.mem_filter.2 ⟨hd, leaves⟩, asleep⟩)
    · exact .inr awake
  · rw [only]
  · rw [only]
    rfl

end

theorem sleeper_createWork (b : List Byte) (s : State) : ∀ e ∈ createWork b s, sleeper e = true := by
  unfold createWork
  split
  · simp
  · split <;> split <;> decide

/-! ### PARCEL_CREATE -/

/-- The Cellar share of a create request. -/
def reqCellar (b : List Byte) : Share := { base := BitVec.ofNat 13 (fieldNat b 24 1), size := BitVec.ofNat 13 (fieldNat b 25 1) }

/-- The staging share of a create request. -/
def reqStage (b : List Byte) : Share := { base := BitVec.ofNat 13 (fieldNat b 26 2), size := BitVec.ofNat 13 (fieldNat b 28 2) }

/-- The carve-out of a create request. -/
def reqCarve (b : List Byte) : Share := { base := BitVec.ofNat 13 (reqCarveBase b), size := BitVec.ofNat 13 (reqCarveSize b) }

/-- The device once a parcel has its registers, presses and pipelines. -/
def unitsAssigned (b : List Byte) (s : State) : State :=
  assignUnits (reqParcel b) (reqPresses b) (reqPipes b) (s.updParcel (reqParcel b) (beginParcel b))

/-- The device once the shares of the parcel are committed as well. -/
def sharesCommitted (b : List Byte) (s : State) : State :=
  commitShares (reqParcel b) (reqCellar b) (reqStage b) (reqCarve b) (unitsAssigned b s)

/-- The device once a create request has been performed up to the clearing of R250. -/
def parcelBegun (b : List Byte) (s : State) : State := mapCarve b (sharesCommitted b s)

section
variable {s : State} {p : Fin 8} {b : List Byte}

theorem createParcel_begins (passes : createCheck s b = 0) : createParcel p b s = ((parcelBegun b s).updPair p fun x =>
    { x with job := some (.creating (reqSeq b) (reqParcel b) (reqPolicy b)) }, none) := by
  rw [createParcel, passes]
  rfl

theorem createParcel_refuses (fails : createCheck s b ≠ 0) : createParcel p b s = (s, some (createCheck s b, [])) := by
  unfold createParcel
  split
  · next passes => exact absurd passes fails
  · rfl

theorem createCheck_takeRequest : createCheck (takeRequest p s) b = createCheck s b := by
  rw [takeRequest_only]
  rfl

theorem mapCarve_keeps (b : List Byte) (s : State) : (mapCarve b s).parcels = s.parcels ∧ (mapCarve b s).fw = s.fw ∧
    (mapCarve b s).presses = s.presses :=
  foldState_keeps (fun t => t.parcels = s.parcels ∧ t.fw = s.fw ∧ t.presses = s.presses) (mapPage b) _
    (fun _ _ ht => ht) s.bump ⟨rfl, rfl, rfl⟩

/-- What a create request leaves of a pair that owes no reply, and gives its parcel. -/
theorem standing_parcelBegun (idle : (s.pair p).job = none) :
    standing p (parcelBegun b s) = standing p (s.updParcel (reqParcel b) (beginParcel b)) := by
  obtain ⟨parcels, fw, -⟩ := mapCarve_keeps b (sharesCommitted b s)
  have before : standing p (unitsAssigned b s) = standing p (s.updParcel (reqParcel b) (beginParcel b)) := rfl
  have idle' : ((unitsAssigned b s).pair p).job = none := by rw [pair_of_standing before]; exact idle
  exact (standing_eq parcels fw).trans ((standing_commitShares idle' ..).trans before)

theorem press_unitsAssigned (k : Fin 16) : (unitsAssigned b s).press k =
    if (reqPresses b).getLsbD k.val then { s.press k with assigned := some (reqParcel b) } else s.press k := vget_vmap ..

theorem press_parcelBegun (k : Fin 16) : (parcelBegun b s).press k =
    if (reqPresses b).getLsbD k.val then { s.press k with assigned := some (reqParcel b) } else s.press k := by
  obtain ⟨-, -, mapped⟩ := mapCarve_keeps b (sharesCommitted b s)
  have committed := presses_of_working
    (working_commitShares (unitsAssigned b s) (reqParcel b) (reqCellar b) (reqStage b) (reqCarve b))
  rw [State.press, parcelBegun, mapped, sharesCommitted, committed, ← State.press, press_unitsAssigned]

end

/-! ### The requests -/

theorem answer_congr {f g : State → State} {s : State} (h : f s = g s) : answer f s = answer g s := by
  rw [answer_eq, answer_eq, h]

section
variable {s : State} {p : Fin 8}

/-- A request whose act leaves its pair alone but for the reply that is owed. -/
theorem answer_owed {typ : Nat} {u : State} {job : FwJob} {act : List Byte → State → State × Option (Nat × List Byte)}
    (req : Requested typ p s)
    (e : act (requestOf p s) (takeRequest p s) = (u.updPair p fun x => { x with job := some job }, none))
    (kept : u.pair p = (takeRequest p s).pair p) : ∃ t, answer (serve typ p act) s = .next t ∧ Owed p job s t ∧
    t.parcels = u.parcels ∧ t.presses = u.presses ∧ t.objects = u.objects := by
  refine ⟨_, answer_eq .., ?_⟩
  rw [serve_owed req e]
  refine ⟨?_, rfl, rfl, rfl⟩
  have pair : (u.updPair p fun x => { x with job := some job }).pair p = { u.pair p with job := some job } := pair_updPair ..
  rw [kept, pair_takeRequest] at pair
  exact ⟨congrArg Pair.inRead pair, congrArg Pair.job pair⟩

/-- A create request that passes its checks, once the domains that it gives work run. -/
theorem parcelCreate_owes (req : Requested 0x10 p s) (passes : createCheck s (requestOf p s) = 0)
    (awake : Awake s (createWork (requestOf p s) s)) : ∃ t, exec (.parcelCreate p) s = .next t ∧
    Owed p (.creating (reqSeq (requestOf p s)) (reqParcel (requestOf p s)) (reqPolicy (requestOf p s))) s t ∧
    (t.parcel (reqParcel (requestOf p s))).state = 1 ∧
    (t.parcel (reqParcel (requestOf p s))).presses = reqPresses (requestOf p s) ∧
    (∀ k : Fin 16, (t.press k).assigned = (if (reqPresses (requestOf p s)).getLsbD k.val then
      some (reqParcel (requestOf p s)) else (s.press k).assigned)) := by
  have idle : ((takeRequest p s).pair p).job = none := by rw [pair_takeRequest]; exact req.job
  have begun := standing_parcelBegun (b := requestOf p s) idle
  obtain ⟨t, step, owed, parcels, presses, -⟩ := answer_owed req
    (createParcel_begins (p := p) (createCheck_takeRequest.trans passes)) ((pair_of_standing begun).trans rfl)
  have parcel : t.parcel (reqParcel (requestOf p s)) =
      beginParcel (requestOf p s) ((takeRequest p s).parcel (reqParcel (requestOf p s))) := by
    rw [State.parcel, parcels, parcels_of_standing begun, ← State.parcel, parcel_updParcel]
  refine ⟨t, (answer_congr (serveAwake_awake req awake)).trans step, owed, by rw [parcel]; rfl, by rw [parcel]; rfl,
    fun k => ?_⟩
  rw [State.press, presses, ← State.press, press_parcelBegun, takeRequest_only]
  split <;> rfl

theorem parcelCreate_wakes (req : Requested 0x10 p s) (asleep : ¬ Awake s (createWork (requestOf p s) s)) :
    ∃ t, exec (.parcelCreate p) s = .next t ∧ Wakes p s (createWork (requestOf p s) s) t := by
  have wakes := wakes_foldState p (s := s) (sleeper_createWork (requestOf p s) s)
  rw [← serveAwake_asleep (act := createParcel p) req asleep] at wakes
  obtain ⟨-, -, only, -⟩ := id wakes
  exact ⟨_, answer_keep (by rw [only]), wakes⟩

theorem parcelCreate_refuses (req : Requested 0x10 p s) (fails : createCheck s (requestOf p s) ≠ 0) :
    ∃ t, exec (.parcelCreate p) s = .next t ∧ Refused 0x10 p (createCheck s (requestOf p s)) s t := by
  have awake : Awake s (createWork (requestOf p s) s) := by
    intro d hd
    rw [createWork, if_pos fails] at hd
    cases hd
  have refused := answer_refused req (act := createParcel p) (code := createCheck s (requestOf p s))
    ((createParcel_refuses (by rwa [createCheck_takeRequest])).trans (by rw [createCheck_takeRequest])) fails (by decide)
  obtain ⟨t, step, result⟩ := refused
  exact ⟨t, (answer_congr (serveAwake_awake req awake)).trans step, result⟩

/-- The device once a destroy request has been performed up to the clearing of R250. -/
def parcelEnding (b : List Byte) (s : State) : State :=
  { s.updParcel (reqParcel b) fun p => { p with state := 3 } with
    objects := s.objects.filter fun o => decide (o.2.parcel ≠ reqParcel b) }

theorem destroyParcel_ends {b : List Byte} (passes : destroyCheck s b = 0) : destroyParcel p b s =
    ((parcelEnding b s).updPair p fun x => { x with job := some (.destroying (reqSeq b) (reqParcel b)) }, none) := by
  rw [destroyParcel, passes]
  rfl

theorem destroyParcel_refuses {b : List Byte} (fails : destroyCheck s b ≠ 0) :
    destroyParcel p b s = (s, some (destroyCheck s b, [])) := by
  unfold destroyParcel
  split
  · next passes => exact absurd passes fails
  · rfl

theorem destroyCheck_takeRequest (b : List Byte) : destroyCheck (takeRequest p s) b = destroyCheck s b := by
  rw [takeRequest_only]
  rfl

theorem parcelDestroy_acts (req : Requested 0x11 p s) : ∃ t, exec (.parcelDestroy p) s = .next t ∧
    (destroyCheck s (requestOf p s) = 0 →
      Owed p (.destroying (reqSeq (requestOf p s)) (reqParcel (requestOf p s))) s t ∧
      (t.parcel (reqParcel (requestOf p s))).state = 3 ∧
      t.objects = s.objects.filter (fun o => decide (o.2.parcel ≠ reqParcel (requestOf p s)))) ∧
    (destroyCheck s (requestOf p s) ≠ 0 → Refused 0x11 p (destroyCheck s (requestOf p s)) s t) := by
  by_cases passes : destroyCheck s (requestOf p s) = 0
  · obtain ⟨t, step, owed, parcels, -, objects⟩ := answer_owed req
      (destroyParcel_ends (p := p) ((destroyCheck_takeRequest _).trans passes)) rfl
    refine ⟨t, step, fun _ => ⟨owed, ?_, ?_⟩, fun fails => absurd passes fails⟩
    · rw [State.parcel, parcels]
      exact congrArg Parcel.state (parcel_updParcel ..)
    · rw [objects, parcelEnding, takeRequest_only]
  · obtain ⟨t, step, refused⟩ := answer_refused req (act := destroyParcel p) (code := destroyCheck s (requestOf p s))
      ((destroyParcel_refuses (by rwa [destroyCheck_takeRequest])).trans (by rw [destroyCheck_takeRequest])) passes (by decide)
    exact ⟨t, step, fun h => absurd h passes, fun _ => refused⟩

end

end Sys2Proof.Machine
end

section
/-! PROOF. What a new queue is made of: the cork log and the ring control block (R455, R473), and the commit of its CFG (R481, R482),
of which `uncommitted` says what it leaves. -/

namespace Sys2Proof.Machine

/-! ### The window SRAM of a new queue -/

theorem Mem.read_wipe_outside (m : Mem) {lo len a : Nat} (event : Nat) (h : a < lo ∨ lo + len ≤ a) :
    (m.wipe lo len event).read a = m.read a := by
  have out : ¬ (lo ≤ a ∧ a < lo + len) := by omega
  have cleared : (m.clear lo len).read a = m.read a := by rw [Mem.read_clear, if_neg out]
  have unheld : Span.holds ⟨lo, len, event⟩ a = false := by simpa [Span.holds] using out
  unfold Mem.wipe
  split
  · exact cleared
  · refine Eq.trans ?_ cleared
    simp [Mem.read, unlistedByte, unheld]

theorem leBytes_add (n k v : Nat) : leBytes (n + k) v = leBytes n v ++ leBytes k (v / 256 ^ n) := by
  induction n generalizing v with
  | zero => simp [leBytes]
  | succ n ih => rw [Nat.add_right_comm, leBytes, ih, leBytes, Nat.div_div_eq_div_mul, ← Nat.pow_succ', List.cons_append]

/-- What lies above the bytes of a number does not show in them. -/
theorem leBytes_mod (n v w : Nat) : leBytes n (v + w * 256 ^ n) = leBytes n v := by
  induction n generalizing v with
  | zero => rfl
  | succ n ih =>
    have low : BitVec.ofNat 8 (v + w * 256 ^ (n + 1)) = BitVec.ofNat 8 v := by
      apply BitVec.eq_of_toNat_eq
      rw [BitVec.toNat_ofNat, BitVec.toNat_ofNat, Nat.pow_succ, ← Nat.mul_assoc]
      exact Nat.add_mul_mod_self_right ..
    rw [leBytes, leBytes, low, Nat.pow_succ, ← Nat.mul_assoc, Nat.add_mul_div_right _ _ (by omega), ih]

/-- TAIL and CONSUMED as the ring control block holds them. -/
theorem leBytes_pair (f : Word) : leBytes 8 (f.toNat + f.toNat * 2 ^ 32) = leBytes 4 f.toNat ++ leBytes 4 f.toNat := by
  have high : (f.toNat + f.toNat * 256 ^ 4) / 256 ^ 4 = f.toNat := by
    have := f.isLt
    omega
  have halves := leBytes_add 4 4 (f.toNat + f.toNat * 256 ^ 4)
  rwa [high, leBytes_mod] at halves

/-- A record of the cork log of a new queue whose first number is `f` (R473). -/
def logRecord (base : Nat) (f : Word) (m : Mem) (r : Nat) : Mem :=
  (m.writeNat (base + 32 * r + 8) 4 (firstLogSeq f r).toNat).write (base + 32 * r + 14) 0xFF

/-- A store holds that record. -/
def HoldsRecord (base : Nat) (f : Word) (r : Nat) (m : Mem) : Prop :=
  m.readBytes (base + 32 * r + 8) 4 = leBytes 4 (firstLogSeq f r).toNat ∧ m.readBytes (base + 32 * r + 14) 1 = [0xFF]

section
variable {base : Nat} {f : Word}

theorem read_logRecord_outside (m : Mem) {r x : Nat} (h : x < base + 32 * r ∨ base + 32 * r + 32 ≤ x) :
    (logRecord base f m r).read x = m.read x := by
  rw [logRecord, Mem.read_write_ne _ _ _ _ (by omega), Mem.writeNat,
    Mem.read_writeBytes_outside _ _ _ _ (by rw [length_leBytes]; omega)]

theorem holdsRecord_logRecord (m : Mem) (r : Nat) : HoldsRecord base f r (logRecord base f m r) := by
  refine ⟨?_, Mem.readBytes_writeBytes _ _ [0xFF]⟩
  have number := Mem.readBytes_writeBytes m (base + 32 * r + 8) (leBytes 4 (firstLogSeq f r).toNat)
  rw [length_leBytes] at number
  rw [logRecord, Mem.write, Mem.readBytes_writeBytes_outside _ (by omega)]
  exact number

theorem HoldsRecord.logRecord {m : Mem} {r k : Nat} (h : HoldsRecord base f r m) (other : r < k) :
    HoldsRecord base f r (logRecord base f m k) := by
  obtain ⟨number, mark⟩ := h
  constructor
  · rw [← number]
    exact Mem.readBytes_congr fun x lo hi => read_logRecord_outside m (by omega)
  · rw [← mark]
    exact Mem.readBytes_congr fun x lo hi => read_logRecord_outside m (by omega)

/-- The records of a log are written one after another, and nothing but them. -/
theorem holdsRecord_foldl (m : Mem) (n : Nat) :
    (∀ r < n, HoldsRecord base f r ((List.range n).foldl (logRecord base f) m)) ∧
      ∀ x, x < base ∨ base + 32 * n ≤ x → ((List.range n).foldl (logRecord base f) m).read x = m.read x := by
  induction n with
  | zero => exact ⟨fun r hr => absurd hr (Nat.not_lt_zero r), fun _ _ => rfl⟩
  | succ n ih =>
    obtain ⟨records, rest⟩ := ih
    rw [List.range_succ, List.foldl_append]
    refine ⟨fun r hr => ?_, fun x out => ?_⟩
    · rcases Nat.lt_succ_iff_lt_or_eq.1 hr with before | rfl
      · exact (records r before).logRecord before
      · exact holdsRecord_logRecord ..
    · exact (read_logRecord_outside _ (by omega)).trans (rest x (by omega))

end

section
variable (s : State) (q : Fin 256) (f : Word)

theorem window_initLog_eq : (initLog q f s).port.window =
    (List.range 128).foldl (logRecord (corkLog q) f) (s.port.window.wipe (corkLog q) 4096 s.freeCtr) := by
  have record : (fun (m : Mem) (r : Nat) => (m.writeNat (corkLog q + 32 * r + 8) 4 (firstLogSeq f r).toNat).write
      (corkLog q + 32 * r + 14) 0xFF) = logRecord (corkLog q) f := rfl
  simp only [initLog, State.updWindow, State.bump, record]

theorem window_initLog : (∀ r < 128, HoldsRecord (corkLog q) f r (initLog q f s).port.window) ∧
    ∀ x, x < corkLog q ∨ corkLog q + 4096 ≤ x → (initLog q f s).port.window.read x = s.port.window.read x := by
  rw [window_initLog_eq]
  generalize wiped : s.port.window.wipe (corkLog q) 4096 s.freeCtr = m
  obtain ⟨records, rest⟩ := holdsRecord_foldl (base := corkLog q) (f := f) m 128
  refine ⟨records, fun x out => ?_⟩
  rw [rest x out, ← wiped, Mem.read_wipe_outside _ _ out]

theorem initLog_keeps : (initLog q f s).queues = s.queues ∧ (initLog q f s).parcels = s.parcels ∧
    (initLog q f s).safety = s.safety ∧ (initLog q f s).fw = s.fw ∧ (initLog q f s).pending = s.pending :=
  ⟨updWindow_queues .., updWindow_parcels .., updWindow_safety .., updWindow_fw .., updWindow_pending ..⟩

/-- The ring control block lies apart from the cork log. -/
theorem ring_initLog : (initLog q f s).port.window.readBytes (ringBase q) 8 = s.port.window.readBytes (ringBase q) 8 := by
  obtain ⟨-, rest⟩ := window_initLog s q f
  have := q.isLt
  refine Mem.readBytes_congr fun x lo hi => rest x (.inr ?_)
  unfold corkLog
  unfold ringBase at lo
  omega

end

/-! ### The commit of a queue's CFG -/

/-- A queue without its CFG. -/
def Queue.bare (x : Queue) : Queue := { x with cfg := rwsReset {} }

/-- The device without the common registers of pages, the log, the number of the next free value and the CFG of each queue: a
commit of a queue's CFG changes none of what is left. -/
def uncommitted (s : State) : State :=
  { s with pages := State.reset.pages, diag := State.reset.diag, freeCtr := 0, queues := vmap s.queues fun _ x => x.bare }

section
variable {s t : State} {q : Fin 256}

theorem uncommitted_ite {c : Prop} [Decidable c] {a b : State} (ha : uncommitted a = uncommitted s)
    (hb : uncommitted b = uncommitted s) : uncommitted (if c then a else b) = uncommitted s := by
  split
  · exact ha
  · exact hb

theorem bare_of_uncommitted (h : uncommitted t = uncommitted s) (q : Fin 256) : (t.queue q).bare = (s.queue q).bare := by
  simpa [uncommitted, State.queue] using congrArg (fun u : State => u.queue q) h

theorem uncommitted_updQueue (q : Fin 256) {f : Queue → Queue} (h : ∀ x, (f x).bare = x.bare) :
    uncommitted (s.updQueue q f) = uncommitted s := by
  simp only [uncommitted, State.updQueue, vmap, vmap_vupd h]

theorem uncommitted_settleCommit (n : Fin 121) (s : State) : uncommitted (settleCommit n s) = uncommitted s :=
  uncommitted_ite rfl rfl

theorem uncommitted_rejectCommit (n : Fin 121) (c : BitVec 16) (i : Word) (s : State) :
    uncommitted (rejectCommit n c i s) = uncommitted s := by
  rw [rejectCommit, pageError_only]
  rfl

theorem uncommitted_applyQueueCfg (r : Fin 256) (s : State) : uncommitted (applyQueueCfg r s) = uncommitted s := by
  unfold applyQueueCfg
  split
  · rfl
  · exact uncommitted_ite rfl <| uncommitted_ite
      ((uncommitted_settleCommit ..).trans <| (uncommitted_rejectCommit ..).trans (uncommitted_updQueue r fun _ => rfl))
      ((uncommitted_settleCommit ..).trans (uncommitted_updQueue r fun _ => rfl))

theorem val_pgQueue : ∀ q : Fin 256, (pgQueue q).val = 64 + q.val / 16 := by decide +kernel

/-- The queue that a unit of a QGRP page configures. -/
def unitQueue (q : Fin 256) (u : Fin 16) : Fin 256 := Fin.ofNat 256 (q.val / 16 * 16 + u.val)

theorem applyUnit_queue (u : Fin 16) :
    applyUnit (pgQueue q) u s = if s.safety.safe then s else applyQueueCfg (unitQueue q u) s := by
  have := q.isLt
  unfold applyUnit
  rw [val_pgQueue]
  simp (disch := omega) only [if_neg, if_pos, Nat.add_sub_cancel_left]
  rfl

theorem appliesNow_queue (u : Fin 16) : appliesNow s (pgQueue q) u = true := by
  unfold appliesNow
  rw [val_pgQueue, if_neg (by omega), if_neg (by omega)]

theorem goUnits_queue : goUnits (pgQueue q).val s = { s with queues := vmap s.queues fun r x =>
    if r.val / 16 = q.val / 16 then { x with cfg := x.cfg.go } else x } := by
  have := q.isLt
  unfold goUnits mapUnits
  rw [val_pgQueue]
  iterate 8 rw [if_neg (by omega)]
  rw [if_pos (by omega), Nat.add_sub_cancel_left]

theorem queue_goUnits : (goUnits (pgQueue q).val s).queue q = { s.queue q with cfg := (s.queue q).cfg.go } := by
  rw [goUnits_queue]
  exact (vget_vmap ..).trans (if_pos rfl)

theorem uncommitted_goUnits : uncommitted (goUnits (pgQueue q).val s) = uncommitted s := by
  have bare (r : Fin 256) (x : Queue) :
      (if r.val / 16 = q.val / 16 then { x with cfg := x.cfg.go } else x).bare = x.bare := by split <;> rfl
  rw [goUnits_queue]
  simp only [uncommitted, vmap, vget, Vector.getElem_ofFn, bare]

/-- The device when GO of a QGRP page has made its units pending. -/
def queueGone (who : Writer) (q : Fin 256) (s : State) : State :=
  settleCommit (pgQueue q) ((goUnits (pgQueue q).val s).updPage (pgQueue q) fun r =>
    { r with goBy := who, superseded := r.superseded || pagePending s (pgQueue q).val })

theorem writeGo_queue (who : Writer) : writeGo who (pgQueue q) s = applyReady (pgQueue q) (queueGone who q s) := by
  have holds : staged (pgQueue q).val = true := by
    rw [val_pgQueue]
    have := q.isLt
    simp only [staged, Bool.or_eq_true, Bool.and_eq_true, decide_eq_true_eq]
    omega
  rw [writeGo, holds]
  rfl

theorem uncommitted_queueGone (who : Writer) : uncommitted (queueGone who q s) = uncommitted s :=
  (uncommitted_settleCommit ..).trans (Eq.trans rfl uncommitted_goUnits)

theorem uncommitted_writeGo (who : Writer) (q : Fin 256) (s : State) :
    uncommitted (writeGo who (pgQueue q) s) = uncommitted s := by
  rw [writeGo_queue]
  refine foldState_keeps (fun t => uncommitted t = uncommitted s) _ _ (fun u t ht => ?_) _ (uncommitted_queueGone who)
  refine (uncommitted_ite ?_ rfl).trans ht
  rw [applyUnit_queue]
  exact uncommitted_ite rfl (uncommitted_applyQueueCfg ..)

/-! The unit of one queue. -/

/-- A queue has a configuration in force, and none waits. -/
def InForce (c : QueueCfg) (x : Queue) : Prop := x.cfg.live = c ∧ x.cfg.pending = none

/-- A queue has a configuration waiting that may come into force at once (R481, R482). -/
def CfgDue (q : Fin 256) (c : QueueCfg) (s : State) : Prop :=
  s.safety.safe = false ∧ (s.queue q).cfg.pending = some c ∧ queueEmpty (s.queue q) = true ∧
    (c.en && decide (c.size = 0)) = false ∧ (s.parcel c.parcel.toFin).state ≠ 0

theorem queue_settleCommit (n : Fin 121) (s : State) (q : Fin 256) : (settleCommit n s).queue q = s.queue q := by
  unfold settleCommit
  split <;> rfl

theorem queue_applyQueueCfg_ne {r : Fin 256} (other : r ≠ q) : (applyQueueCfg r s).queue q = s.queue q := by
  unfold applyQueueCfg
  split
  · rfl
  split
  · rfl
  split
  · rw [queue_settleCommit, rejectCommit, State.queue, pageError_queues]
    exact vget_vupd_ne _ _ other
  · rw [queue_settleCommit]
    exact vget_vupd_ne _ _ other

theorem applyQueueCfg_inForce {c : QueueCfg} (h : InForce c (s.queue q)) : applyQueueCfg q s = s := by
  rw [applyQueueCfg, h.2]

theorem CfgDue.inForce {c : QueueCfg} (h : CfgDue q c s) : InForce c ((applyQueueCfg q s).queue q) := by
  obtain ⟨-, pending, empty, sized, parcel⟩ := h
  unfold applyQueueCfg
  simp only [pending, empty, sized, decide_eq_false parcel, Bool.not_true, Bool.or_self, Bool.false_eq_true, if_false]
  rw [queue_settleCommit, queue_updQueue]
  simp only [InForce, Rws.apply, pending, and_self]

/-- A unit of the page leaves a queue alone whose configuration is in force. -/
theorem InForce.applyUnit {c : QueueCfg} (h : InForce c (s.queue q)) (u : Fin 16) :
    InForce c ((applyUnit (pgQueue q) u s).queue q) := by
  rw [applyUnit_queue]
  split
  · exact h
  · by_cases here : unitQueue q u = q
    · rwa [here, applyQueueCfg_inForce h]
    · rwa [queue_applyQueueCfg_ne here]

/-- A configuration that waits comes into force with the unit of its queue, and waits while others apply. -/
theorem CfgDue.applyUnit {c : QueueCfg} (due : CfgDue q c s) (u : Fin 16) :
    if unitQueue q u = q then InForce c ((applyUnit (pgQueue q) u s).queue q) else CfgDue q c (applyUnit (pgQueue q) u s) := by
  have safe := due.1
  simp only [applyUnit_queue, safe, Bool.false_eq_true, if_false]
  split
  · next here =>
    rw [here]
    exact due.inForce
  · next other =>
    have kept := uncommitted_applyQueueCfg (unitQueue q u) s
    have safety : (applyQueueCfg (unitQueue q u) s).safety = s.safety := (congrArg State.safety kept :)
    have parcels : (applyQueueCfg (unitQueue q u) s).parcels = s.parcels := (congrArg State.parcels kept :)
    unfold CfgDue
    rw [queue_applyQueueCfg_ne other, safety, State.parcel, parcels]
    exact due

theorem unitQueue_self (q : Fin 256) : unitQueue q ⟨q.val % 16, Nat.mod_lt _ (by omega)⟩ = q := by
  have same : q.val / 16 * 16 + q.val % 16 = q.val := Nat.div_add_mod' ..
  rw [unitQueue, same]
  exact Fin.ofNat_val_eq_self q

/-- Among the units of a page a configuration that waits comes into force. -/
theorem CfgDue.foldState {c : QueueCfg} {l : List (Fin 16)} (due : CfgDue q c s) (mem : ∃ u ∈ l, unitQueue q u = q) :
    InForce c ((foldState (fun u s => Machine.applyUnit (pgQueue q) u s) l s).queue q) := by
  induction l generalizing s with
  | nil =>
    obtain ⟨u, none, -⟩ := mem
    cases none
  | cons u rest ih =>
    have first := due.applyUnit u
    split at first
    · exact foldState_keeps (fun t => InForce c (t.queue q)) _ rest (fun u _ h => h.applyUnit u) _ first
    · next other =>
      obtain ⟨v, hv, here⟩ := mem
      rcases List.mem_cons.1 hv with rfl | later
      · exact absurd here other
      · exact ih first ⟨v, later, here⟩

/-- GO of a QGRP page brings a staged configuration of an empty queue into force that differs from the one before. -/
theorem writeGo_inForce {c : QueueCfg} (who : Writer) (safe : s.safety.safe = false) (staged : (s.queue q).cfg.staged = c)
    (new : c ≠ (s.queue q).cfg.live) (empty : queueEmpty (s.queue q) = true) (sized : (c.en && decide (c.size = 0)) = false)
    (parcel : (s.parcel c.parcel.toFin).state ≠ 0) : InForce c ((writeGo who (pgQueue q) s).queue q) := by
  have kept := uncommitted_queueGone (s := s) (q := q) who
  have safety : (queueGone who q s).safety = s.safety := (congrArg State.safety kept :)
  have parcels : (queueGone who q s).parcels = s.parcels := (congrArg State.parcels kept :)
  have gone : (queueGone who q s).queue q = { s.queue q with cfg := (s.queue q).cfg.go } := by
    rw [queueGone, queue_settleCommit]
    exact queue_goUnits
  have due : CfgDue q c (queueGone who q s) := by
    unfold CfgDue
    rw [gone, safety, State.parcel, parcels, Rws.go, staged, if_neg new]
    exact ⟨safe, rfl, empty, sized, parcel⟩
  rw [writeGo_queue, applyReady]
  simp only [appliesNow_queue, if_true]
  exact due.foldState ⟨_, List.mem_finRange _, unitQueue_self q⟩

end

end Sys2Proof.Machine
end

section
/-! PROOF. SetupRequestsAct: the requests for queues and objects, and the obligation. -/

namespace Sys2Proof.Machine

/-! ### QUEUE_CREATE -/

/-- The first number of a new queue. -/
def reqFirst (b : List Byte) : Word := BitVec.ofNat 32 (fieldNat b 24 4)

/-- The CFG that a create request gives its queue. -/
def reqCfg (b : List Byte) : QueueCfg :=
  { en := true, continuePolicy := (fieldNat b 20 1).testBit 0, wire := BitVec.ofNat 2 (fieldNat b 20 1 / 2)
    parcel := BitVec.ofNat 3 (fieldNat b 17 1), size := BitVec.ofNat 9 (fieldNat b 18 2) }

/-- The registers of a new queue, its CFG staged. -/
def newQueue (b : List Byte) (x : Queue) : Queue :=
  { x with
    tail := reqFirst b, consumed := reqFirst b, read := reqFirst b, nextCork := reqFirst b, stopped := false, resume := none
    cmds := [], submitTimes := [], readEntry := 1, cfg := { x.cfg with staged := reqCfg b } }

/-- The device when a new queue has its ring control block as well. -/
def ringLaid (b : List Byte) (s : State) : State :=
  (s.updQueue (reqQueue b) (newQueue b)).updWindow fun m =>
    m.writeNat (ringBase (reqQueue b)) 8 ((reqFirst b).toNat + (reqFirst b).toNat * 2 ^ 32)

/-- The device when a new queue has its cork log too, of which the lead is told. -/
def queueLaid (b : List Byte) (s : State) : State :=
  noteEcho (corkLog (reqQueue b)) 4096 none (initLog (reqQueue b) (reqFirst b) (ringLaid b s))

/-- The device once a queue has been created. -/
def queueMade (b : List Byte) (s : State) : State := writeGo (.hart 0) (pgQueue (reqQueue b)) (queueLaid b s)

section
variable {s : State} {p : Fin 8} {b : List Byte}

theorem createQueue_makes (passes : queueCheck s b = 0) : createQueue b s = (queueMade b s, some (0, [])) := by
  rw [createQueue, passes]
  rfl

theorem createQueue_refuses (fails : queueCheck s b ≠ 0) : createQueue b s = (s, some (queueCheck s b, [])) := by
  unfold createQueue
  split
  · next passes => exact absurd passes fails
  · rfl

theorem queueCheck_takeRequest : queueCheck (takeRequest p s) b = queueCheck s b := by
  rw [takeRequest_only]
  rfl

/-- What the checks of a create request establish. -/
theorem queueCheck_passes (passes : queueCheck s b = 0) :
    fieldNat b 17 1 ≤ 7 ∧ (fieldNat b 18 2 ≠ 0 ∧ fieldNat b 18 2 ≤ 511) ∧
    (s.queue (reqQueue b)).cfg.live.en = false ∧ (s.parcel (Fin.ofNat 8 (fieldNat b 17 1))).state = 2 := by
  unfold queueCheck at passes
  split at passes
  · cases passes
  next ranges =>
  split at passes
  · cases passes
  split at passes
  · cases passes
  next free =>
  simp only [Bool.or_eq_true, not_or, Bool.not_eq_true, decide_eq_false_iff_not, not_not] at free
  exact ⟨by omega, by omega, free⟩

theorem reqCfg_sized (size : fieldNat b 18 2 ≠ 0 ∧ fieldNat b 18 2 ≤ 511) : (reqCfg b).size ≠ 0 := by
  intro zero
  have value : fieldNat b 18 2 % 2 ^ 9 = 0 := by simpa [reqCfg] using congrArg BitVec.toNat zero
  omega

theorem reqCfg_parcel : (reqCfg b).parcel.toFin = Fin.ofNat 8 (fieldNat b 17 1) := rfl

theorem ringLaid_queue (b : List Byte) (s : State) : (ringLaid b s).queue (reqQueue b) = newQueue b (s.queue (reqQueue b)) :=
  queue_updQueue ..

/-- A new queue's memory changes nothing beside the host port. -/
theorem queueLaid_keeps (b : List Byte) (s : State) : (queueLaid b s).queues = (ringLaid b s).queues ∧
    (queueLaid b s).parcels = s.parcels ∧ (queueLaid b s).safety = s.safety ∧ (queueLaid b s).fw = s.fw ∧
    (queueLaid b s).pending = s.pending := by
  simp only [queueLaid, noteEcho_queues, noteEcho_parcels, noteEcho_safety, noteEcho_fw, noteEcho_pending]
  exact initLog_keeps (ringLaid b s) (reqQueue b) (reqFirst b)

theorem queueMade_keeps (b : List Byte) (s : State) : (queueMade b s).fw = s.fw ∧ (queueMade b s).pending = s.pending ∧
    (queueMade b s).port = (queueLaid b s).port := by
  obtain ⟨-, -, -, fw, pending⟩ := queueLaid_keeps b s
  have kept := uncommitted_writeGo (.hart 0) (reqQueue b) (queueLaid b s)
  exact ⟨(congrArg State.fw kept :).trans fw, (congrArg State.pending kept :).trans pending, (congrArg State.port kept :)⟩

/-- The memory of a new queue: its ring control block, and its cork log. -/
theorem queueMade_window (b : List Byte) (s : State) :
    (queueMade b s).port.window.readBytes (ringBase (reqQueue b)) 8 =
      leBytes 4 (reqFirst b).toNat ++ leBytes 4 (reqFirst b).toNat ∧
    ∀ r < 128, HoldsRecord (corkLog (reqQueue b)) (reqFirst b) r (queueMade b s).port.window := by
  obtain ⟨-, -, port⟩ := queueMade_keeps b s
  obtain ⟨records, -⟩ := window_initLog (ringLaid b s) (reqQueue b) (reqFirst b)
  rw [port, queueLaid, window_noteEcho]
  refine ⟨?_, records⟩
  rw [ring_initLog, ← leBytes_pair]
  have written := Mem.readBytes_writeBytes s.port.window (ringBase (reqQueue b))
    (leBytes 8 ((reqFirst b).toNat + (reqFirst b).toNat * 2 ^ 32))
  rw [length_leBytes] at written
  exact written

/-- The registers of a new queue, beside its CFG. -/
theorem queueMade_bare (b : List Byte) (s : State) :
    ((queueMade b s).queue (reqQueue b)).bare = (newQueue b (s.queue (reqQueue b))).bare := by
  obtain ⟨queues, -⟩ := queueLaid_keeps b s
  rw [queueMade, bare_of_uncommitted (uncommitted_writeGo ..), State.queue, queues, ← State.queue, ringLaid_queue]

/-- Outside the safe state a new queue has its CFG at once. -/
theorem queueMade_inForce (passes : queueCheck s b = 0) (safe : s.safety.safe = false) :
    InForce (reqCfg b) ((queueMade b s).queue (reqQueue b)) := by
  obtain ⟨-, size, disabled, active⟩ := queueCheck_passes passes
  obtain ⟨queues, parcels, safety, -⟩ := queueLaid_keeps b s
  have laid : (queueLaid b s).queue (reqQueue b) = newQueue b (s.queue (reqQueue b)) := by
    rw [State.queue, queues, ← State.queue, ringLaid_queue]
  refine writeGo_inForce _ (by rwa [safety]) (by rw [laid]; rfl) (fun same => ?_) ?_ ?_ ?_
  · rw [laid] at same
    have enabled : (s.queue (reqQueue b)).cfg.live.en = true := (congrArg QueueCfg.en same).symm
    cases enabled.symm.trans disabled
  · rw [laid]
    simp [queueEmpty, newQueue]
  · rw [decide_eq_false (reqCfg_sized size), Bool.and_false]
  · rw [State.parcel, parcels, ← State.parcel, reqCfg_parcel, active]
    decide

theorem queueCreate_serves (req : Requested 0x20 p s) (passes : queueCheck s (requestOf p s) = 0) :
    ∃ t, exec (.queueCreate p) s = .next t ∧ Served 0x20 p 0 [] s t ∧
    (s.safety.safe = false → (t.queue (reqQueue (requestOf p s))).cfg.live = reqCfg (requestOf p s)) ∧
    (t.queue (reqQueue (requestOf p s))).bare =
      (newQueue (requestOf p s) ((takeRequest p s).queue (reqQueue (requestOf p s)))).bare ∧
    t.port.window.readBytes (ringBase (reqQueue (requestOf p s))) 8 =
      leBytes 4 (reqFirst (requestOf p s)).toNat ++ leBytes 4 (reqFirst (requestOf p s)).toNat ∧
    ∀ r < 128, HoldsRecord (corkLog (reqQueue (requestOf p s))) (reqFirst (requestOf p s)) r t.port.window := by
  have passes' : queueCheck (takeRequest p s) (requestOf p s) = 0 := by rwa [queueCheck_takeRequest]
  obtain ⟨fw, pending, -⟩ := queueMade_keeps (requestOf p s) (takeRequest p s)
  have takenPending : (takeRequest p s).pending = s.pending := by rw [takeRequest_only]
  have takenSafety : (takeRequest p s).safety = s.safety := by rw [takeRequest_only]
  obtain ⟨t, step, served, only, above⟩ := answer_served req (act := createQueue) (createQueue_makes passes') fw
    (pending.trans takenPending) (by decide) (by simp)
  have queues : t.queues = (queueMade (requestOf p s) (takeRequest p s)).queues := by rw [only]
  obtain ⟨ring, records⟩ := queueMade_window (requestOf p s) (takeRequest p s)
  refine ⟨t, step, served, fun safe => ?_, ?_, ?_, fun r hr => ?_⟩
  · rw [State.queue, queues]
    exact (queueMade_inForce passes' (by rwa [takenSafety])).1
  · rw [State.queue, queues]
    exact queueMade_bare ..
  · rw [← ring]
    refine Mem.readBytes_congr fun x lo _ => above x ?_
    unfold ringBase at lo
    omega
  · have same (a n : Nat) (high : 0x500000 ≤ a) : t.port.window.readBytes a n =
        (queueMade (requestOf p s) (takeRequest p s)).port.window.readBytes a n :=
      Mem.readBytes_congr fun x lo _ => above x (by omega)
    obtain ⟨number, mark⟩ := records r hr
    have log : 0x500000 ≤ corkLog (reqQueue (requestOf p s)) := by unfold corkLog; omega
    exact ⟨(same _ _ (by omega)).trans number, (same _ _ (by omega)).trans mark⟩

theorem queueCreate_refuses (req : Requested 0x20 p s) (fails : queueCheck s (requestOf p s) ≠ 0) :
    ∃ t, exec (.queueCreate p) s = .next t ∧ Refused 0x20 p (queueCheck s (requestOf p s)) s t :=
  answer_refused req (act := createQueue) (code := queueCheck s (requestOf p s))
    ((createQueue_refuses (by rwa [queueCheck_takeRequest])).trans (by rw [queueCheck_takeRequest])) fails (by decide)

/-! ### QUEUE_DESTROY -/

/-- The device when the CFG of a queue is staged with EN cleared. -/
def disableStaged (q : Fin 256) (s : State) : State :=
  s.updQueue q fun x => { x with cfg := { x.cfg with staged := { x.cfg.live with en := false } } }

theorem destroyQueue_disables {q : Fin 256} (number : q = reqQueue b) (enabled : (s.queue q).cfg.live.en = true)
    (empty : queueEmpty (s.queue q) = true) :
    destroyQueue b s = (writeGo (.hart 0) (pgQueue q) (disableStaged q s), some (0, [])) := by
  subst number
  simp only [destroyQueue, enabled, empty, Bool.not_true, Bool.false_eq_true, if_false]
  rfl

theorem destroyQueue_absent {q : Fin 256} (number : q = reqQueue b) (absent : (s.queue q).cfg.live.en = false) :
    destroyQueue b s = (s, some (0x22, [])) := by
  subst number
  simp only [destroyQueue, absent, Bool.not_false, if_true]
  rfl

theorem destroyQueue_busy {q : Fin 256} (number : q = reqQueue b) (enabled : (s.queue q).cfg.live.en = true)
    (busy : queueEmpty (s.queue q) = false) : destroyQueue b s = (s, some (0x21, [])) := by
  subst number
  simp only [destroyQueue, enabled, busy, Bool.not_true, Bool.not_false, Bool.false_eq_true, if_false, if_true]
  rfl

theorem disableStaged_inForce {q : Fin 256} (safe : s.safety.safe = false) (enabled : (s.queue q).cfg.live.en = true)
    (empty : queueEmpty (s.queue q) = true) (parcel : (s.parcel (s.parcelOf q)).state ≠ 0) :
    InForce { (s.queue q).cfg.live with en := false } ((writeGo (.hart 0) (pgQueue q) (disableStaged q s)).queue q) := by
  have staged : (disableStaged q s).queue q = { s.queue q with
      cfg := { (s.queue q).cfg with staged := { (s.queue q).cfg.live with en := false } } } := queue_updQueue ..
  refine writeGo_inForce _ safe (by rw [staged]) (fun same => ?_) (by rw [staged]; exact empty) rfl parcel
  rw [staged] at same
  cases (congrArg QueueCfg.en same).trans enabled

theorem queueDestroy_acts {q : Fin 256} (req : Requested 0x21 p s) (number : q = reqQueue (requestOf p s)) :
    ∃ t, exec (.queueDestroy p) s = .next t ∧
    ((s.queue q).cfg.live.en = true → queueEmpty (s.queue q) = true → Served 0x21 p 0 [] s t ∧
      (s.safety.safe = false → (s.parcel (s.parcelOf q)).state ≠ 0 → (t.queue q).cfg.live.en = false)) ∧
    ((s.queue q).cfg.live.en = false → Refused 0x21 p 0x22 s t) ∧
    ((s.queue q).cfg.live.en = true → queueEmpty (s.queue q) = false → Refused 0x21 p 0x21 s t) := by
  have queue : (takeRequest p s).queue q = s.queue q := by rw [takeRequest_only]; rfl
  cases enabled : (s.queue q).cfg.live.en with
  | false =>
    obtain ⟨t, step, refused⟩ := answer_refused req (act := destroyQueue) (code := 0x22)
      (destroyQueue_absent number (by rwa [queue])) (by decide) (by decide)
    exact ⟨t, step, by simp, fun _ => refused, by simp⟩
  | true =>
    cases empty : queueEmpty (s.queue q) with
    | false =>
      obtain ⟨t, step, refused⟩ := answer_refused req (act := destroyQueue) (code := 0x21)
        (destroyQueue_busy number (by rwa [queue]) (by rwa [queue])) (by decide) (by decide)
      exact ⟨t, step, by simp, by simp, fun _ _ => refused⟩
    | true =>
      have kept := uncommitted_writeGo (.hart 0) q (disableStaged q (takeRequest p s))
      have takenPending : (takeRequest p s).pending = s.pending := by rw [takeRequest_only]
      obtain ⟨t, step, served, only, -⟩ := answer_served req (act := destroyQueue)
        (destroyQueue_disables number (by rwa [queue]) (by rwa [queue])) ((congrArg State.fw kept :).trans rfl)
        (((congrArg State.pending kept :).trans rfl).trans takenPending) (by decide) (by simp)
      refine ⟨t, step, fun _ _ => ⟨served, fun safe parcel => ?_⟩, by simp, by simp⟩
      have inForce := disableStaged_inForce (s := takeRequest p s) (q := q) (by rw [takeRequest_only]; exact safe)
        (by rwa [queue]) (by rwa [queue]) (by rw [takeRequest_only]; exact parcel)
      have queues : t.queues = (writeGo (.hart 0) (pgQueue q) (disableStaged q (takeRequest p s))).queues := by rw [only]
      rw [State.queue, queues]
      exact congrArg QueueCfg.en inForce.1

/-! ### Objects -/

/-- The object that a create request describes. -/
def reqObject (b : List Byte) : Obj :=
  { base := fieldNat b 24 8, length := fieldNat b 32 8, parcel := Fin.ofNat 8 (fieldNat b 16 1)
    holds := 0, releasePending := false, poisoned := false }

theorem createObject_makes (passes : objectCheck s b = 0) : createObject b s =
    ({ s with objects := putKey s.objects (lowestFree s.objects 0) (reqObject b) },
      some (0, leBytes 2 (lowestFree s.objects 0) ++ leBytes 6 0)) := by
  rw [createObject, passes]
  rfl

theorem createObject_refuses (fails : objectCheck s b ≠ 0) : createObject b s = (s, some (objectCheck s b, [])) := by
  unfold createObject
  split
  · next passes => exact absurd passes fails
  · rfl

theorem objectCheck_takeRequest : objectCheck (takeRequest p s) b = objectCheck s b := by
  rw [takeRequest_only]
  rfl

theorem objects_takeRequest : (takeRequest p s).objects = s.objects := by rw [takeRequest_only]

/-- A request that changes the objects alone. -/
theorem answer_objects {typ : Nat} {fields : List Byte} {objects : List (Nat × Obj)}
    {act : List Byte → State → State × Option (Nat × List Byte)} (req : Requested typ p s)
    (e : act (requestOf p s) (takeRequest p s) = ({ takeRequest p s with objects := objects }, some (0, fields)))
    (small : typ ||| 0x4000 < 65536) (fits : fields.length ≤ 232) : ∃ t, answer (serve typ p act) s = .next t ∧
    Served typ p 0 fields s t ∧ t.objects = objects ∧ t = { s with objects := t.objects, port := t.port, fw := t.fw } := by
  have pending : (takeRequest p s).pending = s.pending := by rw [takeRequest_only]
  obtain ⟨t, step, served, only, -⟩ := answer_served req e rfl pending small fits
  refine ⟨t, step, served, by rw [only], ?_⟩
  rw [only, takeRequest_only]

theorem objectCreate_acts (req : Requested 0x30 p s) : ∃ t, exec (.objectCreate p) s = .next t ∧
    (objectCheck s (requestOf p s) = 0 → Served 0x30 p 0 (leBytes 2 (lowestFree s.objects 0) ++ [0, 0, 0, 0, 0, 0]) s t ∧
      t.object (lowestFree s.objects 0) = some (reqObject (requestOf p s)) ∧
      t = { s with objects := t.objects, port := t.port, fw := t.fw }) ∧
    (objectCheck s (requestOf p s) ≠ 0 → Refused 0x30 p (objectCheck s (requestOf p s)) s t) := by
  by_cases passes : objectCheck s (requestOf p s) = 0
  · have make := createObject_makes (s := takeRequest p s) (b := requestOf p s) (by rwa [objectCheck_takeRequest])
    rw [objects_takeRequest] at make
    obtain ⟨t, step, served, objects, only⟩ := answer_objects req (act := createObject) make (by decide)
      (by rw [List.length_append, length_leBytes, length_leBytes]; omega)
    refine ⟨t, step, fun _ => ⟨served, ?_, only⟩, fun fails => absurd passes fails⟩
    rw [State.object, objects, lookupKey_putKey, if_pos rfl]
  · obtain ⟨t, step, refused⟩ := answer_refused req (act := createObject) (code := objectCheck s (requestOf p s))
      ((createObject_refuses (by rwa [objectCheck_takeRequest])).trans (by rw [objectCheck_takeRequest])) passes (by decide)
    exact ⟨t, step, fun h => absurd h passes, fun _ => refused⟩

theorem clearPoison_range (outside : 7 < fieldNat b 18 1) : clearPoison b s = (s, some (5, [])) := if_pos outside

theorem clearPoison_absent (inside : fieldNat b 18 1 ≤ 7) (absent : objectOf s (fieldNat b 18 1) (fieldNat b 16 2) = none) :
    clearPoison b s = (s, some (0x32, [])) := by
  rw [clearPoison, if_neg (Nat.not_lt.2 inside), absent]
  rfl

theorem object_of_objectOf {parcel handle : Nat} {o : Obj} (h : objectOf s parcel handle = some o) :
    s.object handle = some o := (Option.filter_eq_some_iff.1 h).1

theorem clearPoison_clears {o : Obj} (inside : fieldNat b 18 1 ≤ 7)
    (found : objectOf s (fieldNat b 18 1) (fieldNat b 16 2) = some o) : clearPoison b s =
    ({ s with objects := putKey s.objects (fieldNat b 16 2) { o with poisoned := false } }, some (0, [])) := by
  rw [clearPoison, if_neg (Nat.not_lt.2 inside), found, State.updObject, object_of_objectOf found]
  rfl

theorem objectClearPoison_acts (req : Requested 0x31 p s) : ∃ t, exec (.objectClearPoison p) s = .next t ∧
    (7 < fieldNat (requestOf p s) 18 1 → Refused 0x31 p 5 s t) ∧
    (fieldNat (requestOf p s) 18 1 ≤ 7 → objectOf s (fieldNat (requestOf p s) 18 1) (fieldNat (requestOf p s) 16 2) = none →
      Refused 0x31 p 0x32 s t) ∧
    (∀ o, fieldNat (requestOf p s) 18 1 ≤ 7 →
      objectOf s (fieldNat (requestOf p s) 18 1) (fieldNat (requestOf p s) 16 2) = some o → Served 0x31 p 0 [] s t ∧
      t.object (fieldNat (requestOf p s) 16 2) = some { o with poisoned := false } ∧
      t = { s with objects := t.objects, port := t.port, fw := t.fw }) := by
  have same : objectOf (takeRequest p s) (fieldNat (requestOf p s) 18 1) (fieldNat (requestOf p s) 16 2) =
      objectOf s (fieldNat (requestOf p s) 18 1) (fieldNat (requestOf p s) 16 2) := by
    rw [objectOf, State.object, objects_takeRequest, ← State.object, ← objectOf]
  rcases Nat.lt_or_ge 7 (fieldNat (requestOf p s) 18 1) with outside | inside
  · obtain ⟨t, step, refused⟩ := answer_refused req (act := clearPoison) (code := 5) (clearPoison_range outside)
      (by decide) (by decide)
    exact ⟨t, step, fun _ => refused, fun h => absurd h (Nat.not_le.2 outside), fun _ h => absurd h (Nat.not_le.2 outside)⟩
  cases found : objectOf s (fieldNat (requestOf p s) 18 1) (fieldNat (requestOf p s) 16 2) with
  | none =>
    obtain ⟨t, step, refused⟩ := answer_refused req (act := clearPoison) (code := 0x32)
      (clearPoison_absent inside (same.trans found)) (by decide) (by decide)
    exact ⟨t, step, fun h => absurd h (Nat.not_lt.2 inside), fun _ _ => refused, (fun _ _ h => nomatch h)⟩
  | some o =>
    obtain ⟨t, step, served, objects, only⟩ := answer_objects req (act := clearPoison)
      (clearPoison_clears inside (same.trans found)) (by decide) (by simp)
    refine ⟨t, step, fun h => absurd h (Nat.not_lt.2 inside), (fun _ h => nomatch h), fun _ _ h => ?_⟩
    cases h
    refine ⟨served, ?_, only⟩
    rw [State.object, objects, lookupKey_putKey, if_pos rfl]

end

/-- Settles O42: each clause by the lemma of its request. A request is answered by one message (`Answers`) on what its act has left
of the device, and the commits that the acts make leave mailboxes and window SRAM alone. -/
theorem setupRequestsAct : Obligations.SetupRequestsAct := by
  unfold Obligations.SetupRequestsAct
  refine ⟨fun s p => parcelCreate_owes, fun s p => parcelCreate_wakes, fun s p => parcelCreate_refuses,
    fun s p => parcelDestroy_acts, ?_, fun s p => queueCreate_refuses, fun s p q => queueDestroy_acts,
    fun s p => objectCreate_acts, fun s p => objectClearPoison_acts⟩
  rintro s p _ _ req passes rfl rfl
  obtain ⟨t, step, served, cfg, bare, ring, records⟩ := queueCreate_serves req passes
  exact ⟨t, step, served, cfg, (congrArg Queue.tail bare :), (congrArg Queue.consumed bare :), (congrArg Queue.nextCork bare :),
    (congrArg Queue.cmds bare :), ring, records⟩

end Sys2Proof.Machine
end

section
/-! PROOF. Window addresses (R419, R420): the channel is bit g of a window address and the channel offset its other bits, so that an
address gives back its channel, row, bank and column. -/

namespace Sys2Proof.Machine

section
variable (ilv : BitVec 2) (ch : Fin 2) (off : Nat)

/-- R420 by quotient and remainder: above the granule stand the granule's number and, as the lowest bit, the channel. -/
theorem windowAddress_eq : windowAddress ilv ch off =
    2 ^ granuleBit ilv * (2 * (off / 2 ^ granuleBit ilv) + ch.val) + off % 2 ^ granuleBit ilv := by
  unfold windowAddress
  ring

theorem windowAddress_mod : windowAddress ilv ch off % 2 ^ granuleBit ilv = off % 2 ^ granuleBit ilv := by
  rw [windowAddress_eq, Nat.mul_add_mod, Nat.mod_mod]

theorem windowAddress_div : windowAddress ilv ch off / 2 ^ granuleBit ilv = 2 * (off / 2 ^ granuleBit ilv) + ch.val := by
  have granule : 0 < 2 ^ granuleBit ilv := Nat.two_pow_pos _
  rw [windowAddress_eq, Nat.mul_add_div granule, Nat.div_eq_of_lt (Nat.mod_lt _ granule), Nat.add_zero]

/-- R420 as it is written, with shifts. -/
theorem windowAddress_shifts {g : Nat} (strap : granuleBit ilv = g) :
    windowAddress ilv ch off = ((off >>> g) <<< (g + 1)) ||| (ch.val <<< g) ||| (off &&& (2 ^ g - 1)) := by
  have low : off % 2 ^ g < 2 ^ g := Nat.mod_lt _ (Nat.two_pow_pos g)
  have below : ch.val <<< g + off % 2 ^ g < 2 ^ (g + 1) := by
    have : ch.val * 2 ^ g ≤ 1 * 2 ^ g := Nat.mul_le_mul_right _ (Nat.le_of_lt_succ ch.isLt)
    rw [Nat.shiftLeft_eq, pow_succ]
    omega
  calc windowAddress ilv ch off = (off >>> g) <<< (g + 1) + (ch.val <<< g + off % 2 ^ g) := by
        simp only [windowAddress, strap, Nat.shiftLeft_eq, Nat.shiftRight_eq_div_pow, Nat.add_assoc]
    _ = (off >>> g) <<< (g + 1) ||| (ch.val <<< g ||| off % 2 ^ g) := by
        rw [Nat.shiftLeft_add_eq_or_of_lt below, Nat.shiftLeft_add_eq_or_of_lt low]
    _ = ((off >>> g) <<< (g + 1)) ||| (ch.val <<< g) ||| (off &&& (2 ^ g - 1)) := by
        rw [Nat.or_assoc, Nat.and_two_pow_sub_one_eq_mod]

end

theorem windowAddress_injective {ilv : BitVec 2} {ch ch' : Fin 2} {off off' : Nat}
    (h : windowAddress ilv ch off = windowAddress ilv ch' off') : ch = ch' ∧ off = off' := by
  have low := congrArg (· % 2 ^ granuleBit ilv) h
  have high := congrArg (· / 2 ^ granuleBit ilv) h
  simp only [windowAddress_mod, windowAddress_div] at low high
  have quotient : off / 2 ^ granuleBit ilv = off' / 2 ^ granuleBit ilv := by omega
  refine ⟨by omega, ?_⟩
  rw [← Nat.div_add_mod off (2 ^ granuleBit ilv), quotient, low, Nat.div_add_mod]

theorem channelOffset_injective {row row' : BitVec 17} {bank bank' : BitVec 4} {col col' : BitVec 11}
    (h : channelOffset row bank col.toNat = channelOffset row' bank' col'.toNat) : row = row' ∧ bank = bank' ∧ col = col' := by
  unfold channelOffset at h
  refine ⟨BitVec.eq_of_toNat_eq ?_, BitVec.eq_of_toNat_eq ?_, BitVec.eq_of_toNat_eq ?_⟩ <;> omega

/-- Settles O21: the address gives its channel and channel offset, and the offset its row, bank and column. -/
theorem windowAddressesAreDistinct : Obligations.WindowAddressesAreDistinct := by
  intro ilv ch ch' row row' bank bank' col col' same
  obtain ⟨channel, offset⟩ := windowAddress_injective same
  exact ⟨channel, channelOffset_injective offset⟩

/-! ### CONFIG.ILV -/

/-- A bit of a packed word is a bit of one of its fields. -/
theorem getLsbD_pack (l : List (Nat × Nat)) {i : Nat} (h : i < 32) :
    (pack l).getLsbD i = l.any fun f => decide (f.1 ≤ i) && f.2.testBit (i - f.1) := by
  induction l with
  | nil => simp [pack]
  | cons f rest ih =>
    rw [pack, BitVec.getLsbD_or, BitVec.getLsbD_ofNat, Nat.testBit_shiftLeft, ih, decide_eq_true h, Bool.true_and]
    rfl

/-- HOSTPORT.CONFIG.ILV: the rate below it reaches no bit of it, and the fields above it begin beyond. -/
theorem readHostPort_ilv (s : State) : ((readHostPort s 0x10).extractLsb' 14 2 : BitVec 2) = s.straps.hostIlv := by
  refine BitVec.eq_of_getLsbD_eq fun i hi => ?_
  have rate : s.port.rateMts.toNat.testBit (14 + i) = false :=
    Nat.testBit_lt_two_pow (s.port.rateMts.isLt.trans_le (Nat.pow_le_pow_right (by decide) (by omega)))
  have above (n : Nat) (hn : 16 ≤ n) : ¬ n ≤ 14 + i := by omega
  rw [BitVec.getLsbD_extractLsb']
  unfold readHostPort
  simp only [hi]
  rw [getLsbD_pack _ (by omega)]
  simp [rate, above, BitVec.getLsbD]

/-- Settles O60: R420 with the g of each strap, and the field of CONFIG. -/
theorem windowAddressFollowsTheStrap : Obligations.WindowAddressFollowsTheStrap :=
  ⟨fun ch off _ => windowAddress_shifts 0 ch off rfl, fun ch off _ => windowAddress_shifts 1 ch off rfl,
    fun ch off _ => windowAddress_shifts 2 ch off rfl, fun ch off _ => windowAddress_shifts 3 ch off rfl, readHostPort_ilv⟩

end Sys2Proof.Machine
end

section
/-! PROOF. What a burst of the host does (R422, R433, R436): the bytes that an unmasked burst writes, a write and a read of this
device's own slot, and HostReadsWhatItWrote. -/

namespace Sys2Proof.Machine

/-! ### What a host port error leaves of the port -/

theorem errorWire_port (s : State) : (errorWire s).port =
    { s.port with wires := (errorWire s).port.wires, pushes := (errorWire s).port.pushes } := by
  unfold errorWire raiseWire noteEcho
  repeat' split
  all_goals rfl

section
variable (c : BitVec 16) (w : Nat) (s : State)

/-- Of the port, an error changes its count, the wires of interrupts and the units that wait to be pushed. -/
theorem hostError_port : (hostError c w s).port = { s.port with
    errCount := satInc s.port.errCount 1, wires := (hostError c w s).port.wires, pushes := (hostError c w s).port.pushes } := by
  refine (errorWire_port _).trans ?_
  exact congrArg (fun port : HostPort => { port with
    errCount := satInc port.errCount 1, wires := (hostError c w s).port.wires, pushes := (hostError c w s).port.pushes })
    (pageError_port pgHostPort c 0 (BitVec.ofNat 64 w) 0x40 s)

@[simp] theorem hostError_window : (hostError c w s).port.window = s.port.window :=
  (congrArg HostPort.window (hostError_port c w s) :)

@[simp] theorem hostError_forward : (hostError c w s).port.forward = s.port.forward :=
  (congrArg HostPort.forward (hostError_port c w s) :)

@[simp] theorem hostError_fwdDropped : (hostError c w s).port.fwdDropped = s.port.fwdDropped :=
  (congrArg HostPort.fwdDropped (hostError_port c w s) :)

@[simp] theorem hostError_linkUncorr : (hostError c w s).port.linkUncorr = s.port.linkUncorr :=
  (congrArg HostPort.linkUncorr (hostError_port c w s) :)

end

/-! ### The bytes of a burst -/

theorem writtenBytes_cons (off : Nat) (b : Byte) (rest : List (Option Byte)) :
    writtenBytes off (some b :: rest) = (off, b) :: writtenBytes (off + 1) rest := by
  simp only [writtenBytes, List.zipIdx_cons', List.filterMap_cons, List.filterMap_map, Option.map_some, Nat.add_zero]
  refine congrArg _ (List.filterMap_congr fun x _ => ?_)
  simp [Nat.add_right_comm, Nat.add_assoc]

/-- The bytes of an unmasked burst form one run. -/
theorem joinRuns_writtenBytes (off : Nat) (b : Byte) (rest : List Byte) :
    joinRuns (writtenBytes off ((b :: rest).map some)) = [(off, b :: rest)] := by
  induction rest generalizing off b with
  | nil => rfl
  | cons c rest ih =>
    rw [List.map_cons, writtenBytes_cons, joinRuns, ih]
    exact if_pos rfl

/-- An unmasked burst is one write of its bytes. -/
theorem Mem.writeAll_writtenBytes (m : Mem) (off : Nat) {data : List Byte} (some_ : data ≠ []) :
    m.writeAll (writtenBytes off (data.map some)) = m.writeBytes off data := by
  obtain ⟨b, rest, rfl⟩ := List.exists_cons_of_ne_nil some_
  rw [Mem.writeAll, joinRuns_writtenBytes]
  rfl

theorem writtenBytes_ne_nil (off : Nat) {data : List Byte} (some_ : data ≠ []) : writtenBytes off (data.map some) ≠ [] := by
  obtain ⟨b, rest, rfl⟩ := List.exists_cons_of_ne_nil some_
  rw [List.map_cons, writtenBytes_cons]
  exact List.cons_ne_nil _ _

theorem isEmpty_writtenBytes (off : Nat) {data : List Byte} (some_ : data ≠ []) :
    (writtenBytes off (data.map some)).isEmpty = false :=
  List.isEmpty_eq_false_iff.2 (writtenBytes_ne_nil off some_)

theorem pos_of_burstOk {first n : Nat} (ok : burstOk first n = true) : 0 < n := by
  rw [burstOk, Bool.and_eq_true] at ok
  exact of_decide_eq_true ok.1

theorem data_of_burstOk {first : Nat} {data : List Byte} (ok : burstOk first data.length = true) : data ≠ [] :=
  List.length_pos_iff.1 (pos_of_burstOk ok)

/-- A burst that ends within a range begins below its end. -/
theorem first_lt_of_burstOk {first n a top : Nat} (ok : burstOk first n = true) (fits : a + n ≤ top) : a < top :=
  (Nat.lt_add_of_pos_right (pos_of_burstOk ok)).trans_le fits

/-! ### Commands of the channels -/

/-- The device with another count of errors that link ECC has corrected. -/
def linkCounted (count : Word) (s : State) : State := { s with port := { s.port with linkCorr := count } }

section
variable {s : State} {ch : Fin 2} {row : BitVec 17} {bank : BitVec 4} {col : BitVec 11}

theorem exec_hostWrite {data : List (Option Byte)} (ecc : LinkEcc) (ok : burstOk col.toNat data.length = true) :
    exec (.hostWrite ch row bank col data ecc) s =
      .next { stepHostWrite ch row bank col data ecc s with pending := s.pending } := answerIf_of ok ..

theorem exec_hostRead {n : Nat} (answers : portAnswers s ch = true) (ok : burstOk col.toNat n = true) :
    exec (.hostRead ch row bank col n) s = .next { windowRead (hostWindow s ch row bank col) n s with pending := s.pending } := by
  refine (answerIf_of ok ..).trans ?_
  rw [stepHostRead, if_pos answers]
  rfl

theorem isLead_of_portAnswers (h : portAnswers s ch = true) : isLead s = true := by
  simp only [portAnswers, Bool.and_eq_true] at h
  exact h.1.1

theorem self_of_isLead (h : isLead s = true) : self s = 0 := by
  rw [self, of_decide_eq_true h]
  rfl

/-- R417: a write that link ECC does not stop is made at the window; a corrected one is counted. -/
theorem stepHostWrite_reaches {ecc : LinkEcc} (data : List (Option Byte)) (reaches : HostReaches s ch ecc) :
    ∃ count, stepHostWrite ch row bank col data ecc s =
      windowWrite (hostWindow s ch row bank col) data (linkCounted count s) := by
  obtain ⟨answers, -, passes⟩ := reaches
  unfold stepHostWrite hostWindow
  simp only [answers, Bool.not_true, Bool.false_eq_true, if_false]
  split
  · exact ⟨s.port.linkCorr, rfl⟩
  · exact ⟨_, rfl⟩
  · next stopped =>
    split at stopped
    · next checked => exact absurd stopped (passes.resolve_left (by simp [checked]))
    · cases stopped

/-- R417: a write in which link ECC finds an error that it cannot correct. -/
theorem stepHostWrite_uncorrectable (data : List (Option Byte)) (answers : portAnswers s ch = true) (checked : writeEcc s ch = true) :
    stepHostWrite ch row bank col data .uncorrectable s = hostError 8 (hostWindow s ch row bank col)
      { s with port := { s.port with linkUncorr := satInc s.port.linkUncorr 1 } } := by
  unfold stepHostWrite hostWindow
  simp only [answers, checked, Bool.not_true, Bool.false_eq_true, if_false, if_true]

end

/-! ### This device's own slot -/

section
variable {s : State} {w : Nat}

theorem offsetOf_own (slot : slotOf w = 0) : offsetOf w = w := by
  unfold slotOf at slot
  unfold offsetOf
  omega

theorem slotOf_low (h : w < 2 ^ 27) : slotOf w = 0 := Nat.div_eq_of_lt h

theorem windowWrite_own (data : List (Option Byte)) (lead : isLead s = true) (present : slotAbsent s 0 = false) (slot : slotOf w = 0) :
    windowWrite w data s = localWrite w data s := by
  unfold windowWrite
  rw [slot, present, self_of_isLead lead, offsetOf_own slot, if_neg Bool.false_ne_true, if_pos rfl]

theorem windowRead_own (n : Nat) (lead : isLead s = true) (present : slotAbsent s 0 = false) (slot : slotOf w = 0) :
    windowRead w n s = localRead w n s := by
  unfold windowRead
  rw [slot, present, self_of_isLead lead, offsetOf_own slot, if_neg Bool.false_ne_true, if_pos rfl]

theorem slotPresent (devices : 0 < s.port.devices.toNat) (found : ¬ 0 ∈ s.port.lost) : slotAbsent s 0 = false := by
  simp [slotAbsent, found, Nat.pos_iff_ne_zero.1 devices]

/-- Table 11.4: between the registers and the end of staging SRAM only the 2 MiB below staging SRAM are reserved. -/
theorem reservedOffset_sram {off : Nat} (lo : 0x400000 ≤ off) (hi : off < 0xE00000 ∨ 0x1000000 ≤ off ∧ off < 0x2800000) :
    reservedOffset off = false := by
  unfold reservedOffset
  rw [if_neg (by omega)]
  simp only [Bool.or_eq_false_iff, Bool.and_eq_false_iff, decide_eq_false_iff_not]
  omega

/-- R422: a write to staging SRAM stores its bytes. -/
theorem localWrite_staging {off : Nat} {data : List Byte} (safe : s.safety.safe = false) (some_ : data ≠ [])
    (lo : 0x1000000 ≤ off) (hi : off < 0x2800000) :
    localWrite off (data.map some) s = s.updWindow fun m => m.writeBytes off data := by
  unfold localWrite
  simp only [isEmpty_writtenBytes off some_, reservedOffset_sram (by omega) (.inr ⟨lo, hi⟩), safe, Bool.false_eq_true]
  simp (disch := omega) only [if_neg, if_false, Mem.writeAll_writtenBytes _ _ some_]

/-! ### Reads of staging SRAM -/

/-- Is an offset in none of the ranges that running commands write? -/
theorem inRanges_settled {off : Nat} (h : ¬ Unsettled s off) : inRanges (unsettledStaging s) off = false := by
  rw [Bool.eq_false_iff]
  intro within
  obtain ⟨r, listed, inside⟩ := List.any_eq_true.1 within
  simp only [Bool.and_eq_true, decide_eq_true_eq] at inside
  exact h ⟨r, listed, inside⟩

@[simp] theorem length_maskBytes (l : List (Nat × Nat)) (a : Nat) (bytes : List Byte) :
    (maskBytes s l a bytes).length = bytes.length := by
  unfold maskBytes
  split
  · rfl
  · simp

theorem maskBytes_getD {l : List (Nat × Nat)} {a i : Nat} {bytes : List Byte} (outside : inRanges l (a + i) = false) :
    (maskBytes s l a bytes).getD i 0 = bytes.getD i 0 := by
  unfold maskBytes
  split
  · rfl
  · rcases Nat.lt_or_ge i bytes.length with inside | beyond
    · simp [inside, outside]
    · simp [beyond]

/-- R433: a read of staging SRAM gives the bytes that stand there, but for those that running commands write. -/
theorem localRead_staging {off n : Nat} (lo : 0x1000000 ≤ off) (hi : off < 0x2800000) :
    ∃ bytes count, localRead off n s = driveData bytes { s with freeCtr := count } ∧ bytes.length = n ∧
      (∀ i, ¬ Unsettled s (off + i) → bytes.getD i 0 = (s.port.window.readBytes off n).getD i 0) ∧
      (unsettledStaging s = [] → bytes = s.port.window.readBytes off n) := by
  unfold localRead
  rw [reservedOffset_sram (by omega) (.inr ⟨lo, hi⟩), if_neg Bool.false_ne_true, if_neg (by omega)]
  cases settled : unsettledStaging s with
  | nil => exact ⟨_, s.freeCtr, rfl, by simp, fun _ _ => rfl, fun _ => rfl⟩
  | cons r rest =>
    refine ⟨_, s.freeCtr + 1, rfl, by simp, fun i h => maskBytes_getD ?_, fun h => nomatch h⟩
    rw [← settled]
    exact inRanges_settled h

end

/-! ### A write and the read after it -/

/-- R422, R436: a burst to staging SRAM of the lead changes the bytes that it writes and the count of link ECC. -/
theorem hostWrite_staging {s : State} {ch : Fin 2} {row : BitVec 17} {bank : BitVec 4} {col : BitVec 11} {data : List Byte}
    {ecc : LinkEcc} (reaches : HostReaches s ch ecc) (present : slotAbsent s 0 = false)
    (slot : slotOf (hostWindow s ch row bank col) = 0) (lo : 0x1000000 ≤ hostWindow s ch row bank col)
    (hi : hostWindow s ch row bank col + data.length ≤ 0x2800000) (ok : burstOk col.toNat data.length = true) :
    ∃ count, exec (.hostWrite ch row bank col (data.map some) ecc) s = .next { s with port := { s.port with
      linkCorr := count, window := s.port.window.writeBytes (hostWindow s ch row bank col) data } } := by
  obtain ⟨answers, safe, -⟩ := id reaches
  have some_ : data ≠ [] := data_of_burstOk ok
  have within : hostWindow s ch row bank col < 0x2800000 := first_lt_of_burstOk ok hi
  obtain ⟨count, step⟩ := stepHostWrite_reaches (row := row) (bank := bank) (col := col) (data.map some) reaches
  refine ⟨count, (exec_hostWrite ecc (by rwa [List.length_map])).trans ?_⟩
  rw [step, windowWrite_own (s := linkCounted count s) _ (isLead_of_portAnswers answers) present slot,
    localWrite_staging (s := linkCounted count s) safe some_ lo within]
  rfl

/-- R422, R433: a burst read of staging SRAM of the lead. -/
theorem hostRead_staging {s : State} {ch : Fin 2} {row : BitVec 17} {bank : BitVec 4} {col : BitVec 11} {n : Nat}
    (answers : portAnswers s ch = true) (present : slotAbsent s 0 = false)
    (slot : slotOf (hostWindow s ch row bank col) = 0) (lo : 0x1000000 ≤ hostWindow s ch row bank col)
    (hi : hostWindow s ch row bank col < 0x2800000) (ok : burstOk col.toNat n = true) :
    ∃ u, exec (.hostRead ch row bank col n) s = .next u ∧ u.port.dq.length = n ∧
      (∀ i, ¬ Unsettled s (hostWindow s ch row bank col + i) →
        u.port.dq.getD i 0 = (s.port.window.readBytes (hostWindow s ch row bank col) n).getD i 0) ∧
      (unsettledStaging s = [] → u.port.dq = s.port.window.readBytes (hostWindow s ch row bank col) n) ∧
      u = { s with port := { s.port with dq := u.port.dq }, freeCtr := u.freeCtr } := by
  obtain ⟨bytes, count, read, length, settled, all⟩ := localRead_staging (s := s) (n := n) lo hi
  refine ⟨{ s with port := { s.port with dq := bytes }, freeCtr := count }, (exec_hostRead answers ok).trans ?_, length, settled,
    all, rfl⟩
  rw [windowRead_own n (isLead_of_portAnswers answers) present slot, read]
  rfl

/-- Settles O22: the write leaves the bytes in staging SRAM, and the read of the same command address gives what stands there. -/
theorem hostReadsWhatItWrote : Obligations.HostReadsWhatItWrote := by
  unfold Obligations.HostReadsWhatItWrote
  refine ⟨fun s ch row bank col data ecc reaches devices found slot lo hi ok => ?_,
    fun s ch row bank col data answers checked ok => ?_⟩
  · have present : slotAbsent s 0 = false := slotPresent devices found
    have within : hostWindow s ch row bank col < 0x2800000 := first_lt_of_burstOk ok hi
    obtain ⟨count, written⟩ := hostWrite_staging reaches present slot lo hi ok
    obtain ⟨u, read, length, settled, all, only⟩ := hostRead_staging (s := { s with port := { s.port with
      linkCorr := count, window := s.port.window.writeBytes (hostWindow s ch row bank col) data } })
      reaches.1 present slot lo within ok
    have stands := Mem.readBytes_writeBytes s.port.window (hostWindow s ch row bank col) data
    exact ⟨_, written, fun a => Mem.read_writeBytes_outside _ _ _ a, rfl, rfl, rfl, rfl, rfl, u, read, length,
      fun i _ h => (settled i h).trans (congrArg (·.getD i 0) stands), fun h => (all h).trans stands, only⟩
  · have step := stepHostWrite_uncorrectable (row := row) (bank := bank) (col := col) data answers checked
    have only := hostError_only 8 (hostWindow s ch row bank col)
      { s with port := { s.port with linkUncorr := satInc s.port.linkUncorr 1 } }
    refine ⟨_, (exec_hostWrite _ ok).trans (congrArg (fun x : State => Host.Outcome.next { x with pending := s.pending }) step),
      ?_, ?_, ?_, ?_⟩
    · exact hostError_window ..
    · exact hostError_linkUncorr ..
    · exact hostError_errCount ..
    · exact (congrArg (fun x : State => { x with pending := s.pending }) only :)

end Sys2Proof.Machine
end

section
/-! PROOF. Counters that a read latches (R424), and the writes that clear counters and tables or store MAX_PIXELS:
CountersLatchAndClear. -/

namespace Sys2Proof.Machine

/-! ### Latches -/

section
variable {s : State} {p w : Nat}

theorem latchHi_long {x : Word} (h : highHalf s p w = some x) :
    latchHi p w s = { s with port := { s.port with hiLatch := putKey s.port.hiLatch (p * 1024 + w + 1) x } } := by
  rw [latchHi, h, Nat.add_assoc]
  rfl

theorem latchHi_word (h : highHalf s p w = none) : latchHi p w s = s := by rw [latchHi, h]

/-- A latch changes no word of the port but that of its HI half. -/
theorem latchHi_only (p w : Nat) (s : State) :
    latchHi p w s = { s with port := { s.port with hiLatch := (latchHi p w s).port.hiLatch } } := by
  unfold latchHi
  split <;> rfl

end

/-- Table 3.6: word 0x12 of a press's page is the low half of BUSY. -/
theorem longAt_busy (s : State) (p : Fin 16) : longAt s (20 + p.val) 0x12 = some (s.press p).busy := by
  have number : Fin.ofNat 16 (20 + p.val - 20) = p := by
    rw [Nat.add_sub_cancel_left]
    exact Fin.ofNat_val_eq_self p
  unfold longAt
  simp (disch := omega) only [dif_pos, if_neg, number]
  exact if_pos ⟨by omega, by omega, by decide, by decide, trivial⟩

theorem highHalf_busy (s : State) (p : Fin 16) :
    highHalf s (20 + p.val) 0x12 = some (((s.press p).busy >>> 32).setWidth 32) := by
  rw [highHalf, if_neg (by omega), longAt_busy]
  rfl

theorem counterLoRead_latches {s : State} {pg w : BitVec 10} {x : Word} (h : highHalf s pg.toNat w.toNat = some x) :
    ∃ t, exec (.counterLoRead pg w) s = .next t ∧ lookupKey t.port.hiLatch (pg.toNat * 1024 + w.toNat + 1) = some x ∧
      (∀ k, k ≠ pg.toNat * 1024 + w.toNat + 1 → lookupKey t.port.hiLatch k = lookupKey s.port.hiLatch k) ∧
      t = { s with port := { s.port with hiLatch := t.port.hiLatch } } := by
  have latched := latchHi_long h
  refine ⟨_, (answer_keep ?_).trans (congrArg _ latched), ?_, fun k other => ?_, rfl⟩
  · rw [latched]
  · rw [lookupKey_putKey, if_pos rfl]
  · rw [lookupKey_putKey, if_neg other.symm]

theorem counterLoRead_word {s : State} {pg w : BitVec 10} (h : highHalf s pg.toNat w.toNat = none) :
    exec (.counterLoRead pg w) s = .next s := by
  refine (answer_eq ..).trans ?_
  rw [latchHi_word h]

/-! ### Words of the pages of presses, engines, accounting and the MMU -/

section
variable {who : Writer} {p w : Nat} {v : Word} {s : State}

theorem writeBlock_press (lo : 20 ≤ p) (hi : p ≤ 35) : writeBlock who p w v s = writePress (Fin.ofNat 16 (p - 20)) w v s := by
  unfold writeBlock
  simp (disch := omega) only [if_neg, if_pos]

theorem writeBlock_engine (lo : 52 ≤ p) (hi : p ≤ 57) : writeBlock who p w v s = writeEngine (Fin.ofNat 6 (p - 52)) w v s := by
  unfold writeBlock
  simp (disch := omega) only [if_neg, if_pos]

/-- A block-specific word with no field reserved to firmware is stored as its block stores it. -/
theorem writeWord_block (h : Writes who p s) (hp : allocated p = true) (ho : offPress s p = false) (hw : 16 ≤ w)
    (hrw : firmwareRw p w = 0) (hact : firmwareAct p w = 0) : writeWord who p w v s = writeBlock who p w v s := by
  rw [writeWord_open h hp ho hrw hact, regApply_block ho hw]

end

/-! ### CNT_CLEAR -/

theorem allocated_press : ∀ p : Fin 16, allocated (20 + p.val) = true := by decide

theorem firmwareRw_pressCntClear : ∀ p : Fin 16, firmwareRw (20 + p.val) 0x1E = 0 := by decide

theorem firmwareAct_pressCntClear : ∀ p : Fin 16, firmwareAct (20 + p.val) 0x1E = 0 := by decide

theorem allocated_engine : ∀ e : Fin 6, allocated (52 + e.val) = true := by decide

theorem firmwareRw_engineCntClear : ∀ e : Fin 6, firmwareRw (52 + e.val) 0x1E = 0 := by decide

theorem firmwareAct_engineCntClear : ∀ e : Fin 6, firmwareAct (52 + e.val) 0x1E = 0 := by decide

/-- A CNT_CLEAR on a page that has it writes the page's word. -/
theorem exec_cntClear {who : Writer} {p : Nat} {s t : State} (page : 20 ≤ p ∧ p ≤ 35 ∨ 52 ≤ p ∧ p ≤ 57)
    (written : writeWord who p 0x1E 1 s = t) (kept : t.pending = s.pending) :
    exec (.cntClear who (BitVec.ofNat 10 p)) s = .next t := by
  have number : (BitVec.ofNat 10 p).toNat = p := by
    rw [BitVec.toNat_ofNat]
    omega
  have step : stepCntClear who (BitVec.ofNat 10 p).toNat s = t := by rw [number, stepCntClear, if_pos page, written]
  exact (answer_keep (by rw [step, kept])).trans (congrArg _ step)

/-- R149: the counters of a press are cleared. -/
theorem cntClear_press {s : State} {who : Writer} {p : Fin 16} (h : Writes who (20 + p.val) s) (on : enabled s p = true) :
    exec (.cntClear who (BitVec.ofNat 10 (20 + p.val))) s = .next (s.updPress p clearPressCounters) := by
  have off : offPress s (20 + p.val) = false := by rw [offPress_press, on]; rfl
  refine exec_cntClear (by omega) ?_ rfl
  rw [writeWord_block h (allocated_press p) off (by decide) (firmwareRw_pressCntClear p) (firmwareAct_pressCntClear p),
    writeBlock_press (by omega) (by omega), Nat.add_sub_cancel_left, Fin.ofNat_val_eq_self]
  rfl

/-- R296, R369: the counters of an engine are cleared. -/
theorem cntClear_engine {s : State} {who : Writer} {e : Fin 6} (h : Writes who (52 + e.val) s) :
    exec (.cntClear who (BitVec.ofNat 10 (52 + e.val))) s = .next (s.updEngine e fun x => { x with busy := 0, work := 0 }) := by
  refine exec_cntClear (by omega) ?_ rfl
  rw [writeWord_block h (allocated_engine e) (offPress_of_gt s (by omega)) (by decide) (firmwareRw_engineCntClear e)
    (firmwareAct_engineCntClear e), writeBlock_engine (by omega) (by omega), Nat.add_sub_cancel_left, Fin.ofNat_val_eq_self]
  rfl

/-! ### ACCT_CLEAR, INVAL and MAX_PIXELS -/

/-- R510: the accounting table is emptied. -/
theorem acctClear_empties {s : State} {who : Writer} (h : Writes who 88 s) :
    exec (.acctClear who) s = .next { s with acct := {} } := by
  have written : writeWord who 88 0x11 1 s = { s with acct := {} } :=
    writeWord_block h (by decide) (offPress_of_gt s (by decide)) (by decide) (by decide) (by decide)
  exact (answer_keep (by rw [written])).trans (congrArg _ written)

/-- R412: INVAL drops entries of translation caches, which the device does not hold. -/
theorem regApply_inval (who : Writer) (v : Word) (s : State) : regApply who 16 0x14 v s = s :=
  regApply_block (offPress_of_lt s (by decide)) (by decide)

theorem writeWord_inval {who : Writer} (v : Word) (s : State) (firmware : who ≠ .host) : writeWord who 16 0x14 v s = s := by
  have page : allocated 16 = true := by decide
  cases acts : writerActs who s with
  | true => exact (writeWord_firmware firmware acts page).trans (regApply_inval who v s)
  | false => simp [writeWord, regWrite, acts, page]

/-- R427, R673: the host's INVAL of all is denied in every state. -/
theorem writeWord_hostInval (s : State) :
    writeWord .host 16 0x14 0x80000000 s = hostError 5 (ownAddress s (4096 * 16 + 4 * 0x14)) s := by
  cases safe : s.safety.safe with
  | true => exact writeWord_closed safe (by decide) (by decide)
  | false =>
    have denied : hostDenied s 16 0x14 0x80000000 = true := by
      have acts : (0x80000000 : Word) &&& firmwareAct 16 0x14 ≠ 0 := by decide
      rw [hostDenied, Bool.or_eq_true]
      exact .inr (decide_eq_true acts)
    rw [writeWord_host (.inl safe) (by decide) (offPress_of_lt s (by decide)), denied, regApply_inval]
    rfl

theorem invalAll_host (s : State) : ∃ t, exec (.invalAll .host) s = .next t ∧
    t.port.errCount = satInc s.port.errCount 1 ∧ t.mmu = s.mmu := by
  have written := writeWord_hostInval s
  exact ⟨_, (answer_keep (by rw [written, hostError_pending])).trans (congrArg _ written), hostError_errCount .., hostError_mmu ..⟩

/-- R369: MAX_PIXELS stores the nearest end of its range. -/
theorem maxPixelsWrite_clamps {s : State} {who : Writer} {n : BitVec 27} (h : Writes who 56 s) :
    ∃ t, exec (.maxPixelsWrite who n) s = .next t ∧ t.intake.maxPixels.toNat = max 1 (min 67108864 n.toNat) ∧
      t = { s with intake := { s.intake with maxPixels := t.intake.maxPixels } } := by
  have written : writeWord who 56 0x20 (n.setWidth 32) s = writeEngine 4 0x20 (n.setWidth 32) s :=
    writeWord_block h (by decide) (offPress_of_gt s (by decide)) (by decide) (by decide) (by decide)
  refine ⟨_, (answer_keep (by rw [written]; rfl)).trans (congrArg _ written), ?_, rfl⟩
  have field : fld (n.setWidth 32) 0 27 = n.toNat := by
    have := n.isLt
    simp only [fld, bitsOf, BitVec.toNat_setWidth]
    omega
  show (BitVec.ofNat 27 (clampNat 1 67108864 (fld (n.setWidth 32) 0 27))).toNat = _
  rw [field, clampNat_eq (by decide), BitVec.toNat_ofNat]
  omega

/-- Settles O19: each clause by the lemma of its command. -/
theorem countersLatchAndClear : Obligations.CountersLatchAndClear := by
  unfold Obligations.CountersLatchAndClear
  refine ⟨fun _ _ _ _ => counterLoRead_latches, fun _ _ _ => counterLoRead_word, fun s p _ => highHalf_busy s p,
    fun s who p h on => ⟨_, cntClear_press h on, vget_vupd_self .., fun q hq => vget_vupd_ne _ _ hq.symm, rfl⟩,
    fun s who e h => ⟨_, cntClear_engine h, vget_vupd_self .., fun f hf => vget_vupd_ne _ _ hf.symm, rfl⟩,
    fun _ _ => acctClear_empties, fun s who n firmware => ⟨?_, ?_⟩, invalAll_host, fun _ _ _ => maxPixelsWrite_clamps⟩
  · exact (answer_eq ..).trans (by rw [writeWord_inval _ _ firmware])
  · exact (answer_eq ..).trans (by rw [writeWord_inval _ _ firmware])

end Sys2Proof.Machine
end

section
/-! PROOF. Reads and writes of the window that meet no staging SRAM (R424 to R442, R457), and writes that are forwarded:
ReadsOfNothingAndForwardedWrites. -/

namespace Sys2Proof.Machine

/-! ### Reads of the window -/

section
variable {s : State} {w n off : Nat}

/-- R435: a slot of no device, or of a lost one. -/
theorem windowRead_absent (absent : slotAbsent s (slotOf w) = true) :
    windowRead w n s = driveData (List.replicate n 0xFF) (hostError 4 w s) := by
  rw [windowRead, if_pos absent]

/-- R439: an echoed offset of another device reads from the lead's copy. -/
theorem windowRead_echoed {a : Nat} (lead : isLead s = true) (present : slotAbsent s (slotOf w) = false) (slot : slotOf w ≠ 0)
    (echoed : echoAddress s (slotOf w) (offsetOf w) = some a) :
    windowRead w n s = driveData (s.port.window.readBytes a n) s := by
  unfold windowRead
  simp only [present, self_of_isLead lead, if_neg slot, echoed, Bool.false_eq_true, if_false]

/-- R439: an offset of another device that is not echoed. -/
theorem windowRead_notEchoed (lead : isLead s = true) (present : slotAbsent s (slotOf w) = false) (slot : slotOf w ≠ 0)
    (echoed : echoAddress s (slotOf w) (offsetOf w) = none) :
    windowRead w n s = driveData (List.replicate n 0xFF) (hostError 3 w s) := by
  unfold windowRead
  simp only [present, self_of_isLead lead, if_neg slot, echoed, Bool.false_eq_true, if_false]

/-- R428: a reserved offset of this device. -/
theorem localRead_reserved (reserved : reservedOffset off = true) :
    localRead off n s = driveData (List.replicate n 0xFF) (hostError 1 (ownAddress s off) s) := by
  rw [localRead, if_pos reserved]
  rfl

/-- R424: a register word reads as the register, and latches the HI half. -/
theorem localRead_register (control : off < 0x400000) (word : off % 4 = 0) (page : allocated (off / 4096) = true) :
    localRead off 4 s =
      driveData (leBytes 4 (regRead s (off / 4096) (off % 4096 / 4)).toNat) (latchHi (off / 4096) (off % 4096 / 4) s) := by
  have open_ : reservedOffset off = false := by
    rw [reservedOffset, if_pos control, page]
    rfl
  have first : off / 4 * 4 = off := by omega
  rw [localRead, open_, if_neg Bool.false_ne_true, if_pos control, word, first]
  rfl

/-- R449: a channel in self-refresh answers no read. -/
theorem hostRead_asleep {ch : Fin 2} (row : BitVec 17) (bank : BitVec 4) {col : BitVec 11} (ok : burstOk col.toNat n = true)
    (asleep : (vget s.port.channels ch).asleep = true) : exec (.hostRead ch row bank col n) s = .next s := by
  have silent : portAnswers s ch = false := by simp [portAnswers, asleep]
  refine (answerIf_of ok ..).trans ?_
  rw [stepHostRead, silent, if_neg Bool.false_ne_true]

end

/-! ### Submit words -/

theorem ringBase_queue (q : Fin 256) : Fin.ofNat 256 ((ringBase q - 0x600000) / 0x8000) = q := by
  have number : (ringBase q - 0x600000) / 0x8000 = q.val := by
    unfold ringBase
    omega
  rw [number]
  exact Fin.ofNat_val_eq_self q

/-- R430: a burst that begins at a watched word is seen by the observer. -/
theorem observe_first {s : State} {at_ : Nat} {data : List Byte} (ev : Long → ObserverEvent) (some_ : data ≠ []) :
    observe at_ (writtenBytes at_ (data.map some)) true ev s = { s with port := { s.port with
      observer := s.port.observer ++ [ev (BitVec.ofNat 64 (s.port.window.readNat at_ 8))] } } := by
  obtain ⟨b, rest, rfl⟩ := List.exists_cons_of_ne_nil some_
  rw [observe, List.map_cons, writtenBytes_cons]
  simp

/-- R457: a burst at the submit word of a queue stores its bytes and is seen by the observer. -/
theorem localWrite_submit {s : State} {q : Fin 256} {data : List Byte} (safe : s.safety.safe = false) (some_ : data ≠ []) :
    localWrite (ringBase q) (data.map some) s =
      let m := s.port.window.writeBytes (ringBase q) data
      { s with port := { s.port with
        window := m, observer := s.port.observer ++ [.submit q (BitVec.ofNat 64 (m.readNat (ringBase q) 8))] } } := by
  have lo : 0x600000 ≤ ringBase q := Nat.le_add_right ..
  have hi : ringBase q < 0xE00000 := by
    unfold ringBase
    omega
  unfold localWrite
  simp only [isEmpty_writtenBytes _ some_, reservedOffset_sram (by omega) (.inl hi), safe, Bool.false_eq_true, if_pos hi,
    ringBase_queue, Mem.writeAll_writtenBytes _ _ some_, observe_first _ some_]
  simp (disch := omega) only [if_neg, if_false]
  rfl

theorem hostWrite_submit {s : State} {ch : Fin 2} {row : BitVec 17} {bank : BitVec 4} {col : BitVec 11} {data : List Byte}
    {ecc : LinkEcc} {q : Fin 256} (reaches : HostReaches s ch ecc) (present : slotAbsent s 0 = false)
    (place : hostWindow s ch row bank col = ringBase q) (length : data.length = 8) (ok : burstOk col.toNat 8 = true) :
    ∃ t, exec (.hostWrite ch row bank col (data.map some) ecc) s = .next t ∧
      t.port.window.readBytes (ringBase q) 8 = data ∧
      t.port.observer = s.port.observer ++ [.submit q (BitVec.ofNat 64 (t.port.window.readNat (ringBase q) 8))] ∧
      t = { s with port := t.port } := by
  obtain ⟨answers, safe, -⟩ := id reaches
  have some_ : data ≠ [] := by
    rintro rfl
    cases length
  have slot : slotOf (ringBase q) = 0 := slotOf_low (by unfold ringBase; omega)
  obtain ⟨count, step⟩ := stepHostWrite_reaches (row := row) (bank := bank) (col := col) (data.map some) reaches
  rw [place, windowWrite_own (s := linkCounted count s) _ (isLead_of_portAnswers answers) present slot,
    localWrite_submit (s := linkCounted count s) safe some_] at step
  refine ⟨_, (exec_hostWrite ecc (by rwa [List.length_map, length])).trans
    (congrArg (fun x : State => Host.Outcome.next { x with pending := s.pending }) step), ?_, rfl, rfl⟩
  rw [← length]
  exact Mem.readBytes_writeBytes ..

/-! ### Forwarded writes -/

/-- R422: a write to the slot of another device joins the forward queue. -/
theorem windowWrite_other {s : State} {w : Nat} {data : List (Option Byte)} (lead : isLead s = true)
    (present : slotAbsent s (slotOf w) = false) (slot : slotOf w ≠ 0) :
    windowWrite w data s = forwardWrite (slotOf w) w data s := by
  rw [windowWrite, present, if_neg Bool.false_ne_true, self_of_isLead lead, if_neg slot]

theorem stepHostWrite_clean {s : State} {ch : Fin 2} {row : BitVec 17} {bank : BitVec 4} {col : BitVec 11}
    {data : List (Option Byte)} (answers : portAnswers s ch = true) :
    stepHostWrite ch row bank col data .clean s = windowWrite (hostWindow s ch row bank col) data s := by
  unfold stepHostWrite hostWindow
  simp [answers]

theorem exec_forwardedWriteApply {s : State} {off : BitVec 27} {data : List Byte} (remote : isLead s = false)
    (ok : burstOk off.toNat data.length = true) : exec (.forwardedWriteApply off (data.map some)) s =
      .next { localWrite off.toNat (data.map some) s with pending := s.pending } := by
  refine (answerIf_of (by rwa [List.length_map]) ..).trans ?_
  rw [stepForwarded, remote, if_neg Bool.false_ne_true]

/-- R673: in the safe state the window SRAM takes no write. -/
theorem localWrite_safe {s : State} {off : Nat} {data : List Byte} (safe : s.safety.safe = true) (some_ : data ≠ [])
    (lo : 0x400000 ≤ off) (open_ : reservedOffset off = false) :
    localWrite off (data.map some) s = hostError 5 (ownAddress s off) s := by
  rw [localWrite]
  simp only [isEmpty_writtenBytes _ some_, open_, safe, Bool.false_eq_true, if_false, if_true, if_neg (Nat.not_lt.2 lo)]
  rfl

/-! ### The clauses -/

section
variable {s : State} {ch : Fin 2} {row : BitVec 17} {bank : BitVec 4} {col : BitVec 11}

theorem hostRead_absent {n : Nat} (answers : portAnswers s ch = true)
    (absent : slotAbsent s (slotOf (hostWindow s ch row bank col)) = true) (ok : burstOk col.toNat n = true) :
    ∃ t, exec (.hostRead ch row bank col n) s = .next t ∧ t.port.dq = List.replicate n 0xFF ∧
      t.port.errCount = satInc s.port.errCount 1 ∧ t.port.window = s.port.window := by
  have step := exec_hostRead (row := row) (bank := bank) answers ok
  rw [windowRead_absent absent] at step
  exact ⟨_, step, rfl, hostError_errCount .., hostError_window ..⟩

theorem reservedRead_acts (off : BitVec 27) : (reservedOffset off.toNat = true → ∃ t, exec (.reservedRead off) s = .next t ∧
      t.port.dq = List.replicate 32 0xFF ∧ t.port.errCount = satInc s.port.errCount 1 ∧ t.port.window = s.port.window) ∧
    (reservedOffset off.toNat = false → exec (.reservedRead off) s = .next s) := by
  have step := answer_eq (stepReservedRead off.toNat) s
  refine ⟨fun reserved => ?_, fun open_ => ?_⟩
  · rw [stepReservedRead, if_pos reserved, localRead_reserved reserved] at step
    exact ⟨_, step, rfl, hostError_errCount .., hostError_window ..⟩
  · rw [stepReservedRead, open_, if_neg Bool.false_ne_true] at step
    exact step

theorem hostRead_register (answers : portAnswers s ch = true) (present : slotAbsent s 0 = false)
    (control : hostWindow s ch row bank col < 0x400000) (word : hostWindow s ch row bank col % 4 = 0)
    (page : allocated (hostWindow s ch row bank col / 4096) = true) (ok : burstOk col.toNat 4 = true) :
    ∃ t, exec (.hostRead ch row bank col 4) s = .next t ∧ t.port.dq =
        leBytes 4 (regRead s (hostWindow s ch row bank col / 4096) (hostWindow s ch row bank col % 4096 / 4)).toNat ∧
      t = { s with port := { s.port with dq := t.port.dq, hiLatch := t.port.hiLatch } } := by
  have step := exec_hostRead (row := row) (bank := bank) answers ok
  rw [windowRead_own 4 (isLead_of_portAnswers answers) present (slotOf_low (by omega)), localRead_register control word page,
    latchHi_only] at step
  exact ⟨_, step, rfl, rfl⟩

theorem hostRead_other {n : Nat} (answers : portAnswers s ch = true)
    (present : slotAbsent s (slotOf (hostWindow s ch row bank col)) = false) (slot : slotOf (hostWindow s ch row bank col) ≠ 0)
    (ok : burstOk col.toNat n = true) :
    ∃ t, exec (.hostRead ch row bank col n) s = .next t ∧ t.port.window = s.port.window ∧
      (∀ a, echoAddress s (slotOf (hostWindow s ch row bank col)) (offsetOf (hostWindow s ch row bank col)) = some a →
        t.port.dq = s.port.window.readBytes a n ∧ t.port.errCount = s.port.errCount) ∧
      (echoAddress s (slotOf (hostWindow s ch row bank col)) (offsetOf (hostWindow s ch row bank col)) = none →
        t.port.dq = List.replicate n 0xFF ∧ t.port.errCount = satInc s.port.errCount 1) := by
  have lead : isLead s = true := isLead_of_portAnswers answers
  have step := exec_hostRead (row := row) (bank := bank) answers ok
  cases echoed : echoAddress s (slotOf (hostWindow s ch row bank col)) (offsetOf (hostWindow s ch row bank col)) with
  | none =>
    rw [windowRead_notEchoed lead present slot echoed] at step
    exact ⟨_, step, hostError_window .., (fun _ h => nomatch h), fun _ => ⟨rfl, hostError_errCount ..⟩⟩
  | some a =>
    rw [windowRead_echoed lead present slot echoed] at step
    refine ⟨_, step, rfl, fun _ h => ?_, fun h => nomatch h⟩
    cases h
    exact ⟨rfl, rfl⟩

theorem hostWrite_other {data : List (Option Byte)} (reaches : HostReaches s ch .clean)
    (present : slotAbsent s (slotOf (hostWindow s ch row bank col)) = false) (slot : slotOf (hostWindow s ch row bank col) ≠ 0)
    (ok : burstOk col.toNat data.length = true) :
    ∃ t, exec (.hostWrite ch row bank col data .clean) s = .next t ∧
      (s.port.forward.length < 4096 → t = { pumpForward { s with port := { s.port with forward := s.port.forward ++ [{
        dev := Fin.ofNat 64 (slotOf (hostWindow s ch row bank col))
        offset := BitVec.ofNat 27 (offsetOf (hostWindow s ch row bank col)), data := data }] } } with pending := s.pending }) ∧
      (4096 ≤ s.port.forward.length → t.port.fwdDropped = satInc s.port.fwdDropped 1 ∧ t.port.forward = s.port.forward ∧
        t.port.errCount = satInc s.port.errCount 1 ∧ t.port.window = s.port.window) := by
  obtain ⟨answers, -, -⟩ := reaches
  have step := exec_hostWrite (s := s) (ch := ch) (row := row) (bank := bank) .clean ok
  rw [stepHostWrite_clean answers, windowWrite_other (isLead_of_portAnswers answers) present slot] at step
  refine ⟨_, step, fun room => ?_, fun full => ?_⟩
  · rw [forwardWrite, if_neg (Nat.not_le.2 room)]
  · rw [forwardWrite, if_pos full]
    exact ⟨hostError_fwdDropped .., hostError_forward .., hostError_errCount .., hostError_window ..⟩

end

/-- R438: a forwarded write to staging SRAM of the device that it is for. -/
theorem forwardedWrite_staging {s : State} {off : BitVec 27} {data : List Byte} (remote : isLead s = false)
    (safe : s.safety.safe = false) (lo : 0x1000000 ≤ off.toNat) (hi : off.toNat + data.length ≤ 0x2800000)
    (ok : burstOk off.toNat data.length = true) :
    ∃ t, exec (.forwardedWriteApply off (data.map some)) s = .next t ∧
      t.port.window.readBytes off.toNat data.length = data ∧
      (∀ a, a < off.toNat ∨ off.toNat + data.length ≤ a → t.port.window.read a = s.port.window.read a) ∧
      t = { s with port := { s.port with window := t.port.window } } := by
  have step := exec_forwardedWriteApply remote ok
  rw [localWrite_staging safe (data_of_burstOk ok) lo (first_lt_of_burstOk ok hi)] at step
  exact ⟨_, step, Mem.readBytes_writeBytes .., fun a => Mem.read_writeBytes_outside _ _ _ a, rfl⟩

theorem forwardedWrite_safe {s : State} {off : BitVec 27} {data : List Byte} (remote : isLead s = false)
    (safe : s.safety.safe = true) (lo : 0x1000000 ≤ off.toNat) (hi : off.toNat < 0x2800000)
    (ok : burstOk off.toNat data.length = true) :
    ∃ t, exec (.forwardedWriteApply off (data.map some)) s = .next t ∧
      t.port.window = s.port.window ∧ t.port.errCount = satInc s.port.errCount 1 := by
  have step := exec_forwardedWriteApply remote ok
  rw [localWrite_safe safe (data_of_burstOk ok) (by omega) (reservedOffset_sram (by omega) (.inr ⟨lo, hi⟩))] at step
  exact ⟨_, step, hostError_window .., hostError_errCount ..⟩

/-- Settles O23: each clause by the lemma of its read or write. -/
theorem readsOfNothingAndForwardedWrites : Obligations.ReadsOfNothingAndForwardedWrites := by
  unfold Obligations.ReadsOfNothingAndForwardedWrites
  exact ⟨fun _ _ _ _ _ _ => hostRead_absent, fun _ => reservedRead_acts, fun _ _ _ _ _ => hostRead_register,
    fun _ _ _ _ _ _ => hostRead_other, fun _ _ row bank _ _ => hostRead_asleep row bank,
    fun _ _ _ _ _ _ _ _ => hostWrite_submit, fun _ _ _ _ _ _ => hostWrite_other, fun _ _ _ => forwardedWrite_staging,
    fun _ _ _ => forwardedWrite_safe⟩

end Sys2Proof.Machine
end

section
/-! PROOF. LPDDR5X commands of a channel (R414, R415) and host sleep (R447, R449): ChannelCommandsAct. -/

namespace Sys2Proof.Machine

/-! ### Mode registers -/

section
variable {s t : State} {ch : Fin 2} {mr : Byte}

theorem modeValue_stored (writable : modeReadOnly mr = false) :
    modeValue s ch mr = (modeStored s ch mr.toNat).getD (Config.modeRegisterReset mr) := by
  simp only [modeReadOnly, Bool.or_eq_false_iff, decide_eq_false_iff_not] at writable
  obtain ⟨⟨⟨h4, h5⟩, h6⟩, h8⟩ := writable
  rw [modeValue, if_neg h4, if_neg h5, if_neg h6, if_neg h8]

theorem modeValue_congr (same : modeStored t ch mr.toNat = modeStored s ch mr.toNat) : modeValue t ch mr = modeValue s ch mr := by
  unfold modeValue
  rw [same]

/-- What a register of a channel holds after a write of one of them. -/
theorem modeStored_put (s : State) (ch c : Fin 2) (k m : Nat) (v : Byte) :
    modeStored (s.updHostChannel ch fun x => { x with modeRegs := putKey x.modeRegs k v }) c m =
      if c = ch ∧ m = k then some v else modeStored s c m := by
  simp only [modeStored, State.updHostChannel, vget_vupd]
  by_cases here : ch = c
  · subst here
    simp only [if_true, lookupKey_putKey, true_and, eq_comm]
  · rw [if_neg here, if_neg fun h => here h.1.symm]

/-- R415: the writable fields of a register take the value, and no other register changes. -/
theorem modeRegisterWrite_stores (v : Byte) (answers : portAnswers s ch = true) (writable : modeReadOnly mr = false) :
    ∃ t, exec (.modeRegisterWrite ch mr v) s = .next t ∧
      modeValue t ch mr = ((v &&& Config.modeRegisterWritable mr) ||| (modeValue s ch mr &&& ~~~Config.modeRegisterWritable mr)) ∧
      (∀ (c : Fin 2) (m : Byte), ¬ (c = ch ∧ m = mr) → modeValue t c m = modeValue s c m) ∧ t = { s with port := t.port } := by
  have step : exec (.modeRegisterWrite ch mr v) s = .next (s.updHostChannel ch fun c => { c with
      modeRegs := putKey c.modeRegs mr.toNat
        ((v &&& Config.modeRegisterWritable mr) ||| (modeValue s ch mr &&& ~~~Config.modeRegisterWritable mr)) }) := by
    refine (answer_eq ..).trans ?_
    rw [stepModeWrite, answers, writable]
    rfl
  refine ⟨_, step, ?_, fun c m other => modeValue_congr ?_, rfl⟩
  · rw [modeValue_stored writable, modeStored_put, if_pos ⟨rfl, rfl⟩]
    rfl
  · rw [modeStored_put, if_neg fun h => other ⟨h.1, BitVec.eq_of_toNat_eq h.2⟩]

theorem modeRegisterWrite_readOnly (v : Byte) (fixed : modeReadOnly mr = true) :
    exec (.modeRegisterWrite ch mr v) s = .next s := by
  refine (answer_eq ..).trans ?_
  rw [stepModeWrite, fixed, Bool.or_true, if_pos rfl]

theorem modeRegisterRead_drives (answers : portAnswers s ch = true) :
    exec (.modeRegisterRead ch mr) s = .next { s with port := { s.port with dq := [modeValue s ch mr] } } := by
  refine (answer_eq ..).trans ?_
  rw [stepModeRead, if_pos answers]
  rfl

end

/-! ### The FIFO and training -/

section
variable {s : State} {ch : Fin 2}

/-- R414: the write FIFO reads back. -/
theorem writeFifo_readFifo (data : List Byte) (answers : portAnswers s ch = true) :
    ∃ t, exec (.writeFifo ch data) s = .next t ∧ t = { s with port := t.port } ∧
      ∃ u, exec (.readFifo ch) t = .next u ∧ u.port.dq = data ∧ u = { t with port := u.port } := by
  have held : vget (s.updHostChannel ch fun c => { c with fifo := data }).port.channels ch =
      { vget s.port.channels ch with fifo := data } := vget_vupd_self ..
  have still : portAnswers (s.updHostChannel ch fun c => { c with fifo := data }) ch = true := by
    rw [portAnswers, held]
    exact answers
  refine ⟨s.updHostChannel ch fun c => { c with fifo := data }, (answer_eq ..).trans ?_, rfl,
    driveData data (s.updHostChannel ch fun c => { c with fifo := data }), (answer_eq ..).trans ?_, rfl, rfl⟩
  · rw [stepWriteFifo, if_pos answers]
    rfl
  · rw [stepReadFifo, if_pos still, held]
    rfl

/-- R413: the end of training sets the rate. -/
theorem hostTraining_complete {rate : BitVec 14} (answers : portAnswers s ch = true) (lo : 3200 ≤ rate.toNat)
    (hi : rate.toNat ≤ 8533) : ∃ t, exec (.hostTraining ch (.complete rate)) s = .next t ∧ t.port.rateMts = rate ∧
      (vget t.port.channels ch).trained = true ∧ t = { s with port := t.port } := by
  have range : ¬ (rate.toNat < 3200 ∨ 8533 < rate.toNat) := by omega
  have step := answer_eq (stepTraining ch (.complete rate)) s
  simp only [stepTraining, answers, Bool.not_true, Bool.false_eq_true, if_false, if_neg range] at step
  exact ⟨_, step, rfl, congrArg HostChannel.trained (vget_vupd_self ..), rfl⟩

theorem hostTraining_readDq (answers : portAnswers s ch = true) : ∃ t, exec (.hostTraining ch .readDq) s = .next t ∧
    t.port.dq.length = 2 ∧ t = { s with port := { s.port with dq := t.port.dq } } := by
  have step := answer_eq (stepTraining ch .readDq) s
  simp only [stepTraining, answers, Bool.not_true, Bool.false_eq_true, if_false] at step
  exact ⟨_, step, rfl, rfl⟩

theorem hostTraining_other {k : TrainingKind} (other : k = .commandAddress ∨ k = .wckToCk ∨ k = .wck) :
    exec (.hostTraining ch k) s = .next s := by
  have stays : stepTraining ch k s = s := by
    unfold stepTraining
    split
    · rfl
    · obtain rfl | rfl | rfl := other <;> rfl
  refine (answer_eq ..).trans ?_
  rw [stays]

end

/-! ### What the forward queue leaves -/

/-- Two devices differ in the Vine page, the number of the next free value, and the lists of the port that wait for a link. -/
def ForwardOnly (s t : State) : Prop :=
  t = { s with vine := t.vine, freeCtr := t.freeCtr, port := { s.port with forward := t.port.forward, notices := t.port.notices } }

section
variable {s t u : State}

theorem ForwardOnly.refl : ForwardOnly s s := rfl

theorem ForwardOnly.trans (h : ForwardOnly s t) (g : ForwardOnly t u) : ForwardOnly s u := by
  unfold ForwardOnly at *
  rw [g, h]

theorem VineOnly.forwardOnly (h : VineOnly s t) : ForwardOnly s t := by
  unfold VineOnly at h
  rw [h]
  exact rfl

theorem send_forwardOnly (m : VineMsg) (s : State) : ForwardOnly s (s.send m) := (send_vineOnly m s).forwardOnly

theorem pumpNotices_forwardOnly (s : State) : ForwardOnly s (pumpNotices s) :=
  .trans (t := { s with port := { s.port with notices := s.port.notices.filter fun x => x.ahead ≠ 0 } }) rfl
    (foldState_keeps (ForwardOnly _) _ _ (fun _ _ h => h.trans (send_forwardOnly ..)) _ .refl)

theorem forwardFlit_forwardOnly (dev : Fin 64) (s : State) : ForwardOnly s (forwardFlit dev s) := by
  unfold forwardFlit
  exact .trans (t := { s with port := { s.port with forward := _, notices := _ } }) rfl (send_forwardOnly ..)

theorem pumpForwards_forwardOnly (fuel : Nat) (s : State) : ForwardOnly s (pumpForwards fuel s) := by
  induction fuel generalizing s with
  | zero => exact .refl
  | succ fuel ih =>
    unfold pumpForwards
    split
    · exact .refl
    · exact (forwardFlit_forwardOnly ..).trans (ih _)

/-- R436, R437, R447: what drains of the forward queue and the news behind it. -/
theorem pumpForward_forwardOnly (s : State) : ForwardOnly s (pumpForward s) :=
  (pumpForwards_forwardOnly ..).trans (pumpNotices_forwardOnly _)

theorem tellSleep_forwardOnly (asleep : Bool) (s : State) : ForwardOnly s (tellSleep asleep s) :=
  .trans (t := { s with port := { s.port with notices := _ } }) rfl (pumpForward_forwardOnly _)

end

/-! ### Host sleep -/

/-- What says whether the channels answer, and the window SRAM. -/
def channelView (s : State) : Boot × BitVec 6 × Vector HostChannel 2 × Mem :=
  (s.boot, s.port.self, s.port.channels, s.port.window)

section
variable {s t : State} {ch : Fin 2}

theorem ForwardOnly.channelView (h : ForwardOnly s t) : channelView t = channelView s := by
  unfold ForwardOnly at h
  rw [h]
  rfl

theorem channelView_pauseSlices (asleep : Bool) (s : State) : channelView (pauseSlices asleep s) = channelView s := by
  unfold pauseSlices
  split <;> rfl

/-- R447, R449: once the port is up, a channel falls asleep or wakes; what the lead tells the other devices changes neither the
channels nor the window SRAM. -/
theorem channelView_setSleep (asleep : Bool) (up : s.boot.hostPortUp = true) :
    channelView (setSleep ch asleep s) = channelView (s.updHostChannel ch fun c => { c with asleep := asleep }) := by
  unfold setSleep
  rw [up, Bool.not_true, Bool.false_and, if_neg Bool.false_ne_true]
  dsimp only
  split
  · rfl
  · split
    · exact (tellSleep_forwardOnly ..).channelView.trans (channelView_pauseSlices ..)
    · exact channelView_pauseSlices ..

theorem setSleep_down (asleep : Bool) (down : s.boot.hostPortUp = false) (lead : isLead s = true) : setSleep ch asleep s = s := by
  rw [setSleep, down, lead]
  rfl

theorem portAnswers_of_view (h : channelView t = channelView s) : portAnswers t ch = portAnswers s ch := by
  simp only [channelView, Prod.mk.injEq] at h
  obtain ⟨boot, self, channels, -⟩ := h
  rw [portAnswers, portAnswers, isLead, isLead, boot, self, channels]

theorem window_of_view (h : channelView t = channelView s) : t.port.window = s.port.window := congrArg (fun x => x.2.2.2) h

theorem hostAsleep_eq (s : State) : hostAsleep s = (List.finRange 2).any fun c => (vget s.port.channels c).asleep := by
  have listed : s.port.channels.toList = (List.finRange 2).map (vget s.port.channels) :=
    List.ext_getElem (by simp) fun i h1 h2 => by simp [vget]
  rw [hostAsleep, listed, List.any_map]
  rfl

theorem hostAsleep_of_view (h : channelView t = channelView s) : hostAsleep t = hostAsleep s := by
  have channels : t.port.channels = s.port.channels := congrArg (fun x => x.2.2.1) h
  rw [hostAsleep, hostAsleep, channels]

theorem portAnswers_asleep (s : State) (ch : Fin 2) (asleep : Bool) :
    portAnswers (s.updHostChannel ch fun c => { c with asleep := asleep }) ch = (isLead s && s.boot.hostPortUp && !asleep) := by
  have now : vget (s.updHostChannel ch fun c => { c with asleep := asleep }).port.channels ch =
      { vget s.port.channels ch with asleep := asleep } := vget_vupd_self ..
  rw [portAnswers, now]
  rfl

theorem hostAsleep_updHostChannel (s : State) (ch : Fin 2) (asleep : Bool) :
    hostAsleep (s.updHostChannel ch fun c => { c with asleep := asleep }) =
      (List.finRange 2).any fun c => if c = ch then asleep else (vget s.port.channels c).asleep := by
  rw [hostAsleep_eq]
  refine congrArg _ (funext fun c => ?_)
  simp only [State.updHostChannel, vget_vupd]
  by_cases here : ch = c
  · rw [if_pos here, if_pos here.symm]
  · rw [if_neg here, if_neg (Ne.symm here)]

/-- R447, R449: a channel falls asleep by one command and wakes by another. -/
theorem sleeps_and_wakes {enter leave : Instr} (sleeps : ∀ s, exec enter s = answer (setSleep ch true) s)
    (wakes : ∀ s, exec leave s = answer (setSleep ch false) s) (up : s.boot.hostPortUp = true) :
    ∃ t, exec enter s = .next t ∧ portAnswers t ch = false ∧ hostAsleep t = true ∧ t.port.window = s.port.window ∧
      ∃ u, exec leave t = .next u ∧ portAnswers u ch = isLead s ∧ u.port.window = s.port.window ∧
      hostAsleep u = (List.finRange 2).any fun c => c ≠ ch && (vget s.port.channels c).asleep := by
  have entered : channelView { setSleep ch true s with pending := s.pending } =
      channelView (s.updHostChannel ch fun c => { c with asleep := true }) := channelView_setSleep true up
  refine ⟨_, (sleeps s).trans (answer_eq ..), ?_, ?_, (window_of_view entered).trans rfl, ?_⟩
  · rw [portAnswers_of_view entered, portAnswers_asleep, Bool.not_true, Bool.and_false]
  · rw [hostAsleep_of_view entered, hostAsleep_updHostChannel]
    exact List.any_eq_true.2 ⟨ch, List.mem_finRange ch, if_pos rfl⟩
  generalize { setSleep ch true s with pending := s.pending } = t at entered
  simp only [channelView, Prod.mk.injEq] at entered
  obtain ⟨boot, self, channels, window⟩ := entered
  have upStill : t.boot.hostPortUp = true := by rw [boot]; exact up
  have left : channelView { setSleep ch false t with pending := t.pending } =
      channelView (t.updHostChannel ch fun c => { c with asleep := false }) := channelView_setSleep false upStill
  refine ⟨_, (wakes t).trans (answer_eq ..), ?_, (window_of_view left).trans window, ?_⟩
  · rw [portAnswers_of_view left, portAnswers_asleep, upStill, isLead, self, Bool.not_false, Bool.and_true, Bool.and_true]
    rfl
  · rw [hostAsleep_of_view left, hostAsleep_updHostChannel, channels]
    refine congrArg _ (funext fun c => ?_)
    by_cases here : c = ch
    · simp [here]
    · simp [here, State.updHostChannel, vget_vupd_ne _ _ (Ne.symm here)]

end

/-- Settles O24: each clause by the lemma of its command; both ways to sleep are one operation of the device. -/
theorem channelCommandsAct : Obligations.ChannelCommandsAct := by
  unfold Obligations.ChannelCommandsAct
  refine ⟨fun _ _ _ => modeRegisterWrite_stores, fun _ _ _ => modeRegisterWrite_readOnly, fun _ _ _ => modeRegisterRead_drives,
    fun _ _ => writeFifo_readFifo, fun _ _ _ => hostTraining_complete, fun _ _ => hostTraining_readDq,
    fun _ _ _ => hostTraining_other, fun _ _ _ => ⟨rfl, rfl, rfl⟩,
    fun _ _ => sleeps_and_wakes (fun _ => rfl) (fun _ => rfl), fun _ _ => sleeps_and_wakes (fun _ => rfl) (fun _ => rfl),
    fun s ch down lead => ?_⟩
  have stays (asleep : Bool) : answer (setSleep ch asleep) s = .next s := by
    rw [answer_eq, setSleep_down asleep down lead]
  exact ⟨stays true, stays false, stays true, stays false⟩

end Sys2Proof.Machine
end

section
/-! PROOF. Echo pages (R440, R441, R444): a message that leaves stands behind all that left before, what a device pushes, and what the
lead stores: EchoesMove. -/

namespace Sys2Proof.Machine

/-! ### What the links have carried -/

/-- One device has put on its links all that the other has, in the same order. -/
def OutboxGrows (s t : State) : Prop := s.vine.outbox <+: t.vine.outbox

section
variable {s t u : State}

theorem OutboxGrows.refl : OutboxGrows s s := List.prefix_rfl

theorem OutboxGrows.trans (h : OutboxGrows s t) (g : OutboxGrows t u) : OutboxGrows s u := List.IsPrefix.trans h g

theorem OutboxGrows.foldState {α : Type} {f : α → State → State} {l : List α} (h : ∀ x s, OutboxGrows s (f x s)) :
    OutboxGrows s (foldState f l s) :=
  foldState_keeps (OutboxGrows s) f l (fun x _ ht => ht.trans (h x _)) s .refl

theorem transmit_outboxGrows (i : Fin 4) (body : List Byte) (s : State) : OutboxGrows s (transmit i body s) :=
  List.prefix_append ..

theorem pumpLink_outboxGrows (n : Nat) (i : Fin 4) (s : State) : OutboxGrows s (pumpLink n i s) := by
  induction n generalizing s with
  | zero => exact .refl
  | succ n ih =>
    unfold pumpLink
    dsimp only
    split
    · exact .refl
    split
    · exact .refl
    split
    · exact (transmit_outboxGrows i _ s.bump).trans (ih _)
    · exact (transmit_outboxGrows i _ (s.updLink i _)).trans (ih _)

theorem queueMessage_outboxGrows (i : Fin 4) (m : VineMsg) (dest : Nat) (s : State) :
    OutboxGrows s (queueMessage i m dest s) :=
  .foldState fun _ s => pumpLink_outboxGrows 256 i (s.bump.updLink i _)

/-- R517: in a system of several devices a message stands behind all that was sent before it. -/
theorem send_sent {m : VineMsg} (several : 1 < s.port.devices.toNat) : Sent s (s.send m) m := by
  have sent : OutboxGrows (s.emit m) (s.send m) := by
    rw [State.send, if_neg (Nat.not_le.2 several)]
    refine .foldState fun d s => ?_
    split
    · exact .refl
    · exact queueMessage_outboxGrows ..
  have taken := List.prefix_iff_eq_take.1 sent
  rw [State.emit, List.length_append] at taken
  exact taken.symm

end

/-! ### Units and the list of those that wait -/

/-- The device with other units that wait to be pushed. -/
def withPushes (l : List (Nat × Option (BitVec 2))) (s : State) : State := { s with port := { s.port with pushes := l } }
section
variable (l : List (Nat × Option (BitVec 2))) (s : State)

theorem dvParts_withPushes (cx : Cx) (acc : Access) (fuel va n : Nat) :
    dvParts (withPushes l s) cx acc fuel va n = dvParts s cx acc fuel va n := by
  induction fuel generalizing va n with
  | zero => rfl
  | succ fuel ih =>
    unfold dvParts
    simp only [ih]
    rfl

theorem locate_withPushes (cx : Cx) (acc : Access) (space : Nat) (press : Fin 16) (a : Int) (n : Nat) :
    locate (withPushes l s) cx acc space press a n = locate s cx acc space press a n := by
  unfold locate
  rw [dvParts_withPushes]
  rfl

theorem readRange_withPushes (cx : Cx) (acc : Access) (space : Nat) (press : Fin 16) (a : Int) (n : Nat) :
    readRange (withPushes l s) cx acc space press a n = readRange s cx acc space press a n := by
  unfold readRange
  rw [locate_withPushes]
  rfl

theorem jpegWork_withPushes (q : Fin 256) (ops : List Operand) (params : List Byte) :
    jpegWork (withPushes l s) q ops params = jpegWork s q ops params := by
  unfold jpegWork
  simp only [readRange_withPushes]
  rfl

theorem backlog_withPushes : backlog (withPushes l s) = backlog s := by
  unfold backlog
  simp only [jpegWork_withPushes]
  rfl

theorem readEngine_withPushes (e : Fin 6) (w : Nat) : readEngine (withPushes l s) e w = readEngine s e w := by
  unfold readEngine
  rw [backlog_withPushes]
  rfl

theorem readBlock_withPushes (p w : Nat) : readBlock (withPushes l s) p w = readBlock s p w := by
  unfold readBlock
  rw [readEngine_withPushes]
  rfl

theorem regRead_withPushes (p w : Nat) : regRead (withPushes l s) p w = regRead s p w := by
  unfold regRead
  rw [readBlock_withPushes]
  rfl

/-- The content of a unit does not rest on the units that wait. -/
theorem unitData_withPushes (u : Nat) : unitData (withPushes l s) u = unitData s u := by
  unfold unitData localByte
  simp only [regRead_withPushes]
  rfl
end

/-! ### What a device pushes -/

section
variable {s : State}

/-- A unit is pushed with the content that it has, and noted when it lies in control space. -/
theorem pushUnit_sent {u : Nat} {event : Option (BitVec 2)} (several : 1 < s.port.devices.toNat) :
    Sent s (pushUnit u event s) (.echo (BitVec.ofNat 22 u) (unitData s u) event) ∧
      (pushUnit u event s).port.pushes = s.port.pushes ∧ (pushUnit u event s).port.window = s.port.window := by
  have sent := send_sent (m := .echo (BitVec.ofNat 22 u) (unitData s u) event) several
  have port : (s.send (.echo (BitVec.ofNat 22 u) (unitData s u) event)).port = s.port := (congrArg State.port (send_vineOnly ..) :)
  unfold pushUnit
  dsimp only
  split
  · exact ⟨sent, (congrArg HostPort.pushes port :), (congrArg HostPort.window port :)⟩
  · exact ⟨sent, congrArg HostPort.pushes port, congrArg HostPort.window port⟩

theorem pushUnit_noted {u : Nat} {event : Option (BitVec 2)} (control : u * 32 < 0x400000) :
    lookupKey (pushUnit u event s).port.pushed u = some (unitData s u) := by
  unfold pushUnit
  rw [if_pos control]
  exact (lookupKey_putKey ..).trans (if_pos rfl)

theorem control_of_unitChanged {u : Nat} (h : unitChanged s u = true) : u * 32 < 0x400000 := by
  simp only [unitChanged, Bool.and_eq_true, decide_eq_true_eq] at h
  exact h.1.1

/-- R441: the oldest changed unit that waits is pushed with its event. -/
theorem echoPush_oldest {u : Nat} {event : Option (BitVec 2)} {rest : List (Nat × Option (BitVec 2))} (remote : isLead s = false)
    (several : 1 < s.port.devices.toNat) (waits : s.port.pushes = (u, event) :: rest) (unit : u < 2 ^ 22) :
    ∃ t, exec (.echoPush (BitVec.ofNat 22 u)) s = .next t ∧ Sent s t (.echo (BitVec.ofNat 22 u) (unitData s u) event) ∧
      t.port.pushes = rest ∧ t.port.window = s.port.window := by
  have number : u = (BitVec.ofNat 22 u).toNat := by rw [BitVec.toNat_ofNat, Nat.mod_eq_of_lt unit]
  have step := answer_eq (stepEchoPush (BitVec.ofNat 22 u)) s
  rw [stepEchoPush, remote, if_neg Bool.false_ne_true, waits] at step
  dsimp only at step
  rw [if_pos number] at step
  obtain ⟨sent, pushes, window⟩ := pushUnit_sent (s := withPushes rest s) (u := u) (event := event) several
  rw [unitData_withPushes] at sent
  exact ⟨_, step, sent, pushes, window⟩

/-- R441: with none waiting, a unit of control space that has changed is pushed. -/
theorem echoPush_changed {unit : BitVec 22} (remote : isLead s = false) (several : 1 < s.port.devices.toNat)
    (none_ : s.port.pushes = []) (changed : unitChanged s unit.toNat = true) :
    ∃ t, exec (.echoPush unit) s = .next t ∧ Sent s t (.echo unit (unitData s unit.toNat) none) ∧
      lookupKey t.port.pushed unit.toNat = some (unitData s unit.toNat) ∧ t.port.window = s.port.window := by
  have step := answer_eq (stepEchoPush unit) s
  rw [stepEchoPush, remote, if_neg Bool.false_ne_true, none_] at step
  dsimp only at step
  rw [if_pos changed] at step
  obtain ⟨sent, -, window⟩ := pushUnit_sent (u := unit.toNat) (event := none) several
  rw [BitVec.ofNat_toNat, BitVec.setWidth_eq] at sent
  exact ⟨_, step, sent, pushUnit_noted (control_of_unitChanged changed), window⟩

theorem echoPush_other {unit : BitVec 22} (other : isLead s = true ∨ (s.port.pushes = [] ∧ unitChanged s unit.toNat = false) ∨
    (s.port.pushes ≠ [] ∧ (s.port.pushes.head?.map fun x => x.1) ≠ some unit.toNat)) : exec (.echoPush unit) s = .next s := by
  have stays : stepEchoPush unit s = s := by
    unfold stepEchoPush
    obtain lead | ⟨none_, same⟩ | ⟨some_, first⟩ := other
    · exact if_pos lead
    · rw [none_]
      dsimp only
      rw [same, if_neg Bool.false_ne_true, ite_self]
    · obtain ⟨⟨u, event⟩, rest, waits⟩ := List.exists_cons_of_ne_nil some_
      have ne : u ≠ unit.toNat := fun h => first (by rw [waits, h]; rfl)
      rw [waits]
      dsimp only
      rw [if_neg ne, ite_self]
  exact (answer_eq ..).trans (by rw [stays])

end

/-! ### What the lead stores -/

section
variable {s : State}

/-- The device after a unit of echo content has been stored, with what the lead then knows of full copies. -/
def echoStored (a : Nat) (data : List Byte) (copies : List (Nat × Nat)) (lost : List Nat) (synced : Bool) (s : State) : State :=
  { s with port := { s.port with
    window := s.port.window.writeBytes a data, copies := copies, lost := lost, synced := synced } }

/-- R441, R444: the lead stores a pushed unit, and then counts the event that came with it. -/
theorem stepEchoApply_stores {dev a : Nat} {unit : BitVec 22} (data : List Byte) (event : Option (Fin 4)) (lead : isLead s = true)
    (remote : dev ≠ 0) (device : dev < s.port.devices.toNat) (echoed : echoAddress s dev (unit.toNat * 32) = some a) :
    ∃ copies lost synced,
      (event = none → stepEchoApply dev unit data event s = echoStored a data copies lost synced s) ∧
      ∀ w, event = some w →
        stepEchoApply dev unit data event s = raiseWire (BitVec.ofFin w) (echoStored a data copies lost synced s) := by
  have noted : ∃ copies lost synced, (if s.port.synced && s.port.lost.isEmpty then s.updWindow fun m => m.writeBytes a data
      else noteCopy dev unit.toNat (s.updWindow fun m => m.writeBytes a data)) = echoStored a data copies lost synced s := by
    split
    · exact ⟨_, _, _, rfl⟩
    · exact ⟨_, _, _, rfl⟩
  obtain ⟨copies, lost, synced, noted⟩ := noted
  refine ⟨copies, lost, synced, ?_⟩
  unfold stepEchoApply
  simp only [lead, remote, Nat.not_le.2 device, Bool.not_true, decide_false, Bool.or_self, Bool.false_eq_true, if_false, echoed,
    noted]
  refine ⟨?_, ?_⟩
  · rintro rfl
    rfl
  · rintro w rfl
    rfl

theorem raiseWire_raised (w : BitVec 2) (x : Fin 4) (lead : isLead s = true) : (vget (raiseWire w s).port.wires x).raised =
    (vget s.port.wires x).raised + (if w.toFin = x ∧ s.safety.safe = false then 1 else 0) := by
  unfold raiseWire
  rw [lead, Bool.not_true, Bool.or_false]
  cases safe : s.safety.safe with
  | true => simp
  | false =>
    simp only [Bool.false_eq_true, if_false, vget_vupd, and_true]
    split
    · next here => rw [here]
    · exact (add_zero _).symm

theorem echoApply_stores {dev : Fin 64} {unit : BitVec 22} {data : List Byte} {a : Nat} {event : Option (Fin 4)}
    (length : data.length = 32) (lead : isLead s = true) (remote : dev ≠ 0) (device : dev.val < s.port.devices.toNat)
    (echoed : echoAddress s dev.val (unit.toNat * 32) = some a) :
    ∃ t, exec (.echoApply dev unit data event) s = .next t ∧ t.port.window.readBytes a 32 = data ∧
      (∀ b, b < a ∨ a + 32 ≤ b → t.port.window.read b = s.port.window.read b) ∧ t = { s with port := t.port } ∧
      ∀ w : Fin 4, (vget t.port.wires w).raised = (vget s.port.wires w).raised +
        (if event = some w ∧ s.safety.safe = false then 1 else 0) := by
  obtain ⟨copies, lost, synced, quiet, raises⟩ := stepEchoApply_stores data event lead (fun h => remote (Fin.ext h)) device echoed
  have step := answerIf_of (decide_eq_true length) "ECHO_APPLY" (stepEchoApply dev.val unit data event) s
  have reads : (s.port.window.writeBytes a data).readBytes a 32 = data := by
    rw [← length]
    exact Mem.readBytes_writeBytes ..
  have keeps : ∀ b, b < a ∨ a + 32 ≤ b → (s.port.window.writeBytes a data).read b = s.port.window.read b := by
    rw [← length]
    exact fun b => Mem.read_writeBytes_outside _ _ _ b
  cases event with
  | none =>
    rw [quiet rfl] at step
    exact ⟨_, step, reads, keeps, rfl, fun w => by simp [echoStored]⟩
  | some x =>
    have window := window_raiseWire (s := echoStored a data copies lost synced s) (BitVec.ofFin x)
    have only := raiseWire_only (BitVec.ofFin x) (echoStored a data copies lost synced s)
    rw [raises x rfl] at step
    refine ⟨_, step, (congrArg (·.readBytes a 32) window).trans reads,
      fun b outside => (congrArg (·.read b) window).trans (keeps b outside),
      (congrArg (fun u : State => { u with pending := s.pending }) only :), fun w => ?_⟩
    refine (raiseWire_raised (s := echoStored a data copies lost synced s) (BitVec.ofFin x) w lead).trans ?_
    simp only [Option.some.injEq]
    rfl

theorem echoApply_dropped {dev : Fin 64} {unit : BitVec 22} {data : List Byte} {event : Option (Fin 4)} (length : data.length = 32)
    (dropped : isLead s = false ∨ dev = 0 ∨ s.port.devices.toNat ≤ dev.val ∨
      echoAddress s dev.val (unit.toNat * 32) = none) : exec (.echoApply dev unit data event) s = .next s := by
  have stays : stepEchoApply dev.val unit data event s = s := by
    unfold stepEchoApply
    split
    · rfl
    · next takes =>
      simp only [Bool.or_eq_true, decide_eq_true_eq, Bool.not_eq_true', not_or] at takes
      obtain ⟨⟨lead, remote⟩, device⟩ := takes
      obtain h | rfl | h | h := dropped
      · exact absurd h lead
      · exact absurd rfl remote
      · exact absurd h device
      · rw [h]
  exact (answerIf_of (decide_eq_true length) ..).trans (by rw [stays])

end

/-- Settles O25: the pushes of a device by its waiting units, and what the lead does with a pushed unit. -/
theorem echoesMove : Obligations.EchoesMove := by
  unfold Obligations.EchoesMove
  exact ⟨fun _ _ _ _ => echoPush_oldest, fun _ _ => echoPush_changed, fun _ _ => echoPush_other,
    fun _ _ _ _ _ _ => echoApply_stores, fun _ _ _ _ _ => echoApply_dropped⟩

end Sys2Proof.Machine
end

section
/-! PROOF. Refutation of `Obligations.KilledCommandsEnd`, in its clause of a killed command outside the safe state. Like the clause of
MARKER, it names the phase that the end of a command brings (`endPhase`, R470) and speaks of every queue, also of one whose 64 held
corks have the number of the killed command (no queue filled through its ring has two commands of one number, R455). -/

namespace Sys2Proof.Machine

/-- A PRESS_PROGRAM command with sequence number 0 that is being killed for an uncorrectable word (Table 12.5). -/
def killedZero : Cmd := { runningZero 1 with phase := .killing 0x22 0 }

/-- A queue whose 64 held corks have the number of a command that is being killed. Their turn to be appended has not come. -/
def heldBesideKilled : Queue := { nextCork := 1, cmds := killedZero :: List.replicate 64 endedZero }

/-- The device at reset, with that queue as its queue 0. -/
def beingKilled : State := State.reset.updQueue 0 fun _ => heldBesideKilled

theorem queue_beingKilled : beingKilled.queue 0 = heldBesideKilled := queue_updQueue _ _ _

theorem cmd_beingKilled : beingKilled.cmd 0 0 = some killedZero := by
  rw [State.cmd, queue_beingKilled]
  rfl

/-- With 64 corks held, the clause has the end of the command due (R470). -/
theorem endPhase_beingKilled : endPhase beingKilled 0 0 0x22 0 = .due 0x22 0 := by
  have held : mayEnd heldBesideKilled 0 = false := by decide +kernel
  rw [endPhase, queue_beingKilled, held]
  rfl

/-- The end of the killed command makes the held corks due with it: they are held no more, and the sweep ends the command at once. -/
theorem killComplete_ends : phaseAfter (exec (.killComplete 0 0) beingKilled) 0 0 = some (.ended 0x22 0) := by decide +kernel

/-- Refutes O29, in the clause of a killed command: at `beingKilled` the command has ended after the step, and is not due. -/
theorem not_killedCommandsEnd : ¬ Obligations.KilledCommandsEnd := by
  rintro ⟨killed, -⟩
  obtain ⟨t, step, phase, -⟩ := killed beingKilled 0 0 killedZero 0x22 0 rfl cmd_beingKilled rfl
  have ended := killComplete_ends
  rw [step, phaseAfter_next, phase, endPhase_beingKilled] at ended
  cases ended

end Sys2Proof.Machine
end

section
/-! PROOF. Submit words (R457, R458, R471): what the front end sets of a queue, and the error that it records on the queue's page. -/

namespace Sys2Proof.Machine

-- As in the proof of the canonical form: elaborated side by side, the lemmas would each hold a thread while they wait.
set_option Elab.async false

/-! ### The error record of a queue's page -/

section
variable {s t : State}

/-- R703: what a page's error record is after an error: an earlier record is kept. -/
theorem pages_pageError (p : Fin 121) (c : BitVec 16) (i : Word) (a : Long) (b : Byte) (s : State) :
    vget (pageError p c i a b s).pages p =
      if (vget s.pages p).errValid then
        { vget s.pages p with irqError := true, errLost := satInc (vget s.pages p).errLost 1 }
      else { vget s.pages p with irqError := true, errCode := c, errValid := true, errInfo := i, errAddr := a, errTime := s.time
                                 errSrc := b } := by
  unfold pageError
  rw [logEvent_pages]
  exact vget_vupd_self ..

/-- From `s` to `t` a queue's page has recorded an error; its code is in the record where none was recorded before. -/
def QueueErred (q : Fin 256) (code : BitVec 16) (s t : State) : Prop :=
  (vget t.pages (pgQueue q)).errValid = true ∧ (vget t.pages (pgQueue q)).irqError = true ∧
    ((vget s.pages (pgQueue q)).errValid = false → (vget t.pages (pgQueue q)).errCode = code)

theorem queueErred_queueError (q : Fin 256) (code : BitVec 16) (s : State) : QueueErred q code s (queueError q code s) := by
  unfold QueueErred queueError
  rw [pages_pageError]
  cases valid : (vget s.pages (pgQueue q)).errValid <;> simp [valid]

/-- A further error leaves the record. -/
theorem QueueErred.queueError {q : Fin 256} {code : BitVec 16} (h : QueueErred q code s t) (other : BitVec 16) :
    QueueErred q code s (queueError q other t) := by
  obtain ⟨valid, irq, holds⟩ := h
  unfold QueueErred Machine.queueError
  rw [pages_pageError, if_pos valid]
  exact ⟨valid, rfl, holds⟩

theorem QueueErred.acceptConsumed {q : Fin 256} {code : BitVec 16} (h : QueueErred q code s t) (c : Word) :
    QueueErred q code s (acceptConsumed q c t) := by
  unfold Machine.acceptConsumed
  dsimp only
  split
  · exact h
  · exact h.queueError 2

end

/-! ### The queues that are checked -/

section
variable (s : State)

theorem joinCheck_only : joinCheck s = { s with checking := (joinCheck s).checking, checkTurn := (joinCheck s).checkTurn } := by
  unfold joinCheck
  split
  · rfl
  · split <;> rfl

/-- R735: which queues are checked is all that the front end changes when it takes up further checks. -/
theorem fillChecks_only :
    fillChecks s = { s with checking := (fillChecks s).checking, checkTurn := (fillChecks s).checkTurn } := by
  unfold fillChecks
  rw [joinCheck_only, joinCheck_only (joinCheck (joinCheck _)), joinCheck_only (joinCheck _),
    joinCheck_only { s with checking := _ }]

@[simp] theorem fillChecks_pending : (fillChecks s).pending = s.pending := (congrArg State.pending (fillChecks_only s) :)

@[simp] theorem fillChecks_queues : (fillChecks s).queues = s.queues := (congrArg State.queues (fillChecks_only s) :)

@[simp] theorem fillChecks_port : (fillChecks s).port = s.port := (congrArg State.port (fillChecks_only s) :)

@[simp] theorem fillChecks_pages : (fillChecks s).pages = s.pages := (congrArg State.pages (fillChecks_only s) :)

@[simp] theorem fillChecks_presses : (fillChecks s).presses = s.presses := (congrArg State.presses (fillChecks_only s) :)

@[simp] theorem fillChecks_safety : (fillChecks s).safety = s.safety := (congrArg State.safety (fillChecks_only s) :)

@[simp] theorem queue_fillChecks (q : Fin 256) : (fillChecks s).queue q = s.queue q := by
  rw [State.queue, fillChecks_queues, State.queue]

end

/-! ### The halves of a submit word -/

theorem queue_updQueue_ne {s : State} {q r : Fin 256} (f : Queue → Queue) (h : r ≠ q) :
    (s.updQueue q f).queue r = s.queue r := vget_vupd_ne _ _ h.symm

section
variable {s : State} {q : Fin 256}

@[simp] theorem queues_queueError (code : BitVec 16) : (queueError q code s).queues = s.queues := pageError_queues ..

@[simp] theorem queue_queueError (code : BitVec 16) (r : Fin 256) : (queueError q code s).queue r = s.queue r := by
  rw [State.queue, queues_queueError, State.queue]

/-- Table 12.2: a TAIL that submits, or repeats the one in force, is stored in its queue. -/
theorem acceptTail_inRange {t : Word} (near : (t - (s.queue q).tail).toNat < 2 ^ 31)
    (fits : (t - (s.queue q).read).toNat ≤ (s.queue q).cfg.live.size.toNat) :
    ∃ times, acceptTail q t s = s.updQueue q fun x => { x with tail := t, submitTimes := times } := by
  unfold acceptTail
  dsimp only
  split
  · next same =>
    subst same
    refine ⟨(s.queue q).submitTimes, ?_⟩
    have whole : vupd s.queues q (fun x => { x with tail := (s.queue q).tail, submitTimes := (s.queue q).submitTimes }) =
        s.queues := by
      unfold vupd vset vget
      exact Vector.set_getElem_self ..
    rw [State.updQueue, whole]
  · rw [if_pos ⟨near, fits⟩]
    exact ⟨_, rfl⟩

/-- Table 12.2: any other value is ignored and recorded. -/
theorem acceptTail_outOfRange {t : Word} (moves : t ≠ (s.queue q).tail)
    (out : 2 ^ 31 ≤ (t - (s.queue q).tail).toNat ∨ (s.queue q).cfg.live.size.toNat < (t - (s.queue q).read).toNat) :
    acceptTail q t s = queueError q 1 s := by
  unfold acceptTail
  dsimp only
  rw [if_neg moves, if_neg (by omega)]

theorem acceptConsumed_inRange {c : Word}
    (fits : (c - (s.queue q).consumed).toNat ≤ ((s.queue q).nextCork - (s.queue q).consumed).toNat) :
    acceptConsumed q c s = s.updQueue q fun x => { x with consumed := c } := if_pos fits

theorem acceptConsumed_outOfRange {c : Word}
    (out : ((s.queue q).nextCork - (s.queue q).consumed).toNat < (c - (s.queue q).consumed).toNat) :
    acceptConsumed q c s = queueError q 2 s := if_neg (Nat.not_le.2 out)

/-- A TAIL changes TAIL and the times of submission of its queue at most. -/
theorem queue_acceptTail (t : Word) (s : State) :
    ∃ tail times, (acceptTail q t s).queue q = { s.queue q with tail := tail, submitTimes := times } := by
  unfold acceptTail
  dsimp only
  split
  · exact ⟨_, _, rfl⟩
  split
  · exact ⟨_, _, queue_updQueue ..⟩
  · exact ⟨_, _, queue_queueError ..⟩

/-- CONSUMED changes CONSUMED of its queue at most. -/
theorem queue_acceptConsumed (c : Word) (s : State) :
    ∃ consumed, (acceptConsumed q c s).queue q = { s.queue q with consumed := consumed } := by
  unfold acceptConsumed
  dsimp only
  split
  · exact ⟨_, queue_updQueue ..⟩
  · exact ⟨_, queue_queueError ..⟩

theorem acceptTail_only (t : Word) (s : State) : acceptTail q t s = { s with
    queues := (acceptTail q t s).queues, pages := (acceptTail q t s).pages, diag := (acceptTail q t s).diag
    freeCtr := (acceptTail q t s).freeCtr } := by
  unfold acceptTail
  dsimp only
  split
  · rfl
  split
  · rfl
  · rw [queueError, pageError_only]

theorem acceptConsumed_only (c : Word) (s : State) : acceptConsumed q c s = { s with
    queues := (acceptConsumed q c s).queues, pages := (acceptConsumed q c s).pages, diag := (acceptConsumed q c s).diag
    freeCtr := (acceptConsumed q c s).freeCtr } := by
  unfold acceptConsumed
  dsimp only
  split
  · rfl
  · rw [queueError, pageError_only]

theorem takeSubmit_enabled (w : Long) (en : (s.queue q).cfg.live.en = true) :
    takeSubmit q w s = acceptConsumed q ((w >>> 32).setWidth 32) (acceptTail q (w.setWidth 32) s) := by
  unfold takeSubmit
  rw [en]
  rfl

theorem takeSubmit_disabled (w : Long) (en : (s.queue q).cfg.live.en = false) : takeSubmit q w s = queueError q 3 s := by
  unfold takeSubmit
  rw [en]
  rfl

/-- A submit word changes queues and error records at most. -/
theorem takeSubmit_only (w : Long) (s : State) : takeSubmit q w s = { s with
    queues := (takeSubmit q w s).queues, pages := (takeSubmit q w s).pages, diag := (takeSubmit q w s).diag
    freeCtr := (takeSubmit q w s).freeCtr } := by
  cases en : (s.queue q).cfg.live.en with
  | false => rw [takeSubmit_disabled w en, queueError, pageError_only]
  | true => rw [takeSubmit_enabled w en, acceptConsumed_only, acceptTail_only]

@[simp] theorem takeSubmit_pending (w : Long) (s : State) : (takeSubmit q w s).pending = s.pending :=
  (congrArg State.pending (takeSubmit_only w s) :)

@[simp] theorem takeSubmit_port (w : Long) (s : State) : (takeSubmit q w s).port = s.port :=
  (congrArg State.port (takeSubmit_only w s) :)

/-! ### Submit words -/

variable {w : Long}

/-- R457, R471: with both halves in range, TAIL and CONSUMED are set. -/
theorem takeSubmit_inRange (en : (s.queue q).cfg.live.en = true) (near : (w.setWidth 32 - (s.queue q).tail).toNat < 2 ^ 31)
    (fits : (w.setWidth 32 - (s.queue q).read).toNat ≤ (s.queue q).cfg.live.size.toNat)
    (consumed : (((w >>> 32).setWidth 32 : Word) - (s.queue q).consumed).toNat ≤
      ((s.queue q).nextCork - (s.queue q).consumed).toNat) :
    ∃ times, takeSubmit q w s = (s.updQueue q fun x => { x with tail := w.setWidth 32, submitTimes := times }).updQueue q
      fun x => { x with consumed := (w >>> 32).setWidth 32 } := by
  obtain ⟨times, tail⟩ := acceptTail_inRange near fits
  refine ⟨times, ?_⟩
  rw [takeSubmit_enabled w en, tail, acceptConsumed_inRange (by rw [queue_updQueue]; exact consumed)]

/-- R457, R458: a disabled queue, or one whose TAIL is out of range, keeps TAIL and records the error. -/
theorem takeSubmit_badTail (bad : (s.queue q).cfg.live.en = false ∨ w.setWidth 32 ≠ (s.queue q).tail ∧
      (2 ^ 31 ≤ (w.setWidth 32 - (s.queue q).tail).toNat ∨
        (s.queue q).cfg.live.size.toNat < (w.setWidth 32 - (s.queue q).read).toNat)) :
    ((takeSubmit q w s).queue q).tail = (s.queue q).tail ∧
      QueueErred q (if (s.queue q).cfg.live.en then 1 else 3) s (takeSubmit q w s) := by
  cases en : (s.queue q).cfg.live.en with
  | false =>
    rw [takeSubmit_disabled w en, queue_queueError]
    exact ⟨rfl, queueErred_queueError ..⟩
  | true =>
    obtain ⟨moves, out⟩ := bad.resolve_left (by simp [en])
    rw [takeSubmit_enabled w en, acceptTail_outOfRange moves out]
    obtain ⟨_, consumed⟩ := queue_acceptConsumed (q := q) ((w >>> 32).setWidth 32) (queueError q 1 s)
    rw [consumed, queue_queueError]
    exact ⟨rfl, (queueErred_queueError ..).acceptConsumed _⟩

/-- R471: CONSUMED out of range is ignored and recorded. -/
theorem takeSubmit_badConsumed (en : (s.queue q).cfg.live.en = true)
    (out : ((s.queue q).nextCork - (s.queue q).consumed).toNat <
      (((w >>> 32).setWidth 32 : Word) - (s.queue q).consumed).toNat) :
    ((takeSubmit q w s).queue q).consumed = (s.queue q).consumed ∧
      (vget (takeSubmit q w s).pages (pgQueue q)).errValid = true := by
  obtain ⟨_, _, tail⟩ := queue_acceptTail (q := q) (w.setWidth 32) s
  obtain ⟨valid, -⟩ := queueErred_queueError q 2 (acceptTail q (w.setWidth 32) s)
  rw [takeSubmit_enabled w en, acceptConsumed_outOfRange (by rw [tail]; exact out), queue_queueError, tail]
  exact ⟨rfl, valid⟩

end

/-! ### SUBMIT_WORD_WRITE -/

/-- The device whose front end has taken the oldest event of a queue's submit word from the observer. -/
def eventTaken (q : Fin 256) (s : State) : State :=
  { s with port := { s.port with observer := dropEvent (isSubmit q) s.port.observer } }

section
variable {s : State} {q : Fin 256} {w : Long}

theorem submitWordWrite_idle (idle : s.safety.safe = true ∨ s.port.observer.find? (isSubmit q) = none) :
    exec (.submitWordWrite q) s = .next s := by
  have stays : stepSubmitWord q s = s := by
    unfold stepSubmitWord
    split
    · rfl
    · next running => rw [idle.resolve_left running]
  exact (answer_keep (by rw [stays])).trans (congrArg _ stays)

/-- The word is taken from the observer. -/
theorem observer_submitWordWrite (s : State) (q : Fin 256) (w : Long) :
    (fillChecks (takeSubmit q w (eventTaken q s))).port.observer = dropEvent (isSubmit q) s.port.observer := by
  rw [fillChecks_port, takeSubmit_port]
  rfl

variable (safe : s.safety.safe = false) (first : s.port.observer.find? (isSubmit q) = some (.submit q w))
include safe first

/-- The front end answers with the word taken, and with the queues whose turn to be checked has come. -/
theorem submitWordWrite_takes : exec (.submitWordWrite q) s = .next (fillChecks (takeSubmit q w (eventTaken q s))) := by
  have taken : stepSubmitWord q s = fillChecks (takeSubmit q w (eventTaken q s)) := by
    unfold stepSubmitWord
    simp only [safe, first, Bool.false_eq_true, if_false]
    rfl
  have keeps : (stepSubmitWord q s).pending = s.pending := by
    rw [taken, fillChecks_pending, takeSubmit_pending]
    rfl
  exact (answer_keep keeps).trans (congrArg _ taken)

theorem submitWordWrite_submits (en : (s.queue q).cfg.live.en = true) (near : (w.setWidth 32 - (s.queue q).tail).toNat < 2 ^ 31)
    (fits : (w.setWidth 32 - (s.queue q).read).toNat ≤ (s.queue q).cfg.live.size.toNat)
    (consumed : (((w >>> 32).setWidth 32 : Word) - (s.queue q).consumed).toNat ≤
      ((s.queue q).nextCork - (s.queue q).consumed).toNat) :
    ∃ t, exec (.submitWordWrite q) s = .next t ∧ (t.queue q).tail = w.setWidth 32 ∧
      (t.queue q).consumed = (w >>> 32).setWidth 32 ∧ (t.queue q).cmds = (s.queue q).cmds ∧
      (∀ r : Fin 256, r ≠ q → t.queue r = s.queue r) ∧
      t = { s with queues := t.queues, checking := t.checking, checkTurn := t.checkTurn
                   port := { s.port with observer := dropEvent (isSubmit q) s.port.observer } } := by
  obtain ⟨times, taken⟩ := takeSubmit_inRange (s := eventTaken q s) en near fits consumed
  refine ⟨_, submitWordWrite_takes safe first, ?_⟩
  simp only [queue_fillChecks, taken, queue_updQueue, true_and]
  refine ⟨rfl, fun r other => ?_, ?_⟩
  · rw [queue_updQueue_ne _ other, queue_updQueue_ne _ other]
    rfl
  · rw [fillChecks_only]
    rfl

theorem submitWordWrite_badTail (bad : (s.queue q).cfg.live.en = false ∨ w.setWidth 32 ≠ (s.queue q).tail ∧
      (2 ^ 31 ≤ (w.setWidth 32 - (s.queue q).tail).toNat ∨
        (s.queue q).cfg.live.size.toNat < (w.setWidth 32 - (s.queue q).read).toNat)) :
    ∃ t, exec (.submitWordWrite q) s = .next t ∧ (t.queue q).tail = (s.queue q).tail ∧
      t.port.observer = dropEvent (isSubmit q) s.port.observer ∧ (vget t.pages (pgQueue q)).errValid = true ∧
      (vget t.pages (pgQueue q)).irqError = true ∧
      ((vget s.pages (pgQueue q)).errValid = false → (vget t.pages (pgQueue q)).errCode =
        if (s.queue q).cfg.live.en then 1 else 3) := by
  obtain ⟨tail, erred⟩ := takeSubmit_badTail (s := eventTaken q s) bad
  refine ⟨_, submitWordWrite_takes safe first, ?_⟩
  rw [queue_fillChecks, fillChecks_pages]
  exact ⟨tail, observer_submitWordWrite .., erred⟩

theorem submitWordWrite_badConsumed (en : (s.queue q).cfg.live.en = true)
    (out : ((s.queue q).nextCork - (s.queue q).consumed).toNat <
      (((w >>> 32).setWidth 32 : Word) - (s.queue q).consumed).toNat) :
    ∃ t, exec (.submitWordWrite q) s = .next t ∧ (t.queue q).consumed = (s.queue q).consumed ∧
      t.port.observer = dropEvent (isSubmit q) s.port.observer ∧ (vget t.pages (pgQueue q)).errValid = true := by
  obtain ⟨consumed, erred⟩ := takeSubmit_badConsumed (s := eventTaken q s) en out
  refine ⟨_, submitWordWrite_takes safe first, ?_⟩
  rw [queue_fillChecks, fillChecks_pages]
  exact ⟨consumed, observer_submitWordWrite .., erred⟩

end

end Sys2Proof.Machine
end

section
/-! PROOF. The ends of commands in a queue (R461, R470, R475, R478): what one end does to the numbers and phases of the queue's
commands, what a sweep of ends therefore keeps, and the phase of a command that has ended or is due. -/

namespace Sys2Proof.Machine

-- As in the proof of the canonical form: elaborated side by side, the lemmas would each hold a thread while they wait.
set_option Elab.async false

/-! ### The standing of a queue's commands -/

/-- The sequence numbers and phases of a queue's commands, in their order. -/
def Queue.standing (x : Queue) : List (Word × Phase) := x.cmds.map fun c => (c.seq, c.phase)

/-- Is an ended command's cork held (R470)? -/
def corkHeld (x : Queue) (p : Word × Phase) : Bool := p.2.isEnded && !corkDue x p.1

/-- The phase in which the first command with a sequence number stands. -/
def phaseIn (l : List (Word × Phase)) (seq : Word) : Option Phase := (l.find? fun p => decide (p.1 = seq)).map (·.2)

/-- What the end of a command makes of the standing of a command. -/
def endedAs (seq : Word) (st : Byte) (data : Long) (p : Word × Phase) : Word × Phase :=
  (p.1, if p.1 = seq ∧ p.2.isEnded = false then .ended st data else p.2)

section
variable (x : Queue)

theorem seqs_standing : x.standing.map Prod.fst = x.cmds.map (·.seq) := by simp [Queue.standing]

theorem phaseIn_standing (seq : Word) : phaseIn x.standing seq = (x.find seq).map (·.phase) := by
  simp only [phaseIn, Queue.standing, Queue.find, List.find?_map, Option.map_map]
  rfl

theorem corksHeld_eq_countP : corksHeld x = x.standing.countP (corkHeld x) := by
  rw [corksHeld, Queue.standing, List.countP_map]
  congr 1
  funext c
  simp only [Function.comp_apply, corkHeld]
  cases c.phase <;> rfl

theorem dueCandidate_eq_none_iff :
    dueCandidate x = none ↔ ∀ p ∈ x.standing, ∀ st data, p.2 = .due st data → mayEnd x p.1 = false := by
  simp only [dueCandidate, Queue.standing, List.findSome?_eq_none_iff, List.forall_mem_map]
  refine forall₂_congr fun c _ => ?_
  cases c.phase <;> simp

end

/-- The command that a sweep ends because it is due may end. -/
theorem mayEnd_of_dueCandidate {x : Queue} {seq : Word} {st : Byte} {data : Long}
    (h : dueCandidate x = some (seq, st, data)) : mayEnd x seq = true := by
  obtain ⟨c, -, found⟩ := List.exists_of_findSome?_eq_some h
  split at found
  · split at found
    · next may =>
      cases found
      exact may
    · cases found
  · cases found

theorem phaseIn_map {f : Word × Phase → Word × Phase} (same : ∀ p, (f p).1 = p.1) (l : List (Word × Phase)) (seq : Word) :
    phaseIn (l.map f) seq = (l.find? fun p => decide (p.1 = seq)).map fun p => (f p).2 := by
  simp only [phaseIn, List.find?_map, Function.comp_def, same, Option.map_map]

/-- What follows the first command with a number does not count. -/
theorem phaseIn_append {l : List (Word × Phase)} {seq : Word} {phase : Phase} (h : phaseIn l seq = some phase)
    (rest : List (Word × Phase)) : phaseIn (l ++ rest) seq = some phase := by
  obtain ⟨p, found, rfl⟩ := Option.map_eq_some_iff.1 h
  rw [phaseIn, List.find?_append, found]
  rfl

/-! ### One end -/

section
variable (seq : Word) (st : Byte) (data : Long) (x : Queue)

theorem standing_doomWaiters (failed root : Word) : (doomWaiters failed root x).standing = x.standing := by
  simp only [Queue.standing, doomWaiters, List.map_map]
  refine List.map_congr_left fun c _ => ?_
  dsimp only [Function.comp_apply]
  split <;> rfl

theorem standing_clearWaits : (clearWaits seq x).standing = x.standing := by
  simp only [Queue.standing, clearWaits, List.map_map]
  rfl

theorem standing_queueAfterEnd : (queueAfterEnd seq st data x).standing = x.standing := by
  unfold queueAfterEnd
  dsimp only
  split
  · split <;> exact standing_doomWaiters ..
  split
  · exact standing_doomWaiters ..
  · exact standing_clearWaits ..

theorem queueAfterEnd_keeps : (queueAfterEnd seq st data x).nextCork = x.nextCork ∧
    (queueAfterEnd seq st data x).consumed = x.consumed ∧ (queueAfterEnd seq st data x).read = x.read := by
  unfold queueAfterEnd
  dsimp only
  split
  · split <;> exact ⟨rfl, rfl, rfl⟩
  split <;> exact ⟨rfl, rfl, rfl⟩

theorem endInQueue_keeps (now : Long) : (endInQueue now seq st data x).nextCork = x.nextCork ∧
    (endInQueue now seq st data x).consumed = x.consumed ∧ (endInQueue now seq st data x).read = x.read :=
  queueAfterEnd_keeps seq st data (x.upd seq _)

/-- R461: an end ends the commands with its number that have not ended. -/
theorem standing_endInQueue (now : Long) :
    (endInQueue now seq st data x).standing = x.standing.map (endedAs seq st data) := by
  unfold endInQueue
  rw [standing_queueAfterEnd]
  simp only [Queue.standing, Queue.upd, List.map_map]
  refine List.map_congr_left fun c _ => ?_
  dsimp only [Function.comp_apply, endedAs]
  by_cases number : c.seq = seq
  · cases ended : c.phase.isEnded with
    | true => simp [number]
    | false => simp [number, endedNow, closeInterval, apply_ite Cmd.seq]
  · simp [number]

end

/-- Queues whose logs stand alike append the same cork next. -/
theorem corkDue_congr {x y : Queue} (next : y.nextCork = x.nextCork) (consumed : y.consumed = x.consumed) :
    corkDue y = corkDue x := by
  funext seq
  rw [corkDue, corkDue, logRoom, logRoom, next, consumed]

theorem corkHeld_congr {x y : Queue} (next : y.nextCork = x.nextCork) (consumed : y.consumed = x.consumed) :
    corkHeld y = corkHeld x := by
  funext p
  rw [corkHeld, corkHeld, corkDue_congr next consumed]

section
variable {x : Queue} (now : Long) (seq : Word) (st : Byte) (data : Long)

theorem corkDue_endInQueue : corkDue (endInQueue now seq st data x) = corkDue x := by
  obtain ⟨next, consumed, -⟩ := endInQueue_keeps seq st data x now
  exact corkDue_congr next consumed

/-- R470: an end gives up no cork that is held. -/
theorem corksHeld_le_endInQueue : corksHeld x ≤ corksHeld (endInQueue now seq st data x) := by
  rw [corksHeld_eq_countP, corksHeld_eq_countP, standing_endInQueue, List.countP_map]
  refine List.countP_mono_left fun p _ held => ?_
  simp only [corkHeld, Bool.and_eq_true, Function.comp_apply, corkDue_endInQueue, endedAs] at held ⊢
  obtain ⟨ended, waits⟩ := held
  simp [ended, waits]

/-- A command that might not end before an end may not end after it. -/
theorem mayEnd_endInQueue {other : Word} (h : mayEnd x other = false) : mayEnd (endInQueue now seq st data x) other = false := by
  have held := corksHeld_le_endInQueue (x := x) now seq st data
  simp only [mayEnd, Bool.or_eq_false_iff, decide_eq_false_iff_not, corkDue_endInQueue] at h ⊢
  obtain ⟨full, waits⟩ := h
  exact ⟨by omega, waits⟩

theorem dueCandidate_endInQueue (h : dueCandidate x = none) : dueCandidate (endInQueue now seq st data x) = none := by
  rw [dueCandidate_eq_none_iff] at h ⊢
  rw [standing_endInQueue]
  refine List.forall_mem_map.2 fun p mem st' data' due => mayEnd_endInQueue now seq st data (h p mem st' data' ?_)
  rw [← due]
  simp only [endedAs] at due ⊢
  split at due
  · cases due
  · rw [if_neg ‹_›]

/-- A command that has ended stays as it is. -/
theorem phaseIn_endInQueue_ended {other : Word} {st' : Byte} {data' : Long}
    (h : phaseIn x.standing other = some (.ended st' data')) :
    phaseIn (endInQueue now seq st data x).standing other = some (.ended st' data') := by
  obtain ⟨p, found, phase⟩ := Option.map_eq_some_iff.1 h
  rw [standing_endInQueue, phaseIn_map (f := endedAs seq st data) fun _ => rfl, found]
  simp [endedAs, phase, Phase.isEnded]

/-- A command stays as it is where another ends. -/
theorem phaseIn_endInQueue_ne {other : Word} (h : other ≠ seq) :
    phaseIn (endInQueue now seq st data x).standing other = phaseIn x.standing other := by
  rw [standing_endInQueue, phaseIn_map (f := endedAs seq st data) fun _ => rfl, phaseIn]
  cases found : x.standing.find? fun p => decide (p.1 = other) with
  | none => rfl
  | some p =>
    have number : p.1 = other := by simpa using List.find?_some found
    simp [endedAs, number, h]

end

/-! ### Sweeps -/

/-- What one end that is due makes of a queue (R470, R475, R478): the end of a command that is done, the cancellation of one that has
been read, or that of the next one unread. -/
inductive QueueEnds (x : Queue) : Queue → Prop
  | due (now : Long) {seq : Word} {st : Byte} {data : Long} (candidate : dueCandidate x = some (seq, st, data)) :
      QueueEnds x (endInQueue now seq st data x)
  | cancelled (now : Long) (seq root : Word) (noneDue : dueCandidate x = none) (room : corksHeld x < 64) :
      QueueEnds x (endInQueue now seq 2 (root.setWidth 64) x)
  | unread (now : Long) (c : Cmd) (root : Long) (room : corksHeld x < 64) (next : cancelUnread x = true) :
      QueueEnds x (queueAfterEnd c.seq 2 root { takeEntry x with cmds := x.cmds ++ [endedNow now 2 root c] })

theorem endOne_ends {s t : State} {q : Fin 256} (h : endOne s q = some t) :
    ∃ y, QueueEnds (s.queue q) y ∧ t = s.updQueue q fun _ => y := by
  unfold endOne at h
  dsimp only at h
  split at h
  · cases h
  split at h
  · next candidate =>
    cases h
    exact ⟨_, .due _ candidate, rfl⟩
  next noneDue =>
  split at h
  · cases h
  next room =>
  split at h
  · cases h
    exact ⟨_, .cancelled _ _ _ noneDue (Nat.not_le.1 room), rfl⟩
  split at h
  · next unread =>
    cases h
    exact ⟨_, .unread _ _ _ (Nat.not_le.1 room) unread, rfl⟩
  · cases h

section
variable {P : Queue → Prop} (resumes : ∀ {x}, P x → P { x with stopped := false, resume := none })
include resumes

theorem finishResume_keeps {s : State} {q : Fin 256} (h : P (s.queue q)) : P ((finishResume q s).queue q) := by
  unfold finishResume
  dsimp only
  split
  · rw [queue_updQueue]
    exact resumes h
  · exact h

variable (ends : ∀ {x y}, QueueEnds x y → P x → P y)
include ends

theorem sweep_keeps (fuel : Nat) {s : State} {q : Fin 256} (h : P (s.queue q)) : P ((sweep fuel q s).queue q) := by
  induction fuel generalizing s with
  | zero => exact finishResume_keeps resumes h
  | succ fuel ih =>
    unfold sweep
    split
    · exact finishResume_keeps resumes h
    · next ended =>
      obtain ⟨y, one, rfl⟩ := endOne_ends ended
      refine ih ?_
      rw [queue_updQueue]
      exact ends one h

/-- What each end in a queue keeps, and its return to ACTIVE, is kept by a sweep of the queue. -/
theorem sweepQueue_keeps {s : State} {q : Fin 256} (h : P (s.queue q)) : P ((sweepQueue q s).queue q) := by
  rw [State.queue, sweepQueue_queues]
  exact sweep_keeps resumes ends 66 h

end

theorem finishResume_only (q : Fin 256) (s : State) : finishResume q s = { s with queues := (finishResume q s).queues } := by
  unfold finishResume
  dsimp only
  split <;> rfl

/-- A sweep changes queues alone. -/
theorem sweep_only (fuel : Nat) (q : Fin 256) (s : State) : sweep fuel q s = { s with queues := (sweep fuel q s).queues } := by
  induction fuel generalizing s with
  | zero => exact finishResume_only q s
  | succ fuel ih =>
    unfold sweep
    split
    · exact finishResume_only q s
    · next ended =>
      obtain ⟨y, -, rfl⟩ := endOne_ends ended
      rw [ih]
      rfl

/-- The commands that stand in a queue when it is swept stay there, in their order, and what is cancelled unread comes behind. -/
theorem prefix_sweepQueue {s : State} {q : Fin 256} {l : List Word} (h : l <+: (s.queue q).cmds.map (·.seq)) :
    l <+: ((sweepQueue q s).queue q).cmds.map (·.seq) := by
  simp only [← seqs_standing] at h ⊢
  refine sweepQueue_keeps (P := fun x : Queue => l <+: x.standing.map Prod.fst) (fun h => h) (fun one h => ?_) h
  cases one with
  | due now candidate =>
    rw [standing_endInQueue, List.map_map]
    exact h
  | cancelled now seq root noneDue room =>
    rw [standing_endInQueue, List.map_map]
    exact h
  | unread now c root room next =>
    rw [standing_queueAfterEnd]
    simp only [Queue.standing, List.map_append] at h ⊢
    exact h.trans (List.prefix_append ..)

/-- A queue that is not stopped and where nothing is due: neither is so after an end, and the front end takes no command. -/
def Undisturbed (read : Word) (n : Nat) (x : Queue) : Prop :=
  dueCandidate x = none ∧ x.stopped = false ∧ x.read = read ∧ x.cmds.length = n

theorem Undisturbed.ends {read : Word} {n : Nat} {x y : Queue} (h : Undisturbed read n x) (one : QueueEnds x y) :
    Undisturbed read n y := by
  obtain ⟨quiet, running, at_, length⟩ := h
  cases one with
  | due now candidate => cases quiet.symm.trans candidate
  | cancelled now seq root noneDue room =>
    have lengths := congrArg List.length (standing_endInQueue seq 2 (root.setWidth 64) x now)
    simp only [Queue.standing, List.length_map] at lengths
    obtain ⟨-, -, read⟩ := endInQueue_keeps seq 2 (root.setWidth 64) x now
    exact ⟨dueCandidate_endInQueue _ _ _ _ quiet, running, read.trans at_, lengths.trans length⟩
  | unread now c root room next => simp [cancelUnread, running] at next

theorem Undisturbed.sweepQueue {read : Word} {n : Nat} {s : State} {q : Fin 256} (h : Undisturbed read n (s.queue q)) :
    Undisturbed read n ((sweepQueue q s).queue q) := by
  refine sweepQueue_keeps (fun h => ?_) (fun one h => h.ends one) h
  obtain ⟨quiet, -, at_, length⟩ := h
  exact ⟨quiet, rfl, at_, length⟩

/-- A command that has ended, or is due and may not end while 64 corks are held. -/
def EndStands (seq : Word) (st : Byte) (data : Long) (phase : Phase) (x : Queue) : Prop :=
  phaseIn x.standing seq = some phase ∧ (phase = .ended st data ∨ phase = .due st data ∧ mayEnd x seq = false)

theorem EndStands.ends {seq : Word} {st : Byte} {data : Long} {phase : Phase} {x y : Queue} (h : EndStands seq st data phase x)
    (one : QueueEnds x y) : EndStands seq st data phase y := by
  obtain ⟨stands, rfl | ⟨rfl, waits⟩⟩ := h
  · refine ⟨?_, .inl rfl⟩
    cases one with
    | due now candidate => exact phaseIn_endInQueue_ended _ _ _ _ stands
    | cancelled now other root noneDue room => exact phaseIn_endInQueue_ended _ _ _ _ stands
    | unread now c root room next =>
      rw [standing_queueAfterEnd]
      simp only [Queue.standing, List.map_append] at stands ⊢
      exact phaseIn_append stands _
  · have full : ¬ corksHeld x < 64 := by simp_all [mayEnd]
    cases one with
    | due now candidate =>
      have other : seq ≠ _ := fun same => by
        rw [same, mayEnd_of_dueCandidate candidate] at waits
        cases waits
      exact ⟨(phaseIn_endInQueue_ne _ _ _ _ other).trans stands, .inr ⟨rfl, mayEnd_endInQueue _ _ _ _ waits⟩⟩
    | cancelled now other root noneDue room => exact absurd room full
    | unread now c root room next => exact absurd room full

/-- R461, R470: neither ends nor cancellations change the phase of a command that has ended, or whose end has to wait. -/
theorem EndStands.sweepQueue {seq : Word} {st : Byte} {data : Long} {phase : Phase} {s : State} {q : Fin 256}
    (h : EndStands seq st data phase (s.queue q)) : EndStands seq st data phase ((sweepQueue q s).queue q) :=
  sweepQueue_keeps (fun h => h) (fun one h => h.ends one) h

end Sys2Proof.Machine
end

section
/-! PROOF. COMMAND_CHECK (R158, R402, R459, R735): what the acceptance and the rejection of a command leave of its queue, and with the
submit words the obligation CommandsAreSubmittedAndChecked. -/

namespace Sys2Proof.Machine

-- As in the proof of the canonical form: elaborated side by side, the lemmas would each hold a thread while they wait.
set_option Elab.async false

/-! ### What the replies that were owed leave -/

/-- What the front end has read of each queue and the commands that stand there, and the presses. -/
def progress (s : State) : (Fin 256 → Word × List Cmd) × Vector Press 16 :=
  (fun q => ((s.queue q).read, (s.queue q).cmds), s.presses)

theorem parts_of_progress {s t : State} (h : progress t = progress s) (q : Fin 256) :
    (t.queue q).read = (s.queue q).read ∧ (t.queue q).cmds = (s.queue q).cmds ∧ t.presses = s.presses :=
  ⟨congrArg (fun x => (x.1 q).1) h, congrArg (fun x => (x.1 q).2) h, congrArg (·.2) h⟩

section
variable (s : State)

theorem progress_updQueue (q : Fin 256) {f : Queue → Queue} (h : ∀ x, (f x).read = x.read ∧ (f x).cmds = x.cmds) :
    progress (s.updQueue q f) = progress s := by
  have same (r : Fin 256) : ((s.updQueue q f).queue r).read = (s.queue r).read ∧
      ((s.updQueue q f).queue r).cmds = (s.queue r).cmds := by
    by_cases here : r = q
    · subst here
      rw [queue_updQueue]
      exact h _
    · rw [queue_updQueue_ne f here]
      exact ⟨rfl, rfl⟩
  simp only [progress, same, updQueue_presses]

theorem progress_pageError (p : Fin 121) (c : BitVec 16) (i : Word) (a : Long) (b : Byte) :
    progress (pageError p c i a b s) = progress s := by
  rw [pageError_only]
  rfl

theorem progress_acceptTail (q : Fin 256) (t : Word) : progress (acceptTail q t s) = progress s := by
  unfold acceptTail
  dsimp only
  split
  · rfl
  split
  · exact progress_updQueue _ _ fun _ => ⟨rfl, rfl⟩
  · exact progress_pageError ..

theorem progress_acceptConsumed (q : Fin 256) (c : Word) : progress (acceptConsumed q c s) = progress s := by
  unfold acceptConsumed
  dsimp only
  split
  · exact progress_updQueue _ _ fun _ => ⟨rfl, rfl⟩
  · exact progress_pageError ..

theorem progress_takeSubmit (q : Fin 256) (w : Long) : progress (takeSubmit q w s) = progress s := by
  unfold takeSubmit
  split
  · exact progress_pageError ..
  · exact (progress_acceptConsumed ..).trans (progress_acceptTail ..)

theorem progress_fillChecks : progress (fillChecks s) = progress s := by
  rw [fillChecks_only]
  rfl

theorem progress_finishJob (p : Fin 8) (typ : Nat) (seq : Word) (code : Nat) (fields : List Byte) :
    progress (finishJob p typ seq code fields s) = progress s := parts_finishJob s progress (fun _ _ _ => rfl) ..

theorem progress_pumpForward : progress (pumpForward s) = progress s := by
  rw [pumpForward_forwardOnly s]
  rfl

theorem progress_placeTurn (t : MuxTurn) : progress (placeTurn t s) = progress s := by
  unfold placeTurn
  split
  · exact progress_takeSubmit ..
  · exact progress_pumpForward _

theorem progress_settleMux (fuel : Nat) : progress (settleMux fuel s) = progress s := by
  induction fuel generalizing s with
  | zero => rfl
  | succ fuel ih =>
    unfold settleMux
    split
    · rfl
    · exact (ih _).trans <| (progress_finishJob ..).trans (progress_placeTurn ..)

theorem progress_settlePair (p : Fin 8) : progress (settlePair p s) = progress s := by
  unfold settlePair
  split
  · split
    · rfl
    · exact progress_finishJob ..
  · split
    · rfl
    · exact progress_finishJob ..
  · rfl

/-- The replies that firmware gives at the end of a step take no command and end none. -/
theorem progress_settleJobs : progress (settleJobs s) = progress s := by
  unfold settleJobs
  split
  · exact (progress_settleMux ..).trans
      (foldState_keeps (fun t => progress t = progress s) _ _ (fun p t h => (progress_settlePair t p).trans h) s rfl)
  · rfl

end

/-! ### A command that comes into its queue -/

section
variable {x y : Queue} {seq : Word} {phase : Phase}

/-- A queue with the log of another and its commands, and one more behind them that has not ended. -/
def Enters (seq : Word) (phase : Phase) (x y : Queue) : Prop :=
  y.nextCork = x.nextCork ∧ y.consumed = x.consumed ∧ y.standing = x.standing ++ [(seq, phase)] ∧ phase.isEnded = false

theorem Enters.corksHeld (h : Enters seq phase x y) : corksHeld y = corksHeld x := by
  obtain ⟨next, consumed, standing, unended⟩ := h
  simp [corksHeld_eq_countP, standing, corkHeld_congr next consumed, corkHeld, unended]

theorem Enters.mayEnd (h : Enters seq phase x y) : mayEnd y = mayEnd x := by
  obtain ⟨next, consumed, -⟩ := id h
  funext other
  rw [Machine.mayEnd, Machine.mayEnd, h.corksHeld, corkDue_congr next consumed]

theorem Enters.dueCandidate (h : Enters seq .checked x y) (quiet : dueCandidate x = none) : dueCandidate y = none := by
  obtain ⟨-, -, standing, -⟩ := id h
  rw [dueCandidate_eq_none_iff] at quiet ⊢
  simp only [h.mayEnd, standing, List.mem_append, List.mem_singleton]
  rintro p (mem | rfl) st data due
  · exact quiet p mem st data due
  · cases due

/-- A queue in which fewer than 64 corks are held has nothing due where no end is due at once. -/
theorem not_due_of_room (quiet : dueCandidate x = none) (room : corksHeld x < 64) {p : Word × Phase} (mem : p ∈ x.standing)
    (st : Byte) (data : Long) : p.2 ≠ .due st data := by
  intro due
  have waits := (dueCandidate_eq_none_iff x).1 quiet p mem st data due
  simp [Machine.mayEnd, room] at waits

/-- The start of a command makes no end due. -/
theorem dueCandidate_upd_started (quiet : dueCandidate x = none) (room : corksHeld x < 64) {f : Cmd → Cmd}
    (starts : ∀ c, (f c).phase = .started) : dueCandidate (x.upd seq f) = none := by
  rw [dueCandidate_eq_none_iff]
  simp only [Queue.standing, Queue.upd, List.map_map, List.forall_mem_map, Function.comp_apply]
  intro c mem st data due
  split at due
  · rw [starts] at due
    cases due
  · exact absurd due (not_due_of_room quiet room (List.mem_map_of_mem mem) st data)

end

/-! ### Acceptance -/

theorem takeHolds_queues (l : List ObjRef) (s : State) : (takeHolds l s).queues = s.queues :=
  foldState_keeps (fun t => t.queues = s.queues) _ l (fun _ t h => (updObject_queues t _ _).trans h) s rfl

theorem takeHolds_presses (l : List ObjRef) (s : State) : (takeHolds l s).presses = s.presses :=
  foldState_keeps (fun t => t.presses = s.presses) _ l (fun _ t h => (updObject_presses t _ _).trans h) s rfl

theorem lasting_takeHolds (l : List ObjRef) (s : State) : lasting (takeHolds l s) = lasting s :=
  lasting_foldState fun _ _ => by simp [lasting]

section
variable (q : Fin 256) (c : Cmd) (s : State)

/-- R402: an accepted command stands last in its queue, checked. -/
theorem enterQueue_enters : ∃ c1 : Cmd, c1.seq = c.seq ∧ c1.phase = .checked ∧
    (enterQueue q c s).queue q = { s.queue q with cmds := (s.queue q).cmds ++ [c1] } := by
  have same : (if c.kind = 7 then s else takeHolds c.objs s).queue q = s.queue q := by
    split
    · rfl
    · rw [State.queue, takeHolds_queues, State.queue]
  unfold enterQueue
  dsimp only
  rw [queue_updQueue, same]
  refine ⟨_, ?_, ?_, rfl⟩
  · rfl
  · rfl

theorem enterQueue_presses : (enterQueue q c s).presses = s.presses := by
  unfold enterQueue
  dsimp only
  split
  · rfl
  · exact takeHolds_presses ..

theorem lasting_enterQueue : lasting (enterQueue q c s) = lasting s := by
  unfold enterQueue
  dsimp only
  split
  · rfl
  · exact lasting_takeHolds ..

theorem queue_markStart (seq : Word) (f : Phase → Phase) : (markStart q seq f s).queue q =
    (s.queue q).upd seq fun c => { closeInterval s.time c with phase := f c.phase } := by
  rw [markStart, State.queue, traceEvent_queues]
  exact queue_updQueue ..

theorem noteRackMap_queues : (noteRackMap q c s).queues = s.queues := by
  unfold noteRackMap
  split
  · exact pageError_queues ..
  · rfl

theorem noteRackMap_presses : (noteRackMap q c s).presses = s.presses := by
  unfold noteRackMap
  split
  · exact pageError_presses ..
  · rfl

theorem lasting_noteRackMap : lasting (noteRackMap q c s) = lasting s := lasting_ite (lasting_pageError ..) rfl

/-- R651: topping work comes and goes without a change of what the presses run. -/
theorem sequencers_settleTopping (n : Fin 8) : (settleTopping n s).presses.map (·.sequencer) = s.presses.map (·.sequencer) := by
  refine Vector.ext fun i lt => ?_
  simp only [Vector.getElem_map, settleTopping, vmap, Vector.getElem_ofFn, vget]
  split
  · split
    · split <;> rfl
    · split <;> rfl
    · split <;> rfl
    · rfl
  · rfl

theorem settleHolder_presses (n : Fin 8) : (settleHolder n s).presses = s.presses := by
  unfold settleHolder
  dsimp only
  split <;> rfl

theorem sequencers_sweepQueue : (sweepQueue q s).presses.map (·.sequencer) = s.presses.map (·.sequencer) := by
  rw [sweepQueue, sequencers_settleTopping, settleHolder_presses, sweep_only]

/-- The device before the sweep that follows the acceptance of a command: an OBJECT_FREE command starts at once where its queue may
start one (R462). -/
def accepted : State :=
  if c.kind = 7 && mayStart (enterQueue q c s) q then markStart q c.seq (fun _ => .started) (enterQueue q c s)
  else enterQueue q c s

theorem acceptCmd_eq : acceptCmd q c s = sweepQueue q (accepted q c s) := rfl

theorem accepted_presses : (accepted q c s).presses = s.presses := by
  unfold accepted
  split
  · rw [markStart, traceEvent_presses, updCmd_presses, enterQueue_presses]
  · exact enterQueue_presses ..

theorem lasting_accepted : lasting (accepted q c s) = lasting s := by
  unfold accepted
  split
  · exact (lasting_traceEvent ..).trans (lasting_enterQueue q c s)
  · exact lasting_enterQueue ..

/-- An accepted command stands behind the others of its queue. -/
theorem seqs_accepted : ((accepted q c s).queue q).cmds.map (·.seq) = (s.queue q).cmds.map (·.seq) ++ [c.seq] := by
  obtain ⟨c1, number, -, enters⟩ := enterQueue_enters q c s
  unfold accepted
  split
  · rw [queue_markStart, enters]
    simp only [Queue.upd, List.map_map, Function.comp_def, apply_ite Cmd.seq, closeInterval, ite_self]
    simp [number]
  · rw [enters]
    simp [number]

/-- In a queue where nothing is due and that is not stopped, the acceptance of a command leaves it so. -/
theorem undisturbed_accepted {read : Word} {n : Nat} (h : Undisturbed read n (s.queue q)) :
    Undisturbed read (n + 1) ((accepted q c s).queue q) := by
  obtain ⟨quiet, running, at_, length⟩ := h
  obtain ⟨c1, -, phase, enters⟩ := enterQueue_enters q c s
  have entered : Enters c1.seq .checked (s.queue q) ((enterQueue q c s).queue q) := by
    rw [enters]
    exact ⟨rfl, rfl, by simp [Queue.standing, phase], rfl⟩
  have quiet := entered.dueCandidate quiet
  have lengths : ((enterQueue q c s).queue q).cmds.length = n + 1 := by simp [enters, length]
  have running : ((enterQueue q c s).queue q).stopped = false := by rw [enters, running]
  have at_ : ((enterQueue q c s).queue q).read = read := by rw [enters, at_]
  unfold accepted
  split
  · next starts =>
    have room : corksHeld ((enterQueue q c s).queue q) < 64 := by
      simp only [mayStart, Bool.and_eq_true, decide_eq_true_eq] at starts
      obtain ⟨-, -, room⟩ := starts
      exact room
    rw [queue_markStart]
    exact ⟨dueCandidate_upd_started quiet room fun _ => rfl, running, at_, (List.length_map _).trans lengths⟩
  · exact ⟨quiet, running, at_, lengths⟩

end

/-! ### Rejection -/

/-- Two queues have the same log and the same standing of their commands. -/
def SameStanding (x y : Queue) : Prop := y.nextCork = x.nextCork ∧ y.consumed = x.consumed ∧ y.standing = x.standing

theorem SameStanding.mayEnd {x y : Queue} (h : SameStanding x y) : mayEnd y = mayEnd x := by
  obtain ⟨next, consumed, standing⟩ := h
  funext seq
  rw [Machine.mayEnd, Machine.mayEnd, corksHeld_eq_countP, corksHeld_eq_countP, corkHeld_congr next consumed, standing,
    corkDue_congr next consumed]

theorem releaseSlots_sameStanding (q : Fin 256) (seq : Word) (s : State) :
    SameStanding (s.queue q) ((releaseSlots q seq s).queue q) := by
  unfold releaseSlots
  split
  · exact ⟨rfl, rfl, rfl⟩
  · rw [foldState_freeSlot_only, State.updCmd, queue_updQueue]
    refine ⟨rfl, rfl, ?_⟩
    simp only [Queue.standing, Queue.upd, List.map_map]
    refine List.map_congr_left fun c _ => ?_
    dsimp only [Function.comp_apply]
    split <;> rfl

section
variable {x : Queue} {seq : Word} {st : Byte} {data : Long} {phase : Phase}
  (found : phaseIn x.standing seq = some phase) (unended : ∀ p ∈ x.standing, p.1 = seq → p.2.isEnded = false)
include found unended

/-- R461: a command that may end has ended after its end. -/
theorem endStands_endInQueue (now : Long) : EndStands seq st data (.ended st data) (endInQueue now seq st data x) := by
  obtain ⟨p, first, -⟩ := Option.map_eq_some_iff.1 found
  have number : p.1 = seq := by simpa using List.find?_some first
  refine ⟨?_, .inl rfl⟩
  rw [standing_endInQueue, phaseIn_map (f := endedAs seq st data) fun _ => rfl, first]
  simp [endedAs, number, unended p (List.mem_of_find?_eq_some first) number]

/-- R470: a command whose end has to wait is due, and waits further. -/
theorem endStands_upd_due (waits : mayEnd x seq = false) {f : Cmd → Cmd} (number : ∀ c, (f c).seq = c.seq)
    (due : ∀ c, (f c).phase = .due st data) : EndStands seq st data (.due st data) (x.upd seq f) := by
  have find := Queue.find_upd x seq number
  rw [phaseIn_standing, Option.map_eq_some_iff] at found
  obtain ⟨c, first, -⟩ := found
  have held : corksHeld (x.upd seq f) = corksHeld x := by
    rw [corksHeld_eq_countP, corksHeld_eq_countP, Queue.standing, Queue.standing, List.countP_map, List.countP_map, Queue.upd,
      List.countP_map]
    refine List.countP_congr fun c mem => ?_
    have open_ : c.seq = seq → c.phase.isEnded = false := unended (c.seq, c.phase) (List.mem_map_of_mem mem)
    simp only [Function.comp_apply, corkHeld]
    by_cases here : c.seq = seq
    · rw [if_pos here, due, open_ here]
      simp [Phase.isEnded]
    · simp only [here, if_false]
      rfl
  refine ⟨?_, .inr ⟨rfl, ?_⟩⟩
  · rw [phaseIn_standing, find, first]
    simp [due]
  · rw [mayEnd, held]
    exact waits

end

/-- R461, R470: the end of a command brings the phase that `endPhase` names, where no command of its number has ended before. -/
theorem endCmd_endStands {s : State} {q : Fin 256} {seq : Word} {phase : Phase} (st : Byte) (data : Long)
    (safe : s.safety.safe = false) (found : phaseIn (s.queue q).standing seq = some phase)
    (unended : ∀ p ∈ (s.queue q).standing, p.1 = seq → p.2.isEnded = false) :
    EndStands seq st data (endPhase s q seq st data) ((endCmd q seq st data s).queue q) := by
  have same := releaseSlots_sameStanding q seq s
  have may := same.mayEnd
  obtain ⟨-, -, standing⟩ := same
  rw [← standing] at found unended
  have freed (u : State) (l : List (Fin 16)) : (traceEvent 0x38 0x0201 (foldState freePress l u)).queue q = u.queue q := by
    rw [State.queue, traceEvent_queues]
    exact congrArg (vget · q) (foldState_keeps (fun t => t.queues = u.queues) freePress l (fun _ _ h => h) u rfl)
  unfold endCmd
  simp only [safe, Bool.false_eq_true, if_false]
  refine EndStands.sweepQueue ?_
  rw [freed, may, endPhase]
  split
  · rw [queue_updQueue]
    exact endStands_endInQueue found unended _
  · next waits =>
    rw [State.updCmd, queue_updQueue]
    refine endStands_upd_due found unended ?_ (fun c => ?_) fun _ => rfl
    · rw [may]
      exact Bool.eq_false_iff.2 waits
    · dsimp only [closeInterval]
      split <;> rfl

section
variable (q : Fin 256) (c : Cmd) (e : Stop) (s : State)

/-- The device before a rejected command ends: the command stands behind the others of its queue. -/
def rejected : State :=
  noteFault (s.parcelOf q) e (s.updQueue q fun x => { x with cmds := x.cmds ++ [{ c with objs := namedObjects s q c }] })

theorem rejectCmd_eq : rejectCmd q c e s = endCmd q c.seq e.status e.data (rejected q c e s) := rfl

theorem queue_rejected : (rejected q c e s).queue q =
    { s.queue q with cmds := (s.queue q).cmds ++ [{ c with objs := namedObjects s q c }] } := by
  rw [rejected, noteFault_only]
  exact queue_updQueue ..

theorem rejected_safety : (rejected q c e s).safety = s.safety := by
  rw [rejected, noteFault_only]
  rfl

theorem lasting_rejectCmd : lasting (rejectCmd q c e s) = lasting s := by
  rw [rejectCmd_eq, lasting_endCmd, rejected, noteFault_only]
  rfl

variable {q c e s}

/-- R158: a command that fails its checks ends with their status, where no command of its number stands in the queue. -/
theorem rejectCmd_endStands (safe : s.safety.safe = false) (checked : c.phase = .checked) (new : s.cmd q c.seq = none) :
    EndStands c.seq e.status e.data (endPhase s q c.seq e.status e.data) ((rejectCmd q c e s).queue q) := by
  have other : ∀ p ∈ (s.queue q).standing, p.1 ≠ c.seq := by
    simpa [State.cmd, Queue.find, Queue.standing] using new
  have standing : ((rejected q c e s).queue q).standing = (s.queue q).standing ++ [(c.seq, .checked)] := by
    rw [queue_rejected]
    simp [Queue.standing, checked]
  have enters : Enters c.seq .checked (s.queue q) ((rejected q c e s).queue q) := by
    refine ⟨?_, ?_, standing, rfl⟩ <;> rw [queue_rejected]
  have phase : endPhase s q c.seq e.status e.data = endPhase (rejected q c e s) q c.seq e.status e.data := by
    rw [endPhase, endPhase, enters.mayEnd]
  rw [rejectCmd_eq, phase]
  refine endCmd_endStands (phase := .checked) _ _ (by rw [rejected_safety, safe]) ?_ ?_
  · have none_ : (s.queue q).standing.find? (fun p => decide (p.1 = c.seq)) = none := by simpa using other
    rw [phaseIn, standing, List.find?_append, none_]
    simp
  · rw [standing]
    simp only [List.mem_append, List.mem_singleton]
    rintro p (mem | rfl) number
    · exact absurd number (other p mem)
    · rfl

end

/-! ### COMMAND_CHECK -/

section
variable {s : State} {q : Fin 256}

/-- R459: the device whose front end has read the next ring entry of a queue, whose checks are at their end. -/
def entryRead (q : Fin 256) (s : State) : State :=
  { s.updQueue q takeEntry with checking := s.checking.filter fun x => decide (x ≠ q) }

theorem queue_entryRead : (entryRead q s).queue q = takeEntry (s.queue q) := queue_updQueue ..

theorem checkNext_ok {c : Cmd} (passed : checkCommand s q (readCmd q s) = .ok c) :
    checkNext q s = acceptCmd q c (noteRackMap q c (entryRead q s)) := by
  unfold checkNext
  simp only [passed]
  rfl

theorem checkNext_error {e : Stop} (failed : checkCommand s q (readCmd q s) = .error e) :
    checkNext q s = if e.held then s else rejectCmd q (readCmd q s) e (entryRead q s) := by
  unfold checkNext
  simp only [failed]
  rfl

/-- R402, R459: a command that passes its checks takes its place. -/
theorem checkNext_accepts {c : Cmd} (running : (s.queue q).stopped = false)
    (passed : checkCommand s q (readCmd q s) = .ok c) :
    (((checkNext q s).queue q).cmds.take ((s.queue q).cmds.length + 1)).map (·.seq) =
      (s.queue q).cmds.map (·.seq) ++ [c.seq] ∧
    (dueCandidate (s.queue q) = none → ((checkNext q s).queue q).read = (s.queue q).read + 1 ∧
      ((checkNext q s).queue q).cmds.length = (s.queue q).cmds.length + 1) ∧
    (checkNext q s).presses.map (·.sequencer) = s.presses.map (·.sequencer) ∧ lasting (checkNext q s) = lasting s := by
  have queue : (noteRackMap q c (entryRead q s)).queue q = takeEntry (s.queue q) := by
    rw [State.queue, noteRackMap_queues, ← State.queue, queue_entryRead]
  rw [checkNext_ok passed, acceptCmd_eq]
  refine ⟨?_, fun quiet => ?_, ?_, ?_⟩
  · have stays : (s.queue q).cmds.map (·.seq) ++ [c.seq] <+:
        ((sweepQueue q (accepted q c (noteRackMap q c (entryRead q s)))).queue q).cmds.map (·.seq) := by
      refine prefix_sweepQueue ?_
      rw [seqs_accepted, queue]
      exact List.prefix_rfl
    rw [List.map_take, List.prefix_iff_eq_take.1 stays]
    simp
  · have before : Undisturbed ((s.queue q).read + 1) (s.queue q).cmds.length
        ((noteRackMap q c (entryRead q s)).queue q) := by
      rw [queue]
      exact ⟨quiet, running, rfl, rfl⟩
    obtain ⟨-, -, read, length⟩ := (undisturbed_accepted q c _ before).sweepQueue
    exact ⟨read, length⟩
  · rw [sequencers_sweepQueue, accepted_presses, noteRackMap_presses]
    rfl
  · rw [lasting_sweepQueue, lasting_accepted, lasting_noteRackMap]
    rfl

/-- R158, R383: a command that fails its checks ends with their status and DATA; with a read that is held it stays unread. -/
theorem checkNext_rejects {e : Stop} (safe : s.safety.safe = false) (failed : checkCommand s q (readCmd q s) = .error e) :
    lasting (checkNext q s) = lasting s ∧
    (e.held = false → s.cmd q (s.queue q).read = none →
      ((checkNext q s).cmd q (s.queue q).read).map (·.phase) = some (endPhase s q (s.queue q).read e.status e.data)) ∧
    (e.held = true → checkNext q s = s) := by
  rw [checkNext_error failed]
  cases held : e.held with
  | true => exact ⟨rfl, fun h => by simp at h, fun _ => rfl⟩
  | false =>
    refine ⟨(lasting_rejectCmd ..).trans rfl, fun _ new => ?_, fun h => by simp at h⟩
    have unused : (entryRead q s).cmd q (readCmd q s).seq = none := by
      rw [State.cmd, queue_entryRead]
      exact new
    obtain ⟨phase, -⟩ := rejectCmd_endStands (s := entryRead q s) (c := readCmd q s) (e := e) safe rfl unused
    rw [phaseIn_standing] at phase
    refine phase.trans ?_
    rw [endPhase, queue_entryRead]
    rfl

variable {h : ReadHealth} {c : Cmd} {e : Stop} (safe : s.safety.safe = false) (en : (s.queue q).cfg.live.en = true)
  (running : (s.queue q).stopped = false)
include safe en running

/-- R735: a queue whose turn has not come is not checked. -/
theorem stepCommandCheck_waits (turn : (fillChecks s).checking.contains q = false) : stepCommandCheck q s = fillChecks s := by
  unfold stepCommandCheck
  simp only [safe, en, running, turn, Bool.not_true, Bool.or_self, Bool.false_eq_true, if_false]

theorem stepCommandCheck_checks (turn : (fillChecks s).checking.contains q = true) :
    stepCommandCheck q s = settleJobs (fillChecks (checkNext q (fillChecks s))) := by
  unfold stepCommandCheck
  simp only [safe, en, running, turn, Bool.not_true, Bool.or_self, Bool.false_eq_true, if_false, if_true]

/-- What is read of each queue, the commands, the presses, and device memory are after COMMAND_CHECK as the check of the next command
has left them. -/
theorem stepCommandCheck_progress (turn : (fillChecks s).checking.contains q = true) :
    progress (stepCommandCheck q s) = progress (checkNext q (fillChecks s)) ∧
      (stepCommandCheck q s).dram = (checkNext q (fillChecks s)).dram := by
  rw [stepCommandCheck_checks safe en running turn]
  obtain ⟨-, -, dram⟩ := lasting_iff.1 ((lasting_settleJobs _).trans (lasting_fillChecks (checkNext q (fillChecks s))))
  exact ⟨(progress_settleJobs _).trans (progress_fillChecks _), dram⟩

theorem commandCheck_accepts (turn : (fillChecks s).checking.contains q = true)
    (passed : checkCommand (fillChecks s) q (readCmd q (fillChecks s)) = .ok c) :
    ∃ t, exec (.commandCheck q h) s = .next (noted h s t) ∧
      ((t.queue q).cmds.take ((s.queue q).cmds.length + 1)).map (·.seq) = (s.queue q).cmds.map (·.seq) ++ [c.seq] ∧
      (dueCandidate (s.queue q) = none → (t.queue q).read = (s.queue q).read + 1 ∧
        (t.queue q).cmds.length = (s.queue q).cmds.length + 1) ∧
      t.dram = s.dram ∧ t.presses.map (·.sequencer) = s.presses.map (·.sequencer) := by
  obtain ⟨same, dram⟩ := stepCommandCheck_progress safe en running turn
  obtain ⟨read, cmds, presses⟩ := parts_of_progress same q
  have active : ((fillChecks s).queue q).stopped = false := by rw [queue_fillChecks, running]
  obtain ⟨place, undisturbed, sequencers, lasts⟩ := checkNext_accepts active passed
  obtain ⟨-, -, checkedDram⟩ := lasting_iff.1 (lasts.trans (lasting_fillChecks s))
  rw [queue_fillChecks] at place undisturbed
  refine ⟨stepCommandCheck q s, rfl, ?_⟩
  rw [cmds, read, presses]
  exact ⟨place, undisturbed, dram.trans checkedDram, sequencers.trans (by rw [fillChecks_presses])⟩

theorem commandCheck_rejects (turn : (fillChecks s).checking.contains q = true)
    (failed : checkCommand (fillChecks s) q (readCmd q (fillChecks s)) = .error e) :
    ∃ t, exec (.commandCheck q h) s = .next (noted h s t) ∧ t.dram = s.dram ∧
      (e.held = false → s.cmd q (s.queue q).read = none →
        (t.cmd q (s.queue q).read).map (·.phase) = some (endPhase s q (s.queue q).read e.status e.data)) ∧
      (e.held = true → (t.queue q).read = (s.queue q).read ∧ (t.queue q).cmds = (s.queue q).cmds) := by
  obtain ⟨same, dram⟩ := stepCommandCheck_progress safe en running turn
  obtain ⟨read, cmds, -⟩ := parts_of_progress same q
  have active : (fillChecks s).safety.safe = false := by rw [fillChecks_safety, safe]
  obtain ⟨lasts, ends, stays⟩ := checkNext_rejects active failed
  obtain ⟨-, -, checkedDram⟩ := lasting_iff.1 (lasts.trans (lasting_fillChecks s))
  simp only [State.cmd, Queue.find, endPhase, queue_fillChecks] at ends ⊢
  refine ⟨stepCommandCheck q s, rfl, ?_⟩
  rw [cmds, read]
  refine ⟨dram.trans checkedDram, ends, fun held => ?_⟩
  rw [stays held, queue_fillChecks]
  exact ⟨rfl, rfl⟩

theorem commandCheck_waits (turn : (fillChecks s).checking.contains q = false) :
    exec (.commandCheck q h) s = .next (noted h s (fillChecks s)) := by
  rw [← stepCommandCheck_waits safe en running turn]
  rfl

end

/-- Settles O26: a submit word by its halves, and COMMAND_CHECK by the outcome of the check. -/
theorem commandsAreSubmittedAndChecked : Obligations.CommandsAreSubmittedAndChecked := by
  unfold Obligations.CommandsAreSubmittedAndChecked
  exact ⟨fun _ _ _ => submitWordWrite_submits, fun _ _ _ => submitWordWrite_badTail, fun _ _ _ => submitWordWrite_badConsumed,
    fun _ _ => submitWordWrite_idle, fun _ _ _ _ => commandCheck_accepts, fun _ _ _ _ => commandCheck_rejects,
    fun _ _ _ => commandCheck_waits⟩

end Sys2Proof.Machine
end

section
/-! PROOF. What a kill of a PRESS_PROGRAM command leaves of its parcel and of the other commands: the save slots that it held are
free, and a KILL pre-emption counts (R496, R499, R501). -/

namespace Sys2Proof.Machine

/-! ### Free save slots -/

/-- A mask of save slots with the slots of a list set free. -/
def slotsFreed (l : List Nat) (mask : BitVec 16) : BitVec 16 := l.foldl (fun m k => m ||| BitVec.ofNat 16 (2 ^ k)) mask

theorem getLsbD_slotsFreed {l : List Nat} {mask : BitVec 16} {j : Nat} (h : j ∈ l ∨ mask.getLsbD j = true) (small : j < 16) :
    (slotsFreed l mask).getLsbD j = true := by
  induction l generalizing mask with
  | nil => simpa [slotsFreed] using h
  | cons k rest ih =>
    refine ih ?_
    rcases h with mem | free
    · rcases List.mem_cons.1 mem with rfl | later
      · refine .inr ?_
        rw [BitVec.getLsbD_or, BitVec.getLsbD_ofNat, Nat.testBit_two_pow_self, decide_eq_true small]
        exact Bool.or_true _
      · exact .inl later
    · exact .inr (by rw [BitVec.getLsbD_or, free, Bool.true_or])

section
variable (s : State)

theorem parcel_foldState_freeSlot (n : Fin 8) (l : List Nat) : (foldState (freeSlot n) l s).parcel n =
    { s.parcel n with saveFree := slotsFreed l (s.parcel n).saveFree } := by
  induction l generalizing s with
  | nil => rfl
  | cons k rest ih =>
    rw [foldState_cons, ih, freeSlot, parcel_updParcel]
    rfl

/-! ### Commands with other numbers -/

theorem Queue.find_upd_ne (x : Queue) {seq other : Word} {f : Cmd → Cmd} (hf : ∀ c, (f c).seq = c.seq) (h : other ≠ seq) :
    (x.upd seq f).find other = x.find other := by
  simp only [Queue.upd, Queue.find, List.find?_map]
  induction x.cmds with
  | nil => rfl
  | cons c rest ih =>
    simp only [List.find?_cons, Function.comp_apply]
    by_cases here : c.seq = seq
    · simpa [here, hf, Ne.symm h] using ih
    · simp only [here, if_false]
      split
      · simp [here]
      · exact ih

theorem cmd_updCmd_ne {q r : Fin 256} {seq other : Word} {f : Cmd → Cmd} (hf : ∀ c, (f c).seq = c.seq)
    (h : (r, other) ≠ (q, seq)) : (s.updCmd q seq f).cmd r other = s.cmd r other := by
  rw [State.cmd, State.updCmd]
  by_cases here : r = q
  · subst here
    rw [queue_updQueue, Queue.find_upd_ne _ hf fun e => h (by rw [e]), State.cmd]
  · rw [queue_updQueue_ne _ here, State.cmd]

theorem cmd_updParcel (n : Fin 8) (f : Parcel → Parcel) (q : Fin 256) (seq : Word) :
    (s.updParcel n f).cmd q seq = s.cmd q seq := rfl

theorem parcel_updCmd (q : Fin 256) (seq : Word) (f : Cmd → Cmd) (n : Fin 8) :
    (s.updCmd q seq f).parcel n = s.parcel n := rfl

theorem cmd_releaseSlots_ne {q r : Fin 256} {seq other : Word} (h : (r, other) ≠ (q, seq)) :
    (releaseSlots q seq s).cmd r other = s.cmd r other := by
  unfold releaseSlots
  split
  · rfl
  · rw [cmd_updCmd_ne _ (fun _ => by rfl) h, foldState_freeSlot_only]
    rfl

/-! ### The stop of a program -/

theorem foldState_stopPress_outside (l : List (Fin 16)) : foldState stopPress l s =
    { s with presses := (foldState stopPress l s).presses, freeCtr := (foldState stopPress l s).freeCtr } :=
  foldState_keeps (fun t => t = { s with presses := t.presses, freeCtr := t.freeCtr }) stopPress l
    (fun _ _ ht => by rw [ht]; rfl) s rfl

/-- The stop of a program is the release of its save slots in a device with the queues, parcels and memory controllers as they
were. -/
theorem stopProgram_releases (q : Fin 256) (c : Cmd) : ∃ u, stopProgram q c s = releaseSlots q c.seq u ∧
    u.queues = s.queues ∧ u.parcels = s.parcels ∧ u.memctl = s.memctl := by
  obtain ⟨u, same, stop⟩ := stopProgram_eq s q c
  rw [foldState_stopPress_outside] at same
  exact ⟨u, stop, (congrArg State.queues same :), (congrArg State.parcels same :), (congrArg State.memctl same :)⟩

theorem cmd_stopProgram_ne {q r : Fin 256} {c : Cmd} {other : Word} (h : (r, other) ≠ (q, c.seq)) :
    (stopProgram q c s).cmd r other = s.cmd r other := by
  obtain ⟨u, stop, queues, -⟩ := stopProgram_releases s q c
  rw [stop, cmd_releaseSlots_ne _ h, State.cmd, State.queue, queues, State.cmd, State.queue]

theorem memctl_releaseSlots (q : Fin 256) (seq : Word) : (releaseSlots q seq s).memctl = s.memctl := by
  unfold releaseSlots
  split
  · rfl
  · rw [foldState_freeSlot_only]
    rfl

theorem memctl_stopProgram (q : Fin 256) (c : Cmd) : (stopProgram q c s).memctl = s.memctl := by
  obtain ⟨u, stop, -, -, memctl⟩ := stopProgram_releases s q c
  rw [stop, memctl_releaseSlots, memctl]

theorem parcel_stopProgram {q : Fin 256} {c : Cmd} (found : s.cmd q c.seq = some c) :
    (stopProgram q c s).parcel (s.parcelOf q) =
      { s.parcel (s.parcelOf q) with saveFree := slotsFreed c.slots (s.parcel (s.parcelOf q)).saveFree } := by
  obtain ⟨u, stop, queues, parcels, -⟩ := stopProgram_releases s q c
  have found' : u.cmd q c.seq = some c := by rw [State.cmd, State.queue, queues]; exact found
  have home : u.parcelOf q = s.parcelOf q := by simp only [State.parcelOf, State.queue, queues]
  have kept : u.parcel (s.parcelOf q) = s.parcel (s.parcelOf q) := by rw [State.parcel, parcels, State.parcel]
  rw [stop, releaseSlots, found', home, ← kept]
  exact parcel_foldState_freeSlot ..

end

/-! ### Kills -/

section
variable {s : State} {q : Fin 256} {c : Cmd} {e : Stop}

/-- A kill that reaches a PRESS_PROGRAM command on its presses (R131). -/
theorem killCmd_stops (found : s.cmd q c.seq = some c) (kind : c.kind = 1) (reached : c.phase.killable = true)
    (seated : ∀ k, c.phase ≠ .suspended k) (held : e.held = false) :
    killCmd q c.seq e s = (stopProgram q c (noteFault (s.parcelOf q) e s)).updCmd q c.seq fun x =>
      { x with phase := .killing e.status e.data } := by
  have found' : (noteFault (s.parcelOf q) e s).cmd q c.seq = some c := by rw [noteFault_only]; exact found
  unfold killCmd
  simp only [held, found', reached, Bool.false_eq_true, if_false, Bool.not_true, kind, ne_eq, not_true_eq_false]

/-- What a kill leaves that reaches a PRESS_PROGRAM command on its presses: they are being killed with it, and its save slots are
free. -/
theorem killCmd_leaves (found : s.cmd q c.seq = some c) (kind : c.kind = 1) (reached : c.phase.killable = true)
    (seated : ∀ k, c.phase ≠ .suspended k) (held : e.held = false) :
    ((killCmd q c.seq e s).cmd q c.seq).map (·.phase) = some (.killing e.status e.data) ∧
      (∀ p ∈ pressesOf s q c.seq, ((killCmd q c.seq e s).press p).mode = .killing) ∧
      (∀ j ∈ c.slots, j < 16 → ((killCmd q c.seq e s).parcel (s.parcelOf q)).saveFree.getLsbD j = true) ∧
      (killCmd q c.seq e s).memctl = s.memctl := by
  rw [killCmd_stops found kind reached seated held]
  generalize noted : noteFault (s.parcelOf q) e s = u
  have same : u = { s with mmu := u.mmu } := by rw [← noted]; exact noteFault_only ..
  have found' : u.cmd q c.seq = some c := by rw [same]; exact found
  have home : u.parcelOf q = s.parcelOf q := by rw [same]; rfl
  refine ⟨?_, fun p mem => mode_stopProgram (by rw [same]; exact mem), fun j mem small => ?_, ?_⟩
  · rw [cmd_updCmd _ _ _ fun _ => by rfl, cmd_stopProgram found']
    rfl
  · rw [parcel_updCmd, ← home, parcel_stopProgram u found']
    exact getLsbD_slotsFreed (.inl mem) small
  · exact (memctl_stopProgram u q c).trans (congrArg State.memctl same :)

end

/-! ### KILL pre-emptions -/

/-- Does a KILL pre-emption still reach a command (R496, R497)? -/
def Cmd.yields (c : Cmd) : Bool := c.kind = 1 && c.phase.occupies && c.phase.killable && !c.requeued

/-- A command that KILL pre-empts at a time, to be queued again (R496). -/
def killedToRequeue (now : Long) (c : Cmd) : Cmd :=
  { closeInterval now c with phase := .killingRequeue, preempted := c.preempted + 1, rackRequested := false }

/-- The device in which KILL pre-empts a command of a queue. -/
def requeuing (q : Fin 256) (c : Cmd) (s : State) : State :=
  ((stopProgram q c s).updCmd q c.seq (killedToRequeue s.time)).updParcel (s.parcelOf q) fun p =>
    { p with kills := satInc p.kills 1 }

theorem closeInterval_only (now : Long) (c : Cmd) : closeInterval now c =
    { c with since := now, waitNs := (closeInterval now c).waitNs, runNs := (closeInterval now c).runNs } := by
  unfold closeInterval
  dsimp only
  split <;> rfl

theorem seq_killedToRequeue (now : Long) (c : Cmd) : (killedToRequeue now c).seq = c.seq := by
  rw [killedToRequeue, closeInterval_only]

theorem rackSlot_killedToRequeue (now : Long) (c : Cmd) : (killedToRequeue now c).rackSlot = c.rackSlot := by
  rw [killedToRequeue, closeInterval_only]

section
variable {s : State} {q : Fin 256} {seq : Word} {c : Cmd}

theorem preemptKill_none (absent : s.cmd q seq = none) : preemptKill q seq s = s := by
  simp only [preemptKill, absent]

theorem preemptKill_due (found : s.cmd q c.seq = some c) (due : c.yields = true) :
    preemptKill q c.seq s = requeuing q c s := by
  unfold preemptKill
  rw [found]
  exact if_pos due

/-- A KILL pre-emption of a command that it does not reach does nothing. -/
theorem preemptKill_late (found : s.cmd q seq = some c) (late : c.yields = false) : preemptKill q seq s = s := by
  unfold preemptKill
  rw [found]
  exact if_neg (Bool.eq_false_iff.1 late)

theorem cmd_requeuing (found : s.cmd q c.seq = some c) : (requeuing q c s).cmd q c.seq =
    some (killedToRequeue s.time { c with rackSlot := none, rackRequested := false }) := by
  rw [requeuing, cmd_updParcel, cmd_updCmd _ _ _ (seq_killedToRequeue s.time), cmd_stopProgram found]
  rfl

theorem cmd_requeuing_ne {r : Fin 256} {other : Word} (h : (r, other) ≠ (q, c.seq)) :
    (requeuing q c s).cmd r other = s.cmd r other := by
  rw [requeuing, cmd_updParcel, cmd_updCmd_ne _ (seq_killedToRequeue s.time) h, cmd_stopProgram_ne _ h]

theorem parcel_requeuing (found : s.cmd q c.seq = some c) : (requeuing q c s).parcel (s.parcelOf q) =
    { s.parcel (s.parcelOf q) with
      saveFree := slotsFreed c.slots (s.parcel (s.parcelOf q)).saveFree
      kills := satInc (s.parcel (s.parcelOf q)).kills 1 } := by
  rw [requeuing, parcel_updParcel, parcel_updCmd, parcel_stopProgram s found]

end

end Sys2Proof.Machine
end

section
/-! PROOF. Slices and pre-emption (R492 to R499, R514), SlicesPreempt: what the boundary of a slice does to a parcel's staged
policy, what one pre-emption does to a command and its parcel, and what the pre-emption of several leaves of each. -/

namespace Sys2Proof.Machine

/-! ### The staged policy at a boundary (R514) -/

/-- The policy of a parcel after a boundary: a staged one that is within its range is in force, another is dropped. -/
def atBoundary (r : Rws ParcelCfg) : Rws ParcelCfg :=
  match r.pending with
  | none => r
  | some c => if parcelCfgBad c = none then r.apply else r.reject

section
variable {r : Rws ParcelCfg} {c : ParcelCfg}

theorem atBoundary_none (none : r.pending = none) : atBoundary r = r := by simp only [atBoundary, none]

theorem atBoundary_good (waits : r.pending = some c) (good : parcelCfgBad c = none) : atBoundary r = r.apply := by
  simp only [atBoundary, waits, good, if_true]

theorem atBoundary_bad {k : Nat} (waits : r.pending = some c) (bad : parcelCfgBad c = some k) : atBoundary r = r.reject := by
  simp only [atBoundary, waits, bad, reduceCtorEq, if_false]

theorem live_atBoundary (waits : r.pending = some c) (good : parcelCfgBad c = none) : (atBoundary r).live = c := by
  rw [atBoundary_good waits good, Rws.apply, waits]

end

section
variable (n : Fin 8) (s : State)

theorem parcels_settleCommit (p : Fin 121) : (settleCommit p s).parcels = s.parcels :=
  parcels_of_standing (standing_settleCommit 0 s p)

theorem parcels_rejectCommit (p : Fin 121) (code : BitVec 16) (info : Word) :
    (rejectCommit p code info s).parcels = s.parcels := parcels_of_standing (standing_rejectCommit 0 s p code info)

theorem applyParcel_none (none : (s.parcel n).cfg.pending = none) : applyParcel n s = s := by
  simp only [applyParcel, none]

theorem working_applyParcel : working (applyParcel n s) = working s := by
  unfold applyParcel
  split
  · rfl
  · split
    · exact (working_settleCommit ..).trans (working_rejectCommit ..)
    · exact working_settleCommit ..

theorem cmd_applyParcel (q : Fin 256) (seq : Word) : (applyParcel n s).cmd q seq = s.cmd q seq := by
  rw [State.cmd, State.queue, queues_of_working (working_applyParcel n s), State.cmd, State.queue]

theorem parcel_applyParcel : (applyParcel n s).parcel n = { s.parcel n with cfg := atBoundary (s.parcel n).cfg } := by
  cases waits : (s.parcel n).cfg.pending with
  | none => rw [applyParcel_none n s waits, atBoundary_none waits]
  | some c =>
    cases bad : parcelCfgBad c with
    | none =>
      simp only [applyParcel, waits, bad, atBoundary_good waits bad]
      rw [State.parcel, parcels_settleCommit, ← State.parcel, parcel_updParcel]
    | some k =>
      simp only [applyParcel, waits, bad, atBoundary_bad waits bad]
      rw [State.parcel, parcels_settleCommit, parcels_rejectCommit, ← State.parcel, parcel_updParcel]

theorem parcel_applyParcel_ne {m : Fin 8} (h : m ≠ n) : (applyParcel n s).parcel m = s.parcel m := by
  unfold applyParcel
  split
  · rfl
  · split
    · rw [State.parcel, parcels_settleCommit, parcels_rejectCommit]
      exact vget_vupd_ne _ _ h.symm
    · rw [State.parcel, parcels_settleCommit]
      exact vget_vupd_ne _ _ h.symm

end

/-! ### One pre-emption -/

/-- A command whose presses are to stop for a save into a slot by a time (R498). -/
def rackRequest (k : Nat) (live : Bool) (due : Long) (c : Cmd) : Cmd :=
  { c with rackRequested := true, rackSlot := some k, saveLive := live, rackBy := due }

/-- The device in which RACK has requested the pre-emption of a command, with a save slot. -/
def racking (n : Fin 8) (q : Fin 256) (seq : Word) (k : Nat) (s : State) : State :=
  (s.updParcel n fun p => { p with saveFree := p.saveFree &&& ~~~ BitVec.ofNat 16 (2 ^ k) }).updCmd q seq
    (rackRequest k (s.parcel n).cfg.live.live (s.time + BitVec.ofNat 64 ((s.parcel n).cfg.live.rackWaitUs.toNat * 1000)))

section
variable {s : State} {n : Fin 8} {q : Fin 256} {seq : Word} {c : Cmd}

theorem preempt_kill (found : s.cmd q seq = some c) (kill : (s.parcel n).cfg.live.rack = false) :
    preempt n (q, seq) s = preemptKill q seq s := by
  simp only [preempt, found, kill, Bool.not_false, if_true]

theorem preempt_rack {k : Nat} (found : s.cmd q seq = some c) (rack : (s.parcel n).cfg.live.rack = true)
    (map : c.rackMap.isSome = true) (free : lowestSlot (s.parcel n) = some k) :
    preempt n (q, seq) s = racking n q seq k s := by
  obtain ⟨m, map⟩ := Option.isSome_iff_exists.1 map
  simp only [preempt, found, rack, map, free, Bool.not_true, Bool.false_eq_true, if_false]
  rfl

theorem preempt_fallBack (found : s.cmd q seq = some c) (rack : (s.parcel n).cfg.live.rack = true)
    (without : c.rackMap = none ∨ lowestSlot (s.parcel n) = none) : preempt n (q, seq) s = fallBack n q seq s := by
  simp only [preempt, found, rack, Bool.not_true, Bool.false_eq_true, if_false]
  split
  · next map free =>
    rcases without with none | none
    · rw [map] at none; cases none
    · rw [free] at none; cases none
  · rfl

theorem cmd_racking (k : Nat) (found : s.cmd q seq = some c) : (racking n q seq k s).cmd q seq =
    some (rackRequest k (s.parcel n).cfg.live.live
      (s.time + BitVec.ofNat 64 ((s.parcel n).cfg.live.rackWaitUs.toNat * 1000)) c) := by
  rw [racking, cmd_updCmd _ _ _ fun _ => by rfl, cmd_updParcel, found]
  rfl

theorem parcel_racking (k : Nat) : (racking n q seq k s).parcel n =
    { s.parcel n with saveFree := (s.parcel n).saveFree &&& ~~~ BitVec.ofNat 16 (2 ^ k) } := by
  rw [racking, parcel_updCmd, parcel_updParcel]

/-- A command that runs for a pre-emption is one that KILL reaches. -/
theorem yields_of_runs (kind : c.kind = 1) (first : c.requeued = false) (runs : c.phase.runs = true) : c.yields = true := by
  unfold Phase.runs at runs
  unfold Cmd.yields
  rw [kind, first]
  split at runs
  · next h => rw [h]; rfl
  · next h => rw [h]; rfl
  · next h => rw [h]; rfl
  · cases runs

theorem yields_of_preemptable (h : preemptable c = true) : c.yields = true := by
  simp only [preemptable, Bool.and_eq_true, decide_eq_true_eq, Bool.not_eq_true'] at h
  obtain ⟨⟨⟨kind, first⟩, -⟩, runs⟩ := h
  exact yields_of_runs kind first runs

/-- A KILL pre-emption that stands in for RACK (R499). -/
theorem fallBack_requeues (found : s.cmd q seq = some c) (due : c.yields = true) :
    (fallBack (s.parcelOf q) q seq s).cmd q seq =
        some (killedToRequeue s.time { c with rackSlot := none, rackRequested := false }) ∧
      (fallBack (s.parcelOf q) q seq s).parcel (s.parcelOf q) =
        { s.parcel (s.parcelOf q) with
          saveFree := slotsFreed c.slots (s.parcel (s.parcelOf q)).saveFree
          kills := satInc (s.parcel (s.parcelOf q)).kills 1
          fallbacks := satInc (s.parcel (s.parcelOf q)).fallbacks 1 } := by
  obtain rfl := seq_of_cmd found
  generalize counted : (s.updParcel (s.parcelOf q) fun p => { p with fallbacks := satInc p.fallbacks 1 }) = u
  have found' : u.cmd q c.seq = some c := by rw [← counted, cmd_updParcel, found]
  have home : u.parcelOf q = s.parcelOf q := by rw [← counted]; rfl
  have time : u.time = s.time := by rw [← counted]; rfl
  have parcel := parcel_requeuing found'
  rw [fallBack, counted, preemptKill_due found' due]
  refine ⟨by rw [cmd_requeuing found', time], ?_⟩
  rw [home] at parcel
  rw [parcel, ← counted, parcel_updParcel]

/-- A pre-emption under KILL (R496). -/
theorem preempt_kills (found : s.cmd q seq = some c) (due : c.yields = true) (home : s.parcelOf q = n)
    (kill : (s.parcel n).cfg.live.rack = false) :
    (preempt n (q, seq) s).cmd q seq = some (killedToRequeue s.time { c with rackSlot := none, rackRequested := false }) ∧
      ((preempt n (q, seq) s).parcel n).kills = satInc (s.parcel n).kills 1 := by
  obtain rfl := seq_of_cmd found
  have counted := parcel_requeuing found
  rw [home] at counted
  rw [preempt_kill found kill, preemptKill_due found due]
  exact ⟨cmd_requeuing found, congrArg Parcel.kills counted⟩

end

/-! ### What pre-emptions leave of a parcel -/

/-- A parcel without its free save slots and its counts of kills and fallbacks. -/
def Parcel.terms (p : Parcel) : Parcel := { p with saveFree := 0, kills := 0, fallbacks := 0 }

section
variable (s : State) (n m : Fin 8) (q : Fin 256) (seq : Word)

theorem terms_updParcel {f : Parcel → Parcel} (h : ∀ p, (f p).terms = p.terms) :
    ((s.updParcel n f).parcel m).terms = (s.parcel m).terms := by
  by_cases same : n = m
  · rw [same, parcel_updParcel, h]
  · exact congrArg Parcel.terms (vget_vupd_ne _ _ same)

theorem terms_freeSlot (k : Nat) : ((freeSlot n k s).parcel m).terms = (s.parcel m).terms :=
  terms_updParcel s n m fun _ => rfl

theorem terms_stopProgram (c : Cmd) : ((stopProgram q c s).parcel m).terms = (s.parcel m).terms := by
  obtain ⟨u, stop, -, parcels, -⟩ := stopProgram_releases s q c
  have kept : s.parcel m = u.parcel m := by rw [State.parcel, ← parcels, State.parcel]
  rw [stop, kept, releaseSlots]
  split
  · rfl
  · rw [parcel_updCmd]
    exact foldState_keeps (fun t => (t.parcel m).terms = (u.parcel m).terms) _ _
      (fun k t ht => (terms_freeSlot t _ m k).trans ht) u rfl

theorem terms_requeuing (c : Cmd) : ((requeuing q c s).parcel m).terms = (s.parcel m).terms := by
  rw [requeuing, terms_updParcel _ _ _ fun _ => by rfl, parcel_updCmd, terms_stopProgram]

theorem terms_preemptKill : ((preemptKill q seq s).parcel m).terms = (s.parcel m).terms := by
  cases found : s.cmd q seq with
  | none => rw [preemptKill_none found]
  | some c =>
    obtain rfl := seq_of_cmd found
    cases due : c.yields with
    | false => rw [preemptKill_late found due]
    | true => rw [preemptKill_due found due, terms_requeuing]

theorem terms_preempt (w : Fin 256 × Word) : ((preempt n w s).parcel m).terms = (s.parcel m).terms := by
  unfold preempt
  split
  · rfl
  · split
    · exact terms_preemptKill ..
    · split
      · exact terms_updParcel s n m fun _ => rfl
      · exact (terms_preemptKill ..).trans (terms_updParcel s n m fun _ => rfl)

theorem terms_foldState_preempt (l : List (Fin 256 × Word)) :
    ((foldState (preempt n) l s).parcel m).terms = (s.parcel m).terms :=
  foldState_keeps (fun t => (t.parcel m).terms = (s.parcel m).terms) _ l
    (fun w t ht => (terms_preempt t n m w).trans ht) s rfl

end

/-! ### What pre-emptions leave of a command -/

/-- A command has been pre-empted: killed, to be queued again, or under RACK requested, with a save slot. -/
def Preempted (rack : Bool) (c x : Cmd) : Prop :=
  x.phase = .killingRequeue ∨ (rack = true ∧ x.phase = c.phase ∧ x.rackRequested = true ∧ x.rackSlot.isSome = true)

section
variable {s : State} {n : Fin 8} {q r : Fin 256} {seq other : Word} {c x : Cmd}

theorem cmd_preemptKill_ne (h : (r, other) ≠ (q, seq)) : (preemptKill q seq s).cmd r other = s.cmd r other := by
  cases found : s.cmd q seq with
  | none => rw [preemptKill_none found]
  | some c =>
    obtain rfl := seq_of_cmd found
    cases due : c.yields with
    | false => rw [preemptKill_late found due]
    | true => rw [preemptKill_due found due, cmd_requeuing_ne h]

theorem cmd_preempt_ne (h : (r, other) ≠ (q, seq)) : (preempt n (q, seq) s).cmd r other = s.cmd r other := by
  unfold preempt
  split
  · rfl
  · split
    · exact cmd_preemptKill_ne h
    · split
      · exact cmd_updCmd_ne _ (fun _ => by rfl) h
      · exact cmd_preemptKill_ne h

/-- A KILL pre-emption kills its command, or does not reach it. -/
theorem cmd_preemptKill_or (found : s.cmd q seq = some x) : ∃ y, (preemptKill q seq s).cmd q seq = some y ∧
    (y.phase = .killingRequeue ∨ (y = x ∧ x.yields = false)) := by
  obtain rfl := seq_of_cmd found
  cases due : x.yields with
  | false => exact ⟨x, by rw [preemptKill_late found due, found], .inr ⟨rfl, rfl⟩⟩
  | true => exact ⟨_, by rw [preemptKill_due found due, cmd_requeuing found], .inl rfl⟩

/-- A pre-emption of a command that one acts on, or that has already been pre-empted, leaves it pre-empted. -/
theorem preempted_preempt (found : s.cmd q seq = some x)
    (h : Preempted (s.parcel n).cfg.live.rack c x ∨ (x = c ∧ preemptable c = true)) :
    ∃ y, (preempt n (q, seq) s).cmd q seq = some y ∧ Preempted (s.parcel n).cfg.live.rack c y := by
  have killed {y : Cmd} (out : y.phase = .killingRequeue ∨ (y = x ∧ x.yields = false)) :
      Preempted (s.parcel n).cfg.live.rack c y := by
    rcases out with killed | ⟨rfl, late⟩
    · exact .inl killed
    · refine h.resolve_right ?_
      rintro ⟨rfl, able⟩
      rw [yields_of_preemptable able] at late
      cases late
  cases rack : (s.parcel n).cfg.live.rack with
  | false =>
    obtain ⟨y, after, out⟩ := cmd_preemptKill_or found
    exact ⟨y, by rw [preempt_kill found rack, after], rack ▸ killed out⟩
  | true =>
    by_cases without : x.rackMap = none ∨ lowestSlot (s.parcel n) = none
    · have found' : (s.updParcel n fun p => { p with fallbacks := satInc p.fallbacks 1 }).cmd q seq = some x := found
      obtain ⟨y, after, out⟩ := cmd_preemptKill_or found'
      exact ⟨y, by rw [preempt_fallBack found rack without, fallBack, after], rack ▸ killed out⟩
    · obtain ⟨map, free⟩ := not_or.1 without
      obtain ⟨k, free⟩ := Option.ne_none_iff_exists'.1 free
      refine ⟨_, by rw [preempt_rack found rack (Option.isSome_iff_ne_none.2 map) free, cmd_racking k found], ?_⟩
      rcases h with (killed | ⟨-, phase, -⟩) | ⟨rfl, -⟩
      · exact .inl killed
      · exact .inr ⟨rfl, phase, rfl, rfl⟩
      · exact .inr ⟨rfl, rfl, rfl, rfl⟩

/-- The pre-emption of a list of commands leaves each of them pre-empted. -/
theorem preempted_foldState {l : List (Fin 256 × Word)} (able : preemptable c = true) (found : s.cmd q seq = some x)
    (h : Preempted (s.parcel n).cfg.live.rack c x ∨ (x = c ∧ (q, seq) ∈ l)) :
    ∃ y, (foldState (preempt n) l s).cmd q seq = some y ∧ Preempted (s.parcel n).cfg.live.rack c y := by
  induction l generalizing s x with
  | nil => exact ⟨x, found, h.resolve_right fun none => List.not_mem_nil none.2⟩
  | cons w rest ih =>
    have policy : ((preempt n w s).parcel n).cfg = (s.parcel n).cfg :=
      (congrArg Parcel.cfg (terms_preempt s n n w) :)
    rw [foldState_cons, ← policy]
    by_cases here : (q, seq) = w
    · subst here
      obtain ⟨y, after, done⟩ := preempted_preempt found (h.imp_right fun same => ⟨same.1, able⟩)
      exact ih after (.inl (policy ▸ done))
    · refine ih ((cmd_preempt_ne here).trans found) ?_
      rw [policy]
      exact h.imp_right fun same => ⟨same.1, (List.mem_cons.1 same.2).resolve_left here⟩

end

/-! ### SLICE_END -/

/-- The device in which a context has become the holder of a parcel, with a new slice (R493). -/
def sliceBegun (n : Fin 8) (context : BitVec 16) (s : State) : State :=
  traceEvent 0x38 0x0202 (s.updParcel n fun p => { p with holder := some context, sliceStart := s.time })

section
variable {s : State} {n : Fin 8} {old : BitVec 16} {r q : Fin 256} {d c : Cmd} {rest : List (Fin 256 × Cmd)} {seq : Word}

theorem cmd_sliceBegun (context : BitVec 16) (q : Fin 256) (seq : Word) : (sliceBegun n context s).cmd q seq = s.cmd q seq := by
  rw [sliceBegun, State.cmd, State.queue, traceEvent_queues]
  rfl

theorem parcel_sliceBegun (context : BitVec 16) : (sliceBegun n context s).parcel n =
    { s.parcel n with holder := some context, sliceStart := s.time } := by
  rw [sliceBegun, State.parcel, traceEvent_parcels, ← State.parcel, parcel_updParcel]

theorem parcelOf_sliceBegun (context : BitVec 16) (q : Fin 256) : (sliceBegun n context s).parcelOf q = s.parcelOf q := by
  rw [sliceBegun, State.parcelOf, State.queue, traceEvent_queues]
  rfl

theorem time_sliceBegun (context : BitVec 16) : (sliceBegun n context s).time = s.time := traceEvent_time ..

theorem stepSliceEnd_idle (idle : (s.parcel n).holder = none ∨ s.safety.safe = true ∨ sliceOver s n = false ∨
    ∃ old r d rest, (s.parcel n).holder = some old ∧ blockedCmds s n old = (r, d) :: rest ∧
      protectedOn s n (wantedBy s n d.context ((r, d) :: rest)) = true) : stepSliceEnd n s = s := by
  rcases idle with none | safe | within | ⟨old, r, d, rest, holds, blocked, protects⟩
  · simp only [stepSliceEnd, none]
  · unfold stepSliceEnd
    split
    · rfl
    · rw [safe, Bool.true_or, if_pos rfl]
  · unfold stepSliceEnd
    split
    · rfl
    · rw [within, Bool.not_false, Bool.or_true, if_pos rfl]
  · simp only [stepSliceEnd, holds, blocked, protects, if_true, ite_self]

section
variable (holds : (s.parcel n).holder = some old) (safe : s.safety.safe = false) (ended : sliceOver s n = true)
include holds safe ended

theorem stepSliceEnd_goesOn (alone : blockedCmds s n old = []) :
    stepSliceEnd n s = applyParcel n (s.updParcel n fun p => { p with sliceStart := s.time }) := by
  simp only [stepSliceEnd, holds, safe, ended, alone, Bool.not_true, Bool.or_self, Bool.false_eq_true, if_false]

theorem sliceEnd_goesOn (alone : blockedCmds s n old = []) : ∃ t, exec (.sliceEnd n) s = .next t ∧
    (t.parcel n).sliceStart = s.time ∧ (t.parcel n).holder = some old ∧ (∀ m : Fin 8, m ≠ n → t.parcel m = s.parcel m) ∧
    t.queues = s.queues ∧ t.presses = s.presses ∧
    (∀ x, (s.parcel n).cfg.pending = some x → parcelCfgBad x = none → (t.parcel n).cfg.live = x) ∧
    ((s.parcel n).cfg.pending = none → t = { s with parcels := t.parcels }) := by
  generalize begun : (s.updParcel n fun p => { p with sliceStart := s.time }) = u
  have step : stepSliceEnd n s = applyParcel n u := by rw [← begun]; exact stepSliceEnd_goesOn holds safe ended alone
  have start : u.parcel n = { s.parcel n with sliceStart := s.time } := by rw [← begun, parcel_updParcel]
  have work : working (applyParcel n u) = working s := by rw [working_applyParcel, ← begun]; rfl
  have after : (applyParcel n u).parcel n =
      { s.parcel n with sliceStart := s.time, cfg := atBoundary (s.parcel n).cfg } := by rw [parcel_applyParcel, start]
  have row : exec (.sliceEnd n) s = .next { applyParcel n u with pending := s.pending } := by rw [← step]; rfl
  refine ⟨_, row, congrArg Parcel.sliceStart after, (congrArg Parcel.holder after).trans holds, fun m other => ?_,
    queues_of_working work, presses_of_working work, fun x waits good => ?_, fun none => ?_⟩
  · refine (parcel_applyParcel_ne n u other).trans ?_
    rw [← begun]
    exact vget_vupd_ne _ _ other.symm
  · exact (congrArg (fun p => p.cfg.live) after).trans (live_atBoundary waits good)
  · rw [applyParcel_none n u (by rw [start, none]), ← begun]
    rfl

section
variable (blocked : blockedCmds s n old = (r, d) :: rest)
  (free : protectedOn s n (wantedBy s n d.context ((r, d) :: rest)) = false)
include blocked free

theorem stepSliceEnd_changes : stepSliceEnd n s = applyParcel n (foldState (preempt n)
    (victims s n old (wantedBy s n d.context ((r, d) :: rest))) (sliceBegun n d.context s)) := by
  simp only [stepSliceEnd, holds, safe, ended, blocked, free, Bool.not_true, Bool.or_self, Bool.false_eq_true, if_false]
  rfl

theorem sliceEnd_changes : ∃ t, exec (.sliceEnd n) s = .next t ∧ (t.parcel n).holder = some d.context ∧
    (t.parcel n).sliceStart = s.time ∧
    (∀ w ∈ victims s n old (wantedBy s n d.context ((r, d) :: rest)), ∀ c, s.cmd w.1 w.2 = some c → preemptable c = true →
      ((s.parcel n).cfg.live.rack = false → (t.cmd w.1 w.2).map (·.phase) = some .killingRequeue) ∧
      ((s.parcel n).cfg.live.rack = true → ∃ x, t.cmd w.1 w.2 = some x ∧
        (x.phase = .killingRequeue ∨ (x.phase = c.phase ∧ x.rackRequested = true ∧ x.rackSlot.isSome = true)))) := by
  have step := stepSliceEnd_changes holds safe ended blocked free
  generalize victims s n old (wantedBy s n d.context ((r, d) :: rest)) = l at step ⊢
  have terms := terms_foldState_preempt (sliceBegun n d.context s) n n l
  rw [parcel_sliceBegun] at terms
  refine ⟨_, answer_eq .., ?_⟩
  rw [step]
  generalize preempted : foldState (preempt n) l (sliceBegun n d.context s) = u at terms ⊢
  have after := parcel_applyParcel n u
  refine ⟨(congrArg Parcel.holder after).trans (congrArg Parcel.holder terms),
    (congrArg Parcel.sliceStart after).trans (congrArg Parcel.sliceStart terms), fun w mem c found able => ?_⟩
  have found' : (sliceBegun n d.context s).cmd w.1 w.2 = some c := (cmd_sliceBegun ..).trans found
  obtain ⟨x, at_, done⟩ := preempted_foldState (n := n) able found' (.inr ⟨rfl, mem⟩)
  rw [parcel_sliceBegun] at done
  have here : (applyParcel n u).cmd w.1 w.2 = some x := by rw [cmd_applyParcel, ← preempted, at_]
  refine ⟨fun kill => (congrArg (Option.map _) here).trans ?_, fun rack => ⟨x, here, ?_⟩⟩
  · exact congrArg some (done.resolve_right fun racked => Bool.false_ne_true (kill.symm.trans racked.1))
  · exact done.imp_right fun racked => racked.2

section
variable (single : victims s n old (wantedBy s n d.context ((r, d) :: rest)) = [(q, seq)]) (home : s.parcelOf q = n)
  (found : s.cmd q seq = some c) (able : preemptable c = true)
include single home found able

/-- The end of a slice that pre-empts one command (R495, R496, R498, R499). -/
theorem sliceEnd_preempts : ∃ t, exec (.sliceEnd n) s = .next t ∧
    ((s.parcel n).cfg.live.rack = false → (t.parcel n).kills = satInc (s.parcel n).kills 1 ∧
      (t.cmd q seq).map (·.preempted) = some (c.preempted + 1)) ∧
    ((s.parcel n).cfg.live.rack = true → ∀ k, c.rackMap.isSome = true → lowestSlot (s.parcel n) = some k →
      (t.cmd q seq).map (·.rackSlot) = some (some k) ∧ (t.cmd q seq).map (·.phase) = some c.phase ∧
      (t.cmd q seq).map (·.rackBy) =
        some (s.time + BitVec.ofNat 64 ((s.parcel n).cfg.live.rackWaitUs.toNat * 1000)) ∧
      (t.parcel n).saveFree = (s.parcel n).saveFree &&& ~~~ BitVec.ofNat 16 (2 ^ k)) ∧
    ((s.parcel n).cfg.live.rack = true → (c.rackMap = none ∨ lowestSlot (s.parcel n) = none) →
      (t.cmd q seq).map (·.phase) = some .killingRequeue ∧
      (t.parcel n).fallbacks = satInc (s.parcel n).fallbacks 1 ∧ (t.parcel n).kills = satInc (s.parcel n).kills 1) := by
  have step := stepSliceEnd_changes holds safe ended blocked free
  rw [single, foldState_cons, foldState_nil] at step
  refine ⟨_, answer_eq .., ?_⟩
  rw [step]
  have due := yields_of_preemptable able
  have parcel := parcel_sliceBegun (s := s) (n := n) d.context
  have home' : (sliceBegun n d.context s).parcelOf q = n := (parcelOf_sliceBegun ..).trans home
  have found' : (sliceBegun n d.context s).cmd q seq = some c := (cmd_sliceBegun ..).trans found
  have time := time_sliceBegun (s := s) (n := n) d.context
  generalize sliceBegun n d.context s = u at parcel home' found' time
  have policy : (u.parcel n).cfg = (s.parcel n).cfg := by rw [parcel]
  have here := cmd_applyParcel n (preempt n (q, seq) u) q seq
  have after := parcel_applyParcel n (preempt n (q, seq) u)
  refine ⟨fun kill => ?_, fun rack k map slot => ?_, fun rack without => ?_⟩
  · obtain ⟨killed, counted⟩ := preempt_kills found' due home' (by rw [policy, kill])
    rw [parcel] at counted
    exact ⟨(congrArg Parcel.kills after).trans counted, congrArg (Option.map _) (here.trans killed)⟩
  · have outcome : preempt n (q, seq) u = racking n q seq k u :=
      preempt_rack found' (by rw [policy, rack]) map (by rw [parcel]; exact slot)
    rw [outcome] at here after
    have asked := here.trans (cmd_racking k found')
    rw [parcel_racking, parcel] at after
    rw [outcome, ← policy, ← time]
    exact ⟨congrArg (Option.map _) asked, congrArg (Option.map _) asked, congrArg (Option.map _) asked,
      congrArg Parcel.saveFree after⟩
  · have outcome : preempt n (q, seq) u = fallBack n q seq u :=
      preempt_fallBack found' (by rw [policy, rack]) (by rw [parcel]; exact without)
    obtain ⟨killed, counted⟩ := fallBack_requeues found' due
    rw [home', ← outcome] at killed counted
    rw [counted, parcel] at after
    exact ⟨congrArg (Option.map _) (here.trans killed), congrArg Parcel.fallbacks after, congrArg Parcel.kills after⟩

end
end
end
end

/-! ### RACK_STOP and RACK_WAIT_EXPIRY -/

section
variable {s : State} {q : Fin 256} {seq : Word} {c : Cmd}

/-- A command whose presses have all stopped is saved into the slot of its request (R498). -/
theorem rackStop_saves {k : Nat} (safe : s.safety.safe = false) (found : s.cmd q seq = some c) (slot : c.rackSlot = some k)
    (asked : c.rackRequested = true) (stopped : allStopped s q c = true) : ∃ t, exec (.rackStop q seq) s = .next t ∧
    (t.cmd q seq).map (·.phase) = some (.saving k) ∧ t = { s with queues := t.queues } := by
  have step : stepRackStop q seq s =
      s.updCmd q seq fun x => { x with phase := .saving k, rackSlot := none, rackRequested := false } := by
    simp only [stepRackStop, found, slot, asked, stopped, safe, Bool.not_false, Bool.and_self, if_true]
  refine ⟨stepRackStop q seq s, answer_keep (by rw [step]; rfl), ?_, by rw [step]; rfl⟩
  rw [step, cmd_updCmd _ _ _ fun _ => by rfl, found]
  rfl

theorem stepRackStop_idle (idle : s.safety.safe = true ∨ ∀ c, s.cmd q seq = some c →
    c.rackSlot = none ∨ c.rackRequested = false ∨ allStopped s q c = false) : stepRackStop q seq s = s := by
  unfold stepRackStop
  split
  · rfl
  next c found =>
  split
  · rfl
  next slot =>
  refine if_neg fun due => ?_
  simp only [Bool.and_eq_true, Bool.not_eq_true'] at due
  obtain ⟨⟨asked, stopped⟩, safe⟩ := due
  rcases idle with h | h
  · exact Bool.false_ne_true (safe.symm.trans h)
  · rcases h c found with none | unasked | runs
    · rw [slot] at none; cases none
    · exact Bool.false_ne_true (unasked.symm.trans asked)
    · exact Bool.false_ne_true (runs.symm.trans stopped)

/-- A command whose presses have not all stopped in time is killed, to be queued again (R499). -/
theorem rackWaitExpiry_kills (safe : s.safety.safe = false) (found : s.cmd q seq = some c) (kind : c.kind = 1)
    (first : c.requeued = false) (asked : c.rackRequested = true) (runs : c.phase.runs = true)
    (moving : allStopped s q c = false) (late : c.rackBy.toNat ≤ s.time.toNat) :
    ∃ t, exec (.rackWaitExpiry q seq) s = .next t ∧
    (t.cmd q seq).map (·.phase) = some .killingRequeue ∧ (t.cmd q seq).map (·.rackSlot) = some none ∧
    (∀ j ∈ c.slots, j < 16 → (t.parcel (s.parcelOf q)).saveFree.getLsbD j = true) ∧
    (t.parcel (s.parcelOf q)).fallbacks = satInc (s.parcel (s.parcelOf q)).fallbacks 1 ∧
    (t.parcel (s.parcelOf q)).kills = satInc (s.parcel (s.parcelOf q)).kills 1 := by
  have step : stepRackExpiry q seq s = fallBack (s.parcelOf q) q seq s := by
    simp only [stepRackExpiry, found, asked, runs, moving, safe, late, Bool.not_false, Bool.and_self, decide_true, if_true]
  obtain ⟨killed, counted⟩ := fallBack_requeues found (yields_of_runs kind first runs)
  refine ⟨_, answer_eq .., ?_⟩
  rw [step]
  refine ⟨congrArg (Option.map _) killed, (congrArg (Option.map _) killed).trans ?_, fun j mem small => ?_,
    congrArg Parcel.fallbacks counted, congrArg Parcel.kills counted⟩
  · exact congrArg some (rackSlot_killedToRequeue ..)
  · exact (congrArg (fun p => p.saveFree.getLsbD j) counted).trans (getLsbD_slotsFreed (.inl mem) small)

theorem stepRackExpiry_idle (idle : s.safety.safe = true ∨ ∀ c, s.cmd q seq = some c →
    c.rackRequested = false ∨ c.phase.runs = false ∨ allStopped s q c = true ∨ s.time.toNat < c.rackBy.toNat) :
    stepRackExpiry q seq s = s := by
  unfold stepRackExpiry
  split
  · rfl
  next c found =>
  refine if_neg fun due => ?_
  simp only [Bool.and_eq_true, Bool.not_eq_true', decide_eq_true_eq] at due
  obtain ⟨⟨⟨⟨asked, runs⟩, moving⟩, safe⟩, late⟩ := due
  rcases idle with h | h
  · exact Bool.false_ne_true (safe.symm.trans h)
  · rcases h c found with unasked | ended | stopped | early
    · exact Bool.false_ne_true (unasked.symm.trans asked)
    · exact Bool.false_ne_true (ended.symm.trans runs)
    · exact Bool.false_ne_true (moving.symm.trans stopped)
    · omega

end

/-- Settles O38: each clause by the lemma of its row. The save slot of a RACK pre-emption is taken at the request (log entry 32). -/
theorem slicesPreempt : Obligations.SlicesPreempt := by
  unfold Obligations.SlicesPreempt
  exact ⟨fun _ _ _ => sliceEnd_goesOn, fun _ _ _ _ _ _ => sliceEnd_changes, fun _ _ _ _ _ _ _ _ _ => sliceEnd_preempts,
    fun _ _ idle => answer_same (stepSliceEnd_idle idle), fun _ _ _ _ _ => rackStop_saves,
    fun _ _ _ idle => answer_same (stepRackStop_idle idle), fun _ _ _ _ => rackWaitExpiry_kills,
    fun _ _ _ idle => answer_same (stepRackExpiry_idle idle)⟩

end Sys2Proof.Machine
end

section
/-! PROOF. Saves and restores of a command's presses (R498 to R503, R507), SwitchesComplete: what the save engine and a restore
leave of the device, what an uncorrectable block of a save slot leaves, and each outcome of SWITCH_COMPLETE. -/

namespace Sys2Proof.Machine

/-! ### What a save writes (R503, R504) -/

/-- The device without the contents of its memory. -/
def dramless (s : State) : State := { s with dram := Mem.empty }

theorem eq_of_dramless {s t : State} (h : dramless t = dramless s) : t = { s with dram := t.dram } :=
  (congrArg (fun u : State => { u with dram := t.dram }) h :)

theorem okKeeps_overPresses {α : Type} {g : State → α} {f : State → Fin 16 → Except Stop State} {ps : List (Fin 16)}
    {s : State} (hf : ∀ s p, OkKeeps g s (f s p)) : OkKeeps g s (overPresses f ps s) := by
  induction ps generalizing s with
  | nil => exact .ok rfl
  | cons p rest ih =>
    unfold overPresses
    split
    · exact .error
    · next e => exact ih.trans (hf s p _ e)

section
variable {s : State}

theorem dramless_saveWrite {va : Nat} {l : List Byte} : OkKeeps dramless s (saveWrite va l s) := by
  refine .map fun parts => ?_
  have places : InDram (parts.map fun p => (Loc.dram p.1, p.2)) := fun w mem => by
    obtain ⟨p, -, rfl⟩ := List.mem_map.1 mem
    exact ⟨p.1, rfl⟩
  rw [writeLocs_inDram (inDram_spread places)]
  rfl

theorem dramless_saveRanges {m : Mem} {base : Nat} {l : List (Nat × Nat)} : OkKeeps dramless s (saveRanges m base l s) := by
  suffices go : ∀ acc : Except Stop State, OkKeeps dramless s acc → OkKeeps dramless s (l.foldl (fun acc r => match acc with
      | .error e => .error e
      | .ok s => saveWrite (base + r.1) (m.readBytes r.1 r.2) s) acc) from go _ (.ok rfl)
  induction l with
  | nil => exact fun _ h => h
  | cons r rest ih =>
    intro acc h
    cases acc with
    | error e => exact ih _ .error
    | ok t => exact ih _ (dramless_saveWrite.trans (h t rfl))

theorem dramless_savePress {c : Cmd} {n : Fin 8} {slot : Nat} {p : Fin 16} : OkKeeps dramless s (savePress c n slot s p) := by
  unfold savePress
  dsimp only
  split
  · exact .ok rfl
  split
  · exact .error
  next cask =>
  split
  · exact .error
  next accumulators =>
  split
  · exact .error
  next side =>
  exact dramless_saveWrite.trans <| (dramless_saveWrite _ side).trans <|
    (dramless_saveRanges _ accumulators).trans (dramless_saveRanges _ cask)

/-! ### A command that is suspended -/

theorem foldState_freePress_only (ps : List (Fin 16)) :
    foldState freePress ps s = { s with presses := (foldState freePress ps s).presses } :=
  foldState_keeps (fun t => t = { s with presses := t.presses }) freePress ps (fun p t ht => by rw [ht]; rfl) s rfl

theorem sequencer_freePress (p r : Fin 16) (h : p = r ∨ (s.press r).sequencer = none) :
    ((freePress p s).press r).sequencer = none := by
  by_cases here : p = r
  · rw [here, freePress, press_updPress]
  · rw [freePress, press_updPress_ne _ _ here]
    exact h.resolve_left here

/-- The presses of a list that are freed hold no command. -/
theorem sequencer_foldState_freePress {ps : List (Fin 16)} {p : Fin 16} (h : p ∈ ps ∨ (s.press p).sequencer = none) :
    ((foldState freePress ps s).press p).sequencer = none := by
  induction ps generalizing s with
  | nil => exact h.resolve_left List.not_mem_nil
  | cons r rest ih =>
    refine ih ?_
    rcases h with mem | free
    · rcases List.mem_cons.1 mem with rfl | later
      · exact .inr (sequencer_freePress _ _ (.inl rfl))
      · exact .inl later
    · exact .inr (sequencer_freePress _ _ (.inr free))

theorem settleHolder_only (n : Fin 8) : settleHolder n s = { s with parcels := (settleHolder n s).parcels } := by
  unfold settleHolder
  dsimp only
  split <;> rfl

theorem racks_settleHolder (n : Fin 8) : ((settleHolder n s).parcel n).racks = (s.parcel n).racks := by
  unfold settleHolder
  dsimp only
  split
  · rfl
  · rw [parcel_updParcel]

end

/-- A command that is suspended at a time, saved in a slot with the rack points of its presses (R500). -/
def suspend (now : Long) (slot : Nat) (points : List (Nat × Nat)) (c : Cmd) : Cmd :=
  { closeInterval now c with phase := .suspended slot, preempted := c.preempted + 1, savedPoints := points }

theorem seq_suspend (now : Long) (slot : Nat) (points : List (Nat × Nat)) (c : Cmd) :
    (suspend now slot points c).seq = c.seq := by
  rw [suspend, closeInterval_only]

/-- The device of which `u` holds the save of a command's presses, once the command is suspended. -/
def suspended (q : Fin 256) (c : Cmd) (slot : Nat) (s u : State) : State :=
  settleHolder (s.parcelOf q) (foldState freePress (pressesOf s q c.seq)
    ((u.updCmd q c.seq (suspend s.time slot (pointsOf s (pressesOf s q c.seq)))).updParcel (s.parcelOf q) fun p =>
      { p with racks := satInc p.racks 1 }))

section
variable {s u : State} {q : Fin 256} {c : Cmd} {slot : Nat}

theorem finishSave_ok (saves : overPresses (savePress c (s.parcelOf q) slot) (pressesOf s q c.seq) s.bump = .ok u) :
    finishSave q c slot s = suspended q c slot s u := by
  simp only [finishSave, saves]
  rfl

theorem suspended_leaves (found : s.cmd q c.seq = some c)
    (saves : overPresses (savePress c (s.parcelOf q) slot) (pressesOf s q c.seq) s.bump = .ok u) :
    (suspended q c slot s u).cmd q c.seq = some (suspend s.time slot (pointsOf s (pressesOf s q c.seq)) c) ∧
      (suspended q c slot s u).dram = u.dram ∧
      (∀ p ∈ pressesOf s q c.seq, ((suspended q c slot s u).press p).sequencer = none) ∧
      ((suspended q c slot s u).parcel (s.parcelOf q)).racks = satInc (s.parcel (s.parcelOf q)).racks 1 := by
  have same := eq_of_dramless (okKeeps_overPresses (fun _ _ => dramless_savePress) u saves)
  have found' : u.cmd q c.seq = some c := by rw [same]; exact found
  have parcel : u.parcel (s.parcelOf q) = s.parcel (s.parcelOf q) := by rw [same]; rfl
  unfold suspended
  refine ⟨?_, ?_, fun p mem => ?_, ?_⟩
  · rw [settleHolder_only, foldState_freePress_only]
    refine (cmd_updCmd _ _ _ (seq_suspend _ _ _)).trans ?_
    rw [found']
    rfl
  · rw [settleHolder_only, foldState_freePress_only]
    rfl
  · rw [settleHolder_only]
    exact sequencer_foldState_freePress (.inl mem)
  · rw [racks_settleHolder, foldState_freePress_only]
    refine (congrArg Parcel.racks (parcel_updParcel ..)).trans ?_
    rw [parcel_updCmd, parcel]

end

/-! ### What a restore leaves (R501) -/

/-- The queues and the parcels. -/
def rolls (s : State) : Vector Queue 256 × Vector Parcel 8 := (s.queues, s.parcels)

section
variable {s t : State}

theorem cmd_of_rolls (h : rolls t = rolls s) (q : Fin 256) (seq : Word) : t.cmd q seq = s.cmd q seq := by
  have queues : t.queues = s.queues := congrArg (fun x => x.1) h
  rw [State.cmd, State.queue, queues, State.cmd, State.queue]

theorem parcelOf_of_rolls (h : rolls t = rolls s) (q : Fin 256) : t.parcelOf q = s.parcelOf q := by
  have queues : t.queues = s.queues := congrArg (fun x => x.1) h
  rw [State.parcelOf, State.queue, queues, State.parcelOf, State.queue]

theorem parcel_of_rolls (h : rolls t = rolls s) (n : Fin 8) : t.parcel n = s.parcel n := by
  have parcels : t.parcels = s.parcels := congrArg (fun x => x.2) h
  rw [State.parcel, parcels, State.parcel]

theorem rolls_writeLocs (ws : List (Loc × List Byte)) : rolls (s.writeLocs ws) = rolls s := by
  induction ws generalizing s with
  | nil => rfl
  | cons w rest ih =>
    refine ih.trans ?_
    obtain ⟨place, l⟩ := w
    cases place <;> rfl

theorem rolls_restorePress {c : Cmd} {n : Fin 8} {slot : Nat} {p : Fin 16} : OkKeeps rolls s (restorePress c n slot s p) := by
  unfold restorePress
  dsimp only
  split
  · exact .error
  split
  · exact .error
  split
  · exact .error
  split
  · exact .error
  · exact .ok rfl

theorem rolls_refillRange {n : Fin 8} {q : Fin 256} {p : Nat} {g : Nat × Nat × Nat} :
    OkKeeps rolls s (refillRange n q p s g) := by
  unfold refillRange
  dsimp only
  split
  · exact .error
  · exact .map fun _ => rolls_writeLocs _

theorem rolls_refills {n : Fin 8} {q : Fin 256} {l : List (Nat × (Nat × Nat × Nat))} :
    OkKeeps rolls s (foldStop (fun t g => refillRange n q g.1 t g.2) l s) := okKeeps_foldStop fun _ _ => rolls_refillRange

/-- A refill leaves the parcel of its queue, so each one may take it from the device as the others have left it. -/
theorem refills_eq {n : Fin 8} {q : Fin 256} (home : s.parcelOf q = n) (l : List (Nat × (Nat × Nat × Nat))) :
    foldStop (fun t g => refillRange (t.parcelOf q) q g.1 t g.2) l s =
      foldStop (fun t g => refillRange n q g.1 t g.2) l s := by
  induction l generalizing s with
  | nil => simp only [foldStop]
  | cons g rest ih =>
    cases filled : refillRange n q g.1 s g.2 with
    | error x => simp only [foldStop, home, filled]
    | ok t =>
      have kept : t.parcelOf q = n := (parcelOf_of_rolls (rolls_refillRange t filled) q).trans home
      simp only [foldStop, home, filled, ih kept]

theorem phase_settleParts {q : Fin 256} {seq : Word} (running : (s.cmd q seq).map (·.phase) = some .running) :
    ((settleParts q seq s).cmd q seq).map (·.phase) = some .running ∨
      ((settleParts q seq s).cmd q seq).map (·.phase) = some (.written 0 0) := by
  unfold settleParts
  split
  · exact .inl running
  · next c found =>
    split
    · refine .inr ?_
      rw [cmd_updCmd _ _ _ fun _ => by rfl, found]
      rfl
    · exact .inl running

end

/-- The device of which `v` holds what the restores and refills of a command make, once the command runs again. -/
def resumed (q : Fin 256) (c : Cmd) (slot : Nat) (s v : State) : State :=
  settleParts q c.seq ((freeSlot (s.parcelOf q) slot v).updCmd q c.seq fun x => { x with phase := .running, savedPoints := [] })

section
variable {s u v : State} {q : Fin 256} {c : Cmd} {slot : Nat} {x : Stop}

theorem rolls_restores (restores : overPresses (restorePress c (s.parcelOf q) slot) (pressesOf s q c.seq) s = .ok u) :
    rolls u = rolls s := okKeeps_overPresses (fun _ _ => rolls_restorePress) u restores

theorem finishRestore_ok (restores : overPresses (restorePress c (s.parcelOf q) slot) (pressesOf s q c.seq) s = .ok u)
    (refills : foldStop (fun t g => refillRange (t.parcelOf q) q g.1 t g.2) (refillList c) u = .ok v) :
    finishRestore q c slot s = resumed q c slot s v := by
  rw [refills_eq (parcelOf_of_rolls (rolls_restores restores) q)] at refills
  simp only [finishRestore, restores, refills]
  rfl

theorem resumed_leaves (found : s.cmd q c.seq = some c) (kept : rolls v = rolls s) :
    (((resumed q c slot s v).cmd q c.seq).map (·.phase) = some .running ∨
        ((resumed q c slot s v).cmd q c.seq).map (·.phase) = some (.written 0 0)) ∧
      (resumed q c slot s v).cellar = v.cellar ∧ (∀ p : Fin 16, (resumed q c slot s v).press p = v.press p) ∧
      ((resumed q c slot s v).parcel (s.parcelOf q)).saveFree =
        (s.parcel (s.parcelOf q)).saveFree ||| BitVec.ofNat 16 (2 ^ slot) := by
  unfold resumed
  refine ⟨phase_settleParts ?_, ?_, fun p => ?_, ?_⟩
  · rw [cmd_updCmd _ _ _ fun _ => by rfl, freeSlot, cmd_updParcel, cmd_of_rolls kept, found]
    rfl
  · rw [settleParts_only]
    rfl
  · rw [press_settleParts]
    rfl
  · rw [settleParts_only]
    refine (congrArg Parcel.saveFree (parcel_updParcel ..)).trans ?_
    rw [parcel_of_rolls kept]

end

/-! ### An uncorrectable block of a save slot (R381, R507) -/

/-- The queues, presses and parcels, and the memory controllers: what the retirement of a page keeps. -/
def unretired (s : State) : Vector Queue 256 × Vector Press 16 × Vector Parcel 8 × Memctl :=
  (s.queues, s.presses, s.parcels, s.memctl)

section
variable {s t : State}

theorem unretired_of_unreported (h : unreported t = unreported s) : unretired t = unretired s := (congrArg unretired h :)

theorem unretired_noteRetired (ppn : Nat) : unretired (noteRetired ppn s) = unretired s := by
  unfold noteRetired
  dsimp only
  split
  · rfl
  · rw [logEvent_only]
    rfl

theorem unretired_retireInPlace (ppn vpn : Nat) (e : TtEntry) : unretired (retireInPlace ppn vpn e s) = unretired s := by
  refine (unretired_of_unreported (unreported_sendRetired ..)).trans ?_
  rw [poisonAll_only]
  rfl

theorem unretired_retirePage (ppn : Nat) : unretired (retirePage ppn s) = unretired s := by
  unfold retirePage
  split
  · rfl
  dsimp only
  split
  · exact (unretired_of_unreported (unreported_sendRetired ..)).trans (unretired_noteRetired (s := s) ppn)
  · split
    · exact unretired_noteRetired ppn
    · exact (unretired_retireInPlace ..).trans (unretired_noteRetired ppn)

/-- An uncorrectable block is counted and recorded with the memory controllers (R381). -/
theorem unretired_noteUncorrectable (block : Nat) : unretired (noteUncorrectable block s) = (s.queues, s.presses, s.parcels,
    { s.memctl with eccUncorr := satInc s.memctl.eccUncorr 1, uePa := BitVec.ofNat 32 block }) := by
  unfold noteUncorrectable
  dsimp only
  split
  · rfl
  · exact unretired_retirePage _

end

section
variable {s u v : State} {q : Fin 256} {c : Cmd} {slot k : Nat} {x : Stop}

/-- The command that a save or a restore switches on its presses may be killed there. -/
theorem switched_killable (phase : c.phase = .saving k ∨ c.phase = .restoring k) :
    c.phase.killable = true ∧ ∀ j, c.phase ≠ .suspended j := by
  rcases phase with h | h <;> rw [h] <;> exact ⟨rfl, fun _ => nofun⟩

theorem slotFails_ok {offset va pa : Nat}
    (at_ : va = (s.parcel (s.parcelOf q)).saveVpn.toNat * 16384 + slot * ((parcelPresses s (s.parcelOf q)).length * recordBytes) +
      offset % max ((parcelPresses s (s.parcelOf q)).length * recordBytes) 1)
    (part : saveParts s .read 1 va 1 = .ok [(pa, 1)]) :
    slotFails q c slot offset s = killCmd q c.seq { status := 0x21, data := faultWord va 4 0 (saveAgent s) }
      (noteUncorrectable (pa / 64) s.bump) := by
  subst at_
  simp only [slotFails, part]
  rw [List.map_singleton, List.foldl_cons, List.foldl_nil, Nat.zero_max]

theorem finishSave_error (fails : overPresses (savePress c (s.parcelOf q) slot) (pressesOf s q c.seq) s.bump = .error x) :
    finishSave q c slot s = if x.held then s else killCmd q c.seq x s.bump := by
  simp only [finishSave, fails]

theorem finishRestore_error (fails : overPresses (restorePress c (s.parcelOf q) slot) (pressesOf s q c.seq) s = .error x) :
    finishRestore q c slot s = if x.held then s else killCmd q c.seq x s.bump := by
  simp only [finishRestore, fails]

theorem finishRestore_refillError
    (restores : overPresses (restorePress c (s.parcelOf q) slot) (pressesOf s q c.seq) s = .ok u)
    (fails : foldStop (fun t g => refillRange (t.parcelOf q) q g.1 t g.2) (refillList c) u = .error x) :
    finishRestore q c slot s = if x.held then s else killCmd q c.seq x u := by
  rw [refills_eq (parcelOf_of_rolls (rolls_restores restores) q)] at fails
  simp only [finishRestore, restores, fails]

end

/-! ### SWITCH_COMPLETE -/

section
variable {s u v : State} {q : Fin 256} {seq : Word} {c : Cmd} {k offset va pa : Nat}
  {e : Option Nat} {x : Stop} {h : ReadHealth}

theorem stepSwitch_idle (idle : s.safety.safe = true ∨
    ∀ c, s.cmd q seq = some c → ∀ k, c.phase ≠ .saving k ∧ c.phase ≠ .restoring k) : stepSwitch q seq e s = s := by
  unfold stepSwitch
  split
  · rfl
  next c found =>
  split
  · rfl
  next active =>
  have still := idle.resolve_left active c found
  split
  · next k saves => exact absurd saves (still k).1
  · next k restores => exact absurd restores (still k).2
  · rfl

/-- The kill of a command by its switch, in the device `v` that the switch had made: its presses are being killed, and its slots are
free. An access that is held kills nothing (R383). -/
theorem switchComplete_faults (found : v.cmd q c.seq = some c) (kind : c.kind = 1)
    (phase : c.phase = .saving k ∨ c.phase = .restoring k)
    (step : stepSwitch q c.seq e s = if x.held then s else killCmd q c.seq x v) :
    (x.held = true → exec (.switchComplete q c.seq e h) s = .next (noted h s s)) ∧
    (x.held = false → ∃ t, exec (.switchComplete q c.seq e h) s = .next (noted h s t) ∧
      (t.cmd q c.seq).map (·.phase) = some (.killing x.status x.data) ∧
      (∀ p ∈ pressesOf v q c.seq, (t.press p).mode = .killing) ∧
      (∀ j ∈ c.slots, j < 16 → (t.parcel (v.parcelOf q)).saveFree.getLsbD j = true)) := by
  have row : exec (.switchComplete q c.seq e h) s = .next (noted h s (stepSwitch q c.seq e s)) := rfl
  rw [row, step]
  refine ⟨fun held => by rw [held, if_pos rfl], fun held => ⟨killCmd q c.seq x v, by rw [held]; rfl, ?_⟩⟩
  obtain ⟨reached, seated⟩ := switched_killable phase
  obtain ⟨killing, presses, slots, -⟩ := killCmd_leaves found kind reached seated held
  exact ⟨killing, presses, slots⟩

section
variable (safe : s.safety.safe = false) (found : s.cmd q seq = some c)
include safe found

theorem stepSwitch_saves (phase : c.phase = .saving k) : stepSwitch q seq e s = finishSave q c k s := by
  simp only [stepSwitch, found, safe, phase, Bool.false_eq_true, if_false]

theorem stepSwitch_restores (phase : c.phase = .restoring k) : stepSwitch q seq none s = finishRestore q c k s := by
  simp only [stepSwitch, found, safe, phase, Bool.false_eq_true, if_false]

theorem stepSwitch_slotFails (phase : c.phase = .restoring k) :
    stepSwitch q seq (some offset) s = slotFails q c k offset s := by
  simp only [stepSwitch, found, safe, phase, Bool.false_eq_true, if_false]

theorem switchComplete_suspends (phase : c.phase = .saving k)
    (saves : overPresses (savePress c (s.parcelOf q) k) (pressesOf s q seq) s.bump = .ok u) :
    ∃ t, exec (.switchComplete q seq e h) s = .next (noted h s t) ∧ (t.cmd q seq).map (·.phase) = some (.suspended k) ∧
    (t.cmd q seq).map (·.preempted) = some (c.preempted + 1) ∧
    (t.cmd q seq).map (·.savedPoints) = some (pointsOf s (pressesOf s q seq)) ∧ t.dram = u.dram ∧
    (∀ p ∈ pressesOf s q seq, (t.press p).sequencer = none) ∧
    (t.parcel (s.parcelOf q)).racks = satInc (s.parcel (s.parcelOf q)).racks 1 := by
  obtain rfl := seq_of_cmd found
  obtain ⟨here, rest⟩ := suspended_leaves found saves
  refine ⟨stepSwitch q c.seq e s, rfl, ?_⟩
  rw [stepSwitch_saves safe found phase, finishSave_ok saves, here]
  exact ⟨rfl, rfl, rfl, rest⟩

theorem switchComplete_resumes (phase : c.phase = .restoring k)
    (restores : overPresses (restorePress c (s.parcelOf q) k) (pressesOf s q seq) s = .ok u)
    (refills : foldStop (fun t g => refillRange (t.parcelOf q) q g.1 t g.2) (refillList c) u = .ok v) :
    ∃ t, exec (.switchComplete q seq none h) s = .next (noted h s t) ∧
    ((t.cmd q seq).map (·.phase) = some .running ∨ (t.cmd q seq).map (·.phase) = some (.written 0 0)) ∧
    t.cellar = v.cellar ∧ (∀ p : Fin 16, t.press p = v.press p) ∧
    (t.parcel (s.parcelOf q)).saveFree = (s.parcel (s.parcelOf q)).saveFree ||| BitVec.ofNat 16 (2 ^ k) := by
  obtain rfl := seq_of_cmd found
  refine ⟨stepSwitch q c.seq none s, rfl, ?_⟩
  rw [stepSwitch_restores safe found phase, finishRestore_ok restores refills]
  rw [refills_eq rfl] at refills
  exact resumed_leaves found ((rolls_refills v refills).trans (rolls_restores restores))

theorem switchComplete_saveFaults (kind : c.kind = 1) (phase : c.phase = .saving k)
    (fails : overPresses (savePress c (s.parcelOf q) k) (pressesOf s q seq) s.bump = .error x) :
    (x.held = true → exec (.switchComplete q seq e h) s = .next (noted h s s)) ∧
    (x.held = false → ∃ t, exec (.switchComplete q seq e h) s = .next (noted h s t) ∧
      (t.cmd q seq).map (·.phase) = some (.killing x.status x.data) ∧
      (∀ p ∈ pressesOf s q seq, (t.press p).mode = .killing) ∧
      (∀ j ∈ c.slots, j < 16 → (t.parcel (s.parcelOf q)).saveFree.getLsbD j = true)) := by
  obtain rfl := seq_of_cmd found
  exact switchComplete_faults (v := s.bump) found kind (.inl phase)
    ((stepSwitch_saves safe found phase).trans (finishSave_error fails))

theorem switchComplete_restoreFaults (kind : c.kind = 1) (phase : c.phase = .restoring k)
    (fails : overPresses (restorePress c (s.parcelOf q) k) (pressesOf s q seq) s = .error x) :
    (x.held = true → exec (.switchComplete q seq none h) s = .next (noted h s s)) ∧
    (x.held = false → ∃ t, exec (.switchComplete q seq none h) s = .next (noted h s t) ∧
      (t.cmd q seq).map (·.phase) = some (.killing x.status x.data) ∧
      (∀ p ∈ pressesOf s q seq, (t.press p).mode = .killing) ∧
      (∀ j ∈ c.slots, j < 16 → (t.parcel (s.parcelOf q)).saveFree.getLsbD j = true)) := by
  obtain rfl := seq_of_cmd found
  exact switchComplete_faults (v := s.bump) found kind (.inr phase)
    ((stepSwitch_restores safe found phase).trans (finishRestore_error fails))

theorem switchComplete_refillFaults (kind : c.kind = 1) (phase : c.phase = .restoring k)
    (restores : overPresses (restorePress c (s.parcelOf q) k) (pressesOf s q seq) s = .ok u)
    (fails : foldStop (fun t g => refillRange (t.parcelOf q) q g.1 t g.2) (refillList c) u = .error x) :
    (x.held = true → exec (.switchComplete q seq none h) s = .next (noted h s s)) ∧
    (x.held = false → ∃ t, exec (.switchComplete q seq none h) s = .next (noted h s t) ∧
      (t.cmd q seq).map (·.phase) = some (.killing x.status x.data) ∧
      (∀ j ∈ c.slots, j < 16 → (t.parcel (s.parcelOf q)).saveFree.getLsbD j = true)) := by
  obtain rfl := seq_of_cmd found
  have kept := rolls_restores restores
  obtain ⟨waits, kills⟩ := switchComplete_faults (h := h) ((cmd_of_rolls kept ..).trans found) kind (.inr phase)
    ((stepSwitch_restores safe found phase).trans (finishRestore_refillError restores fails))
  rw [parcelOf_of_rolls kept] at kills
  refine ⟨waits, fun held => ?_⟩
  obtain ⟨t, row, killing, -, slots⟩ := kills held
  exact ⟨t, row, killing, slots⟩

theorem switchComplete_slotFails (kind : c.kind = 1) (phase : c.phase = .restoring k)
    (at_ : va = (s.parcel (s.parcelOf q)).saveVpn.toNat * 16384 + k * ((parcelPresses s (s.parcelOf q)).length * recordBytes) +
      offset % max ((parcelPresses s (s.parcelOf q)).length * recordBytes) 1)
    (part : saveParts s .read 1 va 1 = .ok [(pa, 1)]) :
    ∃ t, exec (.switchComplete q seq (some offset) h) s = .next (noted h s t) ∧
    t.memctl.eccUncorr = satInc s.memctl.eccUncorr 1 ∧ t.memctl.uePa = BitVec.ofNat 32 (pa / 64) ∧
    (t.cmd q seq).map (·.phase) = some (.killing 0x21 (faultWord va 4 0 (saveAgent s))) ∧
    (∀ p ∈ pressesOf s q seq, (t.press p).mode = .killing) ∧
    (∀ j ∈ c.slots, j < 16 → (t.parcel (s.parcelOf q)).saveFree.getLsbD j = true) := by
  obtain rfl := seq_of_cmd found
  have step := (stepSwitch_slotFails safe found phase).trans (slotFails_ok at_ part)
  refine ⟨stepSwitch q c.seq (some offset) s, rfl, ?_⟩
  have after : unretired (noteUncorrectable (pa / 64) s.bump) = (s.queues, s.presses, s.parcels,
    { s.memctl with eccUncorr := satInc s.memctl.eccUncorr 1, uePa := BitVec.ofNat 32 (pa / 64) }) :=
    unretired_noteUncorrectable ..
  generalize noteUncorrectable (pa / 64) s.bump = v at step after
  simp only [unretired, Prod.mk.injEq] at after
  obtain ⟨queues, presses, parcels, memctl⟩ := after
  have kept : rolls v = rolls s := by rw [rolls, rolls, queues, parcels]
  have seats : pressesOf v q c.seq = pressesOf s q c.seq := by simp only [pressesOf, State.press, presses]
  obtain ⟨reached, seated⟩ := switched_killable (.inr phase)
  obtain ⟨killing, stopped, slots, counts⟩ := killCmd_leaves ((cmd_of_rolls kept ..).trans found) kind reached seated
    (e := { status := 0x21, data := faultWord va 4 0 (saveAgent s) }) rfl
  rw [seats] at stopped
  rw [parcelOf_of_rolls kept] at slots
  rw [memctl] at counts
  rw [step, counts]
  exact ⟨rfl, rfl, killing, stopped, slots⟩

end
end

/-- Settles O39: each clause by the lemma of its outcome. -/
theorem switchesComplete : Obligations.SwitchesComplete := by
  unfold Obligations.SwitchesComplete
  refine ⟨fun _ _ _ _ _ _ _ _ => switchComplete_suspends, fun _ _ _ _ _ _ _ _ => switchComplete_saveFaults,
    fun _ _ _ _ _ _ _ _ => switchComplete_resumes, fun _ _ _ _ _ _ _ => switchComplete_restoreFaults,
    fun _ _ _ _ _ _ _ _ => switchComplete_refillFaults, fun _ _ _ _ _ _ _ _ _ => switchComplete_slotFails, ?_⟩
  intro s q seq e h idle
  change Host.Outcome.next (noted h s (stepSwitch q seq e s)) = _
  rw [stepSwitch_idle idle]

end Sys2Proof.Machine
end
